-- ==== Sys2Proof/Word.lean ====
section
/-!
DEFINITION. The word types of the Darolmus machine (R7, R8): bits are numbered from 0, the least significant
bit, and multi-byte values are little-endian.
-/

namespace Sys2Proof

/-- A 64-bit value: a G register, an address, a handle. -/
abbrev W64 := BitVec 64
/-- A 32-bit value: an instruction word, a vector lane. -/
abbrev W32 := BitVec 32
/-- A byte of memory. -/
abbrev Byte := BitVec 8

/-- `sext(x, n)` of R9: the n-bit value sign-extended to 64 bits. -/
abbrev sext {n : Nat} (x : BitVec n) : W64 := x.signExtend 64
/-- `zext(x, n)` of R9: the n-bit value zero-extended to 64 bits. -/
abbrev zext {n : Nat} (x : BitVec n) : W64 := x.setWidth 64
/-- `trunc64(x)` of R9: bits [63:0] of an exact integer. -/
abbrev trunc64 (x : Int) : W64 := BitVec.ofInt 64 x

end Sys2Proof
end

