-- ==== Sys2Proof/Syntax.lean ====
section
/-!
DEFINITION. The syntax: every row of the table of operations and events is one constructor of `Instr`. The first 225
are instruction words (Tables 2-4, 2-5, 2-7a); the rest are steps that the hardware or the resident firmware takes, with
the place they happen at and whatever choice the manual leaves to the device (log entries 1 and 8) as arguments.
-/

namespace Sys2Proof

/-- A G source field (Table 2-5): the E bit and the register index. -/
structure GSrc where
  e : Bool
  r : BitVec 4
  deriving DecidableEq, Repr

/-- A guard field (Table 2-5): the sense (true: execute when the predicate is false) and the predicate index. -/
structure Guard where
  neg : Bool
  q : BitVec 4
  deriving DecidableEq, Repr

/-- The unguarded field value 0b00000 (R18, Table 2-5). -/
abbrev Guard.none : Guard := ⟨false, 0⟩

/-- Access size of format M (Table 3-11). -/
inductive MemSize where
  | b | h | w | d
  deriving DecidableEq, Repr

/-- Bytes of a size (R93: `n := 1 << sz`). -/
def MemSize.bytes : MemSize → Nat
  | .b => 1 | .h => 2 | .w => 4 | .d => 8

/-- Scope names (Table 2-6). -/
inductive Scope where
  | thread | core | cluster | die | package | group
  deriving DecidableEq, Repr

/-- Vector element type (Table 2-5). -/
inductive VType where
  | i32 | f32 | bf16 | f16
  deriving DecidableEq, Repr

/-- A compute die of a package (Table 2-9). -/
structure DieId where
  node : Nat
  die : Nat
  deriving DecidableEq, Repr

/-- A cluster. -/
structure ClusterId where
  node : Nat
  die : Nat
  cluster : Nat
  deriving DecidableEq, Repr

/-- A core. -/
structure CoreId where
  node : Nat
  die : Nat
  cluster : Nat
  core : Nat
  deriving DecidableEq, Repr

/-- A thread's place: a barrel slot of a core (R44). -/
structure Tid where
  core : CoreId
  slot : Nat
  deriving DecidableEq, Repr

/-- The command queues (R246, R274, R360). -/
inductive EngineQueue where
  | copy | message | matrix | launch
  deriving DecidableEq, Repr

/-- What slot 0 chooses as it serves its inbox: where a team's stack sub-pages begin, or its answer to a request, and where on each
core of the cluster the team's spill area lies (R134, R151). -/
structure TeamChoice where
  base : Nat
  spills : List Nat
  deriving DecidableEq, Repr

/-- The rows of the table of operations and events. -/
inductive Instr where
  /-- ADD (R76). Writes the 64-bit sum of Ga and Gb to Gd. -/
  | add (d : BitVec 4) (a : GSrc) (b : GSrc) (g : Guard)
  /-- SUB (R76). Writes the 64-bit difference of Ga and Gb to Gd. -/
  | sub (d : BitVec 4) (a : GSrc) (b : GSrc) (g : Guard)
  /-- MUL (R76). Writes the low 64 bits of the product of Ga and Gb to Gd. -/
  | mul (d : BitVec 4) (a : GSrc) (b : GSrc) (g : Guard)
  /-- MULH (R76). Writes the high 64 bits of the signed 128-bit product to Gd. -/
  | mulh (d : BitVec 4) (a : GSrc) (b : GSrc) (g : Guard)
  /-- MULHU (R76). Writes the high 64 bits of the unsigned 128-bit product to Gd. -/
  | mulhu (d : BitVec 4) (a : GSrc) (b : GSrc) (g : Guard)
  /-- DIV (R77). Writes the signed quotient rounded toward zero, with defined results at the edges, marking Gd empty until it arrives. -/
  | div (d : BitVec 4) (a : GSrc) (b : GSrc) (g : Guard)
  /-- DIVU (R77). Writes the unsigned quotient, all ones for division by zero. -/
  | divu (d : BitVec 4) (a : GSrc) (b : GSrc) (g : Guard)
  /-- REM (R77). Writes the signed remainder with the dividend's sign. -/
  | rem (d : BitVec 4) (a : GSrc) (b : GSrc) (g : Guard)
  /-- REMU (R77). Writes the unsigned remainder, the dividend for division by zero. -/
  | remu (d : BitVec 4) (a : GSrc) (b : GSrc) (g : Guard)
  /-- AND (R76). Writes the bitwise AND of Ga and Gb. -/
  | and (d : BitVec 4) (a : GSrc) (b : GSrc) (g : Guard)
  /-- OR (R76). Writes the bitwise OR of Ga and Gb. -/
  | or (d : BitVec 4) (a : GSrc) (b : GSrc) (g : Guard)
  /-- XOR (R76). Writes the bitwise XOR of Ga and Gb. -/
  | xor (d : BitVec 4) (a : GSrc) (b : GSrc) (g : Guard)
  /-- ANDN (R76). Writes Ga AND NOT Gb. -/
  | andn (d : BitVec 4) (a : GSrc) (b : GSrc) (g : Guard)
  /-- ORN (R76). Writes Ga OR NOT Gb. -/
  | orn (d : BitVec 4) (a : GSrc) (b : GSrc) (g : Guard)
  /-- SHL (R76). Shifts Ga left by Gb[5:0]. -/
  | shl (d : BitVec 4) (a : GSrc) (b : GSrc) (g : Guard)
  /-- SHR (R76). Shifts Ga right logically by Gb[5:0]. -/
  | shr (d : BitVec 4) (a : GSrc) (b : GSrc) (g : Guard)
  /-- SRA (R76). Shifts Ga right arithmetically by Gb[5:0]. -/
  | sra (d : BitVec 4) (a : GSrc) (b : GSrc) (g : Guard)
  /-- ROL (R76). Rotates Ga left by Gb[5:0]. -/
  | rol (d : BitVec 4) (a : GSrc) (b : GSrc) (g : Guard)
  /-- ROR (R76). Rotates Ga right by Gb[5:0]. -/
  | ror (d : BitVec 4) (a : GSrc) (b : GSrc) (g : Guard)
  /-- MIN (R76). Writes the signed minimum of Ga and Gb. -/
  | min (d : BitVec 4) (a : GSrc) (b : GSrc) (g : Guard)
  /-- MAX (R76). Writes the signed maximum of Ga and Gb. -/
  | max (d : BitVec 4) (a : GSrc) (b : GSrc) (g : Guard)
  /-- MINU (R76). Writes the unsigned minimum of Ga and Gb. -/
  | minu (d : BitVec 4) (a : GSrc) (b : GSrc) (g : Guard)
  /-- MAXU (R76). Writes the unsigned maximum of Ga and Gb. -/
  | maxu (d : BitVec 4) (a : GSrc) (b : GSrc) (g : Guard)
  /-- LEA1 (R76). Writes Ga plus 2 times Gb. -/
  | lea1 (d : BitVec 4) (a : GSrc) (b : GSrc) (g : Guard)
  /-- LEA2 (R76). Writes Ga plus 4 times Gb. -/
  | lea2 (d : BitVec 4) (a : GSrc) (b : GSrc) (g : Guard)
  /-- LEA3 (R76). Writes Ga plus 8 times Gb. -/
  | lea3 (d : BitVec 4) (a : GSrc) (b : GSrc) (g : Guard)
  /-- CLZ (R78). Counts leading zero bits of Ga. -/
  | clz (d : BitVec 4) (a : GSrc) (g : Guard)
  /-- CTZ (R78). Counts trailing zero bits of Ga. -/
  | ctz (d : BitVec 4) (a : GSrc) (g : Guard)
  /-- POPC (R78). Counts one bits of Ga. -/
  | popc (d : BitVec 4) (a : GSrc) (g : Guard)
  /-- BREV (R78). Reverses the bit order of Ga. -/
  | brev (d : BitVec 4) (a : GSrc) (g : Guard)
  /-- BSWAP (R78). Reverses the byte order of Ga. -/
  | bswap (d : BitVec 4) (a : GSrc) (g : Guard)
  /-- SEXTB (R78). Sign-extends byte 0 of Ga. -/
  | sextb (d : BitVec 4) (a : GSrc) (g : Guard)
  /-- SEXTH (R78). Sign-extends the low halfword of Ga. -/
  | sexth (d : BitVec 4) (a : GSrc) (g : Guard)
  /-- SEXTW (R78). Sign-extends the low word of Ga. -/
  | sextw (d : BitVec 4) (a : GSrc) (g : Guard)
  /-- ZEXTB (R78). Zero-extends byte 0 of Ga. -/
  | zextb (d : BitVec 4) (a : GSrc) (g : Guard)
  /-- ZEXTH (R78). Zero-extends the low halfword of Ga. -/
  | zexth (d : BitVec 4) (a : GSrc) (g : Guard)
  /-- ZEXTW (R78). Zero-extends the low word of Ga. -/
  | zextw (d : BitVec 4) (a : GSrc) (g : Guard)
  /-- ABS (R78). Writes the absolute value of Ga, MIN staying MIN. -/
  | abs (d : BitVec 4) (a : GSrc) (g : Guard)
  /-- NEG (R78). Writes the two's-complement negation of Ga. -/
  | neg (d : BitVec 4) (a : GSrc) (g : Guard)
  /-- NOT (R78). Writes the bitwise complement of Ga. -/
  | not (d : BitVec 4) (a : GSrc) (g : Guard)
  /-- EXT (R79). Extracts a signed bit field of Ga. -/
  | ext (d : BitVec 4) (a : GSrc) (p : BitVec 6) (l : BitVec 5) (g : Guard)
  /-- EXTU (R79). Extracts an unsigned bit field of Ga. -/
  | extu (d : BitVec 4) (a : GSrc) (p : BitVec 6) (l : BitVec 5) (g : Guard)
  /-- INS (R79). Inserts the low bits of Ga into a field of Gd. -/
  | ins (d : BitVec 4) (a : GSrc) (p : BitVec 6) (l : BitVec 5) (g : Guard)
  /-- ADDI (R80). Adds a sign-extended 11-bit immediate to Ga. -/
  | addi (d : BitVec 4) (a : GSrc) (i : BitVec 11) (g : Guard)
  /-- ANDI (R80). ANDs Ga with a sign-extended immediate. -/
  | andi (d : BitVec 4) (a : GSrc) (i : BitVec 11) (g : Guard)
  /-- ORI (R80). ORs Ga with a sign-extended immediate. -/
  | ori (d : BitVec 4) (a : GSrc) (i : BitVec 11) (g : Guard)
  /-- XORI (R80). XORs Ga with a sign-extended immediate. -/
  | xori (d : BitVec 4) (a : GSrc) (i : BitVec 11) (g : Guard)
  /-- SHLI (R80). Shifts Ga left by an immediate amount. -/
  | shli (d : BitVec 4) (a : GSrc) (s : BitVec 6) (g : Guard)
  /-- SHRI (R80). Shifts Ga right logically by an immediate amount. -/
  | shri (d : BitVec 4) (a : GSrc) (s : BitVec 6) (g : Guard)
  /-- SRAI (R80). Shifts Ga right arithmetically by an immediate amount. -/
  | srai (d : BitVec 4) (a : GSrc) (s : BitVec 6) (g : Guard)
  /-- MULI (R80). Multiplies Ga by a sign-extended immediate. -/
  | muli (d : BitVec 4) (a : GSrc) (i : BitVec 11) (g : Guard)
  /-- LI (R81). Loads a sign-extended 32-bit immediate into Gd. -/
  | li (d : BitVec 4) (g : Guard) (imm : BitVec 32)
  /-- LIU (R81). Loads a zero-extended 32-bit immediate into Gd. -/
  | liu (d : BitVec 4) (g : Guard) (imm : BitVec 32)
  /-- LIH (R81). Replaces the high 32 bits of Gd with the immediate. -/
  | lih (d : BitVec 4) (g : Guard) (imm : BitVec 32)
  /-- ADDL (R81). Adds a sign-extended 32-bit immediate to Gd. -/
  | addl (d : BitVec 4) (g : Guard) (imm : BitVec 32)
  /-- CMPEQ (R82). Sets Qd to Ga equal Gb, deferring on empty sources. -/
  | cmpeq (d : BitVec 4) (a : GSrc) (b : GSrc) (g : Guard)
  /-- CMPNE (R82). Sets Qd to Ga not equal Gb. -/
  | cmpne (d : BitVec 4) (a : GSrc) (b : GSrc) (g : Guard)
  /-- CMPLT (R82). Sets Qd to a signed less-than compare. -/
  | cmplt (d : BitVec 4) (a : GSrc) (b : GSrc) (g : Guard)
  /-- CMPLE (R82). Sets Qd to a signed less-or-equal compare. -/
  | cmple (d : BitVec 4) (a : GSrc) (b : GSrc) (g : Guard)
  /-- CMPLTU (R82). Sets Qd to an unsigned less-than compare. -/
  | cmpltu (d : BitVec 4) (a : GSrc) (b : GSrc) (g : Guard)
  /-- CMPLEU (R82). Sets Qd to an unsigned less-or-equal compare. -/
  | cmpleu (d : BitVec 4) (a : GSrc) (b : GSrc) (g : Guard)
  /-- TSTZ (R82). Sets Qd when Ga AND Gb is zero. -/
  | tstz (d : BitVec 4) (a : GSrc) (b : GSrc) (g : Guard)
  /-- TSTNZ (R82). Sets Qd when Ga AND Gb is non-zero. -/
  | tstnz (d : BitVec 4) (a : GSrc) (b : GSrc) (g : Guard)
  /-- CMPEQI (R83). Sets Qd to Ga equal the sign-extended immediate. -/
  | cmpeqi (d : BitVec 4) (a : GSrc) (i : BitVec 8) (g : Guard)
  /-- CMPNEI (R83). Sets Qd to Ga not equal the immediate. -/
  | cmpnei (d : BitVec 4) (a : GSrc) (i : BitVec 8) (g : Guard)
  /-- CMPLTI (R83). Sets Qd to a signed less-than against the immediate. -/
  | cmplti (d : BitVec 4) (a : GSrc) (i : BitVec 8) (g : Guard)
  /-- CMPLEI (R83). Sets Qd to a signed less-or-equal against the immediate. -/
  | cmplei (d : BitVec 4) (a : GSrc) (i : BitVec 8) (g : Guard)
  /-- CMPLTUI (R83). Sets Qd to an unsigned less-than against the sign-extended immediate. -/
  | cmpltui (d : BitVec 4) (a : GSrc) (i : BitVec 8) (g : Guard)
  /-- CMPLEUI (R83). Sets Qd to an unsigned less-or-equal against the immediate. -/
  | cmpleui (d : BitVec 4) (a : GSrc) (i : BitVec 8) (g : Guard)
  /-- CMPGTI (R83). Sets Qd to a signed greater-than against the immediate. -/
  | cmpgti (d : BitVec 4) (a : GSrc) (i : BitVec 8) (g : Guard)
  /-- CMPGTUI (R83). Sets Qd to an unsigned greater-than against the immediate. -/
  | cmpgtui (d : BitVec 4) (a : GSrc) (i : BitVec 8) (g : Guard)
  /-- QAND (R85). Sets Qd to Qa AND Qb, deferring on empty sources. -/
  | qand (d : BitVec 4) (a : BitVec 4) (b : BitVec 4) (g : Guard)
  /-- QOR (R85). Sets Qd to Qa OR Qb. -/
  | qor (d : BitVec 4) (a : BitVec 4) (b : BitVec 4) (g : Guard)
  /-- QXOR (R85). Sets Qd to Qa XOR Qb. -/
  | qxor (d : BitVec 4) (a : BitVec 4) (b : BitVec 4) (g : Guard)
  /-- QANDN (R85). Sets Qd to Qa AND NOT Qb. -/
  | qandn (d : BitVec 4) (a : BitVec 4) (b : BitVec 4) (g : Guard)
  /-- QMOVG (R85). Sets Qd to whether Ga is non-zero. -/
  | qmovg (d : BitVec 4) (a : GSrc) (g : Guard)
  /-- GETQ (R86). Copies the values and full bits of all predicates into Gd without blocking. -/
  | getq (d : BitVec 4) (g : Guard)
  /-- SETQ (R86). Waits until Q1-Q15 are full, then writes them from Ga. -/
  | setq (a : GSrc) (g : Guard)
  /-- SEL (R87). Writes Ga or Gb to Gd according to Qn. -/
  | sel (d : BitVec 4) (a : GSrc) (b : GSrc) (q : BitVec 4) (g : Guard)
  /-- BR (R88). Transfers to the block at BH plus 8 times disp21. -/
  | br (o : BitVec 21) (g : Guard)
  /-- CALL (R88). Writes the next header to G15 and transfers to the displaced block. -/
  | call (o : BitVec 21) (g : Guard)
  /-- JMP (R89). Transfers to the header address in Ga; 0 ends the thread. -/
  | jmp (a : GSrc) (g : Guard)
  /-- JCALL (R89). Writes a link to Gd and transfers to the address in Ga. -/
  | jcall (d : BitVec 4) (a : GSrc) (g : Guard)
  /-- RET (R89). Transfers to the address in Ga, G15 by default. -/
  | ret (a : GSrc) (g : Guard)
  /-- EXIT (R90). Ends the thread; issued accesses still complete. -/
  | exit (g : Guard)
  /-- TRAP (R98). Raises cause TRAP with the immediate in TINFO0 and TPC at the next header. -/
  | trap (i : BitVec 11) (g : Guard)
  /-- RFT (R101). Leaves a handler, resuming within the block or transferring to TPC as a header. -/
  | rft (g : Guard)
  /-- SYS (R100). Raises cause SYS with Ga and Gb in TINFO0 and TINFO1. -/
  | sys (a : GSrc) (b : GSrc) (g : Guard)
  /-- BRK (R99). Raises cause BRK at its own word. -/
  | brk (g : Guard)
  /-- TLBI (R209). Slot 0 removes translation entries within a reach and waits for every agent to acknowledge. -/
  | tlbi (a : GSrc) (b : GSrc) (g : Guard)
  /-- SRD (R96). Reads a system register by number into Gd. -/
  | srd (d : BitVec 4) (n : BitVec 11) (g : Guard)
  /-- SWR (R96). Writes Ga to a system register by number after the privilege and value checks. -/
  | swr (a : GSrc) (n : BitVec 11) (g : Guard)
  /-- FORK (R150). Increments a join record's count and pushes a task record on the core's deque. -/
  | fork (a : GSrc) (o : BitVec 16) (g : Guard)
  /-- JINIT (R149). Writes a join record with count 1 and the continuation's live registers. -/
  | jinit (a : GSrc) (g : Guard)
  /-- JOIN (R153). Decrements a join record's count, deciding retire or continue at the block's end. -/
  | join (a : GSrc) (g : Guard)
  /-- WAITF (R141). Waits until a scratchpad word is full, bounded by a timeout. -/
  | waitf (a : GSrc) (b : GSrc) (q : BitVec 4) (g : Guard)
  /-- WAITM (R141). Waits until a word is full and equals Gd[31:0]. -/
  | waitm (d : GSrc) (a : GSrc) (b : GSrc) (q : BitVec 4) (g : Guard)
  /-- WAITT (R144). Waits until the own die's taper reaches Ga. -/
  | waitt (a : GSrc) (b : GSrc) (q : BitVec 4) (g : Guard)
  /-- WAITID (R144). Waits until CDONE reaches Ga. -/
  | waitid (a : GSrc) (b : GSrc) (q : BitVec 4) (g : Guard)
  /-- BAR (R145). Arrives at the group in J slot j and waits for the phase to complete. -/
  | bar (j : BitVec 2) (b : GSrc) (q : BitVec 4) (g : Guard)
  /-- RECVW (R147). Waits until a receive ring's tail word differs from Gd[31:0]. -/
  | recvw (d : BitVec 4) (a : GSrc) (b : GSrc) (q : BitVec 4) (g : Guard)
  /-- LLOCK (R146). Requests a lock by key, queueing until granted a hold or timed out. -/
  | llock (d : BitVec 4) (a : GSrc) (b : GSrc) (q : BitVec 4) (g : Guard)
  /-- LRANGE (R124). Requests a RANGE lease of memory from the home's service core. -/
  | lrange (d : BitVec 4) (a : GSrc) (b : GSrc) (q : BitVec 4) (g : Guard)
  /-- LGROUP (R122). Requests a GROUP lease for N members. -/
  | lgroup (d : BitVec 4) (a : GSrc) (b : GSrc) (q : BitVec 4) (g : Guard)
  /-- LPATH (R122). Requests a PATH lease to another node. -/
  | lpath (d : BitVec 4) (a : GSrc) (b : GSrc) (q : BitVec 4) (g : Guard)
  /-- LCTX (R122). Requests a CTX lease from a context descriptor. -/
  | lctx (d : BitVec 4) (a : GSrc) (b : GSrc) (q : BitVec 4) (g : Guard)
  /-- RNW (R125). Sets a lease's expiry to the home's taper plus the given life. -/
  | rnw (d : BitVec 4) (a : GSrc) (b : GSrc) (g : Guard)
  /-- LIFE (R126). Returns a lower bound on a lease's remaining life. -/
  | life (d : BitVec 4) (a : GSrc) (g : Guard)
  /-- LINFO (R127). Returns an item of information about a lease. -/
  | linfo (d : BitVec 4) (a : GSrc) (b : GSrc) (g : Guard)
  /-- GJOIN (R128). Joins a group and places its handle in a J slot. -/
  | gjoin (j : BitVec 2) (a : GSrc) (g : Guard)
  /-- BIND (R129). Binds a RANGE lease to a held lock. -/
  | bind (d : BitVec 4) (a : GSrc) (b : GSrc) (g : Guard)
  /-- LD (R93). Loads 1, 2, 4 or 8 bytes into Gd, zero- or sign-extended. -/
  | ld (d : BitVec 4) (a : GSrc) (z : MemSize) (x : Bool) (o : BitVec 8) (g : Guard)
  /-- ST (R93). Stores 1, 2, 4 or 8 bytes of Gd. -/
  | st (d : GSrc) (a : GSrc) (z : MemSize) (o : BitVec 8) (g : Guard)
  /-- LDSW (R143). Waits for a full word and loads it. -/
  | ldsw (d : BitVec 4) (a : GSrc) (b : GSrc) (q : BitVec 4) (g : Guard)
  /-- LDSD (R143). Waits for a full doubleword and loads it. -/
  | ldsd (d : BitVec 4) (a : GSrc) (b : GSrc) (q : BitVec 4) (g : Guard)
  /-- LDCW (R143). Waits for a full word, loads it and empties it. -/
  | ldcw (d : BitVec 4) (a : GSrc) (b : GSrc) (q : BitVec 4) (g : Guard)
  /-- LDCD (R143). Waits for a full doubleword, loads it and empties both words. -/
  | ldcd (d : BitVec 4) (a : GSrc) (b : GSrc) (q : BitVec 4) (g : Guard)
  /-- STFW (R212). Stores a word and sets it full, a release. -/
  | stfw (a : GSrc) (b : GSrc) (g : Guard)
  /-- STFD (R212). Stores a doubleword and sets both words full. -/
  | stfd (a : GSrc) (b : GSrc) (g : Guard)
  /-- SETE (R212). Sets a word's tag empty. -/
  | sete (a : GSrc) (g : Guard)
  /-- SETF (R212). Sets a word's tag full, a release. -/
  | setf (a : GSrc) (g : Guard)
  /-- AADD (R213). Atomically adds Gb at the address and returns the old value. -/
  | aadd (d : BitVec 4) (a : GSrc) (b : GSrc) (z : Bool) (g : Guard)
  /-- AAND (R213). Atomic AND returning the old value. -/
  | aand (d : BitVec 4) (a : GSrc) (b : GSrc) (z : Bool) (g : Guard)
  /-- AOR (R213). Atomic OR returning the old value. -/
  | aor (d : BitVec 4) (a : GSrc) (b : GSrc) (z : Bool) (g : Guard)
  /-- AXOR (R213). Atomic XOR returning the old value. -/
  | axor (d : BitVec 4) (a : GSrc) (b : GSrc) (z : Bool) (g : Guard)
  /-- AMIN (R213). Atomic signed minimum returning the old value. -/
  | amin (d : BitVec 4) (a : GSrc) (b : GSrc) (z : Bool) (g : Guard)
  /-- AMAX (R213). Atomic signed maximum returning the old value. -/
  | amax (d : BitVec 4) (a : GSrc) (b : GSrc) (z : Bool) (g : Guard)
  /-- AMINU (R213). Atomic unsigned minimum returning the old value. -/
  | aminu (d : BitVec 4) (a : GSrc) (b : GSrc) (z : Bool) (g : Guard)
  /-- AMAXU (R213). Atomic unsigned maximum returning the old value. -/
  | amaxu (d : BitVec 4) (a : GSrc) (b : GSrc) (z : Bool) (g : Guard)
  /-- AXCHG (R213). Atomic exchange returning the old value. -/
  | axchg (d : BitVec 4) (a : GSrc) (b : GSrc) (z : Bool) (g : Guard)
  /-- ACAS (R213). Atomic compare-and-swap against Gd, returning the old value. -/
  | acas (d : BitVec 4) (a : GSrc) (b : GSrc) (z : Bool) (g : Guard)
  /-- REDADD (R214). Adds Gb at the home without returning a value. -/
  | redadd (a : GSrc) (b : GSrc) (z : Bool) (g : Guard)
  /-- REDAND (R214). Reduction AND at the home. -/
  | redand (a : GSrc) (b : GSrc) (z : Bool) (g : Guard)
  /-- REDOR (R214). Reduction OR at the home. -/
  | redor (a : GSrc) (b : GSrc) (z : Bool) (g : Guard)
  /-- REDXOR (R214). Reduction XOR at the home. -/
  | redxor (a : GSrc) (b : GSrc) (z : Bool) (g : Guard)
  /-- REDMIN (R214). Reduction signed minimum at the home. -/
  | redmin (a : GSrc) (b : GSrc) (z : Bool) (g : Guard)
  /-- REDMAX (R214). Reduction signed maximum at the home. -/
  | redmax (a : GSrc) (b : GSrc) (z : Bool) (g : Guard)
  /-- REDMINU (R214). Reduction unsigned minimum at the home. -/
  | redminu (a : GSrc) (b : GSrc) (z : Bool) (g : Guard)
  /-- REDMAXU (R214). Reduction unsigned maximum at the home. -/
  | redmaxu (a : GSrc) (b : GSrc) (z : Bool) (g : Guard)
  /-- STFL_W (R272). Stores a word remotely and raises a flag doubleword after the data is accepted. -/
  | stflw (d : GSrc) (a : GSrc) (b : GSrc) (g : Guard)
  /-- STFL_D (R272). Stores a doubleword remotely and raises a flag after the data is accepted. -/
  | stfld (d : GSrc) (a : GSrc) (b : GSrc) (g : Guard)
  /-- FENCE (R234). Orders the thread's accesses homed in the scope without holding the thread. -/
  | fence (s : Scope) (g : Guard)
  /-- FENCESC (R235). Holds the thread until every earlier access homed in the scope is accepted or refused. -/
  | fencesc (s : Scope) (g : Guard)
  /-- REL (R236). Releases at a scope for a held lock, draining earlier accesses without giving up the hold. -/
  | rel (a : GSrc) (s : Scope) (g : Guard)
  /-- VADD (R175). Adds vector lanes. -/
  | vadd (v : BitVec 5) (a : BitVec 5) (b : BitVec 5) (m : BitVec 2) (e : Bool) (t : VType)
  /-- VSUB (R175). Subtracts vector lanes. -/
  | vsub (v : BitVec 5) (a : BitVec 5) (b : BitVec 5) (m : BitVec 2) (e : Bool) (t : VType)
  /-- VMUL (R175). Multiplies vector lanes. -/
  | vmul (v : BitVec 5) (a : BitVec 5) (b : BitVec 5) (m : BitVec 2) (e : Bool) (t : VType)
  /-- VMIN (R175). Lane-wise minimum. -/
  | vmin (v : BitVec 5) (a : BitVec 5) (b : BitVec 5) (m : BitVec 2) (e : Bool) (t : VType)
  /-- VMAX (R175). Lane-wise maximum. -/
  | vmax (v : BitVec 5) (a : BitVec 5) (b : BitVec 5) (m : BitVec 2) (e : Bool) (t : VType)
  /-- VABS (R175). Lane-wise absolute value. -/
  | vabs (v : BitVec 5) (a : BitVec 5) (m : BitVec 2) (e : Bool) (t : VType)
  /-- VNEG (R175). Lane-wise negation. -/
  | vneg (v : BitVec 5) (a : BitVec 5) (m : BitVec 2) (e : Bool) (t : VType)
  /-- VAND (R175). Lane-wise bitwise AND. -/
  | vand (v : BitVec 5) (a : BitVec 5) (b : BitVec 5) (m : BitVec 2) (e : Bool) (t : VType)
  /-- VOR (R175). Lane-wise bitwise OR. -/
  | vor (v : BitVec 5) (a : BitVec 5) (b : BitVec 5) (m : BitVec 2) (e : Bool) (t : VType)
  /-- VXOR (R175). Lane-wise bitwise XOR. -/
  | vxor (v : BitVec 5) (a : BitVec 5) (b : BitVec 5) (m : BitVec 2) (e : Bool) (t : VType)
  /-- VANDN (R175). Lane-wise AND NOT. -/
  | vandn (v : BitVec 5) (a : BitVec 5) (b : BitVec 5) (m : BitVec 2) (e : Bool) (t : VType)
  /-- VSHL (R175). Lane-wise left shift of I32 lanes. -/
  | vshl (v : BitVec 5) (a : BitVec 5) (b : BitVec 5) (m : BitVec 2) (e : Bool)
  /-- VSHR (R175). Lane-wise logical right shift. -/
  | vshr (v : BitVec 5) (a : BitVec 5) (b : BitVec 5) (m : BitVec 2) (e : Bool)
  /-- VSRA (R175). Lane-wise arithmetic right shift. -/
  | vsra (v : BitVec 5) (a : BitVec 5) (b : BitVec 5) (m : BitVec 2) (e : Bool)
  /-- VMOV (R175). Copies active lanes of va. -/
  | vmov (v : BitVec 5) (a : BitVec 5) (m : BitVec 2) (e : Bool) (t : VType)
  /-- VSEL (R175). Selects every lane from va or vb by the mask. -/
  | vsel (v : BitVec 5) (a : BitVec 5) (b : BitVec 5) (m : BitVec 2) (e : Bool) (t : VType)
  /-- VCMPEQ (R176). Writes a mask of lanes where va equals vb. -/
  | vcmpeq (k : BitVec 2) (a : BitVec 5) (b : BitVec 5) (m : BitVec 2) (e : Bool) (t : VType)
  /-- VCMPNE (R176). Writes a mask of lanes where va differs from vb. -/
  | vcmpne (k : BitVec 2) (a : BitVec 5) (b : BitVec 5) (m : BitVec 2) (e : Bool) (t : VType)
  /-- VCMPLT (R176). Writes a mask of lanes where va is less than vb. -/
  | vcmplt (k : BitVec 2) (a : BitVec 5) (b : BitVec 5) (m : BitVec 2) (e : Bool) (t : VType)
  /-- VCMPLE (R176). Writes a mask of lanes where va is at most vb. -/
  | vcmple (k : BitVec 2) (a : BitVec 5) (b : BitVec 5) (m : BitVec 2) (e : Bool) (t : VType)
  /-- VFMA (R177). Fused multiply-add of lanes with one rounding. -/
  | vfma (v : BitVec 5) (a : BitVec 5) (b : BitVec 5) (c : BitVec 5) (m : BitVec 2) (e : Bool) (t : VType)
  /-- VFMS (R177). Fused negated multiply-add of lanes with one rounding. -/
  | vfms (v : BitVec 5) (a : BitVec 5) (b : BitVec 5) (c : BitVec 5) (m : BitVec 2) (e : Bool) (t : VType)
  /-- VADDS (R178). Adds a scalar from Gb to every lane. -/
  | vadds (v : BitVec 5) (a : BitVec 5) (b : GSrc) (m : BitVec 2) (e : Bool) (t : VType)
  /-- VSUBS (R178). Subtracts a scalar from every lane. -/
  | vsubs (v : BitVec 5) (a : BitVec 5) (b : GSrc) (m : BitVec 2) (e : Bool) (t : VType)
  /-- VMULS (R178). Multiplies every lane by a scalar. -/
  | vmuls (v : BitVec 5) (a : BitVec 5) (b : GSrc) (m : BitVec 2) (e : Bool) (t : VType)
  /-- VMINS (R178). Lane-wise minimum with a scalar. -/
  | vmins (v : BitVec 5) (a : BitVec 5) (b : GSrc) (m : BitVec 2) (e : Bool) (t : VType)
  /-- VMAXS (R178). Lane-wise maximum with a scalar. -/
  | vmaxs (v : BitVec 5) (a : BitVec 5) (b : GSrc) (m : BitVec 2) (e : Bool) (t : VType)
  /-- VSHLS (R178). Shifts every lane left by Gb[4:0]. -/
  | vshls (v : BitVec 5) (a : BitVec 5) (b : GSrc) (m : BitVec 2) (e : Bool)
  /-- VSHRS (R178). Shifts every lane right logically by Gb[4:0]. -/
  | vshrs (v : BitVec 5) (a : BitVec 5) (b : GSrc) (m : BitVec 2) (e : Bool)
  /-- VSRAS (R178). Shifts every lane right arithmetically by Gb[4:0]. -/
  | vsras (v : BitVec 5) (a : BitVec 5) (b : GSrc) (m : BitVec 2) (e : Bool)
  /-- VCMPEQS (R178). Writes a mask of lanes equal to a scalar. -/
  | vcmpeqs (k : BitVec 2) (a : BitVec 5) (b : GSrc) (m : BitVec 2) (e : Bool) (t : VType)
  /-- VCMPLTS (R178). Writes a mask of lanes less than a scalar. -/
  | vcmplts (k : BitVec 2) (a : BitVec 5) (b : GSrc) (m : BitVec 2) (e : Bool) (t : VType)
  /-- VBCAST (R178). Broadcasts a scalar to every active lane. -/
  | vbcast (v : BitVec 5) (b : GSrc) (m : BitVec 2) (e : Bool) (t : VType)
  /-- VRCP (R179). Correctly rounded reciprocal of each lane. -/
  | vrcp (v : BitVec 5) (a : BitVec 5) (m : BitVec 2) (e : Bool) (t : VType)
  /-- VRSQ (R179). Correctly rounded reciprocal square root. -/
  | vrsq (v : BitVec 5) (a : BitVec 5) (m : BitVec 2) (e : Bool) (t : VType)
  /-- VSQRT (R179). Correctly rounded square root. -/
  | vsqrt (v : BitVec 5) (a : BitVec 5) (m : BitVec 2) (e : Bool) (t : VType)
  /-- VEXP2 (R179). Correctly rounded power of two. -/
  | vexp2 (v : BitVec 5) (a : BitVec 5) (m : BitVec 2) (e : Bool) (t : VType)
  /-- VLOG2 (R179). Correctly rounded base-2 logarithm. -/
  | vlog2 (v : BitVec 5) (a : BitVec 5) (m : BitVec 2) (e : Bool) (t : VType)
  /-- VCVT (R180). Converts lanes between formats in a chosen rounding mode. -/
  | vcvt (v : BitVec 5) (a : BitVec 5) (c : BitVec 5) (m : BitVec 2) (e : Bool) (t : VType)
  /-- VPACK (R181). Quantises 64 FP32 lanes into two MX or K4 blocks. -/
  | vpack (v : BitVec 5) (a : BitVec 5) (c : BitVec 5) (e : Bool)
  /-- VUNPK (R182). Decodes two packed blocks into 64 FP32 lanes. -/
  | vunpk (v : BitVec 5) (a : BitVec 5) (c : BitVec 3) (e : Bool)
  /-- VSCALE (R183). Scales each element by a power of two from vb. -/
  | vscale (v : BitVec 5) (a : BitVec 5) (b : BitVec 5) (m : BitVec 2) (e : Bool) (t : VType)
  /-- VRED (R184). Reduces active lanes by a fixed tree into lane 0. -/
  | vred (v : BitVec 5) (a : BitVec 5) (o : BitVec 5) (m : BitVec 2) (e : Bool) (t : VType)
  /-- VSCAN (R185). Computes an inclusive prefix over active lanes. -/
  | vscan (v : BitVec 5) (a : BitVec 5) (o : BitVec 5) (m : BitVec 2) (e : Bool) (t : VType)
  /-- VPERM (R186). Permutes lanes by indices in vb. -/
  | vperm (v : BitVec 5) (a : BitVec 5) (b : BitVec 5) (m : BitVec 2) (e : Bool) (t : VType)
  /-- VEXTR (R187). Extracts one lane or element into Gd. -/
  | vextr (d : BitVec 4) (a : BitVec 5) (b : GSrc) (e : Bool) (t : VType)
  /-- VINS (R187). Inserts Ga into one lane or element of vd. -/
  | vins (v : BitVec 5) (a : GSrc) (b : GSrc) (m : BitVec 2) (t : VType)
  /-- VROT (R186). Rotates lanes by Gb[5:0]. -/
  | vrot (v : BitVec 5) (a : BitVec 5) (b : GSrc) (m : BitVec 2) (e : Bool) (t : VType)
  /-- MAND (R188). Mask AND. -/
  | mand (k : BitVec 2) (a : BitVec 2) (b : BitVec 2) (e : Bool)
  /-- MOR (R188). Mask OR. -/
  | mor (k : BitVec 2) (a : BitVec 2) (b : BitVec 2) (e : Bool)
  /-- MXOR (R188). Mask XOR. -/
  | mxor (k : BitVec 2) (a : BitVec 2) (b : BitVec 2) (e : Bool)
  /-- MANDN (R188). Mask AND NOT. -/
  | mandn (k : BitVec 2) (a : BitVec 2) (b : BitVec 2) (e : Bool)
  /-- MNOT (R188). Mask complement. -/
  | mnot (k : BitVec 2) (a : BitVec 2) (e : Bool)
  /-- MPOPC (R188). Counts set bits of a mask into Gd. -/
  | mpopc (d : BitVec 4) (a : BitVec 2) (e : Bool)
  /-- MFIRST (R188). Writes the index of a mask's lowest set bit, 64 if none. -/
  | mfirst (d : BitVec 4) (a : BitVec 2) (e : Bool)
  /-- MSET (R188). Writes a mask from Ga. -/
  | mset (k : BitVec 2) (a : GSrc)
  /-- VLD (R215). Loads 256 bytes into active lanes of vd and LL. -/
  | vld (v : BitVec 5) (a : GSrc) (o : BitVec 9) (m : BitVec 2) (e : Bool)
  /-- VST (R215). Stores the active lanes of a vector to 256 bytes. -/
  | vst (v : BitVec 5) (a : GSrc) (o : BitVec 9) (m : BitVec 2) (e : Bool)
  /-- VLDT (R216). Strided load into vd and LL. -/
  | vldt (v : BitVec 5) (a : GSrc) (b : GSrc) (m : BitVec 2) (e : Bool)
  /-- VSTT (R216). Strided store of vd. -/
  | vstt (v : BitVec 5) (a : GSrc) (b : GSrc) (m : BitVec 2) (e : Bool)
  /-- VLDX (R216). Gather load by lane offsets. -/
  | vldx (v : BitVec 5) (a : GSrc) (b : BitVec 5) (m : BitVec 2) (e : Bool)
  /-- VSTX (R216). Scatter store by lane offsets. -/
  | vstx (v : BitVec 5) (a : GSrc) (b : BitVec 5) (m : BitVec 2) (e : Bool)
  /-- VSTFL (R273). Stores a vector and raises a flag once every active lane is accepted. -/
  | vstfl (v : BitVec 5) (a : GSrc) (b : GSrc) (m : BitVec 2) (e : Bool)
  /-- MMA (R290). Gang-issues a matrix multiply-accumulate of M rows into a tile or split pair. -/
  | mma (d : BitVec 4) (a : GSrc) (b : GSrc) (w : BitVec 32) (g : Guard)
  /-- MWLD (R291). Gang-issues a load of a weight image into the shadow banks. -/
  | mwld (d : BitVec 4) (w : BitVec 32) (g : Guard)
  /-- MZERO (R292). Queues a zeroing of tiles, optionally preparing a split pair. -/
  | mzero (d : BitVec 4) (w : BitVec 32) (g : Guard)
  /-- MDRAIN (R293). Queues a drain of a tile or split pair to scratchpad in a mode and format. -/
  | mdrain (d : BitVec 4) (a : GSrc) (b : GSrc) (w : BitVec 32) (g : Guard)
  /-- MAGR (R294). Queues a write of the agreement threshold and count. -/
  | magr (d : BitVec 4) (a : GSrc) (b : GSrc) (w : BitVec 32) (g : Guard)
  /-- MSTAT (R295). Queues a read of a matrix status item into the token. -/
  | mstat (d : BitVec 4) (w : BitVec 32) (g : Guard)
  /-- MTEST (R296). Gang-issues a self-test of every row group in use. -/
  | mtest (d : BitVec 4) (w : BitVec 32) (g : Guard)
  /-- CPY (R255). Reads two layout records and queues a copy job with a job ID. -/
  | cpy (d : BitVec 4) (a : GSrc) (b : GSrc) (w : BitVec 32) (g : Guard)
  /-- CHAIN (R260). Slot 0 starts, resumes or kicks a descriptor-chain channel. -/
  | chain (d : BitVec 4) (a : GSrc) (b : GSrc) (w : BitVec 32) (g : Guard)
  /-- CSTAT (R262). Queues a read of copy-unit status into the token. -/
  | cstat (d : BitVec 4) (w : BitVec 32) (g : Guard)
  /-- SEND (R268). Reads a payload record and queues a message to an endpoint with a job ID. -/
  | send (d : BitVec 4) (a : GSrc) (b : GSrc) (w : BitVec 32) (g : Guard)
  /-- POST (R265). Reads a receive descriptor and queues a posted receive. -/
  | post (d : BitVec 4) (a : GSrc) (b : GSrc) (w : BitVec 32) (g : Guard)
  /-- RRING (R263). Queues the creation of an endpoint and its unexpected-message ring. -/
  | rring (d : BitVec 4) (a : GSrc) (b : GSrc) (w : BitVec 32) (g : Guard)
  /-- RPROBE (R270). Queues a search of an endpoint's ring for a matching message. -/
  | rprobe (d : BitVec 4) (a : GSrc) (b : GSrc) (w : BitVec 32) (g : Guard)
  /-- LAUNCH (R361). Reads a launch header and queues a grid launch under a CTX. -/
  | launch (d : BitVec 4) (a : GSrc) (b : GSrc) (w : BitVec 32) (g : Guard)
  /-- LSTAT (R368). Queues a query of a grid's counts at the root. -/
  | lstat (d : BitVec 4) (a : GSrc) (w : BitVec 32) (g : Guard)
  /-- PREEMPT (R330). Reads a request record and queues pre-emption of a team. -/
  | preempt (d : BitVec 4) (a : GSrc) (w : BitVec 32) (g : Guard)
  /-- SIGNAL (R331). Reads a request record and queues a resume, drop or query of a team. -/
  | signal (d : BitVec 4) (a : GSrc) (w : BitVec 32) (g : Guard)
  /-- MODULE_RESET (R104). Resets every die together, starting every taper at 0 and leaving scratchpad zero and full. -/
  | moduleReset (n : Nat)
  /-- TICK_BOUNDARY (R103). The reference edge at which each die's taper increments, applied before the cycle's acceptances. -/
  | tickBoundary (n : Nat)
  /-- LEASE_LAPSE (R109). A live lease whose expiry is reached enters SMOKE and takes its kind's lapse effects. -/
  | leaseLapse (h : DieId) (i : Nat)
  /-- SMOKE_END (R110). At the 64th boundary after a lapse the entry becomes FREE with its generation incremented. -/
  | smokeEnd (h : DieId) (i : Nat)
  /-- RANGE_ZEROING (R115). The scrubber finishes zeroing a lapsed range in background slots, freeing its granules. -/
  | rangeZeroing (h : DieId) (i : Nat)
  /-- LEASE_ENTRY_ERROR (R313). An uncorrectable error in a lease-table entry makes its lease lapse at the next boundary. -/
  | leaseEntryError (h : DieId) (i : Nat)
  /-- EMPTY_TIMEOUT (R47). An implicit block reaching its ETO-th tick boundary traps with EMPTY_TIMEOUT. -/
  | emptyTimeout (t : Tid)
  /-- RESULT_FILL (R46). A long-latency result arrives, fills its destination and wakes waiting threads. -/
  | resultFill (t : Tid) (p : Nat)
  /-- MEMORY_ACCESS_ACCEPT (R218). A home checks and accepts or refuses one unit of an access and answers. -/
  | memoryAccessAccept (k : Nat)
  /-- WAIT_ACCEPT (R140). A wait is accepted at its deciding place and succeeds, times out or queues. -/
  | waitAccept (t : Tid) (i : Nat)
  /-- WAIT_TIMEOUT (R140). A queued wait reaches its timeout boundary and ends with Qn 0. -/
  | waitTimeout (t : Tid)
  /-- LEASE_REQUEST_ANSWER (R123). A service core grants or refuses a lease request and fills Gd and Qn. -/
  | leaseRequestAnswer (k : Nat) (i : Nat) (b : Nat)
  /-- LEASE_OP_AT_HOME (R125). A home checks a presented handle and performs RNW, LIFE, LINFO, GJOIN or BIND. -/
  | leaseOpAtHome (k : Nat)
  /-- DEFERRED_DELIVERY (R308). A fault reported by a home's answer is delivered to the thread as a trap. -/
  | deferredDelivery (t : Tid) (n : Nat)
  /-- REGION_RESTART (R316). The current idempotent region restarts at RPC, after a tick boundary when following poison. -/
  | regionRestart (t : Tid)
  /-- THREAD_STOP (R310). A thread that cannot continue stops and its slot is freed once its accesses finish. -/
  | threadStop (t : Tid)
  /-- HELD_FAULT_RECORD_WRITE (R311). A held thread-fault record is written once slot 0 clears the pending bit. -/
  | heldFaultRecordWrite (c : CoreId) (s : Nat)
  /-- SLOT_RELEASE (R90). An ended thread's slot returns to the resident loop once all its accesses complete. -/
  | slotRelease (t : Tid)
  /-- TEAM_PLACE (R134). Slot 0 places a team from the head inbox record once enough slots are free. -/
  | teamPlace (c : CoreId) (i : Nat) (stk : TeamChoice)
  /-- TEAM_END (R138). A team whose threads, forks and accesses are all finished releases its group and reports its block. -/
  | teamEnd (c : ClusterId) (n : Nat)
  /-- FORK_RECORD_START (R152). A free slot starts the newest own fork record or steals the oldest of another core. -/
  | forkRecordStart (c : CoreId) (stk : Nat)
  /-- JOIN_OUTCOME_APPLY (R153). At the block's end a pending join retires the thread or continues at the continuation. -/
  | joinOutcomeApply (t : Tid)
  /-- TRANSLATION_WALK (R202). A translation miss walks the page tables and fills the caches or faults. -/
  | translationWalk (k : Nat) (old : Bool)
  /-- FAULT_RING_RETRY (R206). A fault record waiting on a full ring is offered again when room frees. -/
  | faultRingRetry (k : Nat)
  /-- FAULT_REPLY (R207). A reply word stored to an agent retranslates the access or fails it. -/
  | faultReply (t : Tid)
  /-- TLBI_ACK (R209). An agent acknowledges a TLBI once its affected accesses are settled; the last completes the TLBI. -/
  | tlbiAck (k : Nat) (c : CoreId)
  /-- FENCESC_DRAIN_END (R235). The fence's earlier accesses have all been accepted or refused and the thread is released. -/
  | fencescDrainEnd (t : Tid)
  /-- REL_DRAIN_END (R236). REL's drain ends and the key's home rechecks the hold before releasing the thread. -/
  | relDrainEnd (t : Tid)
  /-- BANK_FAILURE (R193). A scratchpad bank is marked failed and rebuilding into the spare begins. -/
  | bankFailure (c : CoreId) (b : Nat)
  /-- BANK_REBUILD_DONE (R193). Rebuilding a failed bank into the spare bank completes. -/
  | bankRebuildDone (c : CoreId)
  /-- PATROL_SCRUB_ERROR (R196). The patrol scrubber finds an uncorrectable unit and poisons it. -/
  | patrolScrubError (u : Nat)
  /-- ENGINE_GUARD_RESOLVE (R248). A queued command's guard resolves; a false guard discards it with DISCARDED. -/
  | engineGuardResolve (c : CoreId) (q : EngineQueue) (s : Nat)
  /-- CPY_START (R255). The copy unit starts a job, checking its records and issuing its units. -/
  | cpyStart (c : ClusterId)
  /-- CPY_COMPLETE (R255). All units of a copy are settled; the flag is raised and the token filled. -/
  | cpyComplete (j : Nat)
  /-- CHAIN_RECORD_STEP (R260). A running chain channel reads a record, performs its transfer or parks. -/
  | chainRecordStep (c : ClusterId) (n : Nat)
  /-- CSTAT_START (R262). CSTAT starts and writes the status item to its token. -/
  | cstatStart (c : ClusterId)
  /-- RRING_START (R263). The receive engine checks the ring and creates the endpoint. -/
  | rringStart (c : ClusterId) (ep : Nat)
  /-- POST_START (R265). The receive engine creates a RECV lease and appends the receive to the endpoint. -/
  | postStart (c : ClusterId) (i : Nat)
  /-- SEND_START (R268). A SEND job starts and offers its message header to the endpoint. -/
  | sendStart (c : ClusterId)
  /-- MESSAGE_DECISION (R266). A message's first flit is matched to a posted receive or sent to the ring. -/
  | messageDecision (j : Nat)
  /-- RING_OFFER_RETRY (R269). A refused unmatched message is offered again after 4 ticks or a HEAD move. -/
  | ringOfferRetry (j : Nat)
  /-- RING_FULL_TIMEOUT (R269). An unmatched message not accepted within TMO ends with RING_FULL. -/
  | ringFullTimeout (j : Nat)
  /-- RING_HEAD_STORE (R264). A store accepted at a ring's HEAD word signals the senders that HEAD moved. -/
  | ringHeadStore (h : DieId) (ep : Nat)
  /-- TAIL_UPDATE (R264). After a ring message's payload and header are written, TAIL advances in decision order. -/
  | tailUpdate (j : Nat)
  /-- LANDING_COMPLETE (R267). After all landing units settle the completion record is written and DEST's flag raised. -/
  | landingComplete (j : Nat)
  /-- SEND_COMPLETE (R268). The sender's token fills once the receiver's writes are settled. -/
  | sendComplete (j : Nat)
  /-- RPROBE_START (R270). RPROBE walks the ring and writes the oldest matching message's position. -/
  | rprobeStart (c : ClusterId)
  /-- STFL_FLAG_RAISE (R272). After STFL data is accepted the flag at the target is incremented and set full. -/
  | stflFlagRaise (k : Nat)
  /-- VSTFL_FLAG_RAISE (R273). After every active VSTFL lane is accepted the flag is raised. -/
  | vstflFlagRaise (k : Nat)
  /-- MATRIX_CONTEXT_SCRUB (R301). A command of another context reaching the head scrubs the slice's matrix state in 16 cycles. -/
  | matrixContextScrub (c : CoreId)
  /-- GANG_ARRIVAL (R276). A gang command arrives at the cluster barrier; the eighth closes and compares the members. -/
  | gangArrival (c : CoreId)
  /-- GANG_BARRIER_TIMEOUT (R276). An unclosed gang barrier fails at its timeout with GANG. -/
  | gangBarrierTimeout (c : ClusterId)
  /-- MMA_START (R290). An MMA starts on every slice, swapping banks if asked, and rows begin entering. -/
  | mmaStart (c : ClusterId)
  /-- MMA_COMPLETE (R290). The last row's accumulations land and all eight tokens fill. -/
  | mmaComplete (c : ClusterId)
  /-- MWLD_START (R291). MWLD starts reading weight units into the shadow banks. -/
  | mwldStart (c : ClusterId)
  /-- MWLD_COMPLETE (R291). MWLD's last read ends and the shadow banks become VALID or INVALID. -/
  | mwldComplete (c : ClusterId)
  /-- MZERO_START (R292). MZERO zeroes the chosen tiles and sets CPAIR for a split pair. -/
  | mzeroStart (c : CoreId)
  /-- MDRAIN_START (R293). MDRAIN starts reading rows and computing the agreement values. -/
  | mdrainStart (c : CoreId)
  /-- MDRAIN_COMPLETE (R293). Every drained unit is settled; agreement registers set and the token filled. -/
  | mdrainComplete (c : CoreId)
  /-- MAGR_START (R294). MAGR writes AGT and AGK on the slice in queue order. -/
  | magrStart (c : CoreId)
  /-- MSTAT_START (R295). MSTAT returns its item one cycle after it starts. -/
  | mstatStart (c : CoreId)
  /-- MTEST_START (R296). MTEST starts the self-test of every row group in use. -/
  | mtestStart (c : ClusterId)
  /-- MTEST_COMPLETE (R296). MTEST's tests end and each token reports the groups fenced. -/
  | mtestComplete (c : ClusterId) (bad : List Nat)
  /-- SELF_TEST (R298). A due self-test runs on a row group in idle or forced cycles. -/
  | selfTest (c : ClusterId) (bad : List Nat)
  /-- PREEMPT_START (R330). The pre-emption controller checks the request and chooses Drain, Discard or Save. -/
  | preemptStart (c : ClusterId)
  /-- PREEMPT_DRAIN_FALLBACK (R323). A Drain thread not at its boundary by the deadline falls back to Save. -/
  | preemptDrainFallback (t : Tid)
  /-- PREEMPT_COMPLETE (R330). The team's state and header are written and the token filled. -/
  | preemptComplete (c : ClusterId) (n : Nat)
  /-- SIGNAL_START (R331). The controller performs RESUME, DROP or QUERY on a team. -/
  | signalStart (c : ClusterId)
  /-- RESUME_PLACE (R327). A resumed team is placed once slots are free and every thread rejoins together. -/
  | resumePlace (c : ClusterId) (n : Nat)
  /-- RESUME_DEADLINE (R331). A resume not placed by its deadline is withdrawn with BUSY. -/
  | resumeDeadline (c : ClusterId) (n : Nat)
  /-- LAUNCH_START (R361). The root checks the launch, drains, writes DONE as RUNNING and broadcasts the header. -/
  | launchStart (c : ClusterId)
  /-- LAUNCH_ACK (R362). A package's acknowledgement of the header reaches the root. -/
  | launchAck (r : Nat) (gid : Nat) (n : Nat)
  /-- LAUNCH_ACK_DEADLINE (R362). The acknowledgement phase ends at its boundary and the token fills. -/
  | launchAckDeadline (r : Nat) (gid : Nat)
  /-- RANGE_REQUEST (R363). A die or package whose reserve runs out asks for a further block range. -/
  | rangeRequest (r : Nat) (gid : Nat) (h : DieId) (n : Nat)
  /-- DEAL_RECORD (R363). A die deals a record of at most CHUNK blocks to a hungry core's inbox. -/
  | dealRecord (r : Nat) (gid : Nat) (h : DieId)
  /-- STATIC_DEAL (R364). A slot's next STATIC block is dealt once its target core holds no record of the grid. -/
  | staticDeal (r : Nat) (gid : Nat) (slot : Nat)
  /-- BLOCK_CLASS_REPORT (R365). A package reports a block's fixed class to the root. -/
  | blockClassReport (n : Nat) (k : Nat)
  /-- GRID_END (R366). Once every block is counted the root writes the fault report and the completion record. -/
  | gridEnd (r : Nat) (gid : Nat)
  /-- GRID_ENTRY_FREE (R361). A grid's root table entry is freed 64 ticks after the grid ends. -/
  | gridEntryFree (r : Nat) (gid : Nat)
  /-- LSTAT_START (R368). The root looks up the grid and returns the item. -/
  | lstatStart (c : ClusterId)
  /-- CANCEL_NOTICE (R369). A CTX cancel notice reaches a package, which stops dealing and abandons the context's teams. -/
  | cancelNotice (k : Nat)
  /-- LOAD_EXCHANGE (R376). Every 64 ticks micro-kernels exchange load figures and may pass a record to a neighbour. -/
  | loadExchange (c : CoreId)
  /-- SYS_REQUEST_PORT_WRITE (R377). A VST to the request port becomes a KIND 1 inbox record. -/
  | sysRequestPortWrite (k : Nat)
  /-- HOST_SUBMISSION (R379). A host write of the last submission bytes takes a record into the FIFO or drops it. -/
  | hostSubmission (n : Nat) (off : BitVec 3) (x : BitVec 64)
  /-- HOST_MEMORY_ACCESS (R378). A host read or write through the memory region reaches SYSTEM scratchpad or B-stack. -/
  | hostMemoryAccess (n : Nat) (off : BitVec 33) (w : Option (BitVec 64))
  /-- HOST_RECORD_COPY (R380). The fabric die copies the oldest FIFO record into the host ring and sets TAIL. -/
  | hostRecordCopy (n : Nat)
  /-- HOST_LAUNCH_RECORD (R380). Slot 0 serves a launch record with LCTX and LAUNCH, then writes HACK. -/
  | hostLaunchRecord (n : Nat) (i : Nat)
  /-- HOST_CANCEL_RECORD (R380). Slot 0 lets a grid's CTX lapse, then writes HACK. -/
  | hostCancelRecord (n : Nat)
  /-- HOST_PARTITION_RECORD (R380). Slot 0 writes PART and PVC on the die, then writes HACK. -/
  | hostPartitionRecord (n : Nat)
  /-- HACK_WRITE (R382). A write of HACK removes finished records from the FIFO, lower values ignored. -/
  | hackWrite (k : Nat)
  /-- FIRMWARE_RESTART (R382). The firmware restarts and the fabric die recopies held records into the ring. -/
  | firmwareRestart (n : Nat)
  /-- BOOT_SELECT (R384). The boot ROM chooses a firmware slot from the signed markers or halts. -/
  | bootSelect (n : Nat)
  /-- BRINGUP_PHASE (R385). Bring-up advances to its next phase. -/
  | bringupPhase (n : Nat) (ok : Bool)
  /-- PACKAGE_HALT (R382). A halt stops every core of the package and records its reason. -/
  | packageHalt (n : Nat) (why : Nat)
  /-- LINK_RETRY (R337). A flit with a bad or stomped CRC is discarded and replayed from that flit. -/
  | linkRetry (n : Nat) (s : Nat) (ok : Bool)
  /-- WAVELENGTH_RETRAIN_START (R341). A wavelength whose error window exceeds 20 leaves the active set to retrain. -/
  | wavelengthRetrainStart (n : Nat) (s : Nat) (w : Nat)
  /-- WAVELENGTH_RETRAIN_END (R341). Retraining ends, the wavelength rejoining or being retired. -/
  | wavelengthRetrainEnd (n : Nat) (s : Nat) (w : Nat) (ok : Bool)
  /-- PARKED_WAKE (R342). A transmit queue reaching WAKE wakes every parked wavelength of the strand. -/
  | parkedWake (n : Nat) (s : Nat)
  /-- PARK_AGAIN (R342). After 64 boundaries below WAKE the woken wavelengths park again. -/
  | parkAgain (n : Nat) (s : Nat)
  /-- SCCTL_WRITE (R342). A write of SCCTL at the fabric die sets PARK and WAKE for the strand. -/
  | scctlWrite (k : Nat)
  /-- STRAND_DEATH (R350). A strand dies and its unacknowledged flits replay on another strand. -/
  | strandDeath (n : Nat) (s : Nat)
  /-- LINK_DEATH (R350). With no UP strand to a peer, unacknowledged accesses end with PATH. -/
  | linkDeath (n : Nat) (p : Nat)
  /-- STRAND_UP (R350). A strand to a peer comes up and the dies exchange delivered sequence numbers. -/
  | strandUp (n : Nat) (s : Nat) (p : Nat)
  /-- END_TO_END_ACK (R347). An end-to-end acknowledgement arrives, giving an RTT sample that adjusts the cap. -/
  | endToEndAck (n : Nat) (p : Nat) (part : Nat) (rtt : Nat)
  /-- CAP_ADMIT (R348). An access waiting on the sending cap is accepted for transmission when room frees. -/
  | capAdmit (k : Nat)
  /-- RECONFIG_DRAIN (R346). A circuit reconfiguration begins by sending drain markers on changing circuits. -/
  | reconfigDrain (ss : List Nat)
  /-- RECONFIG_DARK (R346). Once drained the switch is set and the dark interval begins. -/
  | reconfigDark (n : Nat)
  /-- RECONFIG_RELOCK (R346). Relock ends, routes are recomputed and waiting accesses are released. -/
  | reconfigRelock (ps : List (Nat × Nat))
  /-- PART_WRITE (R352). A write of PART forms or changes the die's partition and switches its clock. -/
  | partWrite (k : Nat)
  /-- SEED_WRITE (R166). A write of SEED reseeds all 64 generator states. -/
  | seedWrite (k : Nat)
  /-- AGREEMENT_WRITE (R288). A write of AGT or AGK takes effect when the slice accepts it, ahead of queued commands. -/
  | agreementWrite (k : Nat)
  /-- FLG_ACCESS (R169). An SRD or SWR of FLG is held until every earlier flag-setting result is written. -/
  | flgAccess (t : Tid)
  /-- REGISTER_WRITE (R70). A write of a system register without its own row takes effect by its scope. -/
  | registerWrite (k : Nat)
  deriving DecidableEq, Repr

end Sys2Proof
end

