-- ==== Sys2Proof/WellFormed.lean ====
section
/-!
DEFINITION. Well-formedness: the encoding checks of step 1 of R69 that the shape of `Instr` does not already make
(Table 2-5, R51, R70, and each instruction's own limits). A word whose instruction fails here raises ILLEGAL.
-/

namespace Sys2Proof

/-- Die, cluster, core and slot numbers lie inside Table 2-9's ranges. -/
def DieId.wf (h : DieId) : Bool := decide (h.node < 65536) && decide (h.die < 4)
/-- A cluster of the package (R3: 44 per die). -/
def ClusterId.wf (c : ClusterId) : Bool :=
  decide (c.node < 65536) && decide (c.die < 4) && decide (c.cluster < 44)
/-- A core of the package (R3: 8 per cluster). -/
def CoreId.wf (c : CoreId) : Bool :=
  decide (c.node < 65536) && decide (c.die < 4) && decide (c.cluster < 44) && decide (c.core < 8)
/-- A barrel slot (R3: 16 per core). -/
def Tid.wf (t : Tid) : Bool := t.core.wf && decide (t.slot < 16)

/-- Bits [lo+n-1:lo] of a word, as a number. -/
def wfield (w : W32) (lo n : Nat) : Nat := (w.extractLsb' lo n).toNat

/-- The guard value 0b10000, (!Q0), raises ILLEGAL (Table 2-5). -/
def guardOk (g : Guard) : Bool := decide (g ≠ ⟨true, 0⟩)
/-- Q0 is no predicate destination (Table 2-5). -/
def destQ (q : BitVec 4) : Bool := decide (q ≠ 0)
/-- M0 is no mask destination (Table 2-5, R188). -/
def destM (k : BitVec 2) : Bool := decide (k ≠ 0)
/-- Vector fields 26 to 31 raise ILLEGAL (Table 2-5). -/
def vsrc (v : BitVec 5) : Bool := decide (v.toNat < 26)
/-- A vector destination of majors 0x30 to 0x36: LL (25) raises ILLEGAL (R51). -/
def aluDest (v : BitVec 5) : Bool := decide (v.toNat < 25)
/-- The destination of a vector load: LV (24) raises ILLEGAL (R51). -/
def loadDest (v : BitVec 5) : Bool := decide (v.toNat < 26) && decide (v.toNat ≠ 24)
/-- pos + len ≤ 64, with len = l + 1 (R79). -/
def fieldOk (p : BitVec 6) (l : BitVec 5) : Bool := decide (p.toNat + (l.toNat + 1) ≤ 64)
/-- The compares take I32 and F32 only (R176). -/
def plainType (t : VType) : Bool := decide (t = .i32 ∨ t = .f32)
/-- VRED and VSCAN: operations 0 to 5; AND, OR and XOR on I32 only (R184, R185). -/
def redOk (o : BitVec 5) (t : VType) : Bool := decide (o.toNat < 3 ∨ (o.toNat < 6 ∧ t = .i32))
/-- VPACK's control field (R181). -/
def vpackOk (c : BitVec 5) : Bool :=
  decide (wfield (c.setWidth 32) 0 3 < 6) && decide (wfield (c.setWidth 32) 3 2 ≠ 3) &&
    decide (wfield (c.setWidth 32) 0 3 = 5 → wfield (c.setWidth 32) 3 2 = 0)
/-- The source type of VCVT's control field, c[4:3] in the encoding of t (R180). -/
def vcvtSource (c : BitVec 5) : VType :=
  match wfield (c.setWidth 32) 3 2 with
  | 0 => .i32
  | 1 => .f32
  | 2 => .bf16
  | _ => .f16
/-- Table 6-7: the permitted combinations of destination, source and mode of VCVT. -/
def vcvtOk (t : VType) (c : BitVec 5) : Bool :=
  let m := wfield (c.setWidth 32) 0 3
  match t, vcvtSource c with
  | .i32, .f32 => decide (m < 5)
  | .f32, .i32 => decide (m < 5)
  | .f32, .f32 => decide (m < 5)
  | .f32, .bf16 => decide (m < 2)
  | .f32, .f16 => decide (m < 2)
  | .bf16, .f32 => decide (m < 5)
  | .f16, .f32 => decide (m < 5)
  | .bf16, .f16 => decide (m < 5)
  | .f16, .bf16 => decide (m < 5)
  | _, _ => false

/-- The system registers of Table 2-8 with those that later chapters add (R136, R306, R343, R381). -/
def SysReg.known (n : BitVec 11) : Bool :=
  decide (n.toNat ∈ [0x000, 0x001, 0x002, 0x010, 0x011, 0x012, 0x013, 0x014, 0x015, 0x016, 0x017, 0x018, 0x019,
    0x01A, 0x01B, 0x01C, 0x01D, 0x020, 0x021, 0x022, 0x023, 0x030, 0x040, 0x041, 0x042, 0x043, 0x044, 0x050, 0x051,
    0x060, 0x061, 0x062, 0x063, 0x064, 0x065, 0x066, 0x067, 0x068, 0x069, 0x070, 0x071, 0x072, 0x073, 0x074,
    0x080, 0x081])
/-- Not RO (R70): SWR of an RO register raises ILLEGAL. -/
def SysReg.writable (n : BitVec 11) : Bool :=
  decide (n.toNat ∈ [0x010, 0x011, 0x012, 0x013, 0x014, 0x015, 0x016, 0x017, 0x018, 0x019, 0x01A, 0x01B, 0x01C,
    0x020, 0x021, 0x022, 0x023, 0x040, 0x041, 0x050, 0x051, 0x060, 0x065, 0x067, 0x070, 0x071, 0x074, 0x080])
/-- Written by slot 0 only (access SW, and "RO user, SW", R70): SWR from a user slot raises PRIVILEGE. -/
def SysReg.supervisor (n : BitVec 11) : Bool :=
  decide (n.toNat ∈ [0x010, 0x011, 0x019, 0x020, 0x021, 0x022, 0x023, 0x050, 0x051, 0x060, 0x065, 0x067, 0x070,
    0x071, 0x074, 0x080])

/-- The encoding checks of an instruction; for a step, that the place it names exists. -/
def Instr.wf : Instr → Bool
  | .add _ _ _ g => guardOk g
  | .sub _ _ _ g => guardOk g
  | .mul _ _ _ g => guardOk g
  | .mulh _ _ _ g => guardOk g
  | .mulhu _ _ _ g => guardOk g
  | .div _ _ _ g => guardOk g
  | .divu _ _ _ g => guardOk g
  | .rem _ _ _ g => guardOk g
  | .remu _ _ _ g => guardOk g
  | .and _ _ _ g => guardOk g
  | .or _ _ _ g => guardOk g
  | .xor _ _ _ g => guardOk g
  | .andn _ _ _ g => guardOk g
  | .orn _ _ _ g => guardOk g
  | .shl _ _ _ g => guardOk g
  | .shr _ _ _ g => guardOk g
  | .sra _ _ _ g => guardOk g
  | .rol _ _ _ g => guardOk g
  | .ror _ _ _ g => guardOk g
  | .min _ _ _ g => guardOk g
  | .max _ _ _ g => guardOk g
  | .minu _ _ _ g => guardOk g
  | .maxu _ _ _ g => guardOk g
  | .lea1 _ _ _ g => guardOk g
  | .lea2 _ _ _ g => guardOk g
  | .lea3 _ _ _ g => guardOk g
  | .clz _ _ g => guardOk g
  | .ctz _ _ g => guardOk g
  | .popc _ _ g => guardOk g
  | .brev _ _ g => guardOk g
  | .bswap _ _ g => guardOk g
  | .sextb _ _ g => guardOk g
  | .sexth _ _ g => guardOk g
  | .sextw _ _ g => guardOk g
  | .zextb _ _ g => guardOk g
  | .zexth _ _ g => guardOk g
  | .zextw _ _ g => guardOk g
  | .abs _ _ g => guardOk g
  | .neg _ _ g => guardOk g
  | .not _ _ g => guardOk g
  | .ext _ _ p l g => guardOk g && fieldOk p l
  | .extu _ _ p l g => guardOk g && fieldOk p l
  | .ins _ _ p l g => guardOk g && fieldOk p l
  | .addi _ _ _ g => guardOk g
  | .andi _ _ _ g => guardOk g
  | .ori _ _ _ g => guardOk g
  | .xori _ _ _ g => guardOk g
  | .shli _ _ _ g => guardOk g
  | .shri _ _ _ g => guardOk g
  | .srai _ _ _ g => guardOk g
  | .muli _ _ _ g => guardOk g
  | .li _ g _ => guardOk g
  | .liu _ g _ => guardOk g
  | .lih _ g _ => guardOk g
  | .addl _ g _ => guardOk g
  | .cmpeq d _ _ g => destQ d && guardOk g
  | .cmpne d _ _ g => destQ d && guardOk g
  | .cmplt d _ _ g => destQ d && guardOk g
  | .cmple d _ _ g => destQ d && guardOk g
  | .cmpltu d _ _ g => destQ d && guardOk g
  | .cmpleu d _ _ g => destQ d && guardOk g
  | .tstz d _ _ g => destQ d && guardOk g
  | .tstnz d _ _ g => destQ d && guardOk g
  | .cmpeqi d _ _ g => destQ d && guardOk g
  | .cmpnei d _ _ g => destQ d && guardOk g
  | .cmplti d _ _ g => destQ d && guardOk g
  | .cmplei d _ _ g => destQ d && guardOk g
  | .cmpltui d _ _ g => destQ d && guardOk g
  | .cmpleui d _ _ g => destQ d && guardOk g
  | .cmpgti d _ _ g => destQ d && guardOk g
  | .cmpgtui d _ _ g => destQ d && guardOk g
  | .qand d _ _ g => destQ d && guardOk g
  | .qor d _ _ g => destQ d && guardOk g
  | .qxor d _ _ g => destQ d && guardOk g
  | .qandn d _ _ g => destQ d && guardOk g
  | .qmovg d _ g => destQ d && guardOk g
  | .getq _ g => guardOk g
  | .setq _ g => guardOk g
  | .sel _ _ _ _ g => guardOk g
  | .br _ g => guardOk g
  | .call _ g => guardOk g
  | .jmp _ g => guardOk g
  | .jcall _ _ g => guardOk g
  | .ret _ g => guardOk g
  | .exit g => guardOk g
  | .trap _ g => guardOk g
  | .rft g => guardOk g
  | .sys _ _ g => guardOk g
  | .brk g => guardOk g
  | .tlbi _ _ g => guardOk g
  | .srd _ n g => guardOk g && SysReg.known n
  | .swr _ n g => guardOk g && SysReg.known n && SysReg.writable n
  | .fork _ _ g => guardOk g
  | .jinit _ g => guardOk g
  | .join _ g => guardOk g
  | .waitf _ _ q g => destQ q && guardOk g
  | .waitm _ _ _ q g => destQ q && guardOk g
  | .waitt _ _ q g => destQ q && guardOk g
  | .waitid _ _ q g => destQ q && guardOk g
  | .bar _ _ q g => destQ q && guardOk g
  | .recvw _ _ _ q g => destQ q && guardOk g
  | .llock _ _ _ q g => destQ q && guardOk g
  | .lrange _ _ _ q g => destQ q && guardOk g
  | .lgroup _ _ _ q g => destQ q && guardOk g
  | .lpath _ _ _ q g => destQ q && guardOk g
  | .lctx _ _ _ q g => destQ q && guardOk g
  | .rnw _ _ _ g => guardOk g
  | .life _ _ g => guardOk g
  | .linfo _ _ _ g => guardOk g
  | .gjoin _ _ g => guardOk g
  | .bind _ _ _ g => guardOk g
  | .ld _ _ z x _ g => guardOk g && !(x && z == .d)
  | .st _ _ _ _ g => guardOk g
  | .ldsw _ _ _ q g => destQ q && guardOk g
  | .ldsd _ _ _ q g => destQ q && guardOk g
  | .ldcw _ _ _ q g => destQ q && guardOk g
  | .ldcd _ _ _ q g => destQ q && guardOk g
  | .stfw _ _ g => guardOk g
  | .stfd _ _ g => guardOk g
  | .sete _ g => guardOk g
  | .setf _ g => guardOk g
  | .aadd _ _ _ _ g => guardOk g
  | .aand _ _ _ _ g => guardOk g
  | .aor _ _ _ _ g => guardOk g
  | .axor _ _ _ _ g => guardOk g
  | .amin _ _ _ _ g => guardOk g
  | .amax _ _ _ _ g => guardOk g
  | .aminu _ _ _ _ g => guardOk g
  | .amaxu _ _ _ _ g => guardOk g
  | .axchg _ _ _ _ g => guardOk g
  | .acas _ _ _ _ g => guardOk g
  | .redadd _ _ _ g => guardOk g
  | .redand _ _ _ g => guardOk g
  | .redor _ _ _ g => guardOk g
  | .redxor _ _ _ g => guardOk g
  | .redmin _ _ _ g => guardOk g
  | .redmax _ _ _ g => guardOk g
  | .redminu _ _ _ g => guardOk g
  | .redmaxu _ _ _ g => guardOk g
  | .stflw _ _ _ g => guardOk g
  | .stfld _ _ _ g => guardOk g
  | .fence _ g => guardOk g
  | .fencesc _ g => guardOk g
  | .rel _ _ g => guardOk g
  | .vadd v a b _ _ _ => aluDest v && vsrc a && vsrc b
  | .vsub v a b _ _ _ => aluDest v && vsrc a && vsrc b
  | .vmul v a b _ _ _ => aluDest v && vsrc a && vsrc b
  | .vmin v a b _ _ _ => aluDest v && vsrc a && vsrc b
  | .vmax v a b _ _ _ => aluDest v && vsrc a && vsrc b
  | .vabs v a _ _ _ => aluDest v && vsrc a
  | .vneg v a _ _ _ => aluDest v && vsrc a
  | .vand v a b _ _ _ => aluDest v && vsrc a && vsrc b
  | .vor v a b _ _ _ => aluDest v && vsrc a && vsrc b
  | .vxor v a b _ _ _ => aluDest v && vsrc a && vsrc b
  | .vandn v a b _ _ _ => aluDest v && vsrc a && vsrc b
  | .vshl v a b _ _ => aluDest v && vsrc a && vsrc b
  | .vshr v a b _ _ => aluDest v && vsrc a && vsrc b
  | .vsra v a b _ _ => aluDest v && vsrc a && vsrc b
  | .vmov v a _ _ _ => aluDest v && vsrc a
  | .vsel v a b _ _ _ => aluDest v && vsrc a && vsrc b
  | .vcmpeq k a b _ _ t => destM k && vsrc a && vsrc b && plainType t
  | .vcmpne k a b _ _ t => destM k && vsrc a && vsrc b && plainType t
  | .vcmplt k a b _ _ t => destM k && vsrc a && vsrc b && plainType t
  | .vcmple k a b _ _ t => destM k && vsrc a && vsrc b && plainType t
  | .vfma v a b c _ _ _ => aluDest v && vsrc a && vsrc b && vsrc c
  | .vfms v a b c _ _ _ => aluDest v && vsrc a && vsrc b && vsrc c
  | .vadds v a _ _ _ _ => aluDest v && vsrc a
  | .vsubs v a _ _ _ _ => aluDest v && vsrc a
  | .vmuls v a _ _ _ _ => aluDest v && vsrc a
  | .vmins v a _ _ _ _ => aluDest v && vsrc a
  | .vmaxs v a _ _ _ _ => aluDest v && vsrc a
  | .vshls v a _ _ _ => aluDest v && vsrc a
  | .vshrs v a _ _ _ => aluDest v && vsrc a
  | .vsras v a _ _ _ => aluDest v && vsrc a
  | .vcmpeqs k a _ _ _ t => destM k && vsrc a && plainType t
  | .vcmplts k a _ _ _ t => destM k && vsrc a && plainType t
  | .vbcast v _ _ _ _ => aluDest v
  | .vrcp v a _ _ t => aluDest v && vsrc a && decide (t ≠ .i32)
  | .vrsq v a _ _ t => aluDest v && vsrc a && decide (t ≠ .i32)
  | .vsqrt v a _ _ t => aluDest v && vsrc a && decide (t ≠ .i32)
  | .vexp2 v a _ _ t => aluDest v && vsrc a && decide (t ≠ .i32)
  | .vlog2 v a _ _ t => aluDest v && vsrc a && decide (t ≠ .i32)
  | .vcvt v a c _ _ t => aluDest v && vsrc a && vcvtOk t c
  | .vpack v a c _ => aluDest v && vsrc a && vpackOk c
  | .vunpk v a c _ => aluDest v && vsrc a && decide (c.toNat < 6)
  | .vscale v a b _ _ t => aluDest v && vsrc a && vsrc b && decide (t ≠ .i32)
  | .vred v a o _ _ t => aluDest v && vsrc a && redOk o t
  | .vscan v a o _ _ t => aluDest v && vsrc a && redOk o t
  | .vperm v a b _ _ _ => aluDest v && vsrc a && vsrc b
  | .vextr _ a _ _ _ => vsrc a
  | .vins v _ _ _ _ => aluDest v
  | .vrot v a _ _ _ _ => aluDest v && vsrc a
  | .mand k _ _ _ => destM k
  | .mor k _ _ _ => destM k
  | .mxor k _ _ _ => destM k
  | .mandn k _ _ _ => destM k
  | .mnot k _ _ => destM k
  | .mpopc _ _ _ => true
  | .mfirst _ _ _ => true
  | .mset k _ => destM k
  | .vld v _ _ _ _ => loadDest v
  | .vst v _ _ _ _ => vsrc v
  | .vldt v _ _ _ _ => loadDest v
  | .vstt v _ _ _ _ => vsrc v
  | .vldx v _ b _ _ => loadDest v && vsrc b
  | .vstx v _ b _ _ => vsrc v && vsrc b
  | .vstfl v _ _ _ _ => vsrc v
  | .mma _ _ _ w g => guardOk g && decide (wfield w 10 3 ≠ 7) && decide (wfield w 13 11 = 0)
  | .mwld _ w g => guardOk g && decide (wfield w 5 3 = 0) && decide (wfield w 8 3 ≠ 7) && decide (wfield w 11 13 = 0)
  | .mzero _ w g => guardOk g && decide (wfield w 5 27 = 0)
  | .mdrain _ _ _ w g => guardOk g && decide (wfield w 10 3 < 5) && decide (wfield w 13 3 < 4) && decide (wfield w 16 16 = 0)
  | .magr _ _ _ w g => guardOk g && decide (w = 0)
  | .mstat _ w g => guardOk g && decide (wfield w 4 28 = 0)
  | .mtest _ w g => guardOk g && decide (wfield w 0 24 = 0)
  | .cpy _ _ _ w g => guardOk g && decide (w = 0)
  | .chain _ _ _ w g => guardOk g && decide (w = 0)
  | .cstat _ w g => guardOk g && decide (wfield w 4 28 = 0)
  | .send _ _ _ _ g => guardOk g && true
  | .post _ _ _ w g => guardOk g && decide (w = 0)
  | .rring _ _ _ w g => guardOk g && decide (w = 0)
  | .rprobe _ _ _ w g => guardOk g && decide (wfield w 8 24 = 0)
  | .launch _ _ _ _ g => guardOk g && true
  | .lstat _ _ w g => guardOk g && decide (wfield w 4 28 = 0)
  | .preempt _ _ w g => guardOk g && decide (w = 0)
  | .signal _ _ w g => guardOk g && decide (wfield w 2 30 = 0) && decide (wfield w 0 2 ≠ 3)
  | .moduleReset _ => true
  | .tickBoundary _ => true
  | .leaseLapse h _ => h.wf
  | .smokeEnd h _ => h.wf
  | .rangeZeroing h _ => h.wf
  | .leaseEntryError h _ => h.wf
  | .emptyTimeout t => t.wf
  | .resultFill t _ => t.wf
  | .memoryAccessAccept _ => true
  | .waitAccept t _ => t.wf
  | .waitTimeout t => t.wf
  | .leaseRequestAnswer _ _ _ => true
  | .leaseOpAtHome _ => true
  | .deferredDelivery t _ => t.wf
  | .regionRestart t => t.wf
  | .threadStop t => t.wf
  | .heldFaultRecordWrite c _ => c.wf
  | .slotRelease t => t.wf
  | .teamPlace c _ _ => c.wf
  | .teamEnd c _ => c.wf
  | .forkRecordStart c _ => c.wf
  | .joinOutcomeApply t => t.wf
  | .translationWalk _ _ => true
  | .faultRingRetry _ => true
  | .faultReply t => t.wf
  | .tlbiAck _ c => c.wf
  | .fencescDrainEnd t => t.wf
  | .relDrainEnd t => t.wf
  | .bankFailure c _ => c.wf
  | .bankRebuildDone c => c.wf
  | .patrolScrubError _ => true
  | .engineGuardResolve c _ _ => c.wf
  | .cpyStart c => c.wf
  | .cpyComplete _ => true
  | .chainRecordStep c _ => c.wf
  | .cstatStart c => c.wf
  | .rringStart c _ => c.wf
  | .postStart c _ => c.wf
  | .sendStart c => c.wf
  | .messageDecision _ => true
  | .ringOfferRetry _ => true
  | .ringFullTimeout _ => true
  | .ringHeadStore h _ => h.wf
  | .tailUpdate _ => true
  | .landingComplete _ => true
  | .sendComplete _ => true
  | .rprobeStart c => c.wf
  | .stflFlagRaise _ => true
  | .vstflFlagRaise _ => true
  | .matrixContextScrub c => c.wf
  | .gangArrival c => c.wf
  | .gangBarrierTimeout c => c.wf
  | .mmaStart c => c.wf
  | .mmaComplete c => c.wf
  | .mwldStart c => c.wf
  | .mwldComplete c => c.wf
  | .mzeroStart c => c.wf
  | .mdrainStart c => c.wf
  | .mdrainComplete c => c.wf
  | .magrStart c => c.wf
  | .mstatStart c => c.wf
  | .mtestStart c => c.wf
  | .mtestComplete c _ => c.wf
  | .selfTest c _ => c.wf
  | .preemptStart c => c.wf
  | .preemptDrainFallback t => t.wf
  | .preemptComplete c _ => c.wf
  | .signalStart c => c.wf
  | .resumePlace c _ => c.wf
  | .resumeDeadline c _ => c.wf
  | .launchStart c => c.wf
  | .launchAck _ _ _ => true
  | .launchAckDeadline _ _ => true
  | .rangeRequest _ _ h _ => h.wf
  | .dealRecord _ _ h => h.wf
  | .staticDeal _ _ _ => true
  | .blockClassReport _ _ => true
  | .gridEnd _ _ => true
  | .gridEntryFree _ _ => true
  | .lstatStart c => c.wf
  | .cancelNotice _ => true
  | .loadExchange c => c.wf
  | .sysRequestPortWrite _ => true
  | .hostSubmission _ _ _ => true
  | .hostMemoryAccess _ _ _ => true
  | .hostRecordCopy _ => true
  | .hostLaunchRecord _ _ => true
  | .hostCancelRecord _ => true
  | .hostPartitionRecord _ => true
  | .hackWrite _ => true
  | .firmwareRestart _ => true
  | .bootSelect _ => true
  | .bringupPhase _ _ => true
  | .packageHalt _ _ => true
  | .linkRetry _ _ _ => true
  | .wavelengthRetrainStart _ _ _ => true
  | .wavelengthRetrainEnd _ _ _ _ => true
  | .parkedWake _ _ => true
  | .parkAgain _ _ => true
  | .scctlWrite _ => true
  | .strandDeath _ _ => true
  | .linkDeath _ _ => true
  | .strandUp _ _ _ => true
  | .endToEndAck _ _ _ _ => true
  | .capAdmit _ => true
  | .reconfigDrain _ => true
  | .reconfigDark _ => true
  | .reconfigRelock _ => true
  | .partWrite _ => true
  | .seedWrite _ => true
  | .agreementWrite _ => true
  | .flgAccess t => t.wf
  | .registerWrite _ => true

end Sys2Proof
end

