-- ==== Sys2Proof/Decode.lean ====
section
/-!
DEFINITION. Decoding and encoding (Tables 2-4, 2-5, 2-7a; R69 step 1). `decodeRaw` reads the fields of the word's
format, refuses by name a reserved major, a selector past the last listed and a non-zero must-be-zero bit; `decode`
then makes the remaining encoding checks. The encoder after it is written from the same tables.
-/

namespace Sys2Proof

/-- Why a word is no instruction; each of them raises ILLEGAL (R69). -/
inductive DecodeError where
  /-- A reserved major opcode (Table 2-7a). -/
  | reserved
  /-- A selector value past the last listed (Table 2-7a). -/
  | selector
  /-- A must-be-zero bit is set (R7). -/
  | mustBeZero
  /-- A field value that Table 2-5 marks ILLEGAL. -/
  | field
  /-- A limit of the instruction's own definition is broken. -/
  | illFormed
  /-- Fewer bytes than the instruction has. -/
  | short
  deriving DecidableEq, Repr

/-- Must-be-zero bits (R7). -/
def mbz (w : W32) (bits : Nat) : Except DecodeError Unit :=
  if w &&& BitVec.ofNat 32 bits = 0 then .ok () else .error .mustBeZero
/-- VPACK and VUNPK: t must be 01 (R181, R182). -/
def typeF32 (w : W32) : Except DecodeError Unit :=
  if w.extractLsb' 0 2 = 1 then .ok () else .error .illFormed
/-- A G source field at bit lo (Table 2-5). -/
def gsrc (w : W32) (lo : Nat) : GSrc := ⟨w.getLsbD (lo + 4), w.extractLsb' lo 4⟩
/-- The guard field [4:0] (Table 2-5). -/
def guard (w : W32) : Guard := ⟨w.getLsbD 4, w.extractLsb' 0 4⟩
/-- A G destination in [25:21]: bit [4] of the field is 0 (Table 2-5). -/
def gdst (w : W32) : Except DecodeError (BitVec 4) :=
  if w.getLsbD 25 then .error .field else .ok (w.extractLsb' 21 4)
/-- The token register of format E in [20:16], a G destination (Table 2-4). -/
def tokenReg (w : W32) : Except DecodeError (BitVec 4) :=
  if w.getLsbD 20 then .error .field else .ok (w.extractLsb' 16 4)
/-- A five-bit field that names a predicate: bit [4] is 0 (Table 2-5, R85). -/
def qfield (w : W32) (lo : Nat) : Except DecodeError (BitVec 4) :=
  if w.getLsbD (lo + 4) then .error .field else .ok (w.extractLsb' lo 4)
/-- A five-bit field that names a mask or a group slot: bits [4:2] are 0 (R128, R145, R188). -/
def mask (w : W32) (lo : Nat) : Except DecodeError (BitVec 2) :=
  if w.extractLsb' (lo + 2) 3 = 0 then .ok (w.extractLsb' lo 2) else .error .field
/-- The element type of a vector word (Table 2-5). -/
def vtype (w : W32) (lo : Nat) : VType :=
  match wfield w lo 2 with
  | 0 => .i32
  | 1 => .f32
  | 2 => .bf16
  | _ => .f16
/-- The size field of format M (Table 3-11). -/
def memSize (w : W32) : MemSize :=
  match wfield w 14 2 with
  | 0 => .b
  | 1 => .h
  | 2 => .w
  | _ => .d
/-- The scope field (Table 2-6): 6 and 7 raise ILLEGAL. -/
def scope (w : W32) : Except DecodeError Scope :=
  match wfield w 5 3 with
  | 0 => .ok .thread
  | 1 => .ok .core
  | 2 => .ok .cluster
  | 3 => .ok .die
  | 4 => .ok .package
  | 5 => .ok .group
  | _ => .error .field

/-- Major 0x01, by its selector (Table 2-7a). -/
def decode01 (w : W32) : Except DecodeError Instr :=
  match wfield w 5 6 with
  | 0 => do let d ← gdst w; pure (.add d (gsrc w 16) (gsrc w 11) (guard w))
  | 1 => do let d ← gdst w; pure (.sub d (gsrc w 16) (gsrc w 11) (guard w))
  | 2 => do let d ← gdst w; pure (.mul d (gsrc w 16) (gsrc w 11) (guard w))
  | 3 => do let d ← gdst w; pure (.mulh d (gsrc w 16) (gsrc w 11) (guard w))
  | 4 => do let d ← gdst w; pure (.mulhu d (gsrc w 16) (gsrc w 11) (guard w))
  | 5 => do let d ← gdst w; pure (.div d (gsrc w 16) (gsrc w 11) (guard w))
  | 6 => do let d ← gdst w; pure (.divu d (gsrc w 16) (gsrc w 11) (guard w))
  | 7 => do let d ← gdst w; pure (.rem d (gsrc w 16) (gsrc w 11) (guard w))
  | 8 => do let d ← gdst w; pure (.remu d (gsrc w 16) (gsrc w 11) (guard w))
  | 9 => do let d ← gdst w; pure (.and d (gsrc w 16) (gsrc w 11) (guard w))
  | 10 => do let d ← gdst w; pure (.or d (gsrc w 16) (gsrc w 11) (guard w))
  | 11 => do let d ← gdst w; pure (.xor d (gsrc w 16) (gsrc w 11) (guard w))
  | 12 => do let d ← gdst w; pure (.andn d (gsrc w 16) (gsrc w 11) (guard w))
  | 13 => do let d ← gdst w; pure (.orn d (gsrc w 16) (gsrc w 11) (guard w))
  | 14 => do let d ← gdst w; pure (.shl d (gsrc w 16) (gsrc w 11) (guard w))
  | 15 => do let d ← gdst w; pure (.shr d (gsrc w 16) (gsrc w 11) (guard w))
  | 16 => do let d ← gdst w; pure (.sra d (gsrc w 16) (gsrc w 11) (guard w))
  | 17 => do let d ← gdst w; pure (.rol d (gsrc w 16) (gsrc w 11) (guard w))
  | 18 => do let d ← gdst w; pure (.ror d (gsrc w 16) (gsrc w 11) (guard w))
  | 19 => do let d ← gdst w; pure (.min d (gsrc w 16) (gsrc w 11) (guard w))
  | 20 => do let d ← gdst w; pure (.max d (gsrc w 16) (gsrc w 11) (guard w))
  | 21 => do let d ← gdst w; pure (.minu d (gsrc w 16) (gsrc w 11) (guard w))
  | 22 => do let d ← gdst w; pure (.maxu d (gsrc w 16) (gsrc w 11) (guard w))
  | 23 => do let d ← gdst w; pure (.lea1 d (gsrc w 16) (gsrc w 11) (guard w))
  | 24 => do let d ← gdst w; pure (.lea2 d (gsrc w 16) (gsrc w 11) (guard w))
  | 25 => do let d ← gdst w; pure (.lea3 d (gsrc w 16) (gsrc w 11) (guard w))
  | _ => .error .selector

/-- Major 0x02, by its selector (Table 2-7a). -/
def decode02 (w : W32) : Except DecodeError Instr :=
  match wfield w 5 6 with
  | 0 => do mbz w 0xf800; let d ← gdst w; pure (.clz d (gsrc w 16) (guard w))
  | 1 => do mbz w 0xf800; let d ← gdst w; pure (.ctz d (gsrc w 16) (guard w))
  | 2 => do mbz w 0xf800; let d ← gdst w; pure (.popc d (gsrc w 16) (guard w))
  | 3 => do mbz w 0xf800; let d ← gdst w; pure (.brev d (gsrc w 16) (guard w))
  | 4 => do mbz w 0xf800; let d ← gdst w; pure (.bswap d (gsrc w 16) (guard w))
  | 5 => do mbz w 0xf800; let d ← gdst w; pure (.sextb d (gsrc w 16) (guard w))
  | 6 => do mbz w 0xf800; let d ← gdst w; pure (.sexth d (gsrc w 16) (guard w))
  | 7 => do mbz w 0xf800; let d ← gdst w; pure (.sextw d (gsrc w 16) (guard w))
  | 8 => do mbz w 0xf800; let d ← gdst w; pure (.zextb d (gsrc w 16) (guard w))
  | 9 => do mbz w 0xf800; let d ← gdst w; pure (.zexth d (gsrc w 16) (guard w))
  | 10 => do mbz w 0xf800; let d ← gdst w; pure (.zextw d (gsrc w 16) (guard w))
  | 11 => do mbz w 0xf800; let d ← gdst w; pure (.abs d (gsrc w 16) (guard w))
  | 12 => do mbz w 0xf800; let d ← gdst w; pure (.neg d (gsrc w 16) (guard w))
  | 13 => do mbz w 0xf800; let d ← gdst w; pure (.not d (gsrc w 16) (guard w))
  | _ => .error .selector

/-- Major 0x03 (Table 2-7a). -/
def decode03 (w : W32) : Except DecodeError Instr :=
  do let d ← gdst w; pure (.ext d (gsrc w 16) (w.extractLsb' 10 6) (w.extractLsb' 5 5) (guard w))

/-- Major 0x04 (Table 2-7a). -/
def decode04 (w : W32) : Except DecodeError Instr :=
  do let d ← gdst w; pure (.extu d (gsrc w 16) (w.extractLsb' 10 6) (w.extractLsb' 5 5) (guard w))

/-- Major 0x05 (Table 2-7a). -/
def decode05 (w : W32) : Except DecodeError Instr :=
  do let d ← gdst w; pure (.ins d (gsrc w 16) (w.extractLsb' 10 6) (w.extractLsb' 5 5) (guard w))

/-- Major 0x06 (Table 2-7a). -/
def decode06 (w : W32) : Except DecodeError Instr :=
  do let d ← gdst w; pure (.addi d (gsrc w 16) (w.extractLsb' 5 11) (guard w))

/-- Major 0x07 (Table 2-7a). -/
def decode07 (w : W32) : Except DecodeError Instr :=
  do let d ← gdst w; pure (.andi d (gsrc w 16) (w.extractLsb' 5 11) (guard w))

/-- Major 0x08 (Table 2-7a). -/
def decode08 (w : W32) : Except DecodeError Instr :=
  do let d ← gdst w; pure (.ori d (gsrc w 16) (w.extractLsb' 5 11) (guard w))

/-- Major 0x09 (Table 2-7a). -/
def decode09 (w : W32) : Except DecodeError Instr :=
  do let d ← gdst w; pure (.xori d (gsrc w 16) (w.extractLsb' 5 11) (guard w))

/-- Major 0x0A (Table 2-7a). -/
def decode0A (w : W32) : Except DecodeError Instr :=
  do mbz w 0xf800; let d ← gdst w; pure (.shli d (gsrc w 16) (w.extractLsb' 5 6) (guard w))

/-- Major 0x0B (Table 2-7a). -/
def decode0B (w : W32) : Except DecodeError Instr :=
  do mbz w 0xf800; let d ← gdst w; pure (.shri d (gsrc w 16) (w.extractLsb' 5 6) (guard w))

/-- Major 0x0C (Table 2-7a). -/
def decode0C (w : W32) : Except DecodeError Instr :=
  do mbz w 0xf800; let d ← gdst w; pure (.srai d (gsrc w 16) (w.extractLsb' 5 6) (guard w))

/-- Major 0x0D (Table 2-7a). -/
def decode0D (w : W32) : Except DecodeError Instr :=
  do let d ← gdst w; pure (.muli d (gsrc w 16) (w.extractLsb' 5 11) (guard w))

/-- Major 0x0E, by its selector (Table 2-7a). -/
def decode0E (w w1 : W32) : Except DecodeError Instr :=
  match wfield w 16 5 with
  | 0 => do mbz w 0xffe0; let d ← gdst w; pure (.li d (guard w) w1)
  | 1 => do mbz w 0xffe0; let d ← gdst w; pure (.liu d (guard w) w1)
  | 2 => do mbz w 0xffe0; let d ← gdst w; pure (.lih d (guard w) w1)
  | 3 => do mbz w 0xffe0; let d ← gdst w; pure (.addl d (guard w) w1)
  | _ => .error .selector

/-- Major 0x0F, by its selector (Table 2-7a). -/
def decode0F (w : W32) : Except DecodeError Instr :=
  match wfield w 5 6 with
  | 0 => do let d ← qfield w 21; pure (.cmpeq d (gsrc w 16) (gsrc w 11) (guard w))
  | 1 => do let d ← qfield w 21; pure (.cmpne d (gsrc w 16) (gsrc w 11) (guard w))
  | 2 => do let d ← qfield w 21; pure (.cmplt d (gsrc w 16) (gsrc w 11) (guard w))
  | 3 => do let d ← qfield w 21; pure (.cmple d (gsrc w 16) (gsrc w 11) (guard w))
  | 4 => do let d ← qfield w 21; pure (.cmpltu d (gsrc w 16) (gsrc w 11) (guard w))
  | 5 => do let d ← qfield w 21; pure (.cmpleu d (gsrc w 16) (gsrc w 11) (guard w))
  | 6 => do let d ← qfield w 21; pure (.tstz d (gsrc w 16) (gsrc w 11) (guard w))
  | 7 => do let d ← qfield w 21; pure (.tstnz d (gsrc w 16) (gsrc w 11) (guard w))
  | _ => .error .selector

/-- Major 0x10, by its selector (Table 2-7a). -/
def decode10 (w : W32) : Except DecodeError Instr :=
  match wfield w 5 3 with
  | 0 => do let d ← qfield w 21; pure (.cmpeqi d (gsrc w 16) (w.extractLsb' 8 8) (guard w))
  | 1 => do let d ← qfield w 21; pure (.cmpnei d (gsrc w 16) (w.extractLsb' 8 8) (guard w))
  | 2 => do let d ← qfield w 21; pure (.cmplti d (gsrc w 16) (w.extractLsb' 8 8) (guard w))
  | 3 => do let d ← qfield w 21; pure (.cmplei d (gsrc w 16) (w.extractLsb' 8 8) (guard w))
  | 4 => do let d ← qfield w 21; pure (.cmpltui d (gsrc w 16) (w.extractLsb' 8 8) (guard w))
  | 5 => do let d ← qfield w 21; pure (.cmpleui d (gsrc w 16) (w.extractLsb' 8 8) (guard w))
  | 6 => do let d ← qfield w 21; pure (.cmpgti d (gsrc w 16) (w.extractLsb' 8 8) (guard w))
  | _ => do let d ← qfield w 21; pure (.cmpgtui d (gsrc w 16) (w.extractLsb' 8 8) (guard w))

/-- Major 0x11, by its selector (Table 2-7a). -/
def decode11 (w : W32) : Except DecodeError Instr :=
  match wfield w 5 6 with
  | 0 => do let d ← qfield w 21; let a ← qfield w 16; let b ← qfield w 11; pure (.qand d a b (guard w))
  | 1 => do let d ← qfield w 21; let a ← qfield w 16; let b ← qfield w 11; pure (.qor d a b (guard w))
  | 2 => do let d ← qfield w 21; let a ← qfield w 16; let b ← qfield w 11; pure (.qxor d a b (guard w))
  | 3 => do let d ← qfield w 21; let a ← qfield w 16; let b ← qfield w 11; pure (.qandn d a b (guard w))
  | 4 => do mbz w 0xf800; let d ← qfield w 21; pure (.qmovg d (gsrc w 16) (guard w))
  | 5 => do mbz w 0x1ff800; let d ← gdst w; pure (.getq d (guard w))
  | 6 => do mbz w 0x3e0f800; pure (.setq (gsrc w 16) (guard w))
  | _ => .error .selector

/-- Major 0x12, by its selector (Table 2-7a). -/
def decode12 (w : W32) : Except DecodeError Instr :=
  match wfield w 9 2 with
  | 0 => do let d ← gdst w; pure (.sel d (gsrc w 16) (gsrc w 11) (w.extractLsb' 5 4) (guard w))
  | _ => .error .selector

/-- Major 0x13 (Table 2-7a). -/
def decode13 (w : W32) : Except DecodeError Instr :=
  do pure (.br (w.extractLsb' 5 21) (guard w))

/-- Major 0x14 (Table 2-7a). -/
def decode14 (w : W32) : Except DecodeError Instr :=
  do pure (.call (w.extractLsb' 5 21) (guard w))

/-- Major 0x15, by its selector (Table 2-7a). -/
def decode15 (w : W32) : Except DecodeError Instr :=
  match wfield w 5 6 with
  | 0 => do mbz w 0x3e0f800; pure (.jmp (gsrc w 16) (guard w))
  | 1 => do mbz w 0xf800; let d ← gdst w; pure (.jcall d (gsrc w 16) (guard w))
  | 2 => do mbz w 0x3e0f800; pure (.ret (gsrc w 16) (guard w))
  | 3 => do mbz w 0x3fff800; pure (.exit (guard w))
  | _ => .error .selector

/-- Major 0x16 (Table 2-7a). -/
def decode16 (w : W32) : Except DecodeError Instr :=
  do mbz w 0x3ff0000; pure (.trap (w.extractLsb' 5 11) (guard w))

/-- Major 0x17, by its selector (Table 2-7a). -/
def decode17 (w : W32) : Except DecodeError Instr :=
  match wfield w 5 6 with
  | 0 => do mbz w 0x3fff800; pure (.rft (guard w))
  | 1 => do mbz w 0x3e00000; pure (.sys (gsrc w 16) (gsrc w 11) (guard w))
  | 2 => do mbz w 0x3fff800; pure (.brk (guard w))
  | 3 => do mbz w 0x3e00000; pure (.tlbi (gsrc w 16) (gsrc w 11) (guard w))
  | _ => .error .selector

/-- Major 0x18 (Table 2-7a). -/
def decode18 (w : W32) : Except DecodeError Instr :=
  do mbz w 0x1f0000; let d ← gdst w; pure (.srd d (w.extractLsb' 5 11) (guard w))

/-- Major 0x19 (Table 2-7a). -/
def decode19 (w : W32) : Except DecodeError Instr :=
  do mbz w 0x3e00000; pure (.swr (gsrc w 16) (w.extractLsb' 5 11) (guard w))

/-- Major 0x1A (Table 2-7a). -/
def decode1A (w : W32) : Except DecodeError Instr :=
  do pure (.fork (gsrc w 21) (w.extractLsb' 5 16) (guard w))

/-- Major 0x1B, by its selector (Table 2-7a). -/
def decode1B (w : W32) : Except DecodeError Instr :=
  match wfield w 5 6 with
  | 0 => do mbz w 0x3e0f800; pure (.jinit (gsrc w 16) (guard w))
  | 1 => do mbz w 0x3e0f800; pure (.join (gsrc w 16) (guard w))
  | _ => .error .selector

/-- Major 0x1C, by its selector (Table 2-7a). -/
def decode1C (w : W32) : Except DecodeError Instr :=
  match wfield w 5 2 with
  | 0 => do mbz w 0x3e00000; pure (.waitf (gsrc w 16) (gsrc w 11) (w.extractLsb' 7 4) (guard w))
  | 1 => do pure (.waitm (gsrc w 21) (gsrc w 16) (gsrc w 11) (w.extractLsb' 7 4) (guard w))
  | 2 => do mbz w 0x3e00000; pure (.waitt (gsrc w 16) (gsrc w 11) (w.extractLsb' 7 4) (guard w))
  | _ => do mbz w 0x3e00000; pure (.waitid (gsrc w 16) (gsrc w 11) (w.extractLsb' 7 4) (guard w))

/-- Major 0x1D, by its selector (Table 2-7a). -/
def decode1D (w : W32) : Except DecodeError Instr :=
  match wfield w 5 2 with
  | 0 => do mbz w 0x3e00000; let j ← mask w 16; pure (.bar j (gsrc w 11) (w.extractLsb' 7 4) (guard w))
  | 1 => do let d ← gdst w; pure (.recvw d (gsrc w 16) (gsrc w 11) (w.extractLsb' 7 4) (guard w))
  | 2 => do let d ← gdst w; pure (.llock d (gsrc w 16) (gsrc w 11) (w.extractLsb' 7 4) (guard w))
  | _ => .error .selector

/-- Major 0x1E, by its selector (Table 2-7a). -/
def decode1E (w : W32) : Except DecodeError Instr :=
  match wfield w 5 2 with
  | 0 => do let d ← gdst w; pure (.lrange d (gsrc w 16) (gsrc w 11) (w.extractLsb' 7 4) (guard w))
  | 1 => do let d ← gdst w; pure (.lgroup d (gsrc w 16) (gsrc w 11) (w.extractLsb' 7 4) (guard w))
  | 2 => do let d ← gdst w; pure (.lpath d (gsrc w 16) (gsrc w 11) (w.extractLsb' 7 4) (guard w))
  | _ => do let d ← gdst w; pure (.lctx d (gsrc w 16) (gsrc w 11) (w.extractLsb' 7 4) (guard w))

/-- Major 0x1F, by its selector (Table 2-7a). -/
def decode1F (w : W32) : Except DecodeError Instr :=
  match wfield w 5 6 with
  | 0 => do let d ← gdst w; pure (.rnw d (gsrc w 16) (gsrc w 11) (guard w))
  | 1 => do mbz w 0xf800; let d ← gdst w; pure (.life d (gsrc w 16) (guard w))
  | 2 => do let d ← gdst w; pure (.linfo d (gsrc w 16) (gsrc w 11) (guard w))
  | 3 => do mbz w 0xf800; let j ← mask w 21; pure (.gjoin j (gsrc w 16) (guard w))
  | 4 => do let d ← gdst w; pure (.bind d (gsrc w 16) (gsrc w 11) (guard w))
  | _ => .error .selector

/-- Major 0x20 (Table 2-7a). -/
def decode20 (w : W32) : Except DecodeError Instr :=
  do let d ← gdst w; pure (.ld d (gsrc w 16) (memSize w) (w.getLsbD 13) (w.extractLsb' 5 8) (guard w))

/-- Major 0x21 (Table 2-7a). -/
def decode21 (w : W32) : Except DecodeError Instr :=
  do mbz w 0x2000; pure (.st (gsrc w 21) (gsrc w 16) (memSize w) (w.extractLsb' 5 8) (guard w))

/-- Major 0x22, by its selector (Table 2-7a). -/
def decode22 (w : W32) : Except DecodeError Instr :=
  match wfield w 5 2 with
  | 0 => do let d ← gdst w; pure (.ldsw d (gsrc w 16) (gsrc w 11) (w.extractLsb' 7 4) (guard w))
  | 1 => do let d ← gdst w; pure (.ldsd d (gsrc w 16) (gsrc w 11) (w.extractLsb' 7 4) (guard w))
  | 2 => do let d ← gdst w; pure (.ldcw d (gsrc w 16) (gsrc w 11) (w.extractLsb' 7 4) (guard w))
  | _ => do let d ← gdst w; pure (.ldcd d (gsrc w 16) (gsrc w 11) (w.extractLsb' 7 4) (guard w))

/-- Major 0x23, by its selector (Table 2-7a). -/
def decode23 (w : W32) : Except DecodeError Instr :=
  match wfield w 5 6 with
  | 0 => do mbz w 0x3e00000; pure (.stfw (gsrc w 16) (gsrc w 11) (guard w))
  | 1 => do mbz w 0x3e00000; pure (.stfd (gsrc w 16) (gsrc w 11) (guard w))
  | 2 => do mbz w 0x3e0f800; pure (.sete (gsrc w 16) (guard w))
  | 3 => do mbz w 0x3e0f800; pure (.setf (gsrc w 16) (guard w))
  | _ => .error .selector

/-- Major 0x24, by its selector (Table 2-7a). -/
def decode24 (w : W32) : Except DecodeError Instr :=
  match wfield w 6 5 with
  | 0 => do let d ← gdst w; pure (.aadd d (gsrc w 16) (gsrc w 11) (w.getLsbD 5) (guard w))
  | 1 => do let d ← gdst w; pure (.aand d (gsrc w 16) (gsrc w 11) (w.getLsbD 5) (guard w))
  | 2 => do let d ← gdst w; pure (.aor d (gsrc w 16) (gsrc w 11) (w.getLsbD 5) (guard w))
  | 3 => do let d ← gdst w; pure (.axor d (gsrc w 16) (gsrc w 11) (w.getLsbD 5) (guard w))
  | 4 => do let d ← gdst w; pure (.amin d (gsrc w 16) (gsrc w 11) (w.getLsbD 5) (guard w))
  | 5 => do let d ← gdst w; pure (.amax d (gsrc w 16) (gsrc w 11) (w.getLsbD 5) (guard w))
  | 6 => do let d ← gdst w; pure (.aminu d (gsrc w 16) (gsrc w 11) (w.getLsbD 5) (guard w))
  | 7 => do let d ← gdst w; pure (.amaxu d (gsrc w 16) (gsrc w 11) (w.getLsbD 5) (guard w))
  | 8 => do let d ← gdst w; pure (.axchg d (gsrc w 16) (gsrc w 11) (w.getLsbD 5) (guard w))
  | 9 => do let d ← gdst w; pure (.acas d (gsrc w 16) (gsrc w 11) (w.getLsbD 5) (guard w))
  | _ => .error .selector

/-- Major 0x25, by its selector (Table 2-7a). -/
def decode25 (w : W32) : Except DecodeError Instr :=
  match wfield w 6 5 with
  | 0 => do mbz w 0x3e00000; pure (.redadd (gsrc w 16) (gsrc w 11) (w.getLsbD 5) (guard w))
  | 1 => do mbz w 0x3e00000; pure (.redand (gsrc w 16) (gsrc w 11) (w.getLsbD 5) (guard w))
  | 2 => do mbz w 0x3e00000; pure (.redor (gsrc w 16) (gsrc w 11) (w.getLsbD 5) (guard w))
  | 3 => do mbz w 0x3e00000; pure (.redxor (gsrc w 16) (gsrc w 11) (w.getLsbD 5) (guard w))
  | 4 => do mbz w 0x3e00000; pure (.redmin (gsrc w 16) (gsrc w 11) (w.getLsbD 5) (guard w))
  | 5 => do mbz w 0x3e00000; pure (.redmax (gsrc w 16) (gsrc w 11) (w.getLsbD 5) (guard w))
  | 6 => do mbz w 0x3e00000; pure (.redminu (gsrc w 16) (gsrc w 11) (w.getLsbD 5) (guard w))
  | 7 => do mbz w 0x3e00000; pure (.redmaxu (gsrc w 16) (gsrc w 11) (w.getLsbD 5) (guard w))
  | _ => .error .selector

/-- Major 0x26, by its selector (Table 2-7a). -/
def decode26 (w : W32) : Except DecodeError Instr :=
  match wfield w 5 6 with
  | 0 => do pure (.stflw (gsrc w 21) (gsrc w 16) (gsrc w 11) (guard w))
  | 1 => do pure (.stfld (gsrc w 21) (gsrc w 16) (gsrc w 11) (guard w))
  | _ => .error .selector

/-- Major 0x27, by its selector (Table 2-7a). -/
def decode27 (w : W32) : Except DecodeError Instr :=
  match wfield w 8 3 with
  | 0 => do mbz w 0x3fff800; let s ← scope w; pure (.fence s (guard w))
  | 1 => do mbz w 0x3fff800; let s ← scope w; pure (.fencesc s (guard w))
  | 2 => do mbz w 0x3e0f800; let s ← scope w; pure (.rel (gsrc w 16) s (guard w))
  | _ => .error .selector

/-- Major 0x30, by its selector (Table 2-7a). -/
def decode30 (w : W32) : Except DecodeError Instr :=
  match wfield w 5 6 with
  | 0 => do pure (.vadd (w.extractLsb' 21 5) (w.extractLsb' 16 5) (w.extractLsb' 11 5) (w.extractLsb' 3 2) (w.getLsbD 2) (vtype w 0))
  | 1 => do pure (.vsub (w.extractLsb' 21 5) (w.extractLsb' 16 5) (w.extractLsb' 11 5) (w.extractLsb' 3 2) (w.getLsbD 2) (vtype w 0))
  | 2 => do pure (.vmul (w.extractLsb' 21 5) (w.extractLsb' 16 5) (w.extractLsb' 11 5) (w.extractLsb' 3 2) (w.getLsbD 2) (vtype w 0))
  | 3 => do pure (.vmin (w.extractLsb' 21 5) (w.extractLsb' 16 5) (w.extractLsb' 11 5) (w.extractLsb' 3 2) (w.getLsbD 2) (vtype w 0))
  | 4 => do pure (.vmax (w.extractLsb' 21 5) (w.extractLsb' 16 5) (w.extractLsb' 11 5) (w.extractLsb' 3 2) (w.getLsbD 2) (vtype w 0))
  | 5 => do mbz w 0xf800; pure (.vabs (w.extractLsb' 21 5) (w.extractLsb' 16 5) (w.extractLsb' 3 2) (w.getLsbD 2) (vtype w 0))
  | 6 => do mbz w 0xf800; pure (.vneg (w.extractLsb' 21 5) (w.extractLsb' 16 5) (w.extractLsb' 3 2) (w.getLsbD 2) (vtype w 0))
  | 7 => do pure (.vand (w.extractLsb' 21 5) (w.extractLsb' 16 5) (w.extractLsb' 11 5) (w.extractLsb' 3 2) (w.getLsbD 2) (vtype w 0))
  | 8 => do pure (.vor (w.extractLsb' 21 5) (w.extractLsb' 16 5) (w.extractLsb' 11 5) (w.extractLsb' 3 2) (w.getLsbD 2) (vtype w 0))
  | 9 => do pure (.vxor (w.extractLsb' 21 5) (w.extractLsb' 16 5) (w.extractLsb' 11 5) (w.extractLsb' 3 2) (w.getLsbD 2) (vtype w 0))
  | 10 => do pure (.vandn (w.extractLsb' 21 5) (w.extractLsb' 16 5) (w.extractLsb' 11 5) (w.extractLsb' 3 2) (w.getLsbD 2) (vtype w 0))
  | 11 => do mbz w 0x3; pure (.vshl (w.extractLsb' 21 5) (w.extractLsb' 16 5) (w.extractLsb' 11 5) (w.extractLsb' 3 2) (w.getLsbD 2))
  | 12 => do mbz w 0x3; pure (.vshr (w.extractLsb' 21 5) (w.extractLsb' 16 5) (w.extractLsb' 11 5) (w.extractLsb' 3 2) (w.getLsbD 2))
  | 13 => do mbz w 0x3; pure (.vsra (w.extractLsb' 21 5) (w.extractLsb' 16 5) (w.extractLsb' 11 5) (w.extractLsb' 3 2) (w.getLsbD 2))
  | 14 => do mbz w 0xf800; pure (.vmov (w.extractLsb' 21 5) (w.extractLsb' 16 5) (w.extractLsb' 3 2) (w.getLsbD 2) (vtype w 0))
  | 15 => do pure (.vsel (w.extractLsb' 21 5) (w.extractLsb' 16 5) (w.extractLsb' 11 5) (w.extractLsb' 3 2) (w.getLsbD 2) (vtype w 0))
  | 16 => do let k ← mask w 21; pure (.vcmpeq k (w.extractLsb' 16 5) (w.extractLsb' 11 5) (w.extractLsb' 3 2) (w.getLsbD 2) (vtype w 0))
  | 17 => do let k ← mask w 21; pure (.vcmpne k (w.extractLsb' 16 5) (w.extractLsb' 11 5) (w.extractLsb' 3 2) (w.getLsbD 2) (vtype w 0))
  | 18 => do let k ← mask w 21; pure (.vcmplt k (w.extractLsb' 16 5) (w.extractLsb' 11 5) (w.extractLsb' 3 2) (w.getLsbD 2) (vtype w 0))
  | 19 => do let k ← mask w 21; pure (.vcmple k (w.extractLsb' 16 5) (w.extractLsb' 11 5) (w.extractLsb' 3 2) (w.getLsbD 2) (vtype w 0))
  | _ => .error .selector

/-- Major 0x31, by its selector (Table 2-7a). -/
def decode31 (w : W32) : Except DecodeError Instr :=
  match wfield w 0 1 with
  | 0 => do pure (.vfma (w.extractLsb' 21 5) (w.extractLsb' 16 5) (w.extractLsb' 11 5) (w.extractLsb' 6 5) (w.extractLsb' 4 2) (w.getLsbD 3) (vtype w 1))
  | _ => do pure (.vfms (w.extractLsb' 21 5) (w.extractLsb' 16 5) (w.extractLsb' 11 5) (w.extractLsb' 6 5) (w.extractLsb' 4 2) (w.getLsbD 3) (vtype w 1))

/-- Major 0x32, by its selector (Table 2-7a). -/
def decode32 (w : W32) : Except DecodeError Instr :=
  match wfield w 5 6 with
  | 0 => do pure (.vadds (w.extractLsb' 21 5) (w.extractLsb' 16 5) (gsrc w 11) (w.extractLsb' 3 2) (w.getLsbD 2) (vtype w 0))
  | 1 => do pure (.vsubs (w.extractLsb' 21 5) (w.extractLsb' 16 5) (gsrc w 11) (w.extractLsb' 3 2) (w.getLsbD 2) (vtype w 0))
  | 2 => do pure (.vmuls (w.extractLsb' 21 5) (w.extractLsb' 16 5) (gsrc w 11) (w.extractLsb' 3 2) (w.getLsbD 2) (vtype w 0))
  | 3 => do pure (.vmins (w.extractLsb' 21 5) (w.extractLsb' 16 5) (gsrc w 11) (w.extractLsb' 3 2) (w.getLsbD 2) (vtype w 0))
  | 4 => do pure (.vmaxs (w.extractLsb' 21 5) (w.extractLsb' 16 5) (gsrc w 11) (w.extractLsb' 3 2) (w.getLsbD 2) (vtype w 0))
  | 5 => do mbz w 0x3; pure (.vshls (w.extractLsb' 21 5) (w.extractLsb' 16 5) (gsrc w 11) (w.extractLsb' 3 2) (w.getLsbD 2))
  | 6 => do mbz w 0x3; pure (.vshrs (w.extractLsb' 21 5) (w.extractLsb' 16 5) (gsrc w 11) (w.extractLsb' 3 2) (w.getLsbD 2))
  | 7 => do mbz w 0x3; pure (.vsras (w.extractLsb' 21 5) (w.extractLsb' 16 5) (gsrc w 11) (w.extractLsb' 3 2) (w.getLsbD 2))
  | 8 => do let k ← mask w 21; pure (.vcmpeqs k (w.extractLsb' 16 5) (gsrc w 11) (w.extractLsb' 3 2) (w.getLsbD 2) (vtype w 0))
  | 9 => do let k ← mask w 21; pure (.vcmplts k (w.extractLsb' 16 5) (gsrc w 11) (w.extractLsb' 3 2) (w.getLsbD 2) (vtype w 0))
  | 10 => do mbz w 0x1f0000; pure (.vbcast (w.extractLsb' 21 5) (gsrc w 11) (w.extractLsb' 3 2) (w.getLsbD 2) (vtype w 0))
  | _ => .error .selector

/-- Major 0x33, by its selector (Table 2-7a). -/
def decode33 (w : W32) : Except DecodeError Instr :=
  match wfield w 5 6 with
  | 0 => do mbz w 0xf800; pure (.vrcp (w.extractLsb' 21 5) (w.extractLsb' 16 5) (w.extractLsb' 3 2) (w.getLsbD 2) (vtype w 0))
  | 1 => do mbz w 0xf800; pure (.vrsq (w.extractLsb' 21 5) (w.extractLsb' 16 5) (w.extractLsb' 3 2) (w.getLsbD 2) (vtype w 0))
  | 2 => do mbz w 0xf800; pure (.vsqrt (w.extractLsb' 21 5) (w.extractLsb' 16 5) (w.extractLsb' 3 2) (w.getLsbD 2) (vtype w 0))
  | 3 => do mbz w 0xf800; pure (.vexp2 (w.extractLsb' 21 5) (w.extractLsb' 16 5) (w.extractLsb' 3 2) (w.getLsbD 2) (vtype w 0))
  | 4 => do mbz w 0xf800; pure (.vlog2 (w.extractLsb' 21 5) (w.extractLsb' 16 5) (w.extractLsb' 3 2) (w.getLsbD 2) (vtype w 0))
  | _ => .error .selector

/-- Major 0x34, by its selector (Table 2-7a). -/
def decode34 (w : W32) : Except DecodeError Instr :=
  match wfield w 5 6 with
  | 0 => do pure (.vcvt (w.extractLsb' 21 5) (w.extractLsb' 16 5) (w.extractLsb' 11 5) (w.extractLsb' 3 2) (w.getLsbD 2) (vtype w 0))
  | _ => .error .selector

/-- Major 0x35, by its selector (Table 2-7a). -/
def decode35 (w : W32) : Except DecodeError Instr :=
  match wfield w 5 6 with
  | 0 => do mbz w 0x18; typeF32 w; pure (.vpack (w.extractLsb' 21 5) (w.extractLsb' 16 5) (w.extractLsb' 11 5) (w.getLsbD 2))
  | 1 => do mbz w 0xc018; typeF32 w; pure (.vunpk (w.extractLsb' 21 5) (w.extractLsb' 16 5) (w.extractLsb' 11 3) (w.getLsbD 2))
  | 2 => do pure (.vscale (w.extractLsb' 21 5) (w.extractLsb' 16 5) (w.extractLsb' 11 5) (w.extractLsb' 3 2) (w.getLsbD 2) (vtype w 0))
  | _ => .error .selector

/-- Major 0x36, by its selector (Table 2-7a). -/
def decode36 (w : W32) : Except DecodeError Instr :=
  match wfield w 5 6 with
  | 0 => do pure (.vred (w.extractLsb' 21 5) (w.extractLsb' 16 5) (w.extractLsb' 11 5) (w.extractLsb' 3 2) (w.getLsbD 2) (vtype w 0))
  | 1 => do pure (.vscan (w.extractLsb' 21 5) (w.extractLsb' 16 5) (w.extractLsb' 11 5) (w.extractLsb' 3 2) (w.getLsbD 2) (vtype w 0))
  | 2 => do pure (.vperm (w.extractLsb' 21 5) (w.extractLsb' 16 5) (w.extractLsb' 11 5) (w.extractLsb' 3 2) (w.getLsbD 2) (vtype w 0))
  | 3 => do mbz w 0x18; let d ← gdst w; pure (.vextr d (w.extractLsb' 16 5) (gsrc w 11) (w.getLsbD 2) (vtype w 0))
  | 4 => do mbz w 0x4; pure (.vins (w.extractLsb' 21 5) (gsrc w 16) (gsrc w 11) (w.extractLsb' 3 2) (vtype w 0))
  | 5 => do pure (.vrot (w.extractLsb' 21 5) (w.extractLsb' 16 5) (gsrc w 11) (w.extractLsb' 3 2) (w.getLsbD 2) (vtype w 0))
  | _ => .error .selector

/-- Major 0x37, by its selector (Table 2-7a). -/
def decode37 (w : W32) : Except DecodeError Instr :=
  match wfield w 5 6 with
  | 0 => do mbz w 0x1b; let k ← mask w 21; let a ← mask w 16; let b ← mask w 11; pure (.mand k a b (w.getLsbD 2))
  | 1 => do mbz w 0x1b; let k ← mask w 21; let a ← mask w 16; let b ← mask w 11; pure (.mor k a b (w.getLsbD 2))
  | 2 => do mbz w 0x1b; let k ← mask w 21; let a ← mask w 16; let b ← mask w 11; pure (.mxor k a b (w.getLsbD 2))
  | 3 => do mbz w 0x1b; let k ← mask w 21; let a ← mask w 16; let b ← mask w 11; pure (.mandn k a b (w.getLsbD 2))
  | 4 => do mbz w 0xf81b; let k ← mask w 21; let a ← mask w 16; pure (.mnot k a (w.getLsbD 2))
  | 5 => do mbz w 0xf81b; let d ← gdst w; let a ← mask w 16; pure (.mpopc d a (w.getLsbD 2))
  | 6 => do mbz w 0xf81b; let d ← gdst w; let a ← mask w 16; pure (.mfirst d a (w.getLsbD 2))
  | 7 => do mbz w 0xf81f; let k ← mask w 21; pure (.mset k (gsrc w 16))
  | _ => .error .selector

/-- Major 0x38 (Table 2-7a). -/
def decode38 (w : W32) : Except DecodeError Instr :=
  do mbz w 0xf; pure (.vld (w.extractLsb' 21 5) (gsrc w 16) (w.extractLsb' 7 9) (w.extractLsb' 5 2) (w.getLsbD 4))

/-- Major 0x39 (Table 2-7a). -/
def decode39 (w : W32) : Except DecodeError Instr :=
  do mbz w 0xf; pure (.vst (w.extractLsb' 21 5) (gsrc w 16) (w.extractLsb' 7 9) (w.extractLsb' 5 2) (w.getLsbD 4))

/-- Major 0x3A, by its selector (Table 2-7a). -/
def decode3A (w : W32) : Except DecodeError Instr :=
  match wfield w 5 6 with
  | 0 => do mbz w 0x3; pure (.vldt (w.extractLsb' 21 5) (gsrc w 16) (gsrc w 11) (w.extractLsb' 3 2) (w.getLsbD 2))
  | 1 => do mbz w 0x3; pure (.vstt (w.extractLsb' 21 5) (gsrc w 16) (gsrc w 11) (w.extractLsb' 3 2) (w.getLsbD 2))
  | 2 => do mbz w 0x3; pure (.vldx (w.extractLsb' 21 5) (gsrc w 16) (w.extractLsb' 11 5) (w.extractLsb' 3 2) (w.getLsbD 2))
  | 3 => do mbz w 0x3; pure (.vstx (w.extractLsb' 21 5) (gsrc w 16) (w.extractLsb' 11 5) (w.extractLsb' 3 2) (w.getLsbD 2))
  | 4 => do mbz w 0x3; pure (.vstfl (w.extractLsb' 21 5) (gsrc w 16) (gsrc w 11) (w.extractLsb' 3 2) (w.getLsbD 2))
  | _ => .error .selector

/-- Major 0x3B, by its selector (Table 2-7a). -/
def decode3B (w w1 : W32) : Except DecodeError Instr :=
  match wfield w 21 5 with
  | 0 => do mbz w 0x400; let d ← tokenReg w; pure (.mma d (gsrc w 11) (gsrc w 5) w1 (guard w))
  | 1 => do mbz w 0xffe0; let d ← tokenReg w; pure (.mwld d w1 (guard w))
  | 2 => do mbz w 0xffe0; let d ← tokenReg w; pure (.mzero d w1 (guard w))
  | 3 => do mbz w 0x400; let d ← tokenReg w; pure (.mdrain d (gsrc w 11) (gsrc w 5) w1 (guard w))
  | 4 => do mbz w 0x400; let d ← tokenReg w; pure (.magr d (gsrc w 11) (gsrc w 5) w1 (guard w))
  | 5 => do mbz w 0xffe0; let d ← tokenReg w; pure (.mstat d w1 (guard w))
  | 6 => do mbz w 0xffe0; let d ← tokenReg w; pure (.mtest d w1 (guard w))
  | _ => .error .selector

/-- Major 0x3C, by its selector (Table 2-7a). -/
def decode3C (w w1 : W32) : Except DecodeError Instr :=
  match wfield w 21 5 with
  | 0 => do mbz w 0x400; let d ← tokenReg w; pure (.cpy d (gsrc w 11) (gsrc w 5) w1 (guard w))
  | 1 => do mbz w 0x400; let d ← tokenReg w; pure (.chain d (gsrc w 11) (gsrc w 5) w1 (guard w))
  | 2 => do mbz w 0xffe0; let d ← tokenReg w; pure (.cstat d w1 (guard w))
  | _ => .error .selector

/-- Major 0x3D, by its selector (Table 2-7a). -/
def decode3D (w w1 : W32) : Except DecodeError Instr :=
  match wfield w 21 5 with
  | 0 => do mbz w 0x400; let d ← tokenReg w; pure (.send d (gsrc w 11) (gsrc w 5) w1 (guard w))
  | 1 => do mbz w 0x400; let d ← tokenReg w; pure (.post d (gsrc w 11) (gsrc w 5) w1 (guard w))
  | 2 => do mbz w 0x400; let d ← tokenReg w; pure (.rring d (gsrc w 11) (gsrc w 5) w1 (guard w))
  | 3 => do mbz w 0x400; let d ← tokenReg w; pure (.rprobe d (gsrc w 11) (gsrc w 5) w1 (guard w))
  | _ => .error .selector

/-- Major 0x3E, by its selector (Table 2-7a). -/
def decode3E (w w1 : W32) : Except DecodeError Instr :=
  match wfield w 21 5 with
  | 0 => do mbz w 0x400; let d ← tokenReg w; pure (.launch d (gsrc w 11) (gsrc w 5) w1 (guard w))
  | 1 => do mbz w 0x7e0; let d ← tokenReg w; pure (.lstat d (gsrc w 11) w1 (guard w))
  | 2 => do mbz w 0x7e0; let d ← tokenReg w; pure (.preempt d (gsrc w 11) w1 (guard w))
  | 3 => do mbz w 0x7e0; let d ← tokenReg w; pure (.signal d (gsrc w 11) w1 (guard w))
  | _ => .error .selector

/-- The fields of a word by its major opcode (Table 2-7a); w1 is the second word of a 64-bit instruction. -/
def decodeRaw (w w1 : W32) : Except DecodeError Instr :=
  match wfield w 26 6 with
  | 0x01 => decode01 w
  | 0x02 => decode02 w
  | 0x03 => decode03 w
  | 0x04 => decode04 w
  | 0x05 => decode05 w
  | 0x06 => decode06 w
  | 0x07 => decode07 w
  | 0x08 => decode08 w
  | 0x09 => decode09 w
  | 0x0A => decode0A w
  | 0x0B => decode0B w
  | 0x0C => decode0C w
  | 0x0D => decode0D w
  | 0x0E => decode0E w w1
  | 0x0F => decode0F w
  | 0x10 => decode10 w
  | 0x11 => decode11 w
  | 0x12 => decode12 w
  | 0x13 => decode13 w
  | 0x14 => decode14 w
  | 0x15 => decode15 w
  | 0x16 => decode16 w
  | 0x17 => decode17 w
  | 0x18 => decode18 w
  | 0x19 => decode19 w
  | 0x1A => decode1A w
  | 0x1B => decode1B w
  | 0x1C => decode1C w
  | 0x1D => decode1D w
  | 0x1E => decode1E w
  | 0x1F => decode1F w
  | 0x20 => decode20 w
  | 0x21 => decode21 w
  | 0x22 => decode22 w
  | 0x23 => decode23 w
  | 0x24 => decode24 w
  | 0x25 => decode25 w
  | 0x26 => decode26 w
  | 0x27 => decode27 w
  | 0x30 => decode30 w
  | 0x31 => decode31 w
  | 0x32 => decode32 w
  | 0x33 => decode33 w
  | 0x34 => decode34 w
  | 0x35 => decode35 w
  | 0x36 => decode36 w
  | 0x37 => decode37 w
  | 0x38 => decode38 w
  | 0x39 => decode39 w
  | 0x3A => decode3A w
  | 0x3B => decode3B w w1
  | 0x3C => decode3C w w1
  | 0x3D => decode3D w w1
  | 0x3E => decode3E w w1
  | _ => .error .reserved

/-- Step 1 of R69, apart from the position checks of R55: the instruction of a word and its second word, or why the word
raises ILLEGAL. -/
def decode (w w1 : W32) : Except DecodeError Instr :=
  match decodeRaw w w1 with
  | .error e => .error e
  | .ok i => if i.wf then .ok i else .error .illFormed

/-- The 64-bit instructions are exactly those of format L and format E (R68). -/
def isWide (w : W32) : Bool :=
  decide (wfield w 26 6 = 0x0E) || (decide (0x3B ≤ wfield w 26 6) && decide (wfield w 26 6 ≤ 0x3E))

/-- Words of an instruction (R68). -/
def wordCount (w : W32) : Nat := if isWide w then 2 else 1

/-- Four bytes as a little-endian word (R7). -/
def leWord (b0 b1 b2 b3 : Byte) : W32 := b3 ++ b2 ++ b1 ++ b0

/-- The instruction at the front of a list of bytes, as they lie in memory from the lowest address up. -/
def decodeBytes : List Byte → Except DecodeError Instr
  | b0 :: b1 :: b2 :: b3 :: rest =>
    let w := leWord b0 b1 b2 b3
    if isWide w then
      match rest with
      | c0 :: c1 :: c2 :: c3 :: _ => decode w (leWord c0 c1 c2 c3)
      | _ => .error .short
    else decode w 0
  | _ => .error .short

/-- Byte i of a number whose bits are numbered from 0. -/
def byteOf (w i : Nat) : Byte := BitVec.ofNat 8 (w >>> (8 * i))

/-- The instruction our decoder reads from the bytes of a table word: the first word in bits 31..0, the second in
bits 63..32, every bit above nbits 0, each word little-endian. -/
def decodeTableWord (nbits w : Nat) : Option Instr :=
  match decodeBytes ((List.range 8).map (byteOf (w % 2 ^ nbits))) with
  | .ok i => some i
  | .error _ => none

/-- Bits of a G source field. -/
def GSrc.bits (s : GSrc) : Nat := s.e.toNat * 0x10 + s.r.toNat
/-- Bits of a guard field. -/
def Guard.bits (g : Guard) : Nat := g.neg.toNat * 0x10 + g.q.toNat
/-- Bits of a type field. -/
def VType.bits : VType → Nat
  | .i32 => 0 | .f32 => 1 | .bf16 => 2 | .f16 => 3
/-- Bits of a size field. -/
def MemSize.bits : MemSize → Nat
  | .b => 0 | .h => 1 | .w => 2 | .d => 3
/-- Bits of a scope field. -/
def Scope.bits : Scope → Nat
  | .thread => 0 | .core => 1 | .cluster => 2 | .die => 3 | .package => 4 | .group => 5

/-- The words of an instruction: the first, and the second of a 64-bit instruction. -/
def word (n : Nat) (w1 : Option W32) : Option (W32 × Option W32) := some (BitVec.ofNat 32 n, w1)

/-- The words of an instruction (Tables 2-4, 2-5, 2-7a); a step that is no instruction has none. -/
def encode : Instr → Option (W32 × Option W32)
  | .add d a b g => word (0x4000000 + d.toNat * 0x200000 + a.bits * 0x10000 + b.bits * 0x800 + g.bits) none
  | .sub d a b g => word (0x4000020 + d.toNat * 0x200000 + a.bits * 0x10000 + b.bits * 0x800 + g.bits) none
  | .mul d a b g => word (0x4000040 + d.toNat * 0x200000 + a.bits * 0x10000 + b.bits * 0x800 + g.bits) none
  | .mulh d a b g => word (0x4000060 + d.toNat * 0x200000 + a.bits * 0x10000 + b.bits * 0x800 + g.bits) none
  | .mulhu d a b g => word (0x4000080 + d.toNat * 0x200000 + a.bits * 0x10000 + b.bits * 0x800 + g.bits) none
  | .div d a b g => word (0x40000a0 + d.toNat * 0x200000 + a.bits * 0x10000 + b.bits * 0x800 + g.bits) none
  | .divu d a b g => word (0x40000c0 + d.toNat * 0x200000 + a.bits * 0x10000 + b.bits * 0x800 + g.bits) none
  | .rem d a b g => word (0x40000e0 + d.toNat * 0x200000 + a.bits * 0x10000 + b.bits * 0x800 + g.bits) none
  | .remu d a b g => word (0x4000100 + d.toNat * 0x200000 + a.bits * 0x10000 + b.bits * 0x800 + g.bits) none
  | .and d a b g => word (0x4000120 + d.toNat * 0x200000 + a.bits * 0x10000 + b.bits * 0x800 + g.bits) none
  | .or d a b g => word (0x4000140 + d.toNat * 0x200000 + a.bits * 0x10000 + b.bits * 0x800 + g.bits) none
  | .xor d a b g => word (0x4000160 + d.toNat * 0x200000 + a.bits * 0x10000 + b.bits * 0x800 + g.bits) none
  | .andn d a b g => word (0x4000180 + d.toNat * 0x200000 + a.bits * 0x10000 + b.bits * 0x800 + g.bits) none
  | .orn d a b g => word (0x40001a0 + d.toNat * 0x200000 + a.bits * 0x10000 + b.bits * 0x800 + g.bits) none
  | .shl d a b g => word (0x40001c0 + d.toNat * 0x200000 + a.bits * 0x10000 + b.bits * 0x800 + g.bits) none
  | .shr d a b g => word (0x40001e0 + d.toNat * 0x200000 + a.bits * 0x10000 + b.bits * 0x800 + g.bits) none
  | .sra d a b g => word (0x4000200 + d.toNat * 0x200000 + a.bits * 0x10000 + b.bits * 0x800 + g.bits) none
  | .rol d a b g => word (0x4000220 + d.toNat * 0x200000 + a.bits * 0x10000 + b.bits * 0x800 + g.bits) none
  | .ror d a b g => word (0x4000240 + d.toNat * 0x200000 + a.bits * 0x10000 + b.bits * 0x800 + g.bits) none
  | .min d a b g => word (0x4000260 + d.toNat * 0x200000 + a.bits * 0x10000 + b.bits * 0x800 + g.bits) none
  | .max d a b g => word (0x4000280 + d.toNat * 0x200000 + a.bits * 0x10000 + b.bits * 0x800 + g.bits) none
  | .minu d a b g => word (0x40002a0 + d.toNat * 0x200000 + a.bits * 0x10000 + b.bits * 0x800 + g.bits) none
  | .maxu d a b g => word (0x40002c0 + d.toNat * 0x200000 + a.bits * 0x10000 + b.bits * 0x800 + g.bits) none
  | .lea1 d a b g => word (0x40002e0 + d.toNat * 0x200000 + a.bits * 0x10000 + b.bits * 0x800 + g.bits) none
  | .lea2 d a b g => word (0x4000300 + d.toNat * 0x200000 + a.bits * 0x10000 + b.bits * 0x800 + g.bits) none
  | .lea3 d a b g => word (0x4000320 + d.toNat * 0x200000 + a.bits * 0x10000 + b.bits * 0x800 + g.bits) none
  | .clz d a g => word (0x8000000 + d.toNat * 0x200000 + a.bits * 0x10000 + g.bits) none
  | .ctz d a g => word (0x8000020 + d.toNat * 0x200000 + a.bits * 0x10000 + g.bits) none
  | .popc d a g => word (0x8000040 + d.toNat * 0x200000 + a.bits * 0x10000 + g.bits) none
  | .brev d a g => word (0x8000060 + d.toNat * 0x200000 + a.bits * 0x10000 + g.bits) none
  | .bswap d a g => word (0x8000080 + d.toNat * 0x200000 + a.bits * 0x10000 + g.bits) none
  | .sextb d a g => word (0x80000a0 + d.toNat * 0x200000 + a.bits * 0x10000 + g.bits) none
  | .sexth d a g => word (0x80000c0 + d.toNat * 0x200000 + a.bits * 0x10000 + g.bits) none
  | .sextw d a g => word (0x80000e0 + d.toNat * 0x200000 + a.bits * 0x10000 + g.bits) none
  | .zextb d a g => word (0x8000100 + d.toNat * 0x200000 + a.bits * 0x10000 + g.bits) none
  | .zexth d a g => word (0x8000120 + d.toNat * 0x200000 + a.bits * 0x10000 + g.bits) none
  | .zextw d a g => word (0x8000140 + d.toNat * 0x200000 + a.bits * 0x10000 + g.bits) none
  | .abs d a g => word (0x8000160 + d.toNat * 0x200000 + a.bits * 0x10000 + g.bits) none
  | .neg d a g => word (0x8000180 + d.toNat * 0x200000 + a.bits * 0x10000 + g.bits) none
  | .not d a g => word (0x80001a0 + d.toNat * 0x200000 + a.bits * 0x10000 + g.bits) none
  | .ext d a p l g => word (0xc000000 + d.toNat * 0x200000 + a.bits * 0x10000 + p.toNat * 0x400 + l.toNat * 0x20 + g.bits) none
  | .extu d a p l g => word (0x10000000 + d.toNat * 0x200000 + a.bits * 0x10000 + p.toNat * 0x400 + l.toNat * 0x20 + g.bits) none
  | .ins d a p l g => word (0x14000000 + d.toNat * 0x200000 + a.bits * 0x10000 + p.toNat * 0x400 + l.toNat * 0x20 + g.bits) none
  | .addi d a i g => word (0x18000000 + d.toNat * 0x200000 + a.bits * 0x10000 + i.toNat * 0x20 + g.bits) none
  | .andi d a i g => word (0x1c000000 + d.toNat * 0x200000 + a.bits * 0x10000 + i.toNat * 0x20 + g.bits) none
  | .ori d a i g => word (0x20000000 + d.toNat * 0x200000 + a.bits * 0x10000 + i.toNat * 0x20 + g.bits) none
  | .xori d a i g => word (0x24000000 + d.toNat * 0x200000 + a.bits * 0x10000 + i.toNat * 0x20 + g.bits) none
  | .shli d a s g => word (0x28000000 + d.toNat * 0x200000 + a.bits * 0x10000 + s.toNat * 0x20 + g.bits) none
  | .shri d a s g => word (0x2c000000 + d.toNat * 0x200000 + a.bits * 0x10000 + s.toNat * 0x20 + g.bits) none
  | .srai d a s g => word (0x30000000 + d.toNat * 0x200000 + a.bits * 0x10000 + s.toNat * 0x20 + g.bits) none
  | .muli d a i g => word (0x34000000 + d.toNat * 0x200000 + a.bits * 0x10000 + i.toNat * 0x20 + g.bits) none
  | .li d g imm => word (0x38000000 + d.toNat * 0x200000 + g.bits) (some imm)
  | .liu d g imm => word (0x38010000 + d.toNat * 0x200000 + g.bits) (some imm)
  | .lih d g imm => word (0x38020000 + d.toNat * 0x200000 + g.bits) (some imm)
  | .addl d g imm => word (0x38030000 + d.toNat * 0x200000 + g.bits) (some imm)
  | .cmpeq d a b g => word (0x3c000000 + d.toNat * 0x200000 + a.bits * 0x10000 + b.bits * 0x800 + g.bits) none
  | .cmpne d a b g => word (0x3c000020 + d.toNat * 0x200000 + a.bits * 0x10000 + b.bits * 0x800 + g.bits) none
  | .cmplt d a b g => word (0x3c000040 + d.toNat * 0x200000 + a.bits * 0x10000 + b.bits * 0x800 + g.bits) none
  | .cmple d a b g => word (0x3c000060 + d.toNat * 0x200000 + a.bits * 0x10000 + b.bits * 0x800 + g.bits) none
  | .cmpltu d a b g => word (0x3c000080 + d.toNat * 0x200000 + a.bits * 0x10000 + b.bits * 0x800 + g.bits) none
  | .cmpleu d a b g => word (0x3c0000a0 + d.toNat * 0x200000 + a.bits * 0x10000 + b.bits * 0x800 + g.bits) none
  | .tstz d a b g => word (0x3c0000c0 + d.toNat * 0x200000 + a.bits * 0x10000 + b.bits * 0x800 + g.bits) none
  | .tstnz d a b g => word (0x3c0000e0 + d.toNat * 0x200000 + a.bits * 0x10000 + b.bits * 0x800 + g.bits) none
  | .cmpeqi d a i g => word (0x40000000 + d.toNat * 0x200000 + a.bits * 0x10000 + i.toNat * 0x100 + g.bits) none
  | .cmpnei d a i g => word (0x40000020 + d.toNat * 0x200000 + a.bits * 0x10000 + i.toNat * 0x100 + g.bits) none
  | .cmplti d a i g => word (0x40000040 + d.toNat * 0x200000 + a.bits * 0x10000 + i.toNat * 0x100 + g.bits) none
  | .cmplei d a i g => word (0x40000060 + d.toNat * 0x200000 + a.bits * 0x10000 + i.toNat * 0x100 + g.bits) none
  | .cmpltui d a i g => word (0x40000080 + d.toNat * 0x200000 + a.bits * 0x10000 + i.toNat * 0x100 + g.bits) none
  | .cmpleui d a i g => word (0x400000a0 + d.toNat * 0x200000 + a.bits * 0x10000 + i.toNat * 0x100 + g.bits) none
  | .cmpgti d a i g => word (0x400000c0 + d.toNat * 0x200000 + a.bits * 0x10000 + i.toNat * 0x100 + g.bits) none
  | .cmpgtui d a i g => word (0x400000e0 + d.toNat * 0x200000 + a.bits * 0x10000 + i.toNat * 0x100 + g.bits) none
  | .qand d a b g => word (0x44000000 + d.toNat * 0x200000 + a.toNat * 0x10000 + b.toNat * 0x800 + g.bits) none
  | .qor d a b g => word (0x44000020 + d.toNat * 0x200000 + a.toNat * 0x10000 + b.toNat * 0x800 + g.bits) none
  | .qxor d a b g => word (0x44000040 + d.toNat * 0x200000 + a.toNat * 0x10000 + b.toNat * 0x800 + g.bits) none
  | .qandn d a b g => word (0x44000060 + d.toNat * 0x200000 + a.toNat * 0x10000 + b.toNat * 0x800 + g.bits) none
  | .qmovg d a g => word (0x44000080 + d.toNat * 0x200000 + a.bits * 0x10000 + g.bits) none
  | .getq d g => word (0x440000a0 + d.toNat * 0x200000 + g.bits) none
  | .setq a g => word (0x440000c0 + a.bits * 0x10000 + g.bits) none
  | .sel d a b q g => word (0x48000000 + d.toNat * 0x200000 + a.bits * 0x10000 + b.bits * 0x800 + q.toNat * 0x20 + g.bits) none
  | .br o g => word (0x4c000000 + o.toNat * 0x20 + g.bits) none
  | .call o g => word (0x50000000 + o.toNat * 0x20 + g.bits) none
  | .jmp a g => word (0x54000000 + a.bits * 0x10000 + g.bits) none
  | .jcall d a g => word (0x54000020 + d.toNat * 0x200000 + a.bits * 0x10000 + g.bits) none
  | .ret a g => word (0x54000040 + a.bits * 0x10000 + g.bits) none
  | .exit g => word (0x54000060 + g.bits) none
  | .trap i g => word (0x58000000 + i.toNat * 0x20 + g.bits) none
  | .rft g => word (0x5c000000 + g.bits) none
  | .sys a b g => word (0x5c000020 + a.bits * 0x10000 + b.bits * 0x800 + g.bits) none
  | .brk g => word (0x5c000040 + g.bits) none
  | .tlbi a b g => word (0x5c000060 + a.bits * 0x10000 + b.bits * 0x800 + g.bits) none
  | .srd d n g => word (0x60000000 + d.toNat * 0x200000 + n.toNat * 0x20 + g.bits) none
  | .swr a n g => word (0x64000000 + a.bits * 0x10000 + n.toNat * 0x20 + g.bits) none
  | .fork a o g => word (0x68000000 + a.bits * 0x200000 + o.toNat * 0x20 + g.bits) none
  | .jinit a g => word (0x6c000000 + a.bits * 0x10000 + g.bits) none
  | .join a g => word (0x6c000020 + a.bits * 0x10000 + g.bits) none
  | .waitf a b q g => word (0x70000000 + a.bits * 0x10000 + b.bits * 0x800 + q.toNat * 0x80 + g.bits) none
  | .waitm d a b q g => word (0x70000020 + d.bits * 0x200000 + a.bits * 0x10000 + b.bits * 0x800 + q.toNat * 0x80 + g.bits) none
  | .waitt a b q g => word (0x70000040 + a.bits * 0x10000 + b.bits * 0x800 + q.toNat * 0x80 + g.bits) none
  | .waitid a b q g => word (0x70000060 + a.bits * 0x10000 + b.bits * 0x800 + q.toNat * 0x80 + g.bits) none
  | .bar j b q g => word (0x74000000 + j.toNat * 0x10000 + b.bits * 0x800 + q.toNat * 0x80 + g.bits) none
  | .recvw d a b q g => word (0x74000020 + d.toNat * 0x200000 + a.bits * 0x10000 + b.bits * 0x800 + q.toNat * 0x80 + g.bits) none
  | .llock d a b q g => word (0x74000040 + d.toNat * 0x200000 + a.bits * 0x10000 + b.bits * 0x800 + q.toNat * 0x80 + g.bits) none
  | .lrange d a b q g => word (0x78000000 + d.toNat * 0x200000 + a.bits * 0x10000 + b.bits * 0x800 + q.toNat * 0x80 + g.bits) none
  | .lgroup d a b q g => word (0x78000020 + d.toNat * 0x200000 + a.bits * 0x10000 + b.bits * 0x800 + q.toNat * 0x80 + g.bits) none
  | .lpath d a b q g => word (0x78000040 + d.toNat * 0x200000 + a.bits * 0x10000 + b.bits * 0x800 + q.toNat * 0x80 + g.bits) none
  | .lctx d a b q g => word (0x78000060 + d.toNat * 0x200000 + a.bits * 0x10000 + b.bits * 0x800 + q.toNat * 0x80 + g.bits) none
  | .rnw d a b g => word (0x7c000000 + d.toNat * 0x200000 + a.bits * 0x10000 + b.bits * 0x800 + g.bits) none
  | .life d a g => word (0x7c000020 + d.toNat * 0x200000 + a.bits * 0x10000 + g.bits) none
  | .linfo d a b g => word (0x7c000040 + d.toNat * 0x200000 + a.bits * 0x10000 + b.bits * 0x800 + g.bits) none
  | .gjoin j a g => word (0x7c000060 + j.toNat * 0x200000 + a.bits * 0x10000 + g.bits) none
  | .bind d a b g => word (0x7c000080 + d.toNat * 0x200000 + a.bits * 0x10000 + b.bits * 0x800 + g.bits) none
  | .ld d a z x o g => word (0x80000000 + d.toNat * 0x200000 + a.bits * 0x10000 + z.bits * 0x4000 + x.toNat * 0x2000 + o.toNat * 0x20 + g.bits) none
  | .st d a z o g => word (0x84000000 + d.bits * 0x200000 + a.bits * 0x10000 + z.bits * 0x4000 + o.toNat * 0x20 + g.bits) none
  | .ldsw d a b q g => word (0x88000000 + d.toNat * 0x200000 + a.bits * 0x10000 + b.bits * 0x800 + q.toNat * 0x80 + g.bits) none
  | .ldsd d a b q g => word (0x88000020 + d.toNat * 0x200000 + a.bits * 0x10000 + b.bits * 0x800 + q.toNat * 0x80 + g.bits) none
  | .ldcw d a b q g => word (0x88000040 + d.toNat * 0x200000 + a.bits * 0x10000 + b.bits * 0x800 + q.toNat * 0x80 + g.bits) none
  | .ldcd d a b q g => word (0x88000060 + d.toNat * 0x200000 + a.bits * 0x10000 + b.bits * 0x800 + q.toNat * 0x80 + g.bits) none
  | .stfw a b g => word (0x8c000000 + a.bits * 0x10000 + b.bits * 0x800 + g.bits) none
  | .stfd a b g => word (0x8c000020 + a.bits * 0x10000 + b.bits * 0x800 + g.bits) none
  | .sete a g => word (0x8c000040 + a.bits * 0x10000 + g.bits) none
  | .setf a g => word (0x8c000060 + a.bits * 0x10000 + g.bits) none
  | .aadd d a b z g => word (0x90000000 + d.toNat * 0x200000 + a.bits * 0x10000 + b.bits * 0x800 + z.toNat * 0x20 + g.bits) none
  | .aand d a b z g => word (0x90000040 + d.toNat * 0x200000 + a.bits * 0x10000 + b.bits * 0x800 + z.toNat * 0x20 + g.bits) none
  | .aor d a b z g => word (0x90000080 + d.toNat * 0x200000 + a.bits * 0x10000 + b.bits * 0x800 + z.toNat * 0x20 + g.bits) none
  | .axor d a b z g => word (0x900000c0 + d.toNat * 0x200000 + a.bits * 0x10000 + b.bits * 0x800 + z.toNat * 0x20 + g.bits) none
  | .amin d a b z g => word (0x90000100 + d.toNat * 0x200000 + a.bits * 0x10000 + b.bits * 0x800 + z.toNat * 0x20 + g.bits) none
  | .amax d a b z g => word (0x90000140 + d.toNat * 0x200000 + a.bits * 0x10000 + b.bits * 0x800 + z.toNat * 0x20 + g.bits) none
  | .aminu d a b z g => word (0x90000180 + d.toNat * 0x200000 + a.bits * 0x10000 + b.bits * 0x800 + z.toNat * 0x20 + g.bits) none
  | .amaxu d a b z g => word (0x900001c0 + d.toNat * 0x200000 + a.bits * 0x10000 + b.bits * 0x800 + z.toNat * 0x20 + g.bits) none
  | .axchg d a b z g => word (0x90000200 + d.toNat * 0x200000 + a.bits * 0x10000 + b.bits * 0x800 + z.toNat * 0x20 + g.bits) none
  | .acas d a b z g => word (0x90000240 + d.toNat * 0x200000 + a.bits * 0x10000 + b.bits * 0x800 + z.toNat * 0x20 + g.bits) none
  | .redadd a b z g => word (0x94000000 + a.bits * 0x10000 + b.bits * 0x800 + z.toNat * 0x20 + g.bits) none
  | .redand a b z g => word (0x94000040 + a.bits * 0x10000 + b.bits * 0x800 + z.toNat * 0x20 + g.bits) none
  | .redor a b z g => word (0x94000080 + a.bits * 0x10000 + b.bits * 0x800 + z.toNat * 0x20 + g.bits) none
  | .redxor a b z g => word (0x940000c0 + a.bits * 0x10000 + b.bits * 0x800 + z.toNat * 0x20 + g.bits) none
  | .redmin a b z g => word (0x94000100 + a.bits * 0x10000 + b.bits * 0x800 + z.toNat * 0x20 + g.bits) none
  | .redmax a b z g => word (0x94000140 + a.bits * 0x10000 + b.bits * 0x800 + z.toNat * 0x20 + g.bits) none
  | .redminu a b z g => word (0x94000180 + a.bits * 0x10000 + b.bits * 0x800 + z.toNat * 0x20 + g.bits) none
  | .redmaxu a b z g => word (0x940001c0 + a.bits * 0x10000 + b.bits * 0x800 + z.toNat * 0x20 + g.bits) none
  | .stflw d a b g => word (0x98000000 + d.bits * 0x200000 + a.bits * 0x10000 + b.bits * 0x800 + g.bits) none
  | .stfld d a b g => word (0x98000020 + d.bits * 0x200000 + a.bits * 0x10000 + b.bits * 0x800 + g.bits) none
  | .fence s g => word (0x9c000000 + s.bits * 0x20 + g.bits) none
  | .fencesc s g => word (0x9c000100 + s.bits * 0x20 + g.bits) none
  | .rel a s g => word (0x9c000200 + a.bits * 0x10000 + s.bits * 0x20 + g.bits) none
  | .vadd v a b m e t => word (0xc0000000 + v.toNat * 0x200000 + a.toNat * 0x10000 + b.toNat * 0x800 + m.toNat * 0x8 + e.toNat * 0x4 + t.bits) none
  | .vsub v a b m e t => word (0xc0000020 + v.toNat * 0x200000 + a.toNat * 0x10000 + b.toNat * 0x800 + m.toNat * 0x8 + e.toNat * 0x4 + t.bits) none
  | .vmul v a b m e t => word (0xc0000040 + v.toNat * 0x200000 + a.toNat * 0x10000 + b.toNat * 0x800 + m.toNat * 0x8 + e.toNat * 0x4 + t.bits) none
  | .vmin v a b m e t => word (0xc0000060 + v.toNat * 0x200000 + a.toNat * 0x10000 + b.toNat * 0x800 + m.toNat * 0x8 + e.toNat * 0x4 + t.bits) none
  | .vmax v a b m e t => word (0xc0000080 + v.toNat * 0x200000 + a.toNat * 0x10000 + b.toNat * 0x800 + m.toNat * 0x8 + e.toNat * 0x4 + t.bits) none
  | .vabs v a m e t => word (0xc00000a0 + v.toNat * 0x200000 + a.toNat * 0x10000 + m.toNat * 0x8 + e.toNat * 0x4 + t.bits) none
  | .vneg v a m e t => word (0xc00000c0 + v.toNat * 0x200000 + a.toNat * 0x10000 + m.toNat * 0x8 + e.toNat * 0x4 + t.bits) none
  | .vand v a b m e t => word (0xc00000e0 + v.toNat * 0x200000 + a.toNat * 0x10000 + b.toNat * 0x800 + m.toNat * 0x8 + e.toNat * 0x4 + t.bits) none
  | .vor v a b m e t => word (0xc0000100 + v.toNat * 0x200000 + a.toNat * 0x10000 + b.toNat * 0x800 + m.toNat * 0x8 + e.toNat * 0x4 + t.bits) none
  | .vxor v a b m e t => word (0xc0000120 + v.toNat * 0x200000 + a.toNat * 0x10000 + b.toNat * 0x800 + m.toNat * 0x8 + e.toNat * 0x4 + t.bits) none
  | .vandn v a b m e t => word (0xc0000140 + v.toNat * 0x200000 + a.toNat * 0x10000 + b.toNat * 0x800 + m.toNat * 0x8 + e.toNat * 0x4 + t.bits) none
  | .vshl v a b m e => word (0xc0000160 + v.toNat * 0x200000 + a.toNat * 0x10000 + b.toNat * 0x800 + m.toNat * 0x8 + e.toNat * 0x4) none
  | .vshr v a b m e => word (0xc0000180 + v.toNat * 0x200000 + a.toNat * 0x10000 + b.toNat * 0x800 + m.toNat * 0x8 + e.toNat * 0x4) none
  | .vsra v a b m e => word (0xc00001a0 + v.toNat * 0x200000 + a.toNat * 0x10000 + b.toNat * 0x800 + m.toNat * 0x8 + e.toNat * 0x4) none
  | .vmov v a m e t => word (0xc00001c0 + v.toNat * 0x200000 + a.toNat * 0x10000 + m.toNat * 0x8 + e.toNat * 0x4 + t.bits) none
  | .vsel v a b m e t => word (0xc00001e0 + v.toNat * 0x200000 + a.toNat * 0x10000 + b.toNat * 0x800 + m.toNat * 0x8 + e.toNat * 0x4 + t.bits) none
  | .vcmpeq k a b m e t => word (0xc0000200 + k.toNat * 0x200000 + a.toNat * 0x10000 + b.toNat * 0x800 + m.toNat * 0x8 + e.toNat * 0x4 + t.bits) none
  | .vcmpne k a b m e t => word (0xc0000220 + k.toNat * 0x200000 + a.toNat * 0x10000 + b.toNat * 0x800 + m.toNat * 0x8 + e.toNat * 0x4 + t.bits) none
  | .vcmplt k a b m e t => word (0xc0000240 + k.toNat * 0x200000 + a.toNat * 0x10000 + b.toNat * 0x800 + m.toNat * 0x8 + e.toNat * 0x4 + t.bits) none
  | .vcmple k a b m e t => word (0xc0000260 + k.toNat * 0x200000 + a.toNat * 0x10000 + b.toNat * 0x800 + m.toNat * 0x8 + e.toNat * 0x4 + t.bits) none
  | .vfma v a b c m e t => word (0xc4000000 + v.toNat * 0x200000 + a.toNat * 0x10000 + b.toNat * 0x800 + c.toNat * 0x40 + m.toNat * 0x10 + e.toNat * 0x8 + t.bits * 0x2) none
  | .vfms v a b c m e t => word (0xc4000001 + v.toNat * 0x200000 + a.toNat * 0x10000 + b.toNat * 0x800 + c.toNat * 0x40 + m.toNat * 0x10 + e.toNat * 0x8 + t.bits * 0x2) none
  | .vadds v a b m e t => word (0xc8000000 + v.toNat * 0x200000 + a.toNat * 0x10000 + b.bits * 0x800 + m.toNat * 0x8 + e.toNat * 0x4 + t.bits) none
  | .vsubs v a b m e t => word (0xc8000020 + v.toNat * 0x200000 + a.toNat * 0x10000 + b.bits * 0x800 + m.toNat * 0x8 + e.toNat * 0x4 + t.bits) none
  | .vmuls v a b m e t => word (0xc8000040 + v.toNat * 0x200000 + a.toNat * 0x10000 + b.bits * 0x800 + m.toNat * 0x8 + e.toNat * 0x4 + t.bits) none
  | .vmins v a b m e t => word (0xc8000060 + v.toNat * 0x200000 + a.toNat * 0x10000 + b.bits * 0x800 + m.toNat * 0x8 + e.toNat * 0x4 + t.bits) none
  | .vmaxs v a b m e t => word (0xc8000080 + v.toNat * 0x200000 + a.toNat * 0x10000 + b.bits * 0x800 + m.toNat * 0x8 + e.toNat * 0x4 + t.bits) none
  | .vshls v a b m e => word (0xc80000a0 + v.toNat * 0x200000 + a.toNat * 0x10000 + b.bits * 0x800 + m.toNat * 0x8 + e.toNat * 0x4) none
  | .vshrs v a b m e => word (0xc80000c0 + v.toNat * 0x200000 + a.toNat * 0x10000 + b.bits * 0x800 + m.toNat * 0x8 + e.toNat * 0x4) none
  | .vsras v a b m e => word (0xc80000e0 + v.toNat * 0x200000 + a.toNat * 0x10000 + b.bits * 0x800 + m.toNat * 0x8 + e.toNat * 0x4) none
  | .vcmpeqs k a b m e t => word (0xc8000100 + k.toNat * 0x200000 + a.toNat * 0x10000 + b.bits * 0x800 + m.toNat * 0x8 + e.toNat * 0x4 + t.bits) none
  | .vcmplts k a b m e t => word (0xc8000120 + k.toNat * 0x200000 + a.toNat * 0x10000 + b.bits * 0x800 + m.toNat * 0x8 + e.toNat * 0x4 + t.bits) none
  | .vbcast v b m e t => word (0xc8000140 + v.toNat * 0x200000 + b.bits * 0x800 + m.toNat * 0x8 + e.toNat * 0x4 + t.bits) none
  | .vrcp v a m e t => word (0xcc000000 + v.toNat * 0x200000 + a.toNat * 0x10000 + m.toNat * 0x8 + e.toNat * 0x4 + t.bits) none
  | .vrsq v a m e t => word (0xcc000020 + v.toNat * 0x200000 + a.toNat * 0x10000 + m.toNat * 0x8 + e.toNat * 0x4 + t.bits) none
  | .vsqrt v a m e t => word (0xcc000040 + v.toNat * 0x200000 + a.toNat * 0x10000 + m.toNat * 0x8 + e.toNat * 0x4 + t.bits) none
  | .vexp2 v a m e t => word (0xcc000060 + v.toNat * 0x200000 + a.toNat * 0x10000 + m.toNat * 0x8 + e.toNat * 0x4 + t.bits) none
  | .vlog2 v a m e t => word (0xcc000080 + v.toNat * 0x200000 + a.toNat * 0x10000 + m.toNat * 0x8 + e.toNat * 0x4 + t.bits) none
  | .vcvt v a c m e t => word (0xd0000000 + v.toNat * 0x200000 + a.toNat * 0x10000 + c.toNat * 0x800 + m.toNat * 0x8 + e.toNat * 0x4 + t.bits) none
  | .vpack v a c e => word (0xd4000001 + v.toNat * 0x200000 + a.toNat * 0x10000 + c.toNat * 0x800 + e.toNat * 0x4) none
  | .vunpk v a c e => word (0xd4000021 + v.toNat * 0x200000 + a.toNat * 0x10000 + c.toNat * 0x800 + e.toNat * 0x4) none
  | .vscale v a b m e t => word (0xd4000040 + v.toNat * 0x200000 + a.toNat * 0x10000 + b.toNat * 0x800 + m.toNat * 0x8 + e.toNat * 0x4 + t.bits) none
  | .vred v a o m e t => word (0xd8000000 + v.toNat * 0x200000 + a.toNat * 0x10000 + o.toNat * 0x800 + m.toNat * 0x8 + e.toNat * 0x4 + t.bits) none
  | .vscan v a o m e t => word (0xd8000020 + v.toNat * 0x200000 + a.toNat * 0x10000 + o.toNat * 0x800 + m.toNat * 0x8 + e.toNat * 0x4 + t.bits) none
  | .vperm v a b m e t => word (0xd8000040 + v.toNat * 0x200000 + a.toNat * 0x10000 + b.toNat * 0x800 + m.toNat * 0x8 + e.toNat * 0x4 + t.bits) none
  | .vextr d a b e t => word (0xd8000060 + d.toNat * 0x200000 + a.toNat * 0x10000 + b.bits * 0x800 + e.toNat * 0x4 + t.bits) none
  | .vins v a b m t => word (0xd8000080 + v.toNat * 0x200000 + a.bits * 0x10000 + b.bits * 0x800 + m.toNat * 0x8 + t.bits) none
  | .vrot v a b m e t => word (0xd80000a0 + v.toNat * 0x200000 + a.toNat * 0x10000 + b.bits * 0x800 + m.toNat * 0x8 + e.toNat * 0x4 + t.bits) none
  | .mand k a b e => word (0xdc000000 + k.toNat * 0x200000 + a.toNat * 0x10000 + b.toNat * 0x800 + e.toNat * 0x4) none
  | .mor k a b e => word (0xdc000020 + k.toNat * 0x200000 + a.toNat * 0x10000 + b.toNat * 0x800 + e.toNat * 0x4) none
  | .mxor k a b e => word (0xdc000040 + k.toNat * 0x200000 + a.toNat * 0x10000 + b.toNat * 0x800 + e.toNat * 0x4) none
  | .mandn k a b e => word (0xdc000060 + k.toNat * 0x200000 + a.toNat * 0x10000 + b.toNat * 0x800 + e.toNat * 0x4) none
  | .mnot k a e => word (0xdc000080 + k.toNat * 0x200000 + a.toNat * 0x10000 + e.toNat * 0x4) none
  | .mpopc d a e => word (0xdc0000a0 + d.toNat * 0x200000 + a.toNat * 0x10000 + e.toNat * 0x4) none
  | .mfirst d a e => word (0xdc0000c0 + d.toNat * 0x200000 + a.toNat * 0x10000 + e.toNat * 0x4) none
  | .mset k a => word (0xdc0000e0 + k.toNat * 0x200000 + a.bits * 0x10000) none
  | .vld v a o m e => word (0xe0000000 + v.toNat * 0x200000 + a.bits * 0x10000 + o.toNat * 0x80 + m.toNat * 0x20 + e.toNat * 0x10) none
  | .vst v a o m e => word (0xe4000000 + v.toNat * 0x200000 + a.bits * 0x10000 + o.toNat * 0x80 + m.toNat * 0x20 + e.toNat * 0x10) none
  | .vldt v a b m e => word (0xe8000000 + v.toNat * 0x200000 + a.bits * 0x10000 + b.bits * 0x800 + m.toNat * 0x8 + e.toNat * 0x4) none
  | .vstt v a b m e => word (0xe8000020 + v.toNat * 0x200000 + a.bits * 0x10000 + b.bits * 0x800 + m.toNat * 0x8 + e.toNat * 0x4) none
  | .vldx v a b m e => word (0xe8000040 + v.toNat * 0x200000 + a.bits * 0x10000 + b.toNat * 0x800 + m.toNat * 0x8 + e.toNat * 0x4) none
  | .vstx v a b m e => word (0xe8000060 + v.toNat * 0x200000 + a.bits * 0x10000 + b.toNat * 0x800 + m.toNat * 0x8 + e.toNat * 0x4) none
  | .vstfl v a b m e => word (0xe8000080 + v.toNat * 0x200000 + a.bits * 0x10000 + b.bits * 0x800 + m.toNat * 0x8 + e.toNat * 0x4) none
  | .mma d a b w g => word (0xec000000 + d.toNat * 0x10000 + a.bits * 0x800 + b.bits * 0x20 + g.bits) (some w)
  | .mwld d w g => word (0xec200000 + d.toNat * 0x10000 + g.bits) (some w)
  | .mzero d w g => word (0xec400000 + d.toNat * 0x10000 + g.bits) (some w)
  | .mdrain d a b w g => word (0xec600000 + d.toNat * 0x10000 + a.bits * 0x800 + b.bits * 0x20 + g.bits) (some w)
  | .magr d a b w g => word (0xec800000 + d.toNat * 0x10000 + a.bits * 0x800 + b.bits * 0x20 + g.bits) (some w)
  | .mstat d w g => word (0xeca00000 + d.toNat * 0x10000 + g.bits) (some w)
  | .mtest d w g => word (0xecc00000 + d.toNat * 0x10000 + g.bits) (some w)
  | .cpy d a b w g => word (0xf0000000 + d.toNat * 0x10000 + a.bits * 0x800 + b.bits * 0x20 + g.bits) (some w)
  | .chain d a b w g => word (0xf0200000 + d.toNat * 0x10000 + a.bits * 0x800 + b.bits * 0x20 + g.bits) (some w)
  | .cstat d w g => word (0xf0400000 + d.toNat * 0x10000 + g.bits) (some w)
  | .send d a b w g => word (0xf4000000 + d.toNat * 0x10000 + a.bits * 0x800 + b.bits * 0x20 + g.bits) (some w)
  | .post d a b w g => word (0xf4200000 + d.toNat * 0x10000 + a.bits * 0x800 + b.bits * 0x20 + g.bits) (some w)
  | .rring d a b w g => word (0xf4400000 + d.toNat * 0x10000 + a.bits * 0x800 + b.bits * 0x20 + g.bits) (some w)
  | .rprobe d a b w g => word (0xf4600000 + d.toNat * 0x10000 + a.bits * 0x800 + b.bits * 0x20 + g.bits) (some w)
  | .launch d a b w g => word (0xf8000000 + d.toNat * 0x10000 + a.bits * 0x800 + b.bits * 0x20 + g.bits) (some w)
  | .lstat d a w g => word (0xf8200000 + d.toNat * 0x10000 + a.bits * 0x800 + g.bits) (some w)
  | .preempt d a w g => word (0xf8400000 + d.toNat * 0x10000 + a.bits * 0x800 + g.bits) (some w)
  | .signal d a w g => word (0xf8600000 + d.toNat * 0x10000 + a.bits * 0x800 + g.bits) (some w)
  | .moduleReset _ => none
  | .tickBoundary _ => none
  | .leaseLapse _ _ => none
  | .smokeEnd _ _ => none
  | .rangeZeroing _ _ => none
  | .leaseEntryError _ _ => none
  | .emptyTimeout _ => none
  | .resultFill _ _ => none
  | .memoryAccessAccept _ => none
  | .waitAccept _ _ => none
  | .waitTimeout _ => none
  | .leaseRequestAnswer _ _ _ => none
  | .leaseOpAtHome _ => none
  | .deferredDelivery _ _ => none
  | .regionRestart _ => none
  | .threadStop _ => none
  | .heldFaultRecordWrite _ _ => none
  | .slotRelease _ => none
  | .teamPlace _ _ _ => none
  | .teamEnd _ _ => none
  | .forkRecordStart _ _ => none
  | .joinOutcomeApply _ => none
  | .translationWalk _ _ => none
  | .faultRingRetry _ => none
  | .faultReply _ => none
  | .tlbiAck _ _ => none
  | .fencescDrainEnd _ => none
  | .relDrainEnd _ => none
  | .bankFailure _ _ => none
  | .bankRebuildDone _ => none
  | .patrolScrubError _ => none
  | .engineGuardResolve _ _ _ => none
  | .cpyStart _ => none
  | .cpyComplete _ => none
  | .chainRecordStep _ _ => none
  | .cstatStart _ => none
  | .rringStart _ _ => none
  | .postStart _ _ => none
  | .sendStart _ => none
  | .messageDecision _ => none
  | .ringOfferRetry _ => none
  | .ringFullTimeout _ => none
  | .ringHeadStore _ _ => none
  | .tailUpdate _ => none
  | .landingComplete _ => none
  | .sendComplete _ => none
  | .rprobeStart _ => none
  | .stflFlagRaise _ => none
  | .vstflFlagRaise _ => none
  | .matrixContextScrub _ => none
  | .gangArrival _ => none
  | .gangBarrierTimeout _ => none
  | .mmaStart _ => none
  | .mmaComplete _ => none
  | .mwldStart _ => none
  | .mwldComplete _ => none
  | .mzeroStart _ => none
  | .mdrainStart _ => none
  | .mdrainComplete _ => none
  | .magrStart _ => none
  | .mstatStart _ => none
  | .mtestStart _ => none
  | .mtestComplete _ _ => none
  | .selfTest _ _ => none
  | .preemptStart _ => none
  | .preemptDrainFallback _ => none
  | .preemptComplete _ _ => none
  | .signalStart _ => none
  | .resumePlace _ _ => none
  | .resumeDeadline _ _ => none
  | .launchStart _ => none
  | .launchAck _ _ _ => none
  | .launchAckDeadline _ _ => none
  | .rangeRequest _ _ _ _ => none
  | .dealRecord _ _ _ => none
  | .staticDeal _ _ _ => none
  | .blockClassReport _ _ => none
  | .gridEnd _ _ => none
  | .gridEntryFree _ _ => none
  | .lstatStart _ => none
  | .cancelNotice _ => none
  | .loadExchange _ => none
  | .sysRequestPortWrite _ => none
  | .hostSubmission _ _ _ => none
  | .hostMemoryAccess _ _ _ => none
  | .hostRecordCopy _ => none
  | .hostLaunchRecord _ _ => none
  | .hostCancelRecord _ => none
  | .hostPartitionRecord _ => none
  | .hackWrite _ => none
  | .firmwareRestart _ => none
  | .bootSelect _ => none
  | .bringupPhase _ _ => none
  | .packageHalt _ _ => none
  | .linkRetry _ _ _ => none
  | .wavelengthRetrainStart _ _ _ => none
  | .wavelengthRetrainEnd _ _ _ _ => none
  | .parkedWake _ _ => none
  | .parkAgain _ _ => none
  | .scctlWrite _ => none
  | .strandDeath _ _ => none
  | .linkDeath _ _ => none
  | .strandUp _ _ _ => none
  | .endToEndAck _ _ _ _ => none
  | .capAdmit _ => none
  | .reconfigDrain _ => none
  | .reconfigDark _ => none
  | .reconfigRelock _ => none
  | .partWrite _ => none
  | .seedWrite _ => none
  | .agreementWrite _ => none
  | .flgAccess _ => none
  | .registerWrite _ => none

end Sys2Proof
end

