-- ==== Sys2Proof/Config.lean ====
section
/-!
DEFINITION. Constants that the manual fixes for every module of the family (Table 0-1, R108, R117, R118, R122,
R246, R263, R265, R274, R360, R379), named once. The manual leaves no result of an instruction undefined (R10); what it
leaves to the device is an argument of the step that decides it (log entry 8). Free values stand here too: the bytes of a
save area, whose layout is the device's own (R326, log entry 23), and the error counts of a wavelength (R340, R341, log 27).
-/

namespace Sys2Proof.Config

/-- Compute dies of a package (R1). -/
def dies : Nat := 4
/-- Clusters of a compute die (R3). -/
def clusters : Nat := 44
/-- Cores of a cluster (R3). -/
def cores : Nat := 8
/-- Bytes of a scratchpad (R3). -/
def scratchBytes : Nat := 0x80000
/-- Bytes of a B-stack (R3, R191). -/
def bstackBytes : Nat := 0x400000
/-- Bytes of HBM of a compute die (R195). -/
def hbmBytes : Nat := 2 ^ 37
/-- Entries of a die's lease table (R108). -/
def leaseEntries : Nat := 262144
/-- Locks of a die's lock directory (R117). -/
def lockEntries : Nat := 16384
/-- Bindings of a die (R118). -/
def bindEntries : Nat := 4096
/-- Group-table entries of a die (R122). -/
def groupEntries : Nat := 256
/-- Ticks of SMOKE (R110). -/
def smokeTicks : Nat := 64
/-- The largest life of a lease (R109). -/
def maxLife : Nat := 2 ^ 32 - 1
/-- Entries of the copy and message queues (R246). -/
def copyQueue : Nat := 32
/-- Entries one channel holds of a cluster queue (R246). -/
def channelLimit : Nat := 4
/-- Entries of a matrix queue (R274). -/
def matrixQueue : Nat := 16
/-- Entries of a launch queue (R360). -/
def launchQueue : Nat := 16
/-- Records of an inbox (R133). -/
def inboxEntries : Nat := 32
/-- Fork records of a hardware deque (R151). -/
def dequeEntries : Nat := 16
/-- Fork records of a spill area (R151). -/
def spillEntries : Nat := 64
/-- Entries of a cluster's team table (R137). -/
def teamEntries : Nat := 120
/-- Endpoints of a die (R263). -/
def endpoints : Nat := 256
/-- Posted receives of a die (R265). -/
def postedReceives : Nat := 8192
/-- Grids of a root's table (R361). -/
def gridEntries : Nat := 256
/-- Records of the host FIFO (R379). -/
def fifoEntries : Nat := 256
/-- Entries of a core's translation cache (R202). -/
def coreCache : Nat := 64
/-- Entries of a cluster's translation cache (R202). -/
def clusterCache : Nat := 1024
/-- Cycles of a tick at 940 MHz (R2, R103): the core cycles that the machine's own order gives between two ticks (log 1). -/
def cyclesPerTick : Nat := 940
/-- Ports of a pod's circuit switch, of one fibre each (R345). -/
def switchPorts : Nat := 1024
/-- Strands of a package (R338). -/
def strands : Nat := 1024
/-- The start value of a sending cap, its floor and its ceiling, in bytes (R347). -/
def capStart : Nat := 64 * 1024
/-- The floor of a sending cap (R347). -/
def capFloor : Nat := 4 * 1024
/-- The ceiling of a sending cap (R347). -/
def capCeiling : Nat := 4 * 1024 * 1024

/-- Flits outstanding to one peer for one partition, at most (R348). -/
def flitCeiling : Nat := 32768
/-- Ticks of a dark interval and of the relock behind it, at most (R346). -/
def darkTicks : Nat := 10000 + 200
/-- Ticks of a retraining, at most (R341). -/
def retrainTicks : Nat := 500

/-- The byte at an offset of a save area beyond its header, in the save of a name: the layout is internal to the device
(R326), so nothing says which value it is (log 23). -/
opaque saveByte : Nat → Nat → BitVec 8

/-- The bit errors that a wavelength's FEC corrects in a tick (R340, R341, log 27). -/
opaque lineErrors : Nat → Nat

/-- The flits that a strand's transmit queue holds at a tick boundary (R342, log 27). -/
opaque queueDepth : Nat → Nat

/-- The period of the reference, within its tick, at which an acknowledgement arrives (R347, log 27). -/
opaque ackPeriod : Nat → Nat

/-- A link acknowledgement has covered a flit of the request of a name (R350, log 27). -/
opaque linkAcked : Nat → Bool

/-- The uncorrectable codewords that a wavelength counts at a link retry (R340, log 27). -/
opaque badWords : Nat → Nat

/-- The uncorrectable codewords that a wavelength counts in a tick besides those of a retry (R340, log 27). -/
opaque idleWords : Nat → Nat

/-- The route, among several, that the fabric dies compute at a reconfiguration of a name from one node to another (R345, log
127). -/
opaque routeChoice : Nat → Nat → Nat → Nat

end Sys2Proof.Config
end

