-- ==== Sys2Proof/Machine/Generator.lean ====
section
/-!
DEFINITION. Vectors by index, and the 64 rounding generators of a thread (R166).
-/

namespace Sys2Proof.Machine

/-- The vector whose entry i is `f i`. -/
def tab {α : Type} (n : Nat) (f : Nat → α) : Vector α n := ⟨((List.range n).map f).toArray, by simp⟩

/-- The start value of generator i from SEED (R166). -/
def genSeed (seed : W32) (i : Nat) : W32 :=
  let x := seed ^^^ BitVec.ofNat 32 (0x9E3779B9 * (i + 1))
  if x = 0 then 1 else x

/-- S[0] to S[63] from SEED (R166). -/
def genSeeds (seed : W32) : Vector W32 64 := tab 64 (genSeed seed)

/-- `step(x)` of R166: the new state, which is also the value drawn. -/
def genStep (x : W32) : W32 :=
  let a := x ^^^ (x <<< 13)
  let b := a ^^^ (a >>> 17)
  b ^^^ (b <<< 5)

/-- The SEED of a thread that starts with these G1 and G2 (Table 2-8, Table 5-2). -/
def startSeed (g1 g2 : W64) : W32 := (g1 * 0x9E3779B9#64 + g2).setWidth 32

end Sys2Proof.Machine
end

