-- ==== Sys2Proof/Machine/State.lean ====
section
/-!
DEFINITION. The state of a connected group of packages as plain data, the reasons a step can stop, and the state right
after reset. Collections of like units (threads, cores, dies, leases) are lists of (key, value) with strictly rising keys;
a unit that is not listed holds its reset value, which the unit's own `reset` gives. INVENTORY.md lists the rule that
names each field.
-/

namespace Sys2Proof.Machine

/-- Sparse data by key: strictly rising keys. -/
abbrev Map (α : Type) := List (Nat × α)

/-- The 64 lanes of a vector register (R170). -/
abbrev Lanes := Vector W32 64

/-- Every lane 0. -/
def Lanes.zero : Lanes := Vector.replicate 64 0

/-- A register with its full/empty bit (R44) and its poison mark (R313). -/
structure Reg (α : Type) where
  val : α
  full : Bool
  bad : Bool
  deriving DecidableEq, Repr

/-- A full register of a value. -/
abbrev Reg.of {α : Type} (x : α) : Reg α := ⟨x, true, false⟩

/-- A register that has a full/empty bit, by its field value (R44, R47). -/
inductive RegRef where
  | g (r : BitVec 4)
  | v (r : BitVec 5)
  | q (r : BitVec 4)
  | m (r : BitVec 2)
  deriving DecidableEq, Repr

/-- The role of a register in TINFO0 (R47). -/
inductive Role where
  | source | dest | guard
  deriving DecidableEq, Repr

/-- A register an instruction waits on, with its field as encoded and its role (R47). -/
structure Await where
  ref : RegRef
  field : Nat
  role : Role
  deriving DecidableEq, Repr

/-- The trap causes of Table 2-11; overlay entry has code 0. -/
inductive Cause where
  | overlay | illegal | header | empty | emptyTimeout | lapsed | stale | unheld | access | align | matrixUnavailable
  | gang | check | poison | deque | privilege | trap | brk | sys | path
  deriving DecidableEq, Repr

/-- A cause with TINFO0 to TINFO2 (Table 13-5). -/
structure FaultInfo where
  cause : Cause
  t0 : W64
  t1 : W64
  t2 : W64
  deriving DecidableEq, Repr

/-- Engine statuses (Tables 10-2, 11-2, 13-14, 15-6). -/
inductive Status where
  | discarded | partial_ | lapsed | stale | access | poison | path | ringFull | gang | malformed | unheld
  | noEndpoint | truncated | full | unavailable | noTeam | cls | small | busy | noGrid | duplicate
  deriving DecidableEq, Repr

/-- Comparison of two 64-bit values (Tables 3-7, 3-8). -/
inductive CmpOp where
  | eq | ne | lt | le | ltu | leu | tz | tnz | gt | gtu
  deriving DecidableEq, Repr

/-- Combination of two predicates (Table 3-9). -/
inductive QOp where
  | and | or | xor | andn
  deriving DecidableEq, Repr

/-- What a deferred predicate computes (R49). -/
inductive DefOp where
  | cmp (k : CmpOp)
  | comb (k : QOp)
  deriving DecidableEq, Repr

/-- A source of a deferred predicate: the value it had or took when it filled, or the register awaited (R84). -/
inductive DefSrc where
  | val (v : W64)
  | pend (r : RegRef)
  deriving DecidableEq, Repr

/-- A deferred compare or combiner that keeps its predicate empty (R49). -/
structure Deferred where
  q : BitVec 4
  op : DefOp
  a : DefSrc
  b : DefSrc
  deriving DecidableEq, Repr

/-- How a header fetch was reached: a transfer of Table 2-3, trap entry, overlay entry, a resumption inside the block at a word
index, not compared when the index is not 0 or RFT resumes (R54, R101, R316), or the return of a thread that a pre-emption had
stopped there (R323). -/
inductive Via where
  | transfer (kind : Nat)
  | trapEntry
  | overlayEntry
  | resume (word : Nat) (compare : Bool)
  | saved (word : Nat) (compare : Bool)
  deriving DecidableEq, Repr

/-- A header fetch that is to be made before the next word issues (R57, R58). `src` is zext(BH) of the block that
transferred, 0 at a thread start (R54, R60). -/
structure Fetch where
  target : W64
  via : Via
  src : W64
  deriving DecidableEq, Repr

/-- The copy of a block that an execution uses (R57), and whether the checker compares this execution (R56, R101). -/
structure Block where
  hdr : W64
  words : List W32
  compare : Bool
  deriving DecidableEq, Repr

/-- How far the flag of STFL or VSTFL is: its data is not all accepted, its raise is on its way, or it has been made. -/
inductive FlagStage where
  | awaited | posted | made
  deriving DecidableEq, Repr

/-- The value a producer will write when it fills (R46). -/
inductive PVal where
  /-- One G value. -/
  | g (v : W64)
  /-- A vector value, and whether every lane of it is written (R313). -/
  | v (x : Lanes) (whole : Bool)
  /-- A mask. -/
  | m (x : W64)
  /-- The lanes a vector load has received (R215). -/
  | lanes (xs : List (Nat × W32))
  /-- A handle or refusal code with the result predicate (R123). -/
  | gq (v : W64) (b : Bool)
  /-- STFL, VSTFL: the flag address, the lowest lane accepted so far and the node that homes it (R272, R273). -/
  | flag (fa : W64) (lane node : Nat) (stage : FlagStage)
  /-- LIFE of a lease homed in the own package: its expiry (R121). -/
  | lifeNear (x : Nat)
  /-- LIFE of a lease of another package: its remaining life at acceptance (R121). -/
  | lifeFar (w : Nat)
  deriving DecidableEq, Repr

/-- An instruction that has issued and whose answers, or whose result, are still to come: the registers it holds empty,
the flags its result sets (R169), how many answers are outstanding, the value collected, and the refusals met by lane (R217). -/
structure Pending where
  id : Nat
  /-- Offset of its word (TPC of a deferred fault, R308). -/
  word : Nat
  /-- The region it issued in (R317). -/
  region : Nat
  dst : Option RegRef
  also : Option RegRef
  /-- Flags its result sets; none: it can set no flag (R169). -/
  flags : Option (BitVec 6)
  left : Nat
  val : PVal
  refused : List (Nat × FaultInfo)
  /-- A vector access marks TINFO2[23:16] (R217). -/
  vector : Bool
  /-- A load or vector load, whose POISON may restart the region (R317). -/
  load : Bool
  /-- The taper when it issued, for LIFE (R121). -/
  issued : Nat
  /-- A Discard has given it up: its fault is dropped (R323). -/
  void : Bool
  /-- A producer (R46): it marks a register empty, or names G0 for it (R48). -/
  prod : Bool
  deriving DecidableEq, Repr

/-- A fault reported by a home (R308). -/
structure Answer where
  fault : FaultInfo
  word : Nat
  region : Nat
  pid : Nat
  load : Bool
  /-- It has reached the thread while TSTAT.IN was 1 and is held (R308). -/
  held : Bool
  deriving DecidableEq, Repr

/-- What keeps a thread out of the ready set apart from an implicit block. -/
inductive Hold where
  | none
  /-- An explicit wait (R140). -/
  | wait
  /-- GJOIN's answer to a request, bounded by ETO from a taper value (R128). -/
  | gjoin (since id : Nat)
  /-- FENCESC: earlier accesses homed in the scope drain (R235). -/
  | fencesc (s : Scope)
  /-- REL of a hold; the scope is fixed at the first check (R236). -/
  | rel (h : W64) (s : Scope) (checked : Bool)
  /-- TLBI (R209). -/
  | tlbi (id : Nat)
  /-- SRD or SWR of FLG waits for earlier results (R169). -/
  | flg
  /-- A system-register write that takes effect before the next instruction (R70). -/
  | regWrite (id : Nat)
  /-- A full command queue or channel (R246, R274). -/
  | queue (q : EngineQueue)
  /-- A record read behind the thread's own earlier accesses (R95, R247). -/
  | access (addr : W64) (len : Nat)
  /-- FORK's update of COUNT behind the thread's own earlier accesses and fences (R95, R150, R234). -/
  | update (addr : W64)
  /-- The block's end waits for a JOIN's outcome (R153). -/
  | blockEnd
  /-- A restart after poison waits for the taper to pass a value (R316). -/
  | tick (t : Nat)
  /-- Stopped by the pre-emption controller (R323). -/
  | preempted
  deriving DecidableEq, Repr

/-- A pending join (R154): the decrement is on its way, or refused with the fault of a pending instruction not yet delivered,
or its outcome is known. -/
inductive PJoin where
  | asked
  | refused (pid : Nat)
  | retire
  | continue_ (cont : Nat) (live : BitVec 16) (vals : List W64)
  deriving DecidableEq, Repr

/-- Whether a slot holds a thread, or one that has ended and whose accesses are not all complete (R90, R310). -/
inductive Life where
  | free | running | ended | stopped
  deriving DecidableEq, Repr

/-- An implicit block: the taper when it began and the registers awaited, in the order of R47. -/
structure Blocked where
  since : Nat
  regs : List Await
  deriving DecidableEq, Repr

/-- The fault a stopped thread's record carries (R310, R311). -/
structure StopInfo where
  event : Nat
  fault : FaultInfo
  tpc : W64
  t3 : W64
  /-- The thread belonged to a team, whose grid counts the fault (R367). -/
  counts : Bool
  deriving DecidableEq, Repr

/-- One thread's state (Table 2-1 and the thread-scope registers of Table 2-8). -/
structure Thread where
  life : Life
  g : Vector (Reg W64) 16
  q : Vector (Reg Bool) 16
  m : Vector (Reg W64) 4
  /-- V0 to V15, O0 to O7, LV, LL by field value (Table 2-5). -/
  v : Vector (Reg Lanes) 26
  j : Vector W64 4
  bh : BitVec 19
  pc : BitVec 19
  tvb : BitVec 19
  tcause : W64
  tpc : W64
  tinfo : Vector W64 4
  /-- RPC: RHDR and RWORD (Table 13-3). -/
  rhdr : BitVec 19
  rword : BitVec 7
  eto : W32
  flg : BitVec 6
  seed : W32
  cdone : Nat
  ccnt : Nat
  /-- Completed job IDs above CDONE (R250). -/
  jobsDone : List Nat
  space : BitVec 16
  /-- TSTAT: IN, DEF, RES (Table 13-2). -/
  inHandler : Bool
  deferred : Bool
  res : BitVec 19
  ctxh : W64
  /-- RSTC: N and CKR (Table 13-4). -/
  restarts : BitVec 2
  ckr : Bool
  prog : W32
  lavg : BitVec 16
  spill : W64
  teamNo : BitVec 7
  gridf : W64
  scsel : BitVec 13
  /-- Generator states S[0..63] and the region's checkpoint of them (R166). -/
  gen : Vector W32 64
  genCk : Vector W32 64
  block : Option Block
  fetch : Option Fetch
  /-- The checker's CRC (R56); header of the region's first mismatching block and its CRC (R318). -/
  crc : BitVec 20
  ckHdr : BitVec 19
  ckCrc : BitVec 20
  blocked : Option Blocked
  hold : Hold
  pending : List Pending
  deferredQ : List Deferred
  answers : List Answer
  pjoin : Option PJoin
  /-- The pending join was carried into the handler that runs (R154). -/
  joinHeld : Bool
  /-- A count of region changes, and the mark that the current one was restarted and its first word has not issued. -/
  region : Nat
  restarted : Bool
  /-- The block index of the thread's team (R311). -/
  blockIx : Nat
  /-- Top of its stack sub-page, 0 where it was given none (Table 5-2). -/
  stack : Nat
  /-- Its team has been abandoned: it writes nothing more (R328). -/
  abandoned : Bool
  stop : Option StopInfo
  deriving DecidableEq, Repr

/-- A fork task record (Table 5-7), with the thread that pushed it and its place in that thread's issue order (R150). -/
structure ForkRec where
  target : Nat
  live : BitVec 16
  teamNo : Nat
  jrec : W64
  vals : List W64
  by_ : Tid
  seq : Nat
  /-- Its place in its team's spill area, when it is there (R151). -/
  spot : Option Nat
  deriving DecidableEq, Repr

/-- The guard of a queued engine command (R66, R248). -/
inductive GuardVal where
  | known (b : Bool)
  | pend (q : BitVec 4) (neg : Bool)
  deriving DecidableEq, Repr

/-- A queued engine command: the instruction, the operand values and records snapshotted at issue (R247). -/
structure Cmd where
  id : Nat
  tid : Tid
  ctx : W64
  space : BitVec 16
  ins : Instr
  a : W64
  b : W64
  /-- The records read at issue, as 8-byte words. -/
  recw : List W64
  /-- The job ID, for CPY and SEND (R250). -/
  job : Nat
  guard : GuardVal
  word : Nat
  deriving DecidableEq, Repr

/-- A cached translation: space, page or sub-page number, and the leaf (R202). -/
structure CacheEntry where
  space : BitVec 16
  sub : Bool
  page : Nat
  leaf : W64
  /-- In a cluster's cache: its cores whose own TLBI has removed the leaf for them alone (R209). -/
  barred : List Nat
  deriving DecidableEq, Repr

/-- A core: its registers, its inbox and deque, and what its agent and its scratchpad hold (R23, R62, R132, R151, R193). -/
structure Core where
  xb : BitVec 20
  ovh : BitVec 19
  spw : Vector W64 4
  tfrb : BitVec 19
  /-- L of R132. -/
  last : BitVec 4
  halted : Bool
  inbox : List (List W64)
  /-- Teams of the head record already placed (R135). -/
  placed : Nat
  /-- Fork records, newest first: the first 16 in the hardware deque, the rest in spill areas (R151). -/
  forks : List ForkRec
  /-- Thread-fault records held because the slot's pending bit is set (R311), by slot, oldest first. -/
  heldRecs : Map (List (List W64))
  matrixQ : List Cmd
  cache : List CacheEntry
  /-- Reply words accepted, by slot, and not yet applied: the access whose fault each answers, and the word (R207). -/
  replies : Map (Nat × W64)
  /-- The scratchpad's failed banks, the one that is being rebuilt into the spare, and whether the spare is used (R193). -/
  badBanks : List Nat
  rebuilding : Option Nat
  spareUsed : Bool
  /-- The taper of the last load exchange, and the load figure computed at that boundary (R376). -/
  exchanged : Nat
  figure : Nat
  /-- Slot 0's own count of the inbox records it dropped for their kind (R374). -/
  dropped : Nat
  deriving DecidableEq, Repr

/-- A weight bank of a slice (R279): validity, B format, image, and its data and scale bytes in the order of R278. -/
structure Bank where
  valid : Bool
  fmt : Nat
  img : Nat
  data : List Byte
  deriving DecidableEq, Repr

/-- A tile: its elements that are not +0, by 32 × row + column, and its sticky bits (R283, R284, R299). -/
structure Tile where
  el : Map W32
  nan : Bool
  inf : Bool
  csat : Bool
  suspect : Bool
  deriving DecidableEq, Repr

/-- A slice of the matrix array (R274, R279, R284, R288, R297). -/
structure Slice where
  tiles : Vector Tile 4
  /-- CP and CN by 32 × row + column; unlisted are 0 (R284). -/
  counts : Map (Nat × Nat)
  /-- CPAIR: none, or the even tile of the pair. -/
  cpair : Option (Fin 2)
  active : Bank
  shadow : Bank
  /-- Which physical bank is the active one, for MSTAT item 6. -/
  activeIx : Bool
  agt : W32
  agk : W32
  agz : Nat
  age : Nat
  ago : Nat
  lastCtx : Option W64
  /-- The queued command for which the slice has scrubbed its state, until that starts (R301). -/
  scrubFor : Option Nat
  /-- Physical row group of logical groups 0 to 7, fenced groups, self-tests run, next group to test (R297 to R299). -/
  groupMap : List Nat
  fenced : List Nat
  tests : Nat
  nextTest : Nat
  /-- By physical row group, a mask of the tiles that received an accumulation since its last passing test (R299). -/
  touched : Vector Nat 10
  deriving DecidableEq, Repr

/-- A chain channel of the copy unit (R260). -/
structure Chain where
  state : Nat
  at_ : W64
  kick : Bool
  tid : Tid
  /-- The job performing the current record's transfer, and the record's NEXT, read with it. -/
  job : Option Nat
  next : W64
  deriving DecidableEq, Repr

/-- The state of a team-table entry (R136, R324). -/
inductive TeamState where
  | running | preempting | saved | resuming
  deriving DecidableEq, Repr

/-- What a save area records (R324 to R326): the name of the save, its header, the threads and fork records by the key of
their slot or core, the slices of the matrix record by core, and the bytes written. -/
structure Saved where
  id : Nat
  hdr : List W64
  threads : Map Thread
  forks : Map (List ForkRec)
  matrix : Map Slice
  bytes : Nat
  deriving DecidableEq, Repr

/-- A team-table entry (R134 to R138, R324). -/
structure Team where
  state : TeamState
  ctx : W64
  block : Nat
  size : Nat
  gridf : W64
  group : W64
  space : BitVec 16
  tvb : BitVec 19
  gsize : Nat
  /-- Slots of the team's threads, forked ones included, that have not ended. -/
  members : List Tid
  /-- The core whose inbox placed it. -/
  core : CoreId
  spills : Map W64
  /-- A thread of the team stopped (R365). -/
  faulted : Bool
  saved : Option Saved
  /-- The save area was written whole (R330). -/
  complete : Bool
  deriving DecidableEq, Repr

/-- A gang command in progress on the eight slices (R279, R290, R291). -/
structure Gang where
  id : Nat
  /-- The members' commands, core 0 first. -/
  cmds : List Cmd
  /-- MMA: rows that have entered. -/
  rows : Nat
  /-- Bytes read: for MMA the current row's by core, for MWLD every unit's by 256 × core + unit. -/
  got : Map (List Byte)
  /-- Units read or refused (MWLD). -/
  settled : Nat
  /-- The first refusal of each core. -/
  refused : Map Status
  /-- No further row enters: the last has entered, or a read was refused. -/
  shut : Bool
  deriving DecidableEq, Repr

/-- A drain in progress (R293): the units still to be written, the bytes accepted, and the counts of R286. -/
structure Drain where
  cmd : Cmd
  left : List (W64 × List Byte)
  accepted : Nat
  refused : Option FaultInfo
  agz : Nat
  age : Nat
  ago : Nat
  deriving DecidableEq, Repr

/-- A cluster (R246, R260, R276, R299, R322). -/
structure Cluster where
  copyQ : List Cmd
  msgQ : List Cmd
  launchQ : List Cmd
  /-- LAUNCHes that have passed their checks and wait for their threads' earlier accesses (R361). -/
  launching : List Cmd
  copyRR : Nat
  msgRR : Nat
  launchRR : Nat
  chains : Vector Chain 4
  teams : Map Team
  cache : List CacheEntry
  mxFailed : Bool
  /-- Members arrived at the gang barrier: core numbers; taper of the first arrival (R276). -/
  arrived : List Nat
  arriveT : Nat
  /-- Gang commands in progress, oldest first. -/
  mma : List Gang
  mwld : List Gang
  mtest : Option Gang
  /-- Drains in progress by core (R293). -/
  drains : Map Drain
  /-- Array cycles in which rows entered since the last due test, tests due, and tests that failed while an MMA runs
  (R298, R299). -/
  stream : Nat
  testsDue : Nat
  testFails : List Nat
  deriving DecidableEq, Repr

/-- Lease kinds (Table 4-2). -/
inductive LKind where
  | range | lock | group | recv | path | ctx
  deriving DecidableEq, Repr

/-- Lease-table entry states (Table 4-3). -/
inductive LState where
  | free | live | smoke
  deriving DecidableEq, Repr

/-- A kind's own fields (R108). -/
inductive LBody where
  | none
  /-- Base address as granted, size, physical key of its first byte, whether its zeroing has finished after a lapse. -/
  | range (base : W64) (size : Nat) (phys : Nat) (zeroed : Bool)
  /-- Key address and physical key, holding thread, detached (R118). -/
  | lock (key : W64) (phys : Nat) (owner : Tid) (detached : Bool)
  /-- Member count, threads joined; a team's own group sits in the cluster's table (R122, R137). -/
  | group (n : Nat) (joined : List Tid) (team : Bool)
  | recv (ep : Nat)
  | path (node : Nat)
  /-- Descriptor address, SPACE, TVB (Table 4-5); the parent context is `holder2`. -/
  | ctx (desc : W64) (space : BitVec 16) (tvb : BitVec 19)
  deriving DecidableEq, Repr

/-- A lease-table entry (R108, R110). -/
structure Lease where
  state : LState
  kind : LKind
  gen : Nat
  x : Nat
  /-- The taper when X was last set; of a lease that has lapsed, the taper of its lapse boundary (R109, R110). -/
  since : Nat
  holder : W64
  holder2 : W64
  body : LBody
  /-- An uncorrectable error has struck the entry: it lapses at the next boundary, whatever renews it (R313). -/
  spoiled : Bool
  deriving DecidableEq, Repr

/-- A lock of a die's directory (R117): the physical key of its key address, that address as its first user gave it,
the index of its current hold, its previous holder and the handle of that holder's lapsed hold. -/
structure Lock where
  key : Nat
  addr : W64
  hold : Option Nat
  prev : Option Tid
  prevHold : W64
  deriving DecidableEq, Repr

/-- A binding (R118): the bound range's lease index on this die, and the lock's die and key. -/
structure Binding where
  range : Nat
  die : DieId
  key : Nat
  deriving DecidableEq, Repr

/-- A posted receive (R265, Table 10-7). -/
structure Posted where
  lease : W64
  pattern : W64
  mask : W64
  done : W64
  dest : List W64
  tid : Tid
  ctx : W64
  space : BitVec 16
  deriving DecidableEq, Repr

/-- An endpoint of a receive engine (R263, R264). -/
structure Endpoint where
  live : Bool
  gen : Nat
  endedAt : Nat
  ctx : W64
  range : Nat
  base : W64
  n : Nat
  resv : Nat
  posted : List Posted
  /-- Physical key of the HEAD word. -/
  head : Nat
  /-- HEAD has been stored to and the senders are not yet signalled (R264, R269). -/
  headMoved : Bool
  /-- The thread that created it, for the checks of ring writes. -/
  tid : Tid
  deriving DecidableEq, Repr

/-- A compute die. -/
structure Die where
  leases : Map Lease
  locks : List Lock
  binds : List Binding
  endpoints : Map Endpoint
  part : W64
  pvc : W64
  deriving DecidableEq, Repr

/-- A strand of the Pleade fabric (R338 to R343). Wavelength sets are bit masks. -/
structure Strand where
  active : BitVec 8
  retrain : BitVec 8
  parked : BitVec 8
  retired : BitVec 8
  park : BitVec 3
  wake : BitVec 8
  peer : BitVec 16
  up : Bool
  /-- Pre-FEC bit errors of each of the last 64 ticks, newest first, and uncorrectable codewords, by wavelength. -/
  errs : Vector (List Nat) 8
  bad : Vector Nat 8
  /-- The taper at which each wavelength's retraining began. -/
  retrainT : Vector Nat 8
  /-- Wavelengths whose window has risen above 20 and that have not been retrained since (R341). -/
  risen : BitVec 8
  /-- Failed retries in a row of one flit (R350). -/
  retries : Nat
  /-- Parked wavelengths have been woken; tick boundaries since the queue was last at WAKE (R342). -/
  woken : Bool
  below : Nat
  /-- Flits in the transmit queue, as the last tick boundary found it (R342, log 27). -/
  queue : Nat
  /-- The number of the strand at the other end of its circuit; 1,024: no circuit joins it. -/
  far : Nat
  deriving DecidableEq, Repr

/-- The sending cap for one peer and partition (R347). -/
structure Cap where
  bytes : Nat
  /-- Payload bytes and flits sent and not yet covered by an acknowledgement (R347, R348). -/
  out : Nat
  flits : Nat
  samples : List Nat
  /-- The periods of the reference at the last halving, and at the last acknowledgement. -/
  halvedAt : Option Nat
  ackAt : Nat
  deriving DecidableEq, Repr

/-- A grid of a root's table (R361 to R371). -/
structure Grid where
  gid : Nat
  /-- The LAUNCH, with its header: its thread, the launching context, the CTX handle. -/
  cmd : Cmd
  /-- The thread that launched it, under the name that it has now (R361, log 24). -/
  owner : Tid
  /-- The taper at its acceptance. -/
  started : Nat
  /-- Packages in scope; those the header was sent to; those that acknowledged, with their eligible clusters. -/
  inscope : List Nat
  sentTo : List Nat
  acked : Map (List (Nat × Nat))
  /-- The acknowledgement phase goes on, until this taper. -/
  acking : Bool
  ackT : Nat
  /-- The root's next block; ranges that dies hold and have not dealt; blocks dealt of each STATIC slot. -/
  next : Nat
  reserve : List (DieId × Nat × Nat)
  slotNext : Map Nat
  /-- Packages that have placed a record. -/
  placed : List Nat
  dealt : Nat
  completed : Nat
  faulted : Nat
  lost : Nat
  cancelled : Nat
  /-- Blocks that each package holds and that are not yet counted. -/
  held : Map Nat
  /-- Packages whose dispatchers have stopped dealing, and those whose path has lapsed. -/
  stopped : List Nat
  gone : List Nat
  /-- The fault report: counts by cause, TOTAL, entries. -/
  causes : Map Nat
  total : Nat
  entries : List (List W64)
  /-- The taper at its end, STATUS and LATE. -/
  ended : Option Nat
  status : Nat
  late : Bool
  /-- Its entry has been freed while its acknowledgement phase still went on (R361). -/
  freed : Bool
  deriving DecidableEq, Repr

/-- A report of a package to a grid's root on its way (R365, R367): blocks of a class, a fault record, or a failed gang
barrier. -/
structure Report where
  id : Nat
  root : Nat
  gid : Nat
  node : Nat
  /-- 0 COMPLETED, 1 FAULTED, 2 LOST, 3 CANCELLED; 4 a fault record; 5 a failed gang barrier. -/
  cls : Nat
  count : Nat
  entry : List W64
  deriving DecidableEq, Repr

/-- One firmware slot or marker copy of the module flash (R384). -/
structure Flash where
  validA : Bool
  validB : Bool
  /-- Marker copies: valid, sequence number, names slot B. -/
  mark0 : Bool × Nat × Bool
  mark1 : Bool × Nat × Bool
  deriving DecidableEq, Repr

/-- What is common to a package. -/
structure Package where
  /-- The taper of every die of the package (R104). -/
  taper : Nat
  phase : Nat
  slotB : Bool
  reason : Nat
  booted : Bool
  hack : W32
  hlast : Nat
  grids : Map Grid
  nextGid : Nat
  fifo : List (List W64)
  /-- FIFO records already copied into the ring since the last firmware start. -/
  copied : Nat
  subwin : Vector W64 8
  dropped : Nat
  /-- The host's last read (R378). -/
  hostRead : W64
  /-- PART and PVC values of host records that were refused: slot 0's telemetry (R380). -/
  refusedParts : Nat
  strands : Map Strand
  caps : Map Cap
  /-- Peers whose link is dead (R350). -/
  deadLinks : List Nat
  /-- Strands whose circuits are being changed: draining, then dark (R346). -/
  changing : List Nat
  darkNow : Bool
  /-- The taper at which the dark interval began. -/
  darkT : Nat
  /-- How often circuits of the pod have been set: the names of its choices of routes (R345, the model's own field). -/
  relocks : Nat
  /-- The new circuits have locked, and the relock ends at the next tick boundary of this package: the nodes that what goes to them
  waits until then (R346). -/
  relock : Option (List Nat)
  flash : Flash
  deriving DecidableEq, Repr

/-- Regions of memory (R189, R192). -/
inductive Region where
  | scratch (cluster core : Nat)
  | bstack (cluster : Nat)
  | hbm
  | agent (cluster core : Nat)
  deriving DecidableEq, Repr

/-- A physical byte: its die, region and offset. -/
structure Phys where
  node : Nat
  die : Nat
  region : Region
  off : Nat
  deriving DecidableEq, Repr

/-- Atomic and reduction operations (R213, R214). -/
inductive AtomOp where
  | add | and | or | xor | min | max | minu | maxu | xchg | cas
  deriving DecidableEq, Repr

/-- What an access does at its home. -/
inductive AccOp where
  | load (sx : Bool)
  | store (bytes : List Byte)
  /-- Lanes with their byte offsets from the access address. -/
  | vload (ls : List (Nat × Nat))
  | vstore (ls : List (Nat × Nat × W32))
  | atom (op : AtomOp) (v e : W64)
  | red (op : AtomOp) (v : W64)
  /-- The write of the request port (R377). -/
  | port (words : List W32)
  /-- STFW, STFD (R212). -/
  | stf (bytes : List Byte)
  | sete
  | setf
  | join
  /-- The data of STFL.W, STFL.D (R272). -/
  | stfl (bytes : List Byte)
  /-- A read of a register of die, slice, package, strand or wavelength scope (R70), with SCSEL as it stood (R343). -/
  | sysreg (n : Nat) (sel : BitVec 13)
  | engRead
  /-- A key on its way to its home (R146). -/
  | key
  /-- An engine write of bytes at offsets; its words are set full (R230). -/
  | engWrite (ls : List (Nat × Byte))
  /-- Add 1 to a doubleword and set it full (R254, R272). -/
  | raise
  deriving DecidableEq, Repr

/-- Whose access it is. -/
inductive Agent where
  /-- A pending instruction of the issuing thread. -/
  | thread (pid : Nat) (lane : Nat)
  /-- The same in another package, performed there: its answer awaits the end-to-end acknowledgement (R350, log 26). -/
  | performed (pid lane : Nat) (val : PVal)
  /-- Element k read by a copy job. -/
  | copyRead (job k : Nat)
  /-- A destination unit of a copy job, with the bytes it carries. -/
  | copyWrite (job n : Nat)
  /-- Element k of a message's payload. -/
  | msgRead (msg k : Nat)
  /-- Unit n that a message lands or writes to the ring; the header of a ring message is the unit after its last entry. -/
  | msgWrite (msg n : Nat)
  | mxRow (cluster : ClusterId) (core row : Nat)
  | mxUnit (cluster : ClusterId) (core unit : Nat)
  | mxDrain (core : CoreId) (n : Nat)
  /-- The read of an LCTX's descriptor by the service core (R122, R123). -/
  | descriptor (req : Nat)
  /-- The translation of an LLOCK's key (R146). -/
  | lockKey (seq : Nat)
  /-- A unit of a save area, written by a pre-emption or read by a resume (R330, R331). -/
  | save (preempt unit : Nat)
  deriving DecidableEq, Repr

/-- Translation of an access (R202, R204). -/
inductive Trans where
  /-- A register has no address: nothing is translated (R70, R96). -/
  | register
  | need
  | done (p : Phys)
  /-- A reply has asked for another walk; the thread is still out of the ready set (R207). -/
  | again
  /-- A fault record was posted and the reply is awaited. -/
  | faulted
  /-- The record waits for room in the ring. -/
  | ringFull (recw : List W64)
  deriving DecidableEq, Repr

/-- One unit of an access in flight: issued and not yet accepted or refused at its home (R210, R218). -/
structure Acc where
  id : Nat
  tid : Tid
  ctx : W64
  space : BitVec 16
  agent : Agent
  word : Nat
  op : AccOp
  ea : W64
  len : Nat
  trans : Trans
  /-- Accepted for transmission to another package (R119, R348). -/
  sent : Bool
  /-- A flag release held for promotion (R226). -/
  promoted : Bool
  /-- The issuing core's XB, and whether the address lay in one of its sub-page windows, as it issued (R45, R63, R201). -/
  xb : BitVec 20
  sub : Bool
  /-- It has waited at the fabric die over a tick boundary, so that ETO does not apply (R346, R348). -/
  held : Bool
  /-- The name that stands for its arrival at the fabric die: its own, or one given as its place became known (R348). -/
  arrived : Nat
  deriving DecidableEq, Repr

/-- What a wait waits for (Table 5-3). -/
inductive WaitKind where
  | full
  | matches_ (v : W32)
  | taper (a : W64)
  | jobs (a : W64)
  | bar (handle : W64)
  | ring (old : W32) (d : BitVec 4)
  | lock (life : Nat) (d : BitVec 4)
  | ldsw (d : BitVec 4)
  | ldsd (d : BitVec 4)
  | ldcw (d : BitVec 4)
  | ldcd (d : BitVec 4)
  deriving DecidableEq, Repr

/-- A wait: on its way to its deciding place, queued there since a taper value, or (BAR) won and waiting for the
arrivals' accesses to drain (R140, R145). -/
inductive WaitStage where
  | sent
  | queued (t0 : Nat)
  | won (drains : List (Tid × Nat)) (s : Scope)
  /-- Decided at its home in another package: the answer waits there while the circuits of its way are being changed (R346). -/
  | answered (ok : Bool) (val : Option W64) (fault : Option FaultInfo)
  deriving DecidableEq, Repr

/-- A wait of a thread (R140). `seq` is its place in the thread's issue order; `resv` the lease entry reserved, and `key`
the place of the key, once LLOCK is accepted (R146). -/
structure QWait where
  seq : Nat
  tid : Tid
  ctx : W64
  word : Nat
  kind : WaitKind
  addr : W64
  q : BitVec 4
  t : Nat
  stage : WaitStage
  resv : Option Nat
  key : Option Phys
  deriving DecidableEq, Repr

/-- A FENCE in force: accesses of the thread issued after `seq` and homed in the scope wait for earlier ones (R234). -/
structure FenceRec where
  tid : Tid
  seq : Nat
  scope : Scope
  deriving DecidableEq, Repr

/-- A lease request or a lease instruction on its way to its home (R123, R125 to R129). -/
structure LeaseReq where
  id : Nat
  tid : Tid
  ctx : W64
  ins : Instr
  a : W64
  b : W64
  word : Nat
  /-- LCTX: the descriptor's words, once the service core has read them (R122). -/
  desc : Option (List W64)
  deriving DecidableEq, Repr

/-- A system-register write on its way to its unit (R70). -/
structure RegWrite where
  id : Nat
  tid : Tid
  reg : Nat
  val : W64
  sel : BitVec 13
  deriving DecidableEq, Repr

/-- A copy job, or the transfer of a chain record (R255, R260). -/
structure Job where
  id : Nat
  cmd : Cmd
  /-- The chain channel it serves. -/
  chain : Option (ClusterId × Nat)
  src : List W64
  dst : List W64
  /-- Source bytes received, by element; how many destination units have had their writes issued, and one past the highest
  of them that is sure to have been issued: one was accepted or refused. -/
  got : Map (List Byte)
  issued : Nat
  top : Nat
  /-- Destination bytes accepted; the first refusal, and the first element whose read was refused. -/
  accepted : Nat
  refused : Option FaultInfo
  cut : Option Nat
  deriving DecidableEq, Repr

/-- Where a message stands (R266 to R269): not yet on its way, held behind an earlier message or waiting at the fabric die;
an offer on its way, the first or a later one; refused for want of room; landing in a receive; being written to the ring;
settled at the receiver. -/
inductive MsgPhase where
  | waiting (again : Bool)
  | offered (again : Bool)
  | refused
  | landing
  | ringing (entry : Nat)
  | settled
  deriving DecidableEq, Repr

/-- The ring a message is written to: its base and size, and who writes for the receiving context (R263, R264). -/
structure RingRef where
  base : W64
  n : Nat
  tid : Tid
  ctx : W64
  deriving DecidableEq, Repr

/-- A message (R264 to R269). -/
structure Msg where
  id : Nat
  cmd : Cmd
  key : W64
  dest : DieId
  ep : Nat
  gen : Nat
  tmo : Nat
  src : List W64
  phase : MsgPhase
  /-- The taper at the first offer, and at the last refusal of an offer (R269). -/
  firstOffer : Nat
  refusedAt : Nat
  /-- The receive it matched (R266), or its ring and its place in the order of decisions (R264). -/
  posted : Option Posted
  ring : Option RingRef
  order : Nat
  got : Map (List Byte)
  issued : List Nat
  top : Nat
  accepted : Nat
  /-- The first source element refused, with its cause; the first refusal of a write. -/
  cut : Option (Nat × FaultInfo)
  refused : Option FaultInfo
  headerOut : Bool
  flagFault : Option Status
  /-- Its link has died: the sender's token is filled, and the receiver goes on with what it has (R269). -/
  dead : Bool
  /-- The name that stands for its header's arrival at the fabric die; 0: it has not arrived (R348). -/
  arrived : Nat
  deriving DecidableEq, Repr

/-- A TLBI in progress (R209): agents that have not yet acknowledged. -/
structure TlbiReq where
  id : Nat
  tid : Tid
  waiting : List CoreId
  /-- Accesses translated with a removed entry that are not yet settled. -/
  accs : List Nat
  /-- The cores it reaches, and what it selects: the KIND, space and address of its operands, and REACH. -/
  cores : List CoreId
  kind : Nat
  space : BitVec 16
  va : W64
  reach : Nat
  deriving DecidableEq, Repr

/-- A pre-emption or a resume in progress (R322 to R331). -/
structure Preempt where
  id : Nat
  cmd : Cmd
  cluster : ClusterId
  team : Nat
  resume : Bool
  /-- RESP and FALL of Table 13-11. -/
  resp : Nat
  fall : Bool
  started : Nat
  deadline : Nat
  area : W64
  /-- Threads still to stop: at once (none), or at the boundary of a region other than the one given (Drain). -/
  draining : List (Tid × Option Nat)
  /-- Threads whose record is a Save's. -/
  saves : Nat
  /-- Units of the area, and the next one to write or read. -/
  units : Nat
  next : Nat
  accepted : Nat
  /-- A unit read is not as it was written (R326). -/
  bad : Bool
  /-- The team has been abandoned meanwhile (R328, R334). -/
  abandoned : Bool
  deriving DecidableEq, Repr

/-- A flag raise of STFL or VSTFL that its data's acceptance has made due (R272, R273). -/
structure FlagRaise where
  id : Nat
  tid : Tid
  ctx : W64
  word : Nat
  pid : Nat
  node : Nat
  flag : W64
  vector : Bool
  /-- The issuing core's XB as the instruction issued (R45). -/
  xb : BitVec 20
  deriving DecidableEq, Repr

/-- A cancel notice on its way to a package (R369). -/
structure Notice where
  id : Nat
  node : Nat
  ctx : W64
  deriving DecidableEq, Repr

/-- The owner tag of a granule range that is not as at reset: marked SYSTEM by the loader or the firmware (R114, R124). -/
structure SysRange where
  start : Nat
  len : Nat
  deriving DecidableEq, Repr

/-- What reaches the machine from outside or of itself and stands in no row of the instruction table: an uncorrectable error of a
register, of an element of a tile, of a binding or of a posted receive (R313); a host read of the register region (R378); a
step of a firmware update, begun or done (R384); the self-test of a cluster in bring-up with the groups that fail (R385). -/
inductive Device where
  | register (t : Tid) (r : RegRef)
  | element (c : CoreId) (tile k : Nat)
  | binding (h : DieId) (range : Nat)
  | receive (h : DieId) (ep : Nat) (lease : W64)
  | hostRegister (n : Nat) (off : BitVec 12)
  | flashSlot (n : Nat) (done : Bool)
  | flashMarker (n : Nat) (done : Bool)
  | bringupTest (c : ClusterId) (bad : List Nat)
  deriving DecidableEq, Repr

/-- What moves next (log entry 1): the core whose cycle it is, with the slots that the cycle counts of R6 and R131 keep
from issuing in it, a step of another agent, or an event of the device. -/
inductive Turn where
  | issue (c : CoreId) (late : List Nat)
  | event (e : Instr)
  | device (d : Device)
  deriving DecidableEq, Repr

/-- The machine. -/
structure State where
  /-- The thread that issues: `exec` of an instruction acts on it (the model's own field). -/
  cur : Tid
  /-- The order in which the agents move (the model's own field, log entry 1). -/
  sched : List Turn
  /-- Core cycles that the machine's own order has given since its last tick, and its ticks (the model's own fields). -/
  ownCycles : Nat
  ownTicks : Nat
  /-- Names for things in flight, in issue order (the model's own field). -/
  nextId : Nat
  /-- Nodes of the connected group (R345). -/
  group : List Nat
  threads : Map Thread
  cores : Map Core
  slices : Map Slice
  clusters : Map Cluster
  dies : Map Die
  packages : Map Package
  /-- Bytes that are not 0, by physical key, keys strictly rising. -/
  mem : List Host.Cell
  /-- Scratchpad words whose tag is empty, by physical key of their first byte, strictly rising (R194). -/
  empties : List Nat
  /-- Poisoned 64-byte units, by physical key of their first byte, strictly rising (R196). -/
  poisoned : List Nat
  /-- Memory marked SYSTEM by the loader and the firmware (R114, R124). -/
  sysMem : List SysRange
  /-- The core that serves translation faults of a cluster, by cluster key; unlisted: core 0 of the cluster's die's cluster 0 (R204, log 13). -/
  service : Map CoreId
  accs : List Acc
  fences : List FenceRec
  waits : List QWait
  leaseReqs : List LeaseReq
  regWrites : List RegWrite
  jobs : List Job
  msgs : List Msg
  raises : List FlagRaise
  tlbis : List TlbiReq
  preempts : List Preempt
  reports : List Report
  notices : List Notice
  deriving DecidableEq, Repr

/-- Why a step stops with a fault. The manual gives every instruction and every machine step an effect (R10), so only
the model's own schedule raises one. -/
inductive Fault where
  /-- Raised by `step` when the schedule names a core or a slot that no package has (Table 2-9). Safe: no hardware does
  it, and nothing is claimed of such a step. -/
  | noPlace
  deriving DecidableEq, Repr

/-- Why an instruction has no meaning. -/
inductive Refusal where
  /-- Raised by `exec` for an instruction that the model has not reached, by its mnemonic. Safe: the machine stops. -/
  | notModelled (mnemonic : String)
  deriving DecidableEq, Repr

/-- A thread at its start (Table 2-1), in a free slot; what a start takes from elsewhere is 0 (log 4). -/
def Thread.reset : Thread where
  life := .free
  g := Vector.replicate 16 (.of 0)
  q := (Vector.replicate 16 (.of false)).set 0 (.of true)
  m := Vector.replicate 4 (.of (BitVec.allOnes 64))
  v := Vector.replicate 26 (.of Lanes.zero)
  j := Vector.replicate 4 0
  bh := 0
  pc := 8
  tvb := 0
  tcause := 0
  tpc := 0
  tinfo := Vector.replicate 4 0
  rhdr := 0
  rword := 0
  eto := 0xF4240
  flg := 0
  seed := 0
  cdone := 0
  ccnt := 1
  jobsDone := []
  space := 0
  inHandler := false
  deferred := false
  res := 0
  ctxh := 0
  restarts := 0
  ckr := false
  prog := 0
  lavg := 64
  spill := 0
  teamNo := 0
  gridf := 0
  scsel := 0
  gen := genSeeds 0
  genCk := genSeeds 0
  block := none
  fetch := none
  crc := 0xFFFFF
  ckHdr := 0
  ckCrc := 0
  blocked := none
  hold := .none
  pending := []
  deferredQ := []
  answers := []
  pjoin := none
  joinHeld := false
  region := 0
  restarted := false
  blockIx := 0
  stack := 0
  abandoned := false
  stop := none

/-- A core after module reset (Tables 2-8, 13-1; R132). -/
def Core.reset : Core where
  xb := 0x80000
  ovh := 0
  spw := Vector.replicate 4 0
  tfrb := 0x7EC00
  last := 15
  halted := false
  inbox := []
  placed := 0
  forks := []
  heldRecs := []
  matrixQ := []
  cache := []
  replies := []
  badBanks := []
  rebuilding := none
  spareUsed := false
  exchanged := 0
  figure := 0
  dropped := 0

/-- An invalid weight bank (R279). DESIGN CHOICE: its latched format and IMG are 0 (log 156). -/
def Bank.reset : Bank := ⟨false, 0, 0, []⟩
/-- A tile of +0 with its bits clear (R284). -/
def Tile.reset : Tile := ⟨[], false, false, false, false⟩

/-- A slice after module reset (R279, R284, R288, R297, R301). DESIGN CHOICE: logical groups 0 to 7 stand on physical groups 0 to 7
as delivered, and 8 and 9 are the spares (log 113); bank 0 is the active one (log 135). -/
def Slice.reset : Slice where
  tiles := Vector.replicate 4 Tile.reset
  counts := []
  cpair := none
  active := Bank.reset
  shadow := Bank.reset
  activeIx := false
  agt := 0
  agk := 0
  agz := 0
  age := 0
  ago := 0
  lastCtx := none
  scrubFor := none
  groupMap := List.range 8
  fenced := []
  tests := 0
  nextTest := 0
  touched := Vector.replicate 10 0

/-- An idle chain channel (R260). -/
def Chain.reset : Chain := ⟨0, 0, false, ⟨⟨0, 0, 0, 0⟩, 0⟩, none, 0⟩

/-- A cluster after module reset. -/
def Cluster.reset : Cluster where
  copyQ := []
  msgQ := []
  launchQ := []
  launching := []
  copyRR := 0
  msgRR := 0
  launchRR := 0
  chains := Vector.replicate 4 Chain.reset
  teams := []
  cache := []
  mxFailed := false
  arrived := []
  arriveT := 0
  mma := []
  mwld := []
  mtest := none
  drains := []
  stream := 0
  testsDue := 0
  testFails := []

/-- A lease-table entry that is FREE with GEN 1 (log 6). -/
def Lease.reset : Lease := ⟨.free, .range, 1, 0, 0, 0, 0, .none, false⟩
/-- An endpoint that is not in use (R263; its GEN: log 6). -/
def Endpoint.reset : Endpoint := ⟨false, 1, 0, 0, 0, 0, 0, 0, [], 0, false, ⟨⟨0, 0, 0, 0⟩, 0⟩⟩

/-- The handle of the supervisor context of a die, lease 0 of its table (R375, Table 4-1). -/
def supervisorCtx (node die : Nat) : W64 :=
  BitVec.ofNat 64 (node % 65536 * 2 ^ 48 + 5 * 2 ^ 44 + die % 4 * 2 ^ 42 + 1)

/-- A compute die after module reset (R352, R355, R375); its lease 0 is the supervisor context. -/
def Die.reset (node die : Nat) : Die where
  leases := [(0, ⟨.live, .ctx, 1, 2 ^ 64 - 1, 0, supervisorCtx node die, supervisorCtx node die, .ctx 0 0 0, false⟩)]
  locks := []
  binds := []
  endpoints := []
  part := 0
  pvc := 0xFFFF

/-- A strand that is not in use (R338 to R343). -/
def Strand.reset : Strand where
  active := 0
  retrain := 0
  parked := 0
  retired := 0
  park := 0
  wake := 16
  peer := 0
  up := false
  errs := Vector.replicate 8 []
  bad := Vector.replicate 8 0
  retrainT := Vector.replicate 8 0
  risen := 0
  retries := 0
  woken := false
  below := 0
  queue := 0
  far := Config.strands

/-- The module flash as delivered: both firmware slots valid, slot A named (log 3). -/
def Flash.reset : Flash := ⟨true, true, (true, 1, false), (true, 0, false)⟩

/-- A package after module reset (R104, R361, R378 to R385). -/
def Package.reset : Package where
  taper := 0
  phase := 0
  slotB := false
  reason := 0
  booted := false
  hack := 0
  hlast := 0
  grids := []
  nextGid := 0
  fifo := []
  copied := 0
  subwin := Vector.replicate 8 0
  dropped := 0
  hostRead := 0
  refusedParts := 0
  strands := []
  caps := []
  deadLinks := []
  changing := []
  darkNow := false
  darkT := 0
  relocks := 0
  relock := none
  flash := Flash.reset

/-- The machine right after module reset of its packages (R104, R194, R385): the group is one package, NODE 0 (log 10). -/
def State.reset : State where
  cur := ⟨⟨0, 0, 0, 0⟩, 0⟩
  sched := []
  ownCycles := 0
  ownTicks := 0
  nextId := 1
  group := [0]
  threads := []
  cores := []
  slices := []
  clusters := []
  dies := []
  packages := []
  mem := []
  empties := []
  poisoned := []
  sysMem := []
  service := []
  accs := []
  fences := []
  waits := []
  leaseReqs := []
  regWrites := []
  jobs := []
  msgs := []
  raises := []
  tlbis := []
  preempts := []
  reports := []
  notices := []

end Sys2Proof.Machine
end

