-- ==== Sys2Proof/Machine/Map.lean ====
section
/-!
DEFINITION. Reading and writing the sparse maps and sorted lists of the state, the keys of places, and lookups in lists.
-/

namespace Sys2Proof.Machine

/-- The entry of a key, if listed. -/
def Map.look {α : Type} : Map α → Nat → Option α
  | [], _ => none
  | (j, x) :: m, k => if j = k then some x else Map.look m k

/-- The entry of a key, `d` if it is not listed. -/
def Map.get {α : Type} (m : Map α) (d : α) (k : Nat) : α := (m.look k).getD d

/-- Put an entry at a key; keys stay strictly rising. -/
def Map.set {α : Type} : Map α → Nat → α → Map α
  | [], k, x => [(k, x)]
  | (j, y) :: m, k, x => if k < j then (k, x) :: (j, y) :: m else if k = j then (k, x) :: m else (j, y) :: Map.set m k x

/-- Remove the entry of a key. -/
def Map.erase {α : Type} (m : Map α) (k : Nat) : Map α := m.filter (fun e => e.1 ≠ k)

/-- The keys are strictly rising. -/
def Map.wf {α : Type} : Map α → Bool
  | [] => true
  | [_] => true
  | (j, _) :: (k, y) :: m => decide (j < k) && Map.wf ((k, y) :: m)

/-- Put a number into a strictly rising list. -/
def insertNat : List Nat → Nat → List Nat
  | [], k => [k]
  | j :: m, k => if k < j then k :: j :: m else if k = j then j :: m else j :: insertNat m k

/-- Remove a number. -/
def eraseNat (m : List Nat) (k : Nat) : List Nat := m.filter (· ≠ k)

/-- Key of a die, cluster, core or thread among all places. -/
def dieKey (h : DieId) : Nat := h.node * 4 + h.die
/-- Key of a cluster. -/
def clusterKey (c : ClusterId) : Nat := (c.node * 4 + c.die) * 64 + c.cluster
/-- Key of a core. -/
def coreKey (c : CoreId) : Nat := ((c.node * 4 + c.die) * 64 + c.cluster) * 8 + c.core
/-- Key of a thread. -/
def tidKey (t : Tid) : Nat := coreKey t.core * 16 + t.slot

/-- The place of a core key. -/
def coreOfKey (k : Nat) : CoreId := ⟨k / 2048, k / 512 % 4, k / 8 % 64, k % 8⟩
/-- The place of a thread key. -/
def tidOfKey (k : Nat) : Tid := ⟨coreOfKey (k / 16), k % 16⟩
/-- The place of a die key. -/
def dieOfKey (k : Nat) : DieId := ⟨k / 4, k % 4⟩
/-- The place of a cluster key. -/
def clusterOfKey (k : Nat) : ClusterId := ⟨k / 256, k / 64 % 4, k % 64⟩

/-- The cluster of a core. -/
def clusterOf (c : CoreId) : ClusterId := ⟨c.node, c.die, c.cluster⟩
/-- The die of a core. -/
def dieOf (c : CoreId) : DieId := ⟨c.node, c.die⟩
/-- The die of a cluster. -/
def dieOfCluster (c : ClusterId) : DieId := ⟨c.node, c.die⟩
/-- Core `i` of a cluster. -/
def coreIn (c : ClusterId) (i : Nat) : CoreId := ⟨c.node, c.die, c.cluster, i⟩

/-- What a thread's slot holds before anything is started in it: slot 0 belongs to the supervisor context (R375). -/
def Thread.resetAt (t : Tid) : Thread :=
  if t.slot = 0 then { Thread.reset with ctxh := supervisorCtx t.core.node t.core.die } else Thread.reset

/-- The thread in a slot. -/
def State.th (s : State) (t : Tid) : Thread := s.threads.get (Thread.resetAt t) (tidKey t)
/-- Replace the thread in a slot. -/
def State.setTh (s : State) (t : Tid) (x : Thread) : State := { s with threads := s.threads.set (tidKey t) x }
/-- Change the thread in a slot. -/
def State.modTh (s : State) (t : Tid) (f : Thread → Thread) : State := s.setTh t (f (s.th t))
/-- The thread that issues. -/
def State.me (s : State) : Thread := s.th s.cur
/-- Change the thread that issues. -/
def State.modMe (s : State) (f : Thread → Thread) : State := s.modTh s.cur f

/-- A core. -/
def State.core (s : State) (c : CoreId) : Core := s.cores.get Core.reset (coreKey c)
/-- Change a core. -/
def State.modCore (s : State) (c : CoreId) (f : Core → Core) : State :=
  { s with cores := s.cores.set (coreKey c) (f (s.core c)) }
/-- A slice, named by its core (R274). -/
def State.slice (s : State) (c : CoreId) : Slice := s.slices.get Slice.reset (coreKey c)
/-- Change a slice. -/
def State.modSlice (s : State) (c : CoreId) (f : Slice → Slice) : State :=
  { s with slices := s.slices.set (coreKey c) (f (s.slice c)) }
/-- A cluster. -/
def State.cluster (s : State) (c : ClusterId) : Cluster := s.clusters.get Cluster.reset (clusterKey c)
/-- Change a cluster. -/
def State.modCluster (s : State) (c : ClusterId) (f : Cluster → Cluster) : State :=
  { s with clusters := s.clusters.set (clusterKey c) (f (s.cluster c)) }
/-- A compute die. -/
def State.die (s : State) (h : DieId) : Die := s.dies.get (Die.reset h.node h.die) (dieKey h)
/-- Change a die. -/
def State.modDie (s : State) (h : DieId) (f : Die → Die) : State :=
  { s with dies := s.dies.set (dieKey h) (f (s.die h)) }
/-- A package. -/
def State.pkg (s : State) (n : Nat) : Package := s.packages.get Package.reset n
/-- Change a package. -/
def State.modPkg (s : State) (n : Nat) (f : Package → Package) : State :=
  { s with packages := s.packages.set n (f (s.pkg n)) }
/-- The taper of every die of a package (R104). -/
def State.taper (s : State) (n : Nat) : Nat := (s.pkg n).taper

/-- A fresh name, in issue order. -/
def State.fresh (s : State) : State := { s with nextId := s.nextId + 1 }

/-- Element `i` of a list, `d` past its end. -/
def nth {α : Type} (d : α) (l : List α) (i : Nat) : α := l.getD i d

/-- A 64-bit word of a list of words, 0 past its end. -/
def wordAt (l : List W64) (i : Nat) : W64 := l.getD i 0

/-- Bits [lo+n-1:lo] of a 64-bit value, as a number. -/
def bits (x : W64) (lo n : Nat) : Nat := x.toNat / 2 ^ lo % 2 ^ n

/-- Change the elements of a list that satisfy a test. -/
def mapIf {α : Type} (l : List α) (p : α → Bool) (f : α → α) : List α := l.map fun x => if p x then f x else x

end Sys2Proof.Machine
end

