-- ==== Sys2Proof/Machine/Memory.lean ====
section
/-!
DEFINITION. Memory (R7, R189 to R196): physical places and their keys, bytes, full/empty tags, poison, address classes.
An unlisted byte reads 0: the reset contents of scratchpad (R194); for B-stack and HBM DESIGN CHOICE, log 5.
-/

namespace Sys2Proof.Machine

/-- What an unlisted byte of memory reads as (R194, log 5). -/
def emptyByte : Byte := 0

/-- One byte of memory. -/
def readByte : List Host.Cell → Nat → Byte
  | [], _ => emptyByte
  | (j, b) :: m, k => if j = k then b else readByte m k

/-- Put a cell at its key. -/
def putByte : List Host.Cell → Nat → Byte → List Host.Cell
  | [], k, b => [(k, b)]
  | (j, c) :: m, k, b =>
    if k < j then (k, b) :: (j, c) :: m else if k = j then (k, b) :: m else (j, c) :: putByte m k b

/-- Write one byte, keeping the canonical form: a byte as an unlisted one reads is not listed. -/
def writeByte (m : List Host.Cell) (k : Nat) (b : Byte) : List Host.Cell :=
  if b = emptyByte then m.filter fun c => decide (c.1 ≠ k) else putByte m k b

/-- The canonical form: keys strictly rising from `lo`, no entry equal to what an unlisted byte reads as. -/
def Memory.wfFrom : Nat → List Host.Cell → Bool
  | _, [] => true
  | lo, (k, b) :: m => decide (lo ≤ k) && decide (b ≠ emptyByte) && Memory.wfFrom (k + 1) m

/-- The canonical form of memory. -/
def Memory.wf (m : List Host.Cell) : Bool := Memory.wfFrom 0 m

/-- `n` bytes from key `k`. -/
def readBytes (m : List Host.Cell) (k : Nat) : Nat → List Byte
  | 0 => []
  | n + 1 => readByte m k :: readBytes m (k + 1) n

/-- Write bytes from key `k` on. -/
def writeBytes (m : List Host.Cell) (k : Nat) : List Byte → List Host.Cell
  | [] => m
  | b :: bs => writeBytes (writeByte m k b) (k + 1) bs

/-- A little-endian number (R7). -/
def leNat : List Byte → Nat
  | [] => 0
  | b :: bs => b.toNat + 256 * leNat bs

/-- The `n` little-endian bytes of a number (R7). -/
def leBytes (x : Nat) : Nat → List Byte
  | 0 => []
  | n + 1 => BitVec.ofNat 8 x :: leBytes (x / 256) n

/-- Bytes of the scratchpads, B-stacks and HBM that a region's offset runs over (R3, R195). -/
def Region.size : Region → Nat
  | .scratch _ _ => Config.scratchBytes
  | .bstack _ => Config.bstackBytes
  | .hbm => Config.hbmBytes
  | .agent _ _ => Config.scratchBytes

/-- Key of a region's first byte within a die. -/
def Region.base : Region → Nat
  | .scratch k c => k * 2 ^ 22 + c * 2 ^ 19
  | .bstack k => 2 ^ 38 + k * 2 ^ 22
  | .hbm => 2 * 2 ^ 38
  | .agent k c => 3 * 2 ^ 38 + k * 2 ^ 22 + c * 2 ^ 19

/-- Key of a physical byte. -/
def Phys.key (p : Phys) : Nat := (p.node * 4 + p.die) * 2 ^ 40 + p.region.base + p.off

/-- The place of a key (inverse of `Phys.key`). -/
def physOfKey (k : Nat) : Phys :=
  let r := k % 2 ^ 40
  let o := r % 2 ^ 38
  let reg := match r / 2 ^ 38 with
    | 0 => Region.scratch (o / 2 ^ 22) (o / 2 ^ 19 % 8)
    | 1 => Region.bstack (o / 2 ^ 22)
    | 2 => Region.hbm
    | _ => Region.agent (o / 2 ^ 22) (o / 2 ^ 19 % 8)
  ⟨k / 2 ^ 42, k / 2 ^ 40 % 4, reg, (match r / 2 ^ 38 with | 1 => o % 2 ^ 22 | 2 => o | _ => o % 2 ^ 19)⟩

/-- Move within a region. -/
def Phys.plus (p : Phys) (n : Nat) : Phys := { p with off := p.off + n }
/-- The die a byte belongs to. -/
def Phys.home (p : Phys) : DieId := ⟨p.node, p.die⟩
/-- A scratchpad byte of a core. -/
def scratchAt (c : CoreId) (off : Nat) : Phys := ⟨c.node, c.die, .scratch c.cluster c.core, off⟩
/-- Whether a byte lies in a scratchpad. -/
def Phys.isScratch (p : Phys) : Bool := match p.region with | .scratch _ _ => true | _ => false

/-- The bytes of a place. -/
def State.bytes (s : State) (p : Phys) (n : Nat) : List Byte := readBytes s.mem p.key n
/-- A little-endian number in memory. -/
def State.peek (s : State) (p : Phys) (n : Nat) : Nat := leNat (s.bytes p n)
/-- Store bytes. -/
def State.poke (s : State) (p : Phys) (bs : List Byte) : State := { s with mem := writeBytes s.mem p.key bs }
/-- One byte of memory, as the frames of the statements read it. -/
def State.byteAt (s : State) (k : Nat) : Byte := readByte s.mem k

/-- The full/empty tag of the word that holds a byte (R194). -/
def State.isFull (s : State) (p : Phys) : Bool := !(s.empties.contains (p.key / 4 * 4))
/-- Set the tag of the word that holds a byte. -/
def State.setTag (s : State) (p : Phys) (full : Bool) : State :=
  if full then { s with empties := eraseNat s.empties (p.key / 4 * 4) }
  else { s with empties := insertNat s.empties (p.key / 4 * 4) }

/-- Whether the unit that holds a byte is poisoned (R196). -/
def State.isPoisoned (s : State) (p : Phys) : Bool := s.poisoned.contains (p.key / 64 * 64)
/-- A place in a scratchpad of which two banks have failed: two banks' symbols are in error in every row, whatever is stored
(R193). -/
def State.rowsLost (s : State) (p : Phys) : Bool :=
  match p.region with
  | .scratch k c => decide (2 ≤ (s.core ⟨p.node, p.die, k, c⟩).badBanks.length)
  | _ => false
/-- Set or clear the poison of the unit that holds a byte (R196); a row that two failed banks lose stays poisoned (R193). -/
def State.setPoison (s : State) (p : Phys) (bad : Bool) : State := { s with
  poisoned := if bad then insertNat s.poisoned (p.key / 64 * 64)
    else if s.rowsLost p then s.poisoned else eraseNat s.poisoned (p.key / 64 * 64) }

/-- Read 8-byte words from a place. -/
def State.peekWords (s : State) (p : Phys) : Nat → List W64
  | 0 => []
  | n + 1 => BitVec.ofNat 64 (s.peek p 8) :: s.peekWords (p.plus 8) n

/-- The address classes (Table 7-1): a place reached without translation, a virtual address, or nothing. -/
inductive AddrClass where
  | place (p : Phys)
  | virt
  | nothing
  deriving DecidableEq, Repr

/-- The class of an effective address of a thread on core `c` (R189 to R191). -/
def classify (c : CoreId) (a : W64) : AddrClass :=
  if bits a 56 8 = 0xF0 then
    if bits a 19 37 = 0 then .place (scratchAt c (bits a 0 19)) else .nothing
  else if bits a 56 8 = 0xF1 then
    let die := bits a 30 2
    let cl := bits a 24 6
    let core := bits a 19 3
    let g := bits a 32 1 = 1
    let s := bits a 22 1 = 1
    let ag := bits a 23 1 = 1
    if bits a 33 23 ≠ 0 ∨ (¬g ∧ (die ≠ 0 ∨ cl ≠ 0)) ∨ cl > 43 ∨ (ag ∧ s) then .nothing
    else
      let h := if g then die else c.die
      let k := if g then cl else c.cluster
      if s then .place ⟨c.node, h, .bstack k, bits a 0 22⟩
      else if ag then .place ⟨c.node, h, .agent k core, bits a 0 19⟩
      else .place ⟨c.node, h, .scratch k core, bits a 0 19⟩
  else if bits a 57 7 = 0 then .virt
  else .nothing

/-- The cluster-window address (G = 1) of a place in scratchpad, B-stack or an agent (Table 7-2). -/
def windowAddr (p : Phys) : W64 :=
  let base := 0xF1 * 2 ^ 56 + 2 ^ 32 + p.die * 2 ^ 30
  match p.region with
  | .scratch k c => BitVec.ofNat 64 (base + k * 2 ^ 24 + c * 2 ^ 19 + p.off)
  | .bstack k => BitVec.ofNat 64 (base + k * 2 ^ 24 + 2 ^ 22 + p.off)
  | .agent k c => BitVec.ofNat 64 (base + k * 2 ^ 24 + 2 ^ 23 + c * 2 ^ 19 + p.off)
  | .hbm => 0

/-- Whether a place lies in the memory of a scope, for a thread on core `c` (R220, Table 8-1). -/
def homedIn (c : CoreId) (p : Phys) : Scope → Bool
  | .thread => false
  | .core => decide (p.node = c.node) && decide (p.die = c.die) && decide (p.region = .scratch c.cluster c.core)
  | .cluster => decide (p.node = c.node) && decide (p.die = c.die) &&
      (match p.region with | .scratch k _ => decide (k = c.cluster) | .bstack k => decide (k = c.cluster) | _ => false)
  | .die => decide (p.node = c.node) && decide (p.die = c.die)
  | .package => decide (p.node = c.node)
  | .group => true

end Sys2Proof.Machine
end

