-- ==== Sys2Proof/Machine/Ops.lean ====
section
/-!
DEFINITION. The named operations of one thread: registers with their full/empty bits (R44 to R51), header fetch and
transfers (R52 to R60), taking a trap or an overlay entry and the return (R61, R97, R101), retirement, idempotent regions
and their restart (R314 to R319), implicit blocks (R47, R48), and results that arrive later (R46, R49, R50).
-/

namespace Sys2Proof.Machine

/-- The outcome of a step. -/
abbrev Out := Host.Outcome State Fault Refusal

/-! ### Registers -/

/-- G0 reads as 0 (Table 2-1). -/
def Thread.rG (t : Thread) (r : BitVec 4) : W64 := if r = 0 then 0 else (t.g[r.toNat]'r.isLt).val
/-- Q0 is always true (Table 2-1). -/
def Thread.rQ (t : Thread) (r : BitVec 4) : Bool := if r = 0 then true else (t.q[r.toNat]'r.isLt).val
/-- M0 is all ones (Table 2-1). -/
def Thread.rM (t : Thread) (r : BitVec 2) : W64 := if r = 0 then BitVec.allOnes 64 else (t.m[r.toNat]'r.isLt).val
/-- A vector register by its field value 0 to 25 (Table 2-5). -/
def Thread.vReg (t : Thread) (r : BitVec 5) : Reg Lanes := t.v.toList.getD r.toNat (.of Lanes.zero)
/-- The lanes of a vector register. -/
def Thread.rV (t : Thread) (r : BitVec 5) : Lanes := (t.vReg r).val

/-- The whole register of a reference: full bit and poison mark. G0, Q0 and M0 are always full (Table 2-1). -/
def Thread.mark (t : Thread) : RegRef → Bool × Bool
  | .g r => if r = 0 then (true, false) else ((t.g[r.toNat]'r.isLt).full, (t.g[r.toNat]'r.isLt).bad)
  | .q r => if r = 0 then (true, false) else ((t.q[r.toNat]'r.isLt).full, (t.q[r.toNat]'r.isLt).bad)
  | .m r => if r = 0 then (true, false) else ((t.m[r.toNat]'r.isLt).full, (t.m[r.toNat]'r.isLt).bad)
  | .v r => ((t.vReg r).full, (t.vReg r).bad)
/-- The full/empty bit (R44). -/
def Thread.full (t : Thread) (r : RegRef) : Bool := (t.mark r).1
/-- The poison mark (R313). -/
def Thread.bad (t : Thread) (r : RegRef) : Bool := (t.mark r).2

/-- Write a G register: full, its poison cleared; writes to G0 are discarded (Table 2-1, R313). -/
def Thread.wG (t : Thread) (r : BitVec 4) (x : W64) : Thread :=
  if r = 0 then t else { t with g := t.g.set r.toNat (.of x) r.isLt }
/-- Write a predicate. -/
def Thread.wQ (t : Thread) (r : BitVec 4) (x : Bool) : Thread :=
  if r = 0 then t else { t with q := t.q.set r.toNat (.of x) r.isLt }
/-- Write a mask. -/
def Thread.wM (t : Thread) (r : BitVec 2) (x : W64) : Thread :=
  if r = 0 then t else { t with m := t.m.set r.toNat (.of x) r.isLt }
/-- Write a vector register. -/
def Thread.wV (t : Thread) (r : BitVec 5) (x : Lanes) : Thread :=
  { t with v := t.v.setIfInBounds r.toNat (.of x) }

/-- Write a vector register with a poison mark (R313). -/
def Thread.wVm (t : Thread) (r : BitVec 5) (x : Lanes) (bad : Bool) : Thread :=
  { t with v := t.v.setIfInBounds r.toNat ⟨x, true, bad⟩ }
/-- The poison mark of a vector register after a write: one that keeps some lanes keeps the mark (R313, log 100). -/
def Thread.stillBad (t : Thread) (r : BitVec 5) (whole : Bool) : Bool := !whole && ((t.vReg r).bad)

/-- Set the full bit of a register; its value stays (R46, R50). -/
def Thread.setFull (t : Thread) (b : Bool) : RegRef → Thread
  | .g r => if r = 0 then t else { t with g := t.g.set r.toNat { t.g[r.toNat]'r.isLt with full := b } r.isLt }
  | .q r => if r = 0 then t else { t with q := t.q.set r.toNat { t.q[r.toNat]'r.isLt with full := b } r.isLt }
  | .m r => if r = 0 then t else { t with m := t.m.set r.toNat { t.m[r.toNat]'r.isLt with full := b } r.isLt }
  | .v r => { t with v := t.v.setIfInBounds r.toNat { t.vReg r with full := b } }
/-- Mark a register empty (R46). -/
def Thread.empty (t : Thread) (r : RegRef) : Thread := t.setFull false r
/-- Mark the register of an option empty. -/
def Thread.emptyOpt (t : Thread) : Option RegRef → Thread
  | none => t
  | some r => t.empty r

/-- The 64-bit value of a G or Q register, for a deferred predicate (R49). -/
def Thread.scalar (t : Thread) : RegRef → W64
  | .g r => t.rG r
  | .q r => if t.rQ r then 1 else 0
  | _ => 0

/-- `Table 3-7`, `Table 3-8`: a comparison of two 64-bit values. -/
def CmpOp.eval (k : CmpOp) (a b : W64) : Bool :=
  match k with
  | .eq => a = b
  | .ne => a ≠ b
  | .lt => a.slt b
  | .le => a.sle b
  | .ltu => a.ult b
  | .leu => a.ule b
  | .tz => a &&& b = 0
  | .tnz => a &&& b ≠ 0
  | .gt => b.slt a
  | .gtu => b.ult a

/-- Table 3-9: a combination of two predicates, held as 0 and 1. -/
def QOp.eval (k : QOp) (a b : Bool) : Bool :=
  match k with
  | .and => a && b
  | .or => a || b
  | .xor => a != b
  | .andn => a && !b

/-- The value of a deferred predicate (R49). -/
def DefOp.eval (k : DefOp) (a b : W64) : Bool :=
  match k with
  | .cmp k => k.eval a b
  | .comb k => k.eval (a ≠ 0) (b ≠ 0)

/-- A deferred predicate's source takes the value its register fills with (R84). -/
def DefSrc.note (r : RegRef) (x : W64) : DefSrc → DefSrc
  | .val v => .val v
  | .pend k => if k = r then .val x else .pend k

/-- The value of a deferred predicate whose sources have all filled. -/
def Deferred.ready? (d : Deferred) : Option Bool :=
  match d.a, d.b with
  | .val a, .val b => some (d.op.eval a b)
  | _, _ => none

/-- Tell the deferred predicates that a register filled. -/
def Thread.note (t : Thread) (r : RegRef) (x : W64) : Thread :=
  { t with deferredQ := t.deferredQ.map fun d => { d with a := d.a.note r x, b := d.b.note r x } }

/-- Evaluate the deferred predicates whose last source has filled; one may be a source of the next (R49, R84). -/
def Thread.settle : Nat → Thread → Thread
  | 0, t => t
  | n + 1, t =>
    match t.deferredQ.find? (fun d => d.ready?.isSome) with
    | none => t
    | some d =>
      let x := d.ready?.getD false
      let t := { t with deferredQ := t.deferredQ.filter (fun e => e.q ≠ d.q) }
      Thread.settle n ((t.wQ d.q x).note (.q d.q) (if x then 1 else 0))

/-- After a register became full: deferred predicates see it (R49). -/
def Thread.filled (t : Thread) (r : RegRef) : Thread := (t.note r (t.scalar r)).settle t.deferredQ.length
/-- A register full again with the value held before its producer issued (R50). -/
def Thread.restore (t : Thread) (r : RegRef) : Thread := (t.setFull true r).filled r
/-- The same for an optional register. -/
def Thread.restoreOpt (t : Thread) : Option RegRef → Thread
  | none => t
  | some r => t.restore r

/-! ### Operand fields and what TINFO0 says of them (R47) -/

/-- A source register with its field as encoded and its E bit. `viaDest`: a destination that is also read; when it is
empty it is awaited as the destination (R48, R79, R81). -/
structure Src where
  ref : RegRef
  field : Nat
  e : Bool
  viaDest : Bool := false
  deriving DecidableEq, Repr

/-- Class in TINFO0[9:8] (R47). -/
def RegRef.cls : RegRef → Nat
  | .g _ => 0
  | .v _ => 1
  | .q _ => 2
  | .m _ => 3

/-- Index of a register reference. -/
def RegRef.ix : RegRef → Nat
  | .g r => r.toNat
  | .v r => r.toNat
  | .q r => r.toNat
  | .m r => r.toNat

/-- Role in TINFO0[11:10] (R47). -/
def Role.code : Role → Nat
  | .source => 0
  | .dest => 1
  | .guard => 2

/-- TINFO0 of EMPTY and EMPTY_TIMEOUT (R47). -/
def Await.tinfo (w : Await) : W64 := BitVec.ofNat 64 (w.field + w.ref.cls * 2 ^ 8 + w.role.code * 2 ^ 10)

/-- A G source (Table 2-5). -/
def srcG (x : GSrc) : Src := ⟨.g x.r, (if x.e then 16 else 0) + x.r.toNat, x.e, false⟩
/-- A predicate source: it has no E bit (R47). -/
def srcQ (q : BitVec 4) : Src := ⟨.q q, q.toNat, false, false⟩
/-- A vector source under the word's e bit (R47). -/
def srcV (v : BitVec 5) (e : Bool) : Src := ⟨.v v, v.toNat, e, false⟩
/-- A mask source under the word's e bit (R47). -/
def srcM (m : BitVec 2) (e : Bool) : Src := ⟨.m m, m.toNat, e, false⟩
/-- Gd read as well as written: no E bit, so it always blocks (R79, R81). -/
def srcD (d : BitVec 4) : Src := ⟨.g d, d.toNat, false, true⟩

/-- A source as TINFO0 names it. -/
def Src.await (x : Src) : Await := ⟨x.ref, x.field, .source⟩
/-- A destination as TINFO0 names it (R48). -/
def destAwait (r : RegRef) : Await := ⟨r, r.ix, .dest⟩

/-! ### Causes -/

/-- Cause codes (Table 2-11). -/
def Cause.code : Cause → Nat
  | .overlay => 0 | .illegal => 1 | .header => 2 | .empty => 3 | .emptyTimeout => 4 | .lapsed => 5 | .stale => 6
  | .unheld => 7 | .access => 8 | .align => 9 | .matrixUnavailable => 10 | .gang => 11 | .check => 12
  | .poison => 13 | .deque => 14 | .privilege => 15 | .trap => 16 | .brk => 17 | .sys => 18 | .path => 19

/-- A cause with TINFO0 alone. -/
def causeOf (c : Cause) (t0 : W64) : FaultInfo := ⟨c, t0, 0, 0⟩
/-- ACCESS with a reason of Table 7-11. -/
def accessFault (a : W64) (code : Nat) : FaultInfo := ⟨.access, a, 0, BitVec.ofNat 64 code⟩

/-! ### Block headers (R52 to R54) -/

/-- LEN (Table 2-2). -/
def hdrLen (h : W64) : Nat := bits h 0 7
/-- LIVE. -/
def hdrLive (h : W64) : BitVec 16 := BitVec.ofNat 16 (bits h 7 16)
/-- RECONV. -/
def hdrReconv (h : W64) : Nat := bits h 23 12
/-- SIG. -/
def hdrSig (h : W64) : Nat := bits h 38 20
/-- IR. -/
def hdrIR (h : W64) : Bool := bits h 58 1 = 1
/-- CK. -/
def hdrCK (h : W64) : Bool := bits h 59 1 = 1
/-- KIND. -/
def hdrKind (h : W64) : Nat := bits h 60 2

/-- The header checks of R54. A thread that a pre-emption stopped in a handler or an overlay block goes on in it (R323). -/
def headerBad (via : Via) (h : W64) : Bool :=
  bits h 62 2 ≠ 2 || hdrLen h = 0 || bits h 7 1 = 1 || hdrKind h = 3 ||
  (match via with
   | .trapEntry => hdrKind h ≠ 1
   | .overlayEntry => hdrKind h ≠ 2
   | .transfer _ => hdrKind h ≠ 0
   | .resume _ _ => hdrKind h ≠ 0
   | .saved _ _ => false)

/-- The next header of a block (R53): the first multiple of 8 at or above BH + 8 + 4 × LEN. -/
def nextHeader (bh : Nat) (h : W64) : Nat := (bh + 8 + 4 * hdrLen h + 7) / 8 * 8

/-- NH of the block a thread executes. -/
def Thread.nh (t : Thread) : Nat :=
  match t.block with
  | none => t.bh.toNat
  | some b => nextHeader t.bh.toNat b.hdr

/-- Index in the block of the word at PC; past the last word of a block that ends at 0x8_0000 the 19-bit PC is 0. -/
def Thread.wordIx (t : Thread) : Nat := (t.pc - t.bh - 8).toNat / 4

/-- The word at PC in the block copy. -/
def Thread.curWord (t : Thread) : W32 :=
  match t.block with
  | none => 0
  | some b => b.words.getD t.wordIx 0

/-- Words of the block copy. -/
def Thread.blockLen (t : Thread) : Nat :=
  match t.block with
  | none => 0
  | some b => b.words.length

/-- The block's last word has issued. -/
def Thread.atEnd (t : Thread) : Bool := t.block.isSome && decide (t.blockLen ≤ t.wordIx)

/-- The word at PC as the cause ILLEGAL and others report it. -/
def Thread.word64 (t : Thread) : W64 := t.curWord.setWidth 64

/-! ### The block checker (R40, R41, R56) -/

/-- One bit of the CRC-20 (R40). -/
def crcBit (crc : BitVec 20) (x : Bool) : BitVec 20 :=
  let c := crc <<< 1
  if x != crc.getLsbD 19 then c ^^^ 9 else c

/-- `n` bits of a number, most significant first, into the CRC. -/
def crcBits (crc : BitVec 20) (x : Nat) : Nat → BitVec 20
  | 0 => crc
  | n + 1 => crcBits (crcBit crc (x / 2 ^ n % 2 = 1)) x n

/-- The d, a and b fields that a first word feeds, by its major opcode's format (Table 1-5). -/
def feedFields (w : W32) : Nat × Nat × Nat :=
  let op := w.toNat / 2 ^ 26
  let f := fun lo : Nat => w.toNat / 2 ^ lo % 32
  if op = 0x0E then (f 21, 0, 0)
  else if op = 0x13 ∨ op = 0x14 then (0, 0, 0)
  else if op = 0x1A then (0, f 21, 0)
  else if 0x3B ≤ op ∧ op ≤ 0x3E then (f 16, f 11, f 5)
  else if (3 ≤ op ∧ op ≤ 0x0D) ∨ op = 0x10 ∨ op = 0x16 ∨ op = 0x18 ∨ op = 0x19 ∨ op = 0x20 ∨ op = 0x21 ∨
      op = 0x38 ∨ op = 0x39 then (f 21, f 16, 0)
  else (f 21, f 16, f 11)

/-- Feed one instruction's first word: 21 bits (R40). -/
def crcFeed (crc : BitVec 20) (w : W32) : BitVec 20 :=
  let (d, a, b) := feedFields w
  crcBits crc (w.toNat / 2 ^ 26 * 2 ^ 15 + d * 2 ^ 10 + a * 2 ^ 5 + b) 21

/-! ### Regions (R314) -/

/-- The current region changes to one that begins at word `w` of the block at `h` (R314, R166). -/
def Thread.regionAt (t : Thread) (h : BitVec 19) (w : Nat) : Thread :=
  { t with
    rhdr := h
    rword := BitVec.ofNat 7 w
    restarts := 0
    ckr := false
    prog := 0
    genCk := t.gen
    region := t.region + 1 }

/-- The first word of a block with IR = 1 opens a region as it issues (Table 13-7), but for the first word of a restarted
region, whose RSTC stays (R316, Table 13-8, log 11). -/
def Thread.enterRegion (t : Thread) : Thread :=
  if t.restarted then { t with restarted := false }
  else if t.wordIx = 0 ∧ (t.block.map (fun b => hdrIR b.hdr)).getD false then t.regionAt t.bh 0
  else t

/-- A non-idempotent instruction closes its region at retirement (R314, R315); PC is already past it. After the block's last
word the new region begins behind the block until the next header is fetched (`Thread.openNext`, log 11). -/
def Thread.closeRegion (t : Thread) : Thread :=
  ({ t with lavg := BitVec.ofNat 16 ((3 * t.lavg.toNat + t.prog.toNat) / 4) } : Thread).regionAt t.bh t.wordIx

/-- A region begins behind the block's last word: the next header fetched opens it (Table 13-7). -/
def Thread.behindBlock (t : Thread) : Bool := t.atEnd && decide (t.rhdr = t.bh ∧ t.rword.toNat = t.blockLen)

/-- The next header is fetched after a region closed at the last word of its block: the region begins there (Table 13-7); of a wanted
address beyond the scratchpad RHDR holds the low 19 bits (log 11). -/
def Thread.openNext (t : Thread) (h : BitVec 19) : Thread := if t.behindBlock then t.regionAt h 0 else t

/-- An instruction of `n` words retires (R314): the checker is fed (R56), PC passes it, PROG counts its words (Table 2-8). -/
def Thread.advance (n : Nat) (t : Thread) : Thread :=
  { t with
    crc := crcFeed t.crc t.curWord
    pc := t.pc + BitVec.ofNat 19 (4 * n)
    prog := t.prog + BitVec.ofNat 32 n
    blocked := none
    hold := .none }

/-- Retirement of an instruction of `n` words; `close`: it is not idempotent (R315). -/
def Thread.retire (n : Nat) (close : Bool) (t : Thread) : Thread :=
  if close then (t.advance n).closeRegion else t.advance n

/-- Retirement of the issuing thread's instruction. -/
def retire (n : Nat) (close : Bool) (s : State) : State := s.modMe (Thread.retire n close)

/-! ### Fetch -/

/-- What a header fetch finds (R54, R58, R60). -/
inductive Fetched where
  | block (b : Block)
  | overlay
  | bad (h : W64)
  /-- A unit of the block that refetching does not cure (R310). -/
  | poison (p : Phys)
  deriving DecidableEq, Repr

/-- The `n` words of a block whose words begin at a place. -/
def State.peekCode (s : State) (p : Phys) : Nat → List W32
  | 0 => []
  | n + 1 => BitVec.ofNat 32 (s.peek p 4) :: s.peekCode (p.plus 4) n

/-- The first byte, from a place on, that lies in a poisoned unit, if it lies in the next `n` units. -/
def State.firstPoison (s : State) (p : Phys) : Nat → Option Phys
  | 0 => none
  | n + 1 => if s.isPoisoned p then some p else s.firstPoison { p with off := (p.off / 64 + 1) * 64 } n

/-- Fetch the block whose header stands at offset `a` of a core's scratchpad. A header that fails R54 is reported
before its block's reach beyond XB is looked at (log 17). -/
def fetchAt (s : State) (c : CoreId) (a : W64) (via : Via) : Fetched :=
  let xb := (s.core c).xb.toNat
  if xb ≤ a.toNat then .overlay
  else
    let p := scratchAt c a.toNat
    if s.isPoisoned p then .poison p
    else
      let h := BitVec.ofNat 64 (s.peek p 8)
      if headerBad via h then .bad h
      else if xb < a.toNat + 8 + 4 * hdrLen h then .overlay
      else
        match s.firstPoison p (hdrLen h / 16 + 3) with
        | some q => if q.off < a.toNat + 8 + 4 * hdrLen h then .poison q
          else .block ⟨h, s.peekCode (p.plus 8) (hdrLen h), hdrCK h⟩
        | none => .block ⟨h, s.peekCode (p.plus 8) (hdrLen h), hdrCK h⟩

/-- Begin to execute a block at word `w`; an execution that enters part-way is not compared (R56, R319). -/
def Thread.enter (t : Thread) (a : BitVec 19) (b : Block) (w : Nat) (compare : Bool) : Thread :=
  { t with
    bh := a
    pc := a + BitVec.ofNat 19 (8 + 4 * w)
    block := some { b with compare := b.compare && compare }
    fetch := none
    crc := 0xFFFFF
    blocked := none
    hold := .none }

/-! ### Stopping, traps, overlay entry (R60, R61, R97, R308, R310) -/

/-- Waits of a thread are withdrawn at their deciding places without effect (R308, R323). -/
def dropWaits (tid : Tid) (s : State) : State :=
  { s with
    waits := s.waits.filter (fun w => w.tid ≠ tid)
    accs := s.accs.filter (fun a => a.tid ≠ tid ∨ a.op ≠ .key) }

/-- The thread stops: it issues nothing more, and a thread-fault record is due (R310). Slot 0 halts its core (R61, R310,
log 18). -/
def stopThread (tid : Tid) (event : Nat) (f : FaultInfo) (tpc t3 : W64) (s : State) : State :=
  let s := dropWaits tid s
  let counts := (((s.cluster (clusterOf tid.core)).teams.look (s.th tid).teamNo.toNat).map (·.members.contains tid)).getD false
  let s := s.modTh tid fun t => { t with
    life := .stopped
    stop := some ⟨event, f, tpc, t3, counts⟩
    pjoin := none
    fetch := none
    blocked := none
    hold := .none }
  if tid.slot = 0 then s.modCore tid.core (fun c => { c with halted := true }) else s

/-- Where a fetch that trap entry or overlay entry makes leads: into the handler, or to a stop (R61, R310). The handler's first word
opens a region as any block's does (Table 13-7), also where a restarted region's first word had not issued. DESIGN CHOICE: a handler
whose header lies below XB and passes R54 while its block reaches beyond XB is a double entry, whose record tells the first entry's
cause and TPC (log 151). -/
def enterHandler (tid : Tid) (a : BitVec 19) (via : Via) (f : FaultInfo) (tpc t3 : W64) (save : Thread → Thread)
    (s : State) : State :=
  match fetchAt s tid.core (a.setWidth 64) via with
  | .block b => s.modTh tid fun t => { (save t).enter a b 0 true with joinHeld := t.pjoin.isSome, restarted := false }
  | .poison p =>
    stopThread tid 2 ⟨.poison, windowAddr p, windowAddr { p with off := p.off / 64 * 64 }, 0⟩ (a.setWidth 64) t3 s
  | _ => stopThread tid 0 f tpc t3 s

/-- TAKING A TRAP (R97, R308). TCAUSE, TPC and TINFO0 to TINFO3 are saved, TSTAT.IN is set, and the thread goes to the
handler block at TVB; DEF and RES are as the entry's kind says. A trap while IN = 1 is a double entry (R61), but a
POISON stops the thread with event 2 (R310). Registers, FLG and RPC do not change. -/
def enterTrap (tid : Tid) (f : FaultInfo) (tpc t3 : W64) (dly : Option (BitVec 19)) (s : State) : State :=
  let t := s.th tid
  if t.inHandler then stopThread tid (if f.cause = .poison then 2 else 0) f tpc t3 s
  else
    enterHandler tid t.tvb .trapEntry f tpc t3
      (fun t => { t with
        tcause := BitVec.ofNat 64 f.cause.code
        tpc := tpc
        tinfo := #v[f.t0, f.t1, f.t2, t3]
        inHandler := true
        deferred := dly.isSome
        res := dly.getD t.res })
      s

/-- A synchronous trap of the issuing thread at its word, or with a TPC of its own (R97 to R100). -/
def trapAt (f : FaultInfo) (tpc : W64) (s : State) : State :=
  enterTrap s.cur f tpc (s.me.bh.setWidth 64) none s
/-- A synchronous trap whose TPC is the offset of the trapping word (R97). -/
def trap (f : FaultInfo) (s : State) : State := trapAt f (s.me.pc.setWidth 64) s

/-- OVERLAY ENTRY (R60): the wanted address, the transferring block and the transfer kind are saved, and the thread goes
to the handler block at OVH. While IN = 1 it is a double entry (R61). -/
def overlayEntry (tid : Tid) (a : W64) (kind : Nat) (src : W64) (s : State) : State :=
  let f : FaultInfo := ⟨.overlay, a, src, BitVec.ofNat 64 kind⟩
  let t := s.th tid
  if t.inHandler then stopThread tid 0 f a (t.bh.setWidth 64) s
  else
    enterHandler tid (s.core tid.core).ovh .overlayEntry f a (t.bh.setWidth 64)
      (fun t => { t with
        tcause := 0
        tpc := a
        tinfo := #v[a, src, BitVec.ofNat 64 kind, t.tinfo[3]]
        inHandler := true
        deferred := false })
      s

/-- The transfer kind of a fetch (Table 2-3). DESIGN CHOICE: the table gives no kind to the fetch that a restart or a resume
makes; the model reports RFT's kind 6 and the BH it left (log 93). -/
def Via.kind : Via → Nat
  | .transfer k => k
  | _ => 6

/-- Restart of the current region (R316): generators as at its checkpoint, RSTC.N counts it, and the region's first block
is fetched afresh; after poison the thread first waits for the own die's next tick boundary. What the run issued is
answered, fills and reports its faults as before. -/
def restartRegion (tid : Tid) (poison : Bool) (s : State) : State :=
  let s := dropWaits tid s
  let now := s.taper tid.core.node
  s.modTh tid fun t => { t with
    gen := t.genCk
    restarts := t.restarts + 1
    prog := 0
    restarted := true
    block := none
    blocked := none
    hold := if poison then .tick (now + 1) else .none
    fetch := some ⟨t.rhdr.setWidth 64, .resume t.rword.toNat (t.rword = 0), t.bh.setWidth 64⟩ }

/-- The restart conditions of R317 for a word of the current region. -/
def Thread.mayRestart (t : Thread) : Bool := decide (t.restarts.toNat < 2) && !t.inHandler

/-- A fetch that meets an uncorrectable error (R310, R317): a restart, a trap, or in a handler a stop. -/
def poisonFetch (tid : Tid) (f : Fetch) (p : Phys) (s : State) : State :=
  let t := s.th tid
  let info : FaultInfo :=
    ⟨.poison, windowAddr p, windowAddr { p with off := p.off / 64 * 64 }, if t.restarts = 2 ∧ ¬ t.inHandler then 2 else 0⟩
  if t.mayRestart then restartRegion tid true s
  else enterTrap tid info f.target (t.bh.setWidth 64) none s

/-- Perform a header fetch (R54, R57, R58, R60). A transfer's target is the next header fetched for a region that begins behind the
block (R314), whatever the fetch finds there; CONT has opened it before (`Thread.continueAt`). -/
def fetchHeader (tid : Tid) (f : Fetch) (s : State) : State :=
  let a : BitVec 19 := f.target.setWidth 19
  let u := match f.via with
    | .transfer k => if k = 7 then s else s.modTh tid fun t => t.openNext a
    | _ => s
  match fetchAt s tid.core f.target f.via with
  | .overlay => overlayEntry tid f.target f.via.kind f.src u
  | .bad h => enterTrap tid ⟨.header, h, f.src, BitVec.ofNat 64 f.via.kind⟩ f.target f.target none u
  | .poison p => poisonFetch tid f p u
  | .block b =>
    match f.via with
    | .resume w cmp | .saved w cmp => u.modTh tid fun t => t.enter a b w cmp
    | _ => u.modTh tid fun t => t.enter a b 0 true

/-- The thread ends as EXIT does (R90): it issues nothing more; accesses already issued go on. -/
def endThread (tid : Tid) (s : State) : State :=
  (dropWaits tid s).modTh tid fun t => { t with life := .ended, pjoin := none, fetch := none, blocked := none, hold := .none }

/-- The block's end applies a pending join: one that was carried into a handler waits for the handler's RFT (R154). -/
def Thread.joinDue (t : Thread) : Bool := t.pjoin.isSome && !t.joinHeld

/-- The outcome of a pending join has not come. -/
def Thread.joinOpen (t : Thread) : Bool :=
  match t.pjoin with
  | some .asked | some (.refused _) => true
  | _ => false

/-- Transfer to a header (R58). With a pending join the block's own transfer is not taken (R153): PC stays past the last
word, and the block's end applies the join. -/
def transfer (target : W64) (kind : Nat) (s : State) : State :=
  if s.me.joinDue then s
  else fetchHeader s.cur ⟨target, .transfer kind, if kind = 7 then 0 else s.me.bh.setWidth 64⟩ s

/-- A register transfer (R59): 0 ends the thread as EXIT does. -/
def transferReg (target : W64) (kind : Nat) (s : State) : State :=
  if s.me.joinDue then s
  else if target = 0 then endThread s.cur s
  else transfer target kind s

/-! ### The block's end (R53, R56, R318) -/

/-- The checker's comparison fails for this execution (R56). -/
def Thread.mismatch (t : Thread) : Bool :=
  match t.block with
  | none => false
  | some b => b.compare && decide (t.crc.toNat ≠ hdrSig b.hdr)

/-- Offset of the block's last word. -/
def Thread.lastWord (t : Thread) : W64 := BitVec.ofNat 64 (t.bh.toNat + 4 + 4 * t.blockLen)

/-- A checker mismatch at a block's end (R318): restart, or CHECK with the fields of Table 13-5. -/
def checkFail (tid : Tid) (s : State) : State :=
  let t := s.th tid
  let sig := BitVec.ofNat 64 ((t.block.map (fun b => hdrSig b.hdr)).getD 0)
  let crc := t.crc.setWidth 64
  let info : FaultInfo :=
    if t.ckr then ⟨.check, sig, t.ckCrc.setWidth 64 ||| (crc <<< 32), t.ckHdr.setWidth 64⟩
    else ⟨.check, sig, crc, t.bh.setWidth 64⟩
  if t.inHandler ∨ (t.rword ≠ 0 ∧ t.bh = t.rhdr) ∨ t.ckr ∨ t.restarts = 2 then
    enterTrap tid info t.lastWord (t.bh.setWidth 64) none s
  else
    restartRegion tid false (s.modTh tid fun t => { t with ckr := true, ckHdr := t.bh, ckCrc := t.crc })

/-- The registers that a LIVE field names and that are still empty: CONTINUE writes them, so it waits for their producers (R48, R153). -/
def Thread.emptyLive (t : Thread) (live : BitVec 16) : List Await :=
  ((List.range 16).filter fun r => live.getLsbD r && !t.full (.g (BitVec.ofNat 4 r))).map fun r => destAwait (.g (BitVec.ofNat 4 r))

/-- The registers for which a thread at its block's end still waits before its join's CONTINUE writes them. -/
def Thread.joinWaits (t : Thread) : List Await :=
  match t.pjoin with
  | some (.continue_ _ live _) => t.emptyLive live
  | _ => []

/-- The registers named in LIVE take VAL, in ascending order (R153). -/
def Thread.loadLive (t : Thread) (live : BitVec 16) (vals : List W64) : Thread :=
  ((List.range 16).foldl
    (fun (acc : Thread × List W64) r =>
      if r ≠ 0 ∧ live.getLsbD r then (acc.1.wG (BitVec.ofNat 4 r) (acc.2.headD 0), acc.2.tail) else acc)
    (t, vals)).1

/-- CONTINUE (R153): the registers, then BH. CONT is the next header fetched for a region that begins behind the block (Table 13-7). -/
def Thread.continueAt (t : Thread) (h : BitVec 19) (live : BitVec 16) (vals : List W64) : Thread :=
  let u := t.openNext h
  { u.loadLive live vals with pjoin := none, hold := .none, blocked := none, bh := h }

/-- The block at an offset is poisoned, and a thread whose region began within its block restarts for it (R316, R317). -/
def rerunsFor (tid : Tid) (a : W64) (s : State) : Bool :=
  (s.th tid).mayRestart && !(s.th tid).behindBlock &&
    (match fetchAt s tid.core a (.transfer 7) with | .poison _ => true | _ => false)

/-- The thread leaves the ready set for registers; one instruction has one bound, from its first blocked cycle (R47, R48). -/
def Thread.blockOn (now : Nat) (regs : List Await) (t : Thread) : Thread :=
  { t with hold := .none, blocked := some ⟨(t.blocked.map (·.since)).getD now, regs⟩ }

/-- Apply a pending join whose outcome is known (R153, R154): CONTINUE waits for the registers it writes (R48, log 141), and then
fetches at CONT as a thread's start does. DESIGN CHOICE: where that fetch restarts a region that began within the block, the join is
still pending, and the rerun applies it at the block's end (log 136). -/
def applyJoin (tid : Tid) (s : State) : State :=
  match (s.th tid).pjoin with
  | some .retire => endThread tid s
  | some (.continue_ cont live vals) =>
    if (s.th tid).emptyLive live ≠ [] then
      s.modTh tid fun t => t.blockOn (s.taper tid.core.node) (t.emptyLive live)
    else
      let a := BitVec.ofNat 64 cont
      let s := if rerunsFor tid a s then s else s.modTh tid fun t => t.continueAt (a.setWidth 19) live vals
      fetchHeader tid ⟨a, .transfer 7, 0⟩ s
  | _ => s.modTh tid fun t => { t with hold := .blockEnd }

/-- The end of a block after its last word (R53, R56, R153): the checker compares; a pending join is applied, or its
outcome awaited; else the block falls through to NH. -/
def blockEnd (tid : Tid) (s : State) : State :=
  let t := s.th tid
  if t.mismatch then checkFail tid s
  else if t.joinDue then applyJoin tid s
  else fetchHeader tid ⟨BitVec.ofNat 64 t.nh, .transfer 0, t.bh.setWidth 64⟩ s

/-! ### Guards, sources and destinations at issue (R47, R48, R66, R69) -/

/-- The thread leaves the ready set and blocks (R47, R48); one instruction has one bound, from its first blocked cycle. -/
def block (regs : List Await) (s : State) : State :=
  let now := s.taper s.cur.core.node
  s.modMe fun t => { t with blocked := some ⟨(t.blocked.map (·.since)).getD now, regs⟩ }

/-- The first register still awaited at an implicit block's bound (R47). -/
def Thread.stillEmpty (t : Thread) : Option Await :=
  match t.blocked with
  | none => none
  | some b => b.regs.find? fun w => !t.full w.ref

/-- POISON of a register read (R313): TINFO0 names it by class and field; in a handler it stops the thread (R310). -/
def poisonRead (x : Src) : FaultInfo := ⟨.poison, BitVec.ofNat 64 (x.field + x.ref.cls * 2 ^ 8), 0, 1⟩

/-- What the checks before step 5 of R69 decide. -/
inductive Gate where
  | go
  | skip
  | empty (x : Src)
  | wait (regs : List Await)
  | poison (x : Src)
  | privilege
  deriving DecidableEq, Repr

/-- Steps 2 to 4 of R69: guard, privilege, E bits, then the registers to wait for. `priv`: slot 0 only. A poisoned source takes
POISON whatever instruction reads it: R313 is followed where R172 names other traps alone (log 100). -/
def Thread.gate (t : Thread) (slot : Nat) (g : Guard) (priv : Bool) (srcs : List Src) (dsts : List RegRef) : Gate :=
  if ¬ t.full (.q g.q) then .wait [⟨.q g.q, g.q.toNat, .guard⟩]
  else if t.bad (.q g.q) then .poison (srcQ g.q)
  else if t.rQ g.q = g.neg then .skip
  else if priv ∧ slot ≠ 0 then .privilege
  else
    match srcs.find? (fun x => x.e && !t.full x.ref) with
    | some x => .empty x
    | none =>
      match srcs.find? (fun x => t.full x.ref && t.bad x.ref) with
      | some x => .poison x
      | none =>
        let waits := (srcs.filter (fun x => !t.full x.ref && !x.viaDest)).map Src.await ++
          (dsts.filter (fun r => !t.full r)).map destAwait
        if waits = [] then .go else .wait waits

/-- The thread is held at its word (R95, R169, R246), which issues again when the hold is over. -/
def holdAt (h : Hold) (s : State) : State := s.modMe fun t => { t with hold := h, blocked := none }

/-- The word at PC issues without a trap: the first word of a block may open a region (R314). A word that traps changes
nothing of the region (R97), so the bodies that may trap at step 5 call this after their checks. -/
def State.begin (s : State) : State := s.modMe Thread.enterRegion

/-- An instruction of `n` words: steps 2 to 4 of R69, then `body` at step 5, unless `pre` holds the thread at its word. A
false guard retires it without effect (R66); it then closes no region (log 9). -/
def gatedHold (n : Nat) (g : Guard) (priv : Bool) (srcs : List Src) (dsts : List RegRef) (pre : State → Option Hold)
    (body : State → State) (s : State) : State :=
  match s.me.gate s.cur.slot g priv srcs dsts with
  | .wait regs => block regs s
  | .skip => retire n false s.begin
  | .privilege => trap (causeOf .privilege s.me.word64) s
  | .empty x => trap (causeOf .empty x.await.tinfo) s
  | .poison x => trap (poisonRead x) s
  | .go =>
    match pre s with
    | some h => holdAt h s
    | none => body s

/-- An instruction that nothing holds at its word and that takes no trap at step 5. -/
def gated (n : Nat) (g : Guard) (priv : Bool) (srcs : List Src) (dsts : List RegRef) (body : State → State)
    (s : State) : State :=
  gatedHold n g priv srcs dsts (fun _ => none) (fun s => body s.begin) s

/-- An instruction that nothing holds at its word and that may trap at step 5: its body begins the word once its checks have
passed (R97). -/
def gatedTrap (n : Nat) (g : Guard) (priv : Bool) (srcs : List Src) (dsts : List RegRef) (body : State → State)
    (s : State) : State :=
  gatedHold n g priv srcs dsts (fun _ => none) body s

/-- An instruction without a memory event that writes registers within 4 cycles of its issue (R74): `f` is its effect on
the thread, after which it retires. -/
def simple (g : Guard) (srcs : List Src) (dsts : List RegRef) (f : Thread → Thread) (s : State) : State :=
  gated 1 g false srcs dsts (fun s => retire 1 false (s.modMe f)) s

/-- A control transfer that something may hold at its word: the last word of its block, compared by the checker before it
takes effect (R56, R91). DESIGN CHOICE: it is compared before a trap of its own at step 5 as well (log 129). -/
def controlHold (g : Guard) (srcs : List Src) (dsts : List RegRef) (pre : State → Option Hold) (body : State → State)
    (s : State) : State :=
  gatedHold 1 g false srcs dsts pre
    (fun s => if (s.me.advance 1).mismatch then checkFail s.cur (s.begin.modMe (Thread.advance 1)) else body s) s

/-- A control transfer that nothing holds at its word. -/
def control (g : Guard) (srcs : List Src) (dsts : List RegRef) (body : State → State) (s : State) : State :=
  controlHold g srcs dsts (fun _ => none) body s

/-! ### Results that arrive later (R46, R50) -/

/-- Give the guards of a thread's queued engine commands the value with which their predicate fills (R66). -/
def Cmd.resolve (tid : Tid) (t : Thread) (c : Cmd) : Cmd :=
  match c.guard with
  | .pend q neg => if c.tid = tid ∧ t.full (.q q) then { c with guard := .known (t.rQ q != neg) } else c
  | .known _ => c

/-- A queued command of the thread waits for its guard. -/
def Cmd.waitsOn (tid : Tid) (c : Cmd) : Bool :=
  match c.guard with
  | .pend _ _ => c.tid = tid
  | .known _ => false

/-- After fills: the guards of the thread's queued engine commands take their values (R66). -/
def resolveGuards (tid : Tid) (s : State) : State :=
  let t := s.th tid
  let k := s.cluster (clusterOf tid.core)
  let s := if (k.copyQ ++ k.msgQ ++ k.launchQ).any (Cmd.waitsOn tid) then
      s.modCluster (clusterOf tid.core) fun k => { k with
        copyQ := k.copyQ.map (Cmd.resolve tid t)
        msgQ := k.msgQ.map (Cmd.resolve tid t)
        launchQ := k.launchQ.map (Cmd.resolve tid t) }
    else s
  if (s.core tid.core).matrixQ.any (Cmd.waitsOn tid) then
    s.modCore tid.core fun c => { c with matrixQ := c.matrixQ.map (Cmd.resolve tid t) }
  else s

/-- A change of a thread that fills registers. -/
def fillTh (tid : Tid) (f : Thread → Thread) (s : State) : State := resolveGuards tid (s.modTh tid f)

/-- Fill a G register (R46). -/
def Thread.fillG (t : Thread) (r : BitVec 4) (x : W64) : Thread := (t.wG r x).filled (.g r)
/-- Fill a predicate. -/
def Thread.fillQ (t : Thread) (r : BitVec 4) (x : Bool) : Thread := (t.wQ r x).filled (.q r)

/-- A pending instruction with no answer yet. -/
def newPending (t : Thread) (id : Nat) (prod : Bool) (dst also : Option RegRef) (left : Nat) (val : PVal) (load vector : Bool)
    (now : Nat) : Pending :=
  { id := id, word := t.pc.toNat, region := t.region, dst := dst, also := also, flags := none, left := left, val := val,
    refused := [], vector := vector, load := load, issued := now, void := false, prod := prod }

/-- Record an instruction whose answers are to come, and mark its registers empty (R46). A register numbered 0 is no
destination (R48). `prod`: the instruction is a producer (R46). -/
def issuePending (prod : Bool) (dst also : Option RegRef) (left : Nat) (val : PVal) (load vector : Bool) (s : State) : State :=
  let now := s.taper s.cur.core.node
  let id := s.nextId
  (s.modMe fun t =>
    { (t.emptyOpt dst).emptyOpt also with
      pending := t.pending ++ [newPending t id prod dst also left val load vector now] }).fresh

/-- Change a pending instruction of a thread. -/
def modPending (tid : Tid) (pid : Nat) (f : Pending → Pending) (s : State) : State :=
  s.modTh tid fun t => { t with pending := mapIf t.pending (fun p => p.id = pid) f }

/-- A pending instruction of a thread. -/
def Thread.pend? (t : Thread) (pid : Nat) : Option Pending := t.pending.find? (fun p => p.id = pid)

/-- Forget a pending instruction. -/
def Thread.dropPending (t : Thread) (pid : Nat) : Thread := { t with pending := t.pending.filter (fun p => p.id ≠ pid) }

/-- The cause an instruction raises for its refused accesses: a scalar access's own, and for a vector access that of the
lowest refused lane with TINFO2[23] and the lane's number (R217). -/
def Pending.fault (p : Pending) : Option FaultInfo :=
  match p.refused with
  | [] => none
  | r :: rs =>
    let m := rs.foldl (fun (b : Nat × FaultInfo) x => if x.1 < b.1 then x else b) r
    some (if p.vector then
      { m.2 with t2 := (m.2.t2 &&& ~~~ 0xFF0000#64) ||| BitVec.ofNat 64 (2 ^ 23 + m.1 * 2 ^ 16) } else m.2)

/-- Settle a pending instruction that has its last answer: a refusal is reported to the thread (R308); an instruction
with no register to fill is done; else its result waits to fill (RESULT_FILL). A fault of an access that a Discard gave up
is dropped, its registers full again (R323). -/
def settlePending (tid : Tid) (pid : Nat) (s : State) : State :=
  match (s.th tid).pend? pid with
  | none => s
  | some p =>
    if p.left ≠ 0 then s
    else
      match p.fault with
      | some f =>
        if p.void then fillTh tid (fun t => ((t.dropPending pid).restoreOpt p.dst).restoreOpt p.also) s
        else s.modTh tid fun t => { t with answers := t.answers ++ [⟨f, p.word, p.region, pid, p.load, false⟩] }
      | none => if p.dst = none ∧ p.also = none then s.modTh tid (·.dropPending pid) else s

/-- One answer of a pending instruction arrives. -/
def answer (tid : Tid) (pid : Nat) (f : Pending → Pending) (s : State) : State :=
  settlePending tid pid (modPending tid pid (fun p => { f p with left := p.left - 1 }) s)

/-- One access of a pending instruction was refused. -/
def refuse (tid : Tid) (pid lane : Nat) (f : FaultInfo) (s : State) : State :=
  answer tid pid (fun p => { p with refused := p.refused ++ [(lane, f)] }) s

/-- Fill the registers of a pending instruction with its value (R46, R51, R123). -/
def Pending.write (p : Pending) (now : Nat) (t : Thread) : Thread :=
  let t := { t with flg := t.flg ||| p.flags.getD 0 }
  match p.val, p.dst, p.also with
  | .g x, some (.g r), _ => t.fillG r x
  | .gq x b, some (.g r), some (.q q) => (t.fillG r x).fillQ q b
  | .gq _ b, _, some (.q q) => t.fillQ q b
  | .v x whole, some (.v r), some (.v k) => (t.wVm r x (t.stillBad r whole)).wVm k x (t.stillBad r whole)
  | .v x whole, some (.v r), _ => t.wVm r x (t.stillBad r whole)
  | .m x, some (.m r), _ => t.wM r x
  | .lanes xs, some (.v r), also =>
    let whole := (List.range 64).all fun i => xs.any fun e => e.1 = i
    let put := fun (k : BitVec 5) (u : Thread) =>
      u.wVm k (tab 64 fun i => ((xs.find? (fun e => e.1 = i)).map (·.2)).getD ((t.rV k).toList.getD i 0)) (t.stillBad k whole)
    (match also with
      | some (.v k) => put k (put r t)
      | _ => put r t)
  | .lifeNear x, some (.g r), _ => t.fillG r (BitVec.ofNat 64 (x - now))
  | .lifeFar w, some (.g r), _ =>
    let e := now - p.issued
    t.fillG r (BitVec.ofNat 64 (w - e - 1 - (w + e + 9999) / 10000))
  | _, _, _ => t

/-- Fill a pending instruction's registers and forget it. -/
def fillPending (tid : Tid) (pid : Nat) (s : State) : State :=
  match (s.th tid).pend? pid with
  | none => s
  | some p => fillTh tid (fun t => p.write (s.taper tid.core.node) (t.dropPending pid)) s

/-- A result that needs more than 4 cycles but no memory (R74): it fills by a step of its own. -/
def issueResult (dst also : Option RegRef) (val : PVal) (flags : Option (BitVec 6)) (s : State) : State :=
  let pid := s.nextId
  modPending s.cur pid (fun p => { p with flags := flags }) (issuePending true dst also 0 val false false s)

end Sys2Proof.Machine
end

