-- ==== Sys2Proof/Machine/Operands.lean ====
section
/-!
DEFINITION. Operand forms: what each instruction reads from its fields (R9, R21, R58, R79 to R83, R88, R93, R128, R139,
R145, R215, R216), and which registers a form reads and writes.
-/

namespace Sys2Proof.Machine

/-- A G source. -/
def Thread.src (t : Thread) (x : GSrc) : W64 := t.rG x.r

/-- The destination of a G field; G0 is never awaited (R48). -/
def destG (d : BitVec 4) : List RegRef := [.g d]
/-- A G destination that goes empty: none for G0 (R48). -/
def longG (d : BitVec 4) : Option RegRef := if d = 0 then none else some (.g d)
/-- A predicate that goes empty. -/
def longQ (q : BitVec 4) : Option RegRef := if q = 0 then none else some (.q q)

/-- A shift or rotate amount: b[5:0] (R76). -/
def shamt (b : W64) : Nat := b.toNat % 64

/-- A sign-extended immediate of `n` bits. -/
def simm {n : Nat} (i : BitVec n) : W64 := i.signExtend 64
/-- A zero-extended immediate. -/
def uimm {n : Nat} (i : BitVec n) : W64 := i.setWidth 64

/-- `BH + 8 × sext(disp)`: the target of BR, CALL and FORK (R58, R88, R150). -/
def dispTarget {n : Nat} (bh : BitVec 19) (o : BitVec n) : W64 := bh.setWidth 64 + 8 * o.signExtend 64

/-- `trunc64(a + sext(off8) × n)`: the effective address of LD and ST (R93). -/
def eaScaled (a : W64) (o : BitVec 8) (z : MemSize) : W64 := a + o.signExtend 64 * BitVec.ofNat 64 z.bytes

/-- `trunc64(a + sext(off9) × 256)`: the effective address of VLD and VST (R215). -/
def eaVector (a : W64) (o : BitVec 9) : W64 := a + o.signExtend 64 * 256

/-- The address of lane `i` of a strided access (Table 7-13). -/
def eaStride (a s : W64) (i : Nat) : W64 := a + BitVec.ofNat 64 i * s

/-- The address of a lane of a gather or scatter from its byte offset (Table 7-13). -/
def eaIndexed (a : W64) (o : W32) : W64 := a + o.signExtend 64

/-- An address is a multiple of `n`. -/
def aligned (a : W64) (n : Nat) : Bool := a.toNat % n = 0

/-- Bytes of the .W and .D forms (R213). -/
def wdBytes (z : Bool) : Nat := if z then 8 else 4

/-- A byte value, extended to 64 bits as a load extends it (R93). -/
def extendLoad (sx : Bool) (n : Nat) (x : Nat) : W64 :=
  if sx ∧ 2 ^ (8 * n - 1) ≤ x then BitVec.ofInt 64 ((x : Int) - 2 ^ (8 * n)) else BitVec.ofNat 64 x

/-- Bits [pos+len−1:pos] of a value, as a number (R79). -/
def bitField (a : W64) (pos len : Nat) : Nat := a.toNat / 2 ^ pos % 2 ^ len

/-- The low `n` bits of a value, sign-extended (R9). -/
def sextLow (a : W64) (n : Nat) : W64 :=
  let x := a.toNat % 2 ^ n
  if 2 ^ (n - 1) ≤ x then BitVec.ofInt 64 ((x : Int) - 2 ^ n) else BitVec.ofNat 64 x

/-- The group slot a two-bit field names. -/
def Thread.rJ (t : Thread) (j : BitVec 2) : W64 := t.j[j.toNat]'j.isLt
/-- Write a group slot. -/
def Thread.wJ (t : Thread) (j : BitVec 2) (x : W64) : Thread := { t with j := t.j.set j.toNat x j.isLt }

end Sys2Proof.Machine
end

