-- ==== Sys2Proof/Machine/Issue.lean ====
section
/-!
DEFINITION. Issue within a core (R131, R132): which slots are ready, which one issues, what it does before its next word
(a pending header fetch, a block's end, a held fault), and the position checks of R55.
-/

namespace Sys2Proof.Machine

/-- Room for one more command of a thread in a queue: the entries of the queue and of the thread's channel (R246, R274,
R360). -/
def queueRoom (s : State) (tid : Tid) (q : EngineQueue) : Bool :=
  let k := s.cluster (clusterOf tid.core)
  let mine := fun (l : List Cmd) => (l.filter (fun x => decide (x.tid = tid))).length
  match q with
  | .copy => decide (k.copyQ.length < Config.copyQueue) && decide (mine k.copyQ < Config.channelLimit)
  | .message => decide (k.msgQ.length < Config.copyQueue) && decide (mine k.msgQ < Config.channelLimit)
  | .matrix => decide ((s.core tid.core).matrixQ.length < Config.matrixQueue)
  | .launch => decide (k.launchQ.length < Config.launchQueue) && decide (mine k.launchQ < Config.channelLimit)

/-- The place an access reaches, when it is known. -/
def Acc.place (a : Acc) : Option Phys :=
  match a.trans with
  | .done p => some p
  | _ => none

/-- An access of the thread itself to memory, not of an engine; a register read is none (R96). -/
def Acc.ofThread (a : Acc) : Bool :=
  (match a.op with | .sysreg _ _ => false | _ => true) &&
  match a.agent with
  | .thread _ _ => true
  | _ => false

/-- Two byte ranges overlap. -/
def overlaps (k n j m : Nat) : Bool := decide (k < j + m) && decide (j < k + n)

/-- The byte ranges, as offset and length from the access address, that an access touches. -/
def AccOp.spans (len : Nat) : AccOp → List (Nat × Nat)
  | .vload ls => ls.map fun l => (l.2, 4)
  | .vstore ls => ls.map fun l => (l.2.1, 4)
  | .engWrite ls => ls.map fun l => (l.1, 1)
  | .sysreg _ _ | .key => []
  | _ => [(0, len)]

/-- An access touches a byte of a range of a place. -/
def Acc.touches (a : Acc) (p : Phys) (n : Nat) : Bool :=
  match a.place with
  | some q => (a.op.spans a.len).any fun x => overlaps (q.key + x.1) x.2 p.key n
  | none => false

/-- An access of the thread that is not yet accepted may touch a place (R95): it does, or it is not yet translated. -/
def earlierTouches (s : State) (tid : Tid) (before : Nat) (p : Phys) (n : Nat) : Bool :=
  s.accs.any fun a => decide (a.tid = tid) && a.ofThread && decide (a.id < before) && a.touches p n

/-- The place a tagged access or a wait reaches, or the ACCESS it traps with at issue (R142, R190, R191, R212, log 19). -/
def taggedPlace (c : CoreId) (ea : W64) : Except FaultInfo Phys :=
  match classify c ea with
  | .nothing => .error (accessFault ea 2)
  | .virt => .error (accessFault ea 5)
  | .place p =>
    match p.region with
    | .scratch _ _ => .ok p
    | .agent _ _ => .error (accessFault ea 4)
    | _ => .error (accessFault ea 5)

/-- The package in whose cluster window the flag address of STFL or VSTFL is read: that of the lowest lane (R272, R273), as
far as it is known; `lane` and `node` are those accepted so far. -/
def flagNode (s : State) (tid : Tid) (pid lane node : Nat) : Nat :=
  (s.accs.findSome? fun a =>
    match a.agent, a.place with
    | .thread q l, some p => if a.tid = tid ∧ q = pid ∧ l < lane then some p.node else none
    | _, _ => none).getD node

/-- The flag doubleword that a pending STFL or VSTFL is still to raise. -/
def Pending.flagPlace (s : State) (tid : Tid) (p : Pending) : Option Phys :=
  match p.val with
  | .flag fa lane node stage =>
    if p.left = 0 ∨ stage = .made then none
    else
      (match taggedPlace { tid.core with node := flagNode s tid p.id lane node } fa with
       | .ok q => some q
       | .error _ => none)
  | _ => none

/-- The flags that instructions of the thread before `seq` are still to raise: each raise is an access of its STFL or VSTFL
(DESIGN CHOICE, log 102). -/
def flagsOut (s : State) (tid : Tid) (seq : Nat) : List Phys :=
  (s.th tid).pending.filterMap fun p => if p.id < seq then p.flagPlace s tid else none

/-- A flag that is still to be raised touches a range of a place. -/
def flagTouches (s : State) (tid : Tid) (seq : Nat) (p : Phys) (n : Nat) : Bool :=
  (flagsOut s tid seq).any fun q => overlaps q.key 8 p.key n

/-- An atomic or reduction. -/
def AccOp.atomic : AccOp → Bool
  | .atom _ _ _ | .red _ _ | .join => true
  | _ => false

/-- An atomic, which FENCE counts as a load and a write; a reduction or a JOIN is a write (R234). -/
def AccOp.isAtomic : AccOp → Bool
  | .atom _ _ _ => true
  | _ => false

/-- An access in flight of the thread issued before `seq`. -/
def earlier (s : State) (tid : Tid) (seq : Nat) : List Acc :=
  s.accs.filter fun a => decide (a.tid = tid) && a.ofThread && decide (a.id < seq)

/-- An access is homed in a scope of its thread (R220). -/
def Acc.homed (a : Acc) (sc : Scope) : Bool :=
  match a.place with
  | some p => homedIn a.tid.core p sc
  | none => decide (sc = .group)

/-- Every access of the thread issued before `seq` and homed in the scope has been accepted or refused, a flag's raise among
them. One that is not yet translated may be homed there. -/
def drained (s : State) (tid : Tid) (seq : Nat) (sc : Scope) : Bool :=
  decide (sc = .thread) || ((earlier s tid seq).all fun a => decide (a.trans ≠ .need ∧ a.place.isSome) && !a.homed sc) &&
    (flagsOut s tid seq).all fun q => !homedIn tid.core q sc

/-- No answer is on its way to the thread: REL's drain ends only when a refused access's fault has been delivered, or is held, since
a REL without a trap guarantees that what it drained was accepted (R236, R397, log 44). -/
def answered (s : State) (tid : Tid) : Bool := (s.th tid).answers.all fun a => a.held

/-- An access counts as a load for FENCE (R234). -/
def AccOp.isLoad : AccOp → Bool
  | .load _ | .vload _ | .sysreg _ _ => true
  | _ => false

/-- FENCE's condition on an access to `p` issued at `seq` (R234). -/
def fencesAllow (s : State) (tid : Tid) (seq : Nat) (p : Phys) (isLoad : Bool) : Bool :=
  s.fences.all fun f =>
    decide (f.tid ≠ tid) || decide (seq < f.seq) || !homedIn tid.core p f.scope ||
    ((earlier s tid f.seq).all fun a => !a.homed f.scope || (isLoad && !(a.op.isLoad || a.op.isAtomic))) &&
      (isLoad || (flagsOut s tid f.seq).all fun q => !homedIn tid.core q f.scope)

/-- Every earlier access of the thread is translated (R202). -/
def translatedBefore (s : State) (tid : Tid) (seq : Nat) : Bool :=
  (earlier s tid seq).all fun a => a.place.isSome

/-- No earlier access of the thread keeps a record from being read now, or COUNT from being updated (R95, R202). FENCE orders no
engine command (R231, R234). -/
def recordFree (s : State) (tid : Tid) (p : Phys) (n : Nat) : Bool :=
  translatedBefore s tid s.nextId && !earlierTouches s tid s.nextId p n && !flagTouches s tid s.nextId p n

/-- FORK's update of COUNT may be made now: its own earlier accesses and its fences let it (R95, R150, R234). -/
def updateFree (s : State) (tid : Tid) (p : Phys) : Bool := recordFree s tid p 4 && fencesAllow s tid s.nextId p false

/-- What a hold waits for is over, where a look at the state decides it; other holds end by a step of their own. -/
def holdOver (s : State) (tid : Tid) : Bool :=
  match (s.th tid).hold with
  | .none => true
  | .queue q => queueRoom s tid q
  | .access a n =>
    (match classify tid.core a with
     | .place p => recordFree s tid p n
     | _ => true)
  | .update a =>
    (match classify tid.core a with
     | .place p => updateFree s tid p
     | _ => true)
  | .tick n => decide (n ≤ s.taper tid.core.node)
  | _ => false

/-- An implicit block is over: every register awaited is full (R47). -/
def blockOver (t : Thread) : Bool :=
  match t.blocked with
  | none => true
  | some b => b.regs.all fun w => t.full w.ref

/-- The thread waits for a service core's reply, or for its access to proceed after one (R204, R207). -/
def translationHeld (s : State) (tid : Tid) : Bool :=
  s.accs.any fun a => decide (a.tid = tid) && a.ofThread &&
    (match a.trans with | .again => true | .faulted => true | .ringFull _ => true | _ => false)

/-- The thread stands at the opening word of an IR region that it has not yet opened (Table 13-7). -/
def Thread.atOpening (t : Thread) : Bool :=
  t.fetch.isNone && !t.restarted && decide (t.wordIx = 0) && (t.block.map (fun b => hdrIR b.hdr)).getD false

/-- A pre-emption keeps the thread from issuing its next word (R323): it is to stop at once, or, for a Drain, has reached
the boundary after region `r`. -/
def mustStop (s : State) (tid : Tid) : Bool :=
  s.preempts.any fun p => p.draining.any fun d => decide (d.1 = tid) &&
    (match d.2 with
     | none => true
     | some r => decide ((s.th tid).region ≠ r) || (s.th tid).atOpening)

/-- A core runs: it is not halted (R310), and its package is brought up so far (R385) and not halted (R382). -/
def coreRuns (s : State) (c : CoreId) : Bool :=
  !(s.core c).halted && decide (1 ≤ (s.pkg c.node).phase ∧ (s.pkg c.node).reason = 0)

/-- A slot is ready (R131), cycles apart, on a core that runs. -/
def ready (s : State) (tid : Tid) : Bool :=
  let t := s.th tid
  decide (t.life = .running) && coreRuns s tid.core &&
    holdOver s tid && blockOver t && !translationHeld s tid && !mustStop s tid && (t.block.isSome || t.fetch.isSome)

/-- A held fault waits to be delivered now that no handler runs (R308). -/
def Thread.faultDue (t : Thread) : Bool := !t.inHandler && t.answers.any (·.held)

/-- Something is to be done for the slot before its next word: a held fault, a header fetch, a block's end. -/
def upkeepDue (s : State) (tid : Tid) : Bool :=
  let t := s.th tid
  t.faultDue || t.fetch.isSome || t.atEnd

/-- The registers a wait marked empty (Table 5-3). -/
def QWait.regs (w : QWait) : List RegRef :=
  match w.kind with
  | .ring _ d | .lock _ d | .ldsw d | .ldsd d | .ldcw d | .ldcd d => [.g d, .q w.q]
  | _ => [.q w.q]

/-- A thread leaves its block or hold. A wait, GJOIN, FENCESC, REL or TLBI that it leaves has no effect: its registers
are full again with their old values, and the thread stands at the word again (R308, R309, R50), unless the fault
delivered is the instruction's own (`own`, R141). -/
def leaveHold (tid : Tid) (own : Bool) (s : State) : State :=
  let back := fun (t : Thread) => { t with pc := if own then t.pc else t.pc - 4, hold := .none, blocked := none }
  match (s.th tid).hold with
  | .wait =>
    (match s.waits.find? (fun w => w.tid = tid) with
     | some w => fillTh tid (fun t => w.regs.foldl Thread.restore (back t)) (dropWaits tid s)
     | none => s.modTh tid back)
  | .gjoin _ _ | .fencesc _ | .rel _ _ _ => s.modTh tid back
  | .tlbi id => { s.modTh tid back with tlbis := s.tlbis.filter (fun r => r.id ≠ id) }
  | _ => s.modTh tid fun t => { t with hold := .none, blocked := none }

/-- Delivery of a deferred fault (R308, R309, R310, R317): its registers are full again (R50), the thread leaves its
block or wait, and it takes the trap with TPC the producing word, RES the word it would have issued next and TINFO3 that
word's block; a POISON of a load of the current region restarts the region instead; an ended thread stops, but for one of an abandoned team
(R328). -/
def deliver (tid : Tid) (a : Answer) (s : State) : State :=
  let p? := (s.th tid).pend? a.pid
  let s := fillTh tid
    (fun t =>
      let t := { t with answers := t.answers.filter (fun b => b.pid ≠ a.pid) }
      match p? with
      | some p => ((t.dropPending a.pid).restoreOpt p.dst).restoreOpt p.also
      | none => t) s
  let t := s.th tid
  let wordAddr : W64 := BitVec.ofNat 64 a.word
  if t.abandoned then s
  else if t.life = .ended then stopThread tid 1 a.fault wordAddr (t.bh.setWidth 64) s
  else if t.life ≠ .running then s
  else if a.fault.cause = .poison ∧ a.load ∧ a.region = t.region ∧ t.mayRestart then
    restartRegion tid true (leaveHold tid false s)
  else
    let s := leaveHold tid (a.word + 4 = t.pc.toNat) s
    let t := s.th tid
    let f := if a.fault.cause = .poison ∧ a.load ∧ a.region = t.region ∧ t.restarts = 2 then
      { a.fault with t2 := (a.fault.t2 &&& ~~~ 0xFF#64) ||| 2 } else a.fault
    let (bh, next) : BitVec 19 × BitVec 19 := match t.fetch with
      | some x =>
        (match x.via with
         | .resume w _ | .saved w _ => (x.target.setWidth 19, x.target.setWidth 19 + BitVec.ofNat 19 (8 + 4 * w))
         | _ => (x.target.setWidth 19, x.target.setWidth 19))
      | none => if t.atEnd then (BitVec.ofNat 19 t.nh, BitVec.ofNat 19 t.nh) else (t.bh, t.pc)
    enterTrap tid f wordAddr (bh.setWidth 64) (some next) s

/-- What a slot does before its next word: the first held fault, then a header fetch, then the block's end. -/
def upkeep (tid : Tid) (s : State) : State :=
  let t := s.th tid
  if t.faultDue then
    match t.answers.find? (·.held) with
    | some a => deliver tid a s
    | none => s
  else
    match t.fetch with
    | some f => fetchHeader tid f (s.modTh tid fun t => { t with fetch := none, hold := .none })
    | none => blockEnd tid s

/-- The instructions that stand only as the last word of a block (R55). -/
def Instr.isControl : Instr → Bool
  | .br _ _ | .call _ _ | .jmp _ _ | .jcall _ _ _ | .ret _ _ | .exit _ | .rft _ | .trap _ _ | .brk _ | .sys _ _ _ => true
  | _ => false

/-- ILLEGAL of the word at PC (R69): TINFO0 the word, TINFO1 the second word of a 64-bit instruction. DESIGN CHOICE: where its
block holds no second word TINFO1 is 0 (log 94). -/
def illegalWord (s : State) : State :=
  let t := s.me
  let w1 : W64 := match t.block with
    | some b => if isWide t.curWord then (b.words.getD (t.wordIx + 1) 0).setWidth 64 else 0
    | none => 0
  trap ⟨.illegal, t.word64, w1, 0⟩ s

/-- The instruction at PC: decoded from the block copy, its position checked (R55, R69 step 1). -/
def fetchInstr (t : Thread) : Option Instr :=
  match t.block with
  | none => none
  | some b =>
    match decode t.curWord (b.words.getD (t.wordIx + 1) 0) with
    | .error _ => none
    | .ok i =>
      if isWide t.curWord ∧ t.blockLen ≤ t.wordIx + 1 then none
      else if Instr.isControl i ∧ t.wordIx + 1 ≠ t.blockLen then none
      else some i

/-- The slots of a core in the order of R132, from the one after L. -/
def slotOrder (s : State) (c : CoreId) : List Nat :=
  (List.range 16).map fun k => ((s.core c).last.toNat + 1 + k) % 16

/-- What a core does in a cycle. -/
inductive Chosen where
  | nothing
  | upkeep (tid : Tid)
  | word (tid : Tid)
  deriving DecidableEq, Repr

/-- The choice of R132 among the ready slots that the cycle counts do not keep out (`late`, log 1); what a slot does
before its next word is done first. -/
def choose (s : State) (c : CoreId) (late : List Nat) : Chosen :=
  let slots := (slotOrder s c).filter fun k => ready s ⟨c, k⟩ && !late.contains k
  match slots.find? (fun k => upkeepDue s ⟨c, k⟩) with
  | some k => .upkeep ⟨c, k⟩
  | none =>
    match slots with
    | k :: _ => .word ⟨c, k⟩
    | [] => .nothing

/-- The word at PC is the one behind the instruction at an offset. -/
def Thread.follows (t : Thread) (word : Nat) : Bool :=
  match t.block with
  | some b =>
    let i := (word - (t.bh.toNat + 8)) / 4
    decide (t.bh.toNat + 8 ≤ word ∧ t.wordIx = i + (if isWide (b.words.getD i 0) then 2 else 1)) && t.fetch.isNone && !t.atEnd
  | none => false

/-- The thread can issue the word behind an instruction, and its core has nothing else to issue: that word issues 4 cycles after
the instruction, before any answer comes (Table 0-4, R392). -/
def nextFirst (s : State) (tid : Tid) (word : Nat) : Bool :=
  (s.th tid).follows word && ready s tid && !upkeepDue s tid &&
    !((slotOrder s tid.core).any fun k => decide (k ≠ tid.slot) && ready s ⟨tid.core, k⟩)

/-- Slot `tid` is the one that issues: it becomes L (R132) and the thread that `exec` acts on. -/
def select (tid : Tid) (s : State) : State :=
  { s.modCore tid.core (fun x => { x with last := BitVec.ofNat 4 tid.slot }) with cur := tid }

end Sys2Proof.Machine
end

