-- ==== Sys2Proof/Machine/Lease.lean ====
section
/-!
DEFINITION. Lease tables (R107 to R113): handles, the checks of Table 4-3 and R111, the owner of a granule (R114), paths
to other packages (R119), locks and bindings at a store (R117, R118), and the checks a home makes (Tables 4-3a, 7-3).
-/

namespace Sys2Proof.Machine

/-! ### Handles (Table 4-1) -/

/-- KIND (Table 4-2). -/
def LKind.code : LKind → Nat
  | .range => 0 | .lock => 1 | .group => 2 | .recv => 3 | .path => 4 | .ctx => 5

/-- The handle of an entry. -/
def handleOf (h : DieId) (k : LKind) (i gen : Nat) : W64 :=
  BitVec.ofNat 64 (h.node % 65536 * 2 ^ 48 + k.code * 2 ^ 44 + h.die % 4 * 2 ^ 42 + i % 2 ^ 26 * 2 ^ 16 + gen % 65536)
/-- NODE and DIE of a handle: the home of its lease (R108). -/
def hHome (x : W64) : DieId := ⟨bits x 48 16, bits x 42 2⟩
/-- KIND of a handle. -/
def hKind (x : W64) : Nat := bits x 44 4
/-- INDEX of a handle. -/
def hIndex (x : W64) : Nat := bits x 16 26
/-- GEN of a handle. -/
def hGen (x : W64) : Nat := bits x 0 16

/-- The next generation: 0xFFFF is followed by 1 (Table 4-3). -/
def nextGen (g : Nat) : Nat := if g + 1 < 65536 then g + 1 else 1
/-- The generation before (the old GEN of an entry whose smoke has ended, R130). -/
def prevGen (g : Nat) : Nat := if g ≤ 1 then 65535 else g - 1

/-- An entry of a die's lease table; an unlisted one is FREE with GEN 1 (log 6). -/
def State.lease (s : State) (h : DieId) (i : Nat) : Lease := (s.die h).leases.get Lease.reset i
/-- Change an entry. -/
def State.modLease (s : State) (h : DieId) (i : Nat) (f : Lease → Lease) : State :=
  s.modDie h fun d => { d with leases := d.leases.set i (f (d.leases.get Lease.reset i)) }
/-- The handle of an entry as it stands. -/
def Lease.handle (l : Lease) (h : DieId) (i : Nat) : W64 :=
  handleOf h l.kind i (if l.state = .free then prevGen l.gen else l.gen)

/-- What presenting a handle at its home finds (Table 4-3). -/
inductive Lookup where
  | live (h : DieId) (i : Nat) (l : Lease)
  | lapsed
  | stale
  deriving DecidableEq, Repr

/-- Present a handle (Table 4-3). -/
def present (s : State) (x : W64) : Lookup :=
  let h := hHome x
  let i := hIndex x
  if Config.leaseEntries ≤ i ∨ ¬ s.group.contains h.node then .stale
  else
    let l := s.lease h i
    if hKind x ≠ l.kind.code ∨ hGen x ≠ l.gen ∨ l.state = .free then .stale
    else if l.state = .smoke then .lapsed
    else .live h i l

/-- The cause a lease instruction reports (Table 4-10): source 0. -/
def leaseFault (c : Cause) (x : W64) : FaultInfo := ⟨c, x, 0, 0⟩

/-- A context holds a lease (Table 4-2, R111). -/
def Lease.heldBy (l : Lease) (ctx : W64) : Bool := decide (l.holder = ctx) || decide (l.holder2 = ctx)

/-- The first entry of a die's lease table that satisfies a test. -/
def findLease (s : State) (h : DieId) (p : Lease → Bool) : Option (Nat × Lease) :=
  List.find? (fun e => p e.2) (s.die h).leases

/-! ### Paths (R119) -/

/-- A context holds a live PATH lease of one of its package's dies to a node. -/
def pathLive (s : State) (node : Nat) (ctx : W64) (dest : Nat) : Bool :=
  (List.range 4).any fun d =>
    (findLease s ⟨node, d⟩ fun l => decide (l.state = .live) && l.heldBy ctx && decide (l.body = .path dest)).isSome

/-! ### Granules (R114, Table 4-3a) -/

/-- Owner state of a granule. -/
inductive Granule where
  | owned (i : Nat) (l : Lease)
  | lapsed (i : Nat) (l : Lease)
  | free
  | system
  deriving DecidableEq, Repr

/-- A core that serves translation faults of some cluster (R204, log 13). -/
def isServiceCore (s : State) (c : CoreId) : Bool :=
  decide (c.cluster = 0 ∧ c.core = 0) || s.service.any fun e => decide (e.2 = c)

/-- The SYSTEM parts of a region, as start and length (R114, R195): the thread-fault area, the fault ring of a service core,
the host ring, the space table, the metadata region; every translation agent; and the spill areas that teams have on the core,
which are the supervisor's too (R151, log 14). -/
def systemParts (s : State) (p : Phys) : List (Nat × Nat) :=
  match p.region with
  | .scratch k c =>
    let core : CoreId := ⟨p.node, p.die, k, c⟩
    [((s.core core).tfrb.toNat, 1024)] ++ (if isServiceCore s core then [(0x7F000, 0x1000)] else []) ++
      (if p.die = 0 ∧ k = 0 ∧ c = 0 then [(0x7E000, 0x840)] else []) ++
      ((s.cluster ⟨p.node, p.die, k⟩).teams.filterMap fun m => (m.2.spills.look c).map fun a => (bits a 0 19, 4096))
  | .hbm => [(0, 0x80000), (Config.hbmBytes - 2 ^ 28, 2 ^ 28)]
  | .agent _ _ => [(0, Config.scratchBytes)]
  | .bstack _ => []

/-- A byte of a range of a place is SYSTEM: one of those parts, or marked so by the loader and the firmware (R114, R124). -/
def systemOverlaps (s : State) (p : Phys) (n : Nat) : Bool :=
  (systemParts s p).any (fun x => decide (x.1 < p.off + n) && decide (p.off < x.1 + x.2)) ||
  s.sysMem.any fun r => decide (r.start < p.key + n) && decide (p.key < r.start + r.len)

/-- A byte is SYSTEM memory. -/
def isSystem (s : State) (p : Phys) : Bool := systemOverlaps s p 1

/-- A RANGE entry covers a physical byte whose granules it still governs: live, in smoke, or not yet zeroed (R115). -/
def Lease.covers (l : Lease) (k : Nat) : Bool :=
  match l.body with
  | .range _ size phys zeroed => decide (l.kind = .range) && decide (phys ≤ k) && decide (k < phys + size) &&
      (decide (l.state ≠ .free) || !zeroed)
  | _ => false

/-- The granule of a byte. -/
def granule (s : State) (p : Phys) : Granule :=
  if isSystem s p then .system
  else
    match findLease s p.home fun l => l.covers p.key with
    | none => .free
    | some (i, l) => if l.state = .live then .owned i l else .lapsed i l

/-- The granule check (Table 4-3a), with the TINFO of Tables 4-10 and 7-11. -/
def granuleCheck (s : State) (ctx : W64) (p : Phys) (ea : W64) : Option FaultInfo :=
  match granule s p with
  | .system => none
  | .free => some ⟨.stale, 0, ea, 1⟩
  | .lapsed i l => some ⟨.lapsed, l.handle p.home i, ea, 1⟩
  | .owned _ l => if l.holder = ctx then none else some (accessFault ea 8)

/-! ### Locks and bindings (R117, R118) -/

/-- A lock of a die's directory by its key. -/
def lockAt (s : State) (h : DieId) (key : Nat) : Option Lock := (s.die h).locks.find? fun k => decide (k.key = key)

/-- A thread holds a live hold on a lock. -/
def holdsLock (s : State) (h : DieId) (k : Lock) (tid : Tid) : Bool :=
  match k.hold with
  | none => false
  | some i =>
    let l := s.lease h i
    decide (l.state = .live) && (match l.body with | .lock _ _ o det => decide (o = tid) && !det | _ => false)

/-- A store to a bound range (R118). -/
def bindingCheck (s : State) (tid : Tid) (p : Phys) (ea : W64) : Option FaultInfo :=
  match granule s p with
  | .owned i _ =>
    (match (s.die p.home).binds.find? fun b => decide (b.range = i) with
     | none => none
     | some b =>
       (match lockAt s b.die b.key with
        | none => none
        | some k =>
          if holdsLock s b.die k tid then none
          else if k.prev = some tid then some ⟨.lapsed, k.prevHold, ea, 3⟩
          else some ⟨.unheld, k.addr, ea, 3⟩))
  | _ => none

/-! ### Checks at the home (R94, R114, R118, R192, R196, R207) -/

/-- How an access counts: as a load, a store or both (R200, R212, R213). -/
def AccOp.reads : AccOp → Bool
  | .load _ | .vload _ | .atom _ _ _ | .red _ _ | .engRead | .sysreg _ _ | .key | .join => true
  | _ => false
/-- The access counts as a store. -/
def AccOp.writes : AccOp → Bool
  | .load _ | .vload _ | .engRead | .sysreg _ _ | .key => false
  | _ => true
/-- A tag-writing access (Table 7-3). -/
def AccOp.tagged : AccOp → Bool
  | .stf _ | .sete | .setf => true
  | _ => false
/-- Table 7-3: the reason with which a memory refuses an access. -/
def servedBy (tid : Tid) (p : Phys) (len : Nat) (op : AccOp) : Option Nat :=
  match p.region with
  | .scratch _ _ => none
  | .bstack _ => if op.tagged then some 5 else if op.atomic then some 7 else none
  | .hbm => if op.tagged then some 5 else none
  | .agent _ _ =>
    match op with
    | .store _ => if tid.slot = 0 ∧ len = 8 ∧ p.off < 0x80 ∧ p.off % 8 = 0 then none else some 4
    | .port _ => none
    | _ => some 4

/-- The access writes every byte of the 64-byte unit it lies in (R196). -/
def AccOp.wholeUnit (off : Nat) : AccOp → Bool
  | .store bs => decide (off % 64 = 0 ∧ bs.length = 64)
  | .vstore ls => (List.range 16).all fun i => ls.any fun l => decide ((off + l.2.1) % 64 = 4 * i)
  | .engWrite ls => (List.range 64).all fun i => ls.any fun l => decide ((off + l.1) % 64 = i)
  | _ => false

/-- The lowest byte, as an offset from the access address, that an access touches. -/
def AccOp.low (op : AccOp) (len : Nat) : Nat :=
  match op.spans len with
  | [] => 0
  | x :: xs => xs.foldl (fun m y => min m y.1) x.1

/-- A store by a user slot below the XB of the target's core (R63, R192); `xb`: the XB of the thread's own core that is in
force for the access (R45). -/
def belowXB (s : State) (tid : Tid) (xb : BitVec 20) (p : Phys) : Bool :=
  match p.region with
  | .scratch k c =>
    let core : CoreId := ⟨p.node, p.die, k, c⟩
    decide (tid.slot ≠ 0) && decide (p.off < (if core = tid.core then xb else (s.core core).xb).toNat)
  | _ => false

/-- What a home checks when it accepts one unit of an access, in order: the memory serves it, XB, granule, binding,
poison. -/
def homeCheck (s : State) (tid : Tid) (xb : BitVec 20) (ctx : W64) (p : Phys) (ea : W64) (len : Nat) (op : AccOp) : Option FaultInfo :=
  match servedBy tid p len op with
  | some c => some (accessFault ea c)
  | none =>
    if op.writes ∧ belowXB s tid xb (p.plus (op.low len)) then some (accessFault ea 3)
    else
      match granuleCheck s ctx p ea with
      | some f => some f
      | none =>
        match (if op.writes then bindingCheck s tid p ea else none) with
        | some f => some f
        | none =>
          if s.isPoisoned p ∧ ¬ (op.writes ∧ op.wholeUnit p.off) then
            some ⟨.poison, ea, ea - BitVec.ofNat 64 (p.off % 64), 0⟩
          else none

end Sys2Proof.Machine
end

