-- ==== Sys2Proof/Machine/Routes.lean ====
section
/-!
DEFINITION. What decides whether a flit may leave a package: circuits and routes (R336, R345, R346), the sending caps (R347,
R348), and which accesses wait at the fabric die (R119).
-/

namespace Sys2Proof.Machine

/-- A strand of a package; an unlisted one is as at reset. -/
def State.strand (s : State) (n k : Nat) : Strand := (s.pkg n).strands.get Strand.reset k
/-- Change a strand. -/
def State.modStrand (s : State) (n k : Nat) (f : Strand → Strand) : State :=
  s.modPkg n fun p => { p with strands := p.strands.set k (f (p.strands.get Strand.reset k)) }

/-! ### Routes (R345) -/

/-- The strands of a package that circuits join to a peer; a dark one still belongs to the circuit that its route was computed over,
until the relock (R346). -/
def strandsTo (s : State) (n m : Nat) : List (Nat × Strand) :=
  (s.pkg n).strands.filter fun e => decide (e.2.far < Config.strands ∧ e.2.peer.toNat = m)

/-- Peers that a package's circuits join it to. -/
def peersOf (s : State) (n : Nat) : List Nat :=
  (((s.pkg n).strands.filter fun e => decide (e.2.far < Config.strands)).map fun e => e.2.peer.toNat).eraseDups

/-- Nodes within `k` circuits of those of a list. -/
def within (s : State) : Nat → List Nat → List Nat
  | 0, l => l
  | k + 1, l => within s k (l.foldl (fun l n => (peersOf s n).foldl insertNat l) l)

/-- A route, of at most four circuits, leads from one node to another (R345). -/
def reach (s : State) (n m : Nat) : Bool := (within s 4 [n]).contains m

/-- The ways of at most `k` circuits from a node to another that touch no node twice: the nodes they come to. -/
def waysTo (s : State) (m : Nat) : Nat → Nat → List Nat → List (List Nat)
  | 0, _, _ => []
  | k + 1, n, seen => (peersOf s n).flatMap fun p =>
      if p = m then [[m]]
      else if seen.contains p then []
      else (waysTo s m k p (p :: seen)).map (p :: ·)

/-- The route from one node to another, fixed from one reconfiguration to the next (R336, R345): the circuits between the two where
there are any. DESIGN CHOICE: which of several others is free (log 127). -/
def route (s : State) (n m : Nat) : Option (List Nat) :=
  if (peersOf s n).contains m then some [m]
  else
    match waysTo s m 4 n [n] with
    | [] => none
    | [w] => some w
    | ws => ws[Config.routeChoice (s.pkg n).relocks n m % ws.length]?

/-- The hops of a route from a node. -/
def hops (n : Nat) : List Nat → List (Nat × Nat)
  | [] => []
  | m :: l => (n, m) :: hops m l

/-- The route crosses circuits that are being changed: of some hop no other circuit is left (R346). What waited for the change waits
on until the tick boundary at which the relock ends. A node without a route is not reached. -/
def crosses (s : State) (n m : Nat) : Bool :=
  ((s.pkg n).relock.getD []).contains m ||
  match route s n m with
  | none => true
  | some w => (hops n w).any fun h => (strandsTo s h.1 h.2).all fun e => (s.pkg h.1).changing.contains e.1

/-- The fabric between two packages is available: from phase 3 of the bring-up of each (R385). -/
def fabricUp (s : State) (n m : Nat) : Bool := decide (3 ≤ (s.pkg n).phase ∧ 3 ≤ (s.pkg m).phase)

/-- What a home of one node answers may go out to another node now: no circuit of its way is being changed (R346). -/
def wayOpen (s : State) (n m : Nat) : Bool := decide (n = m) || !crosses s n m

/-- No way is left from a node to another, and no change of circuits can still bring one: the relock has ended. -/
def wayLost (s : State) (n m : Nat) : Bool := decide (n ≠ m ∧ route s n m = none ∧ (s.pkg n).relock = none)

/-- What one node answers to another waits for the end of a change of circuits (R346). -/
def answerHeld (s : State) (n m : Nat) : Bool := !wayOpen s n m && !wayLost s n m

/-- Every hop of the route has a strand that is UP (R350). -/
def routeUp (s : State) (n m : Nat) : Bool :=
  match route s n m with
  | none => false
  | some w => (hops n w).all fun h => (strandsTo s h.1 h.2).any fun e => e.2.up

/-! ### The sending cap (R347, R348) -/

/-- The partition of a thread's die. -/
def partOf (s : State) (t : Tid) : Nat := bits (s.die (dieOf t.core)).part 0 8
/-- Key of the cap of a peer and a partition. -/
def capKey (p part : Nat) : Nat := p * 256 + part
/-- A cap as it starts. -/
def Cap.reset : Cap := ⟨Config.capStart, 0, 0, [], none, 0⟩
/-- A cap of a package. -/
def State.cap (s : State) (n p part : Nat) : Cap := (s.pkg n).caps.get Cap.reset (capKey p part)

/-- `n` more payload bytes would go above the cap, or one more flit above the ceiling (R348). -/
def Cap.full (n : Nat) (c : Cap) : Bool :=
  decide (c.out ≠ 0 ∧ c.bytes < c.out + n) || decide (Config.flitCeiling ≤ c.flits)

/-- Payload bytes that the request of an access carries. -/
def AccOp.payload (len : Nat) : AccOp → Nat
  | .load _ | .vload _ | .sysreg _ _ | .engRead | .key | .sete | .setf | .join | .raise => 0
  | .vstore ls => 4 * ls.length
  | .engWrite ls => ls.length
  | _ => len

/-! ### At the fabric die (R119) -/

/-- A message in progress. -/
def State.msg? (s : State) (j : Nat) : Option Msg := s.msgs.find? fun x => decide (x.id = j)
/-- A message to another package. -/
def Msg.isFar (m : Msg) : Bool := decide (m.dest.node ≠ m.cmd.tid.core.node)

/-- The way of a request from its package to a peer: for which context, and for which partition. -/
structure Leg where
  node : Nat
  peer : Nat
  ctx : W64
  part : Nat
  deriving DecidableEq, Repr

/-- The way of a message. -/
def Msg.leg (s : State) (m : Msg) : Leg := ⟨m.cmd.tid.core.node, m.dest.node, m.cmd.ctx, partOf s m.cmd.tid⟩

/-- The way of an access to another package: a payload unit of a message goes the message's way, before it is written there. -/
def Acc.leg (s : State) (a : Acc) : Option Leg :=
  let own : Option Leg :=
    match a.place with
    | some p => if p.node = a.tid.core.node then none else some ⟨a.tid.core.node, p.node, a.ctx, partOf s a.tid⟩
    | none => none
  match a.agent with
  | .msgWrite j _ =>
    (match s.msg? j with
     | some m => if m.isFar ∧ ¬ m.headerOut ∧ a.place.isSome then some (m.leg s) else own
     | none => own)
  | _ => own

/-- A message waits for an earlier one of its core to its endpoint, which is not yet decided (R266). -/
def heldBack (s : State) (m : Msg) : Bool :=
  s.msgs.any fun x => decide (x.id < m.id ∧ x.cmd.tid.core = m.cmd.tid.core ∧ x.dest = m.dest ∧ x.ep = m.ep) &&
    (match x.phase with | .waiting _ | .offered _ | .refused => true | _ => false)

/-- A message whose header waits at the fabric die. -/
def Msg.atFabric (s : State) (m : Msg) : Bool :=
  m.isFar && (match m.phase with | .waiting _ => true | _ => false) && !heldBack s m

/-- The place of an access may be reached: its way stays in the package, or the fabric die has sent the access on (R119). -/
def Acc.reaches (s : State) (a : Acc) : Bool := a.sent || (a.leg s).isNone

/-- The cap of a way. -/
def State.capOf (s : State) (l : Leg) : Cap := s.cap l.node l.peer l.part

/-- A request of `n` payload bytes waits before it is accepted for transmission: its route is being changed, or the cap is
full (R346, R348). -/
def legWaits (s : State) (l : Leg) (n : Nat) : Bool := crosses s l.node l.peer || (s.capOf l).full n

/-- Two ways share a cap: one peer, one partition. -/
def Leg.sameCap (l m : Leg) : Bool := decide (l.node = m.node ∧ l.peer = m.peer ∧ l.part = m.part)

/-- One arrival at the fabric die is earlier than another: the names of the arrivals, then those of the requests (R348). -/
def arrivedBefore (a k b j : Nat) : Bool := decide (a < b ∨ (a = b ∧ k < j))

/-- An earlier arrival at the fabric die, of those that satisfy a test, is for the same cap (R348). -/
def behind (s : State) (at_ k : Nat) (l : Leg) (waits : Leg → Nat → Bool) : Bool :=
  s.accs.any (fun a => arrivedBefore a.arrived a.id at_ k && !a.sent &&
    (match a.leg s with | some m => l.sameCap m && waits m (a.op.payload a.len) | none => false)) ||
  s.msgs.any fun m => arrivedBefore m.arrived m.id at_ k && m.atFabric s && l.sameCap (m.leg s) && waits (m.leg s) 0

/-- An earlier arrival at the fabric die waits for the same cap (R348). -/
def waitsBefore (s : State) (at_ k : Nat) (l : Leg) : Bool := behind s at_ k l fun _ _ => true

/-- A request of `n` payload bytes goes out: it is outstanding until an acknowledgement covers it (R347). -/
def sendOut (l : Leg) (n : Nat) (s : State) : State :=
  let c := s.capOf l
  s.modPkg l.node fun q => { q with caps := q.caps.set (capKey l.peer l.part) { c with out := c.out + n, flits := c.flits + 1 } }

/-- Payload bytes that the answer of an access carries (R347). -/
def AccOp.answerBytes (len : Nat) : AccOp → Nat
  | .load _ | .atom _ _ _ | .engRead => len
  | .vload ls => 4 * ls.length
  | _ => 0

/-- The answer of an access to another package may go out there: no more than 32,768 flits are ever outstanding (R348). -/
def answerFits (s : State) (a : Acc) (p : Phys) : Bool :=
  decide (p.node = a.tid.core.node ∨ a.op.answerBytes a.len = 0 ∨
    (s.cap p.node a.tid.core.node (partOf s a.tid)).flits < Config.flitCeiling)

/-- The answer of an access to another package goes out there, for the partition that asked: it is outstanding until an
acknowledgement covers it (R347, log 128). -/
def respond (a : Acc) (p : Phys) (s : State) : State :=
  if p.node ≠ a.tid.core.node ∧ a.op.answerBytes a.len ≠ 0 then
    sendOut ⟨p.node, a.tid.core.node, a.ctx, partOf s a.tid⟩ (a.op.answerBytes a.len) s
  else s

/-- An access waits at its package's fabric die (R346, R348), for itself or behind one that does. -/
def fabricWaits (s : State) (a : Acc) : Bool :=
  !a.sent && (match a.leg s with
    | some l => legWaits s l (a.op.payload a.len) || behind s a.arrived a.id l (legWaits s)
    | none => false)

/-- A tick boundary finds the accesses that wait at a package's fabric die. -/
def markHeld (n : Nat) (s : State) : State :=
  if s.accs.any (fabricWaits s) then
    { s with accs := mapIf s.accs (fun a => decide (a.tid.core.node = n) && fabricWaits s a) fun a => { a with held := true } }
  else s

/-- What presents a handle of another package waits at the fabric die: the route is being changed (R346). -/
def handleHeld (s : State) (n : Nat) (x : W64) : Bool :=
  decide (x ≠ 0 ∧ (hHome x).node ≠ n) && crosses s n (hHome x).node

/-- The instruction is a lease request (R122). -/
def isRequest : Instr → Bool
  | .lrange _ _ _ _ _ | .lgroup _ _ _ _ _ | .lpath _ _ _ _ _ | .lctx _ _ _ _ _ => true
  | _ => false

/-- The handles that a lease instruction presents at their homes (R125 to R129, R236); a request presents none. -/
def LeaseReq.handles (r : LeaseReq) : List W64 :=
  match r.ins with
  | .bind _ _ _ _ => [r.a, r.b]
  | i => if isRequest i then [] else [r.a]

/-- A lease instruction of a thread, by its name, waits at the fabric die (R346). -/
def leaseHeld (s : State) (tid : Tid) (id : Nat) : Bool :=
  s.leaseReqs.any fun r => decide (r.id = id ∧ r.tid = tid) && r.handles.any (handleHeld s tid.core.node)

/-- The name of the instruction or command whose access it is. -/
def Acc.source (s : State) (a : Acc) : Option Nat :=
  match a.agent with
  | .thread pid _ => some pid
  | .descriptor k => some k
  | .copyRead j _ | .copyWrite j _ => (s.jobs.find? fun x => decide (x.id = j)).map (·.cmd.id)
  | .msgRead j _ | .msgWrite j _ => (s.msg? j).map (·.cmd.id)
  | .save k _ => (s.preempts.find? fun x => decide (x.id = k)).map (·.cmd.id)
  | _ => none

/-- A pending instruction of a thread waits at the fabric die: with an access of its own or of its command, or with a handle (R346,
R348). -/
def sourceHeld (s : State) (tid : Tid) (pid : Nat) : Bool :=
  s.accs.any (fun a => a.held && !a.sent && decide (a.tid = tid ∧ a.source s = some pid)) || leaseHeld s tid pid

/-- A register waits for what waits at the fabric die, a predicate for its deferred sources among them; `n`: how many may be deferred
one on the other. -/
def regHeld (s : State) (tid : Tid) : Nat → RegRef → Bool
  | 0, _ => false
  | n + 1, r =>
    (s.th tid).pending.any (fun p => decide (p.dst = some r ∨ p.also = some r) && sourceHeld s tid p.id) ||
    (s.th tid).deferredQ.any fun d => decide (r = .q d.q) && [d.a, d.b].any fun x =>
      match x with
      | .pend k => regHeld s tid n k
      | .val _ => false

/-- The thread waits for a register that only what waits at the fabric die can fill: ETO does not apply (R346, R348). -/
def fabricHeld (s : State) (tid : Tid) (r : RegRef) : Bool := regHeld s tid ((s.th tid).deferredQ.length + 1) r

/-- The implicit block of a thread is not subject to ETO, for what waits at the fabric die. -/
def blockHeld (s : State) (tid : Tid) : Bool :=
  match (s.th tid).stillEmpty with
  | some w => fabricHeld s tid w.ref
  | none => false

/-- The bound of an implicit block counts anew once its wait is subject to ETO again (log 106). -/
def reboundBlock (tid : Tid) (s : State) : State :=
  s.modTh tid fun t => { t with blocked := t.blocked.map fun b => { b with since := s.taper tid.core.node } }

end Sys2Proof.Machine
end

