-- ==== Sys2Proof/Machine/Access.lean ====
section
/-!
DEFINITION. Accesses in flight: how a thread posts them, what orders their acceptance (R95, R202, R219, R222, R226, R234),
the queues of waits on words (R143), and what one unit does at its home (R93, R212 to R218).
-/

namespace Sys2Proof.Machine

/-! ### Posting -/

/-- Where an effective address leads before translation: known, or to be translated (R189, R202); a register has none (R70). -/
def startTrans (c : CoreId) (op : AccOp) (ea : W64) : Trans :=
  match op, classify c ea with
  | .sysreg _ _, _ => .register
  | _, .place p => .done p
  | _, _ => .need

/-- An address lies in an enabled sub-page window of a core (R201, Table 7-7). -/
def inWindow (c : Core) (va : W64) : Bool :=
  c.spw.toList.any fun w =>
    decide (bits w 0 1 = 1 ∧ bits w 21 36 ≤ bits va 21 36 ∧ bits va 21 36 ≤ bits w 21 36 + bits w 8 13)

/-- Put one unit of an access in flight; the core's XB and windows as they stand are in force for it (R45). -/
def postAcc (tid : Tid) (ctx : W64) (space : BitVec 16) (word : Nat) (agent : Agent) (op : AccOp) (ea : W64) (len : Nat)
    (s : State) : State :=
  { s.fresh with accs := s.accs ++
      [⟨s.nextId, tid, ctx, space, agent, word, op, ea, len, startTrans tid.core op ea, false, false,
        (s.core tid.core).xb, inWindow (s.core tid.core) ea, false, s.nextId⟩] }

/-- Post an access of the issuing thread. -/
def postMine (agent : Agent) (op : AccOp) (ea : W64) (len : Nat) (s : State) : State :=
  postAcc s.cur s.me.ctxh s.me.space s.me.pc.toNat agent op ea len s

/-- A store by a user slot below the own XB traps at issue (R63, R94). -/
def ownXB (s : State) (ea : W64) : Bool :=
  match classify s.cur.core ea with
  | .place p =>
    (match p.region with
     | .scratch k c => decide (p.die = s.cur.core.die ∧ k = s.cur.core.cluster ∧ c = s.cur.core.core) &&
         belowXB s s.cur (s.core s.cur.core).xb p
     | _ => false)
  | _ => false

/-! ### Waits on words (R140 to R143) -/

/-- The G register a wait writes (Table 5-3). -/
def QWait.gd (w : QWait) : Option (BitVec 4) :=
  match w.kind with
  | .ring _ d | .lock _ d | .ldsw d | .ldsd d | .ldcw d | .ldcd d => some d
  | _ => none

/-- A wait on a tagged word. -/
def QWait.onWord (w : QWait) : Bool :=
  match w.kind with
  | .full | .matches_ _ | .ring _ _ | .ldsw _ | .ldsd _ | .ldcw _ | .ldcd _ => true
  | _ => false

/-- A wait on a doubleword. -/
def QWait.double (w : QWait) : Bool :=
  match w.kind with
  | .ldsd _ | .ldcd _ => true
  | _ => false

/-- The word a wait names. -/
def QWait.place (w : QWait) : Option Phys :=
  match classify w.tid.core w.addr with
  | .place p => some p
  | _ => none

/-- A wait's outcome is decided, and not yet answered. -/
def QWait.isDecided (w : QWait) : Bool :=
  match w.stage with
  | .won _ _ | .answered _ _ _ => true
  | _ => false

/-- A wait has been accepted and is queued at its deciding place. -/
def QWait.isQueued (w : QWait) : Bool :=
  match w.stage with
  | .queued _ => true
  | _ => false

/-- End a wait: Gd, if it writes one, then Qn, fill, and the thread returns to the ready set (R140). `gval = none`: Gd
keeps its old value. -/
def endWait (w : QWait) (ok : Bool) (gval : Option W64) (s : State) : State :=
  fillTh w.tid
    (fun t =>
      let t := { t with hold := .none }
      let t := match w.gd with
        | some d => (match gval with | some x => t.fillG d x | none => t.restore (.g d))
        | none => t
      t.fillQ w.q ok)
    { s with waits := s.waits.filter (fun x => x.seq ≠ w.seq) }

/-- A wait ends in a fault: it leaves its queue, and the fault is reported to the thread, which stays held until the
delivery; its registers follow R50 (R141). -/
def faultWait (w : QWait) (f : FaultInfo) (s : State) : State :=
  State.modTh { s with waits := s.waits.filter (fun x => x.seq ≠ w.seq) } w.tid fun (t : Thread) =>
    { t with
      pending := t.pending ++ [{ newPending t w.seq true (w.gd.map .g) (some (.q w.q)) 0 (.g 0) false false 0 with
        word := w.word, refused := [(0, f)] }]
      answers := t.answers ++ [⟨f, w.word, t.region, w.seq, false, false⟩] }

/-- The node whose taper bounds a wait: that of its deciding place (R139, R140). -/
def QWait.node (w : QWait) : Nat :=
  match w.kind, w.key with
  | .bar x, _ => (hHome x).node
  | .lock _ _, some p => p.node
  | _, _ => w.tid.core.node

/-- A wait ends at its deciding place, with a success, a timeout or a fault. The answer waits there while the circuits of its way are
being changed (R346). DESIGN CHOICE: where no way is left, the thread takes the LAPSED of a path that has lapsed (log 145). -/
def answerWait (w : QWait) (ok : Bool) (val : Option W64) (fault : Option FaultInfo) (s : State) : State :=
  let n := w.tid.core.node
  if wayOpen s w.node n then (match fault with | some f => faultWait w f s | none => endWait w ok val s)
  else if wayLost s w.node n then faultWait w ⟨.lapsed, 0, 0, 4⟩ s
  else { s with waits := mapIf s.waits (fun x => decide (x.seq = w.seq)) fun x =>
    { x with stage := .answered ok val fault, resv := none, key := w.key } }

/-- The value with which a word wait succeeds now, if its condition holds (Table 5-3, R143). -/
def QWait.holds (w : QWait) (s : State) (p : Phys) : Option W64 :=
  let word := BitVec.ofNat 64 (s.peek p 4)
  match w.kind with
  | .full => if s.isFull p then some 0 else none
  | .matches_ v => if s.isFull p ∧ word = v.setWidth 64 then some 0 else none
  | .ring old _ => if s.isFull p ∧ word ≠ old.setWidth 64 then some word else none
  | .ldsw _ | .ldcw _ => if s.isFull p then some word else none
  | .ldsd _ | .ldcd _ => if s.isFull p ∧ s.isFull (p.plus 4) then some (BitVec.ofNat 64 (s.peek p 8)) else none
  | _ => none

/-- LDCW and LDCD empty what they took (Table 5-3). -/
def QWait.consume (w : QWait) (p : Phys) (s : State) : State :=
  match w.kind with
  | .ldcw _ => s.setTag p false
  | .ldcd _ => (s.setTag p false).setTag (p.plus 4) false
  | _ => s

/-- The wait empties the word it takes. -/
def QWait.consumes (w : QWait) : Bool :=
  match w.kind with
  | .ldcw _ | .ldcd _ => true
  | _ => false

/-- One pass over a word's queue, in order of acceptance; the first LDCW or LDCD that succeeds ends it (R143). -/
def servePass (p : Phys) : List QWait → State → State
  | [], s => s
  | w :: ws, s =>
    match w.holds s p with
    | none => servePass p ws s
    | some x =>
      let s := endWait w true (some x) (w.consume p s)
      if w.consumes then s else servePass p ws s

/-- The queue of a word, oldest acceptance first. -/
def wordQueue (s : State) (p : Phys) (doubleOnly : Bool) : List QWait :=
  s.waits.filter fun w => w.isQueued && w.onWord && (w.double || !doubleOnly) &&
    (match w.place with | some q => decide (q.key = p.key) | none => false)

/-- Serve the waits on a word that is full (R143); a doubleword wait stands in the queue of its lower word. DESIGN CHOICE: a fill of
the upper word serves that word's own queue first, and where both words fill the lower one's comes first (log 131). -/
def serveWord (p : Phys) (s : State) : State :=
  let s := servePass p (wordQueue s p false) s
  if p.key % 8 = 4 then
    let low : Phys := { p with off := p.off - 4 }
    servePass low (wordQueue s low true) s
  else s

/-- Serve the words of a list. -/
def serveWords : List Phys → State → State
  | [], s => s
  | p :: ps, s => serveWords ps (serveWord p s)

/-- Set words full, then serve them (R143, R194, R230). -/
def fillWords (ps : List Phys) (s : State) : State :=
  serveWords ps (ps.foldl (fun s p => s.setTag p true) s)

/-! ### Ordering (R95, R202, R219, R222, R234) -/

/-- The scope that an access, as a release, drains first (R222): DIE for STFW, STFD and SETF, widened by promotion
(R226), CLUSTER for JOIN (R153). -/
def Acc.releases (a : Acc) : Scope :=
  match a.op with
  | .stf _ | .setf => if a.promoted then .package else .die
  | .join => .cluster
  | _ => .thread

/-- The place in the issue order of the instruction whose access it is. -/
def Acc.order (a : Acc) : Nat :=
  match a.agent with
  | .thread pid _ => pid
  | _ => a.id

/-- The access has been performed in another package and awaits the end-to-end acknowledgement (R350). -/
def Acc.ofPerformed (a : Acc) : Bool := match a.agent with | .performed _ _ _ => true | _ => false

/-- An access of a thread may be accepted at `p` now. -/
def mayAccept (s : State) (a : Acc) (p : Phys) : Bool :=
  translatedBefore s a.tid a.id &&
  (a.op.spans a.len).all (fun x => !earlierTouches s a.tid a.id (p.plus x.1) x.2 &&
    !flagTouches s a.tid a.order (p.plus x.1) x.2) &&
  fencesAllow s a.tid a.id p a.op.isLoad &&
  drained s a.tid a.id a.releases &&
  a.reaches s

/-! ### At the home -/

/-- The result of an atomic or reduction on `n` bytes (R213). -/
def AtomOp.eval (op : AtomOp) (n : Nat) (old v e : Nat) : Nat :=
  let sgn := fun (x : Nat) => if 2 ^ (8 * n - 1) ≤ x then (x : Int) - 2 ^ (8 * n) else (x : Int)
  match op with
  | .add => (old + v) % 2 ^ (8 * n)
  | .and => old &&& v
  | .or => old ||| v
  | .xor => old ^^^ v
  | .min => if sgn old ≤ sgn v then old else v
  | .max => if sgn old ≤ sgn v then v else old
  | .minu => if old ≤ v then old else v
  | .maxu => if old ≤ v then v else old
  | .xchg => v
  | .cas => if old = e then v else old

/-- An endpoint whose HEAD word a store touches (R264). -/
def Endpoint.touch (p : Phys) (n : Nat) (e : Endpoint) : Endpoint :=
  if e.live && overlaps e.head 4 p.key n then { e with headMoved := true } else e

/-- Mark endpoints whose HEAD word a store has touched (R264). -/
def touchHeads (p : Phys) (n : Nat) (s : State) : State :=
  if (s.die p.home).endpoints.any (fun e => e.2.live && overlaps e.2.head 4 p.key n) then
    s.modDie p.home fun d => { d with endpoints := d.endpoints.map fun e => (e.1, e.2.touch p n) }
  else s

/-- A store of bytes at a place, accepted. -/
def storeAt (p : Phys) (bs : List Byte) (s : State) : State := touchHeads p bs.length (s.poke p bs)

/-- The words, as places, that a range of bytes touches. -/
def wordsOf (p : Phys) (n : Nat) : List Phys :=
  let lo := p.off / 4
  let hi := (p.off + n + 3) / 4
  (List.range (hi - lo)).map fun i => { p with off := (lo + i) * 4 }

/-- Write the lanes of a vector store, in ascending lane order (R215, R216). -/
def storeLanes (p : Phys) : List (Nat × Nat × W32) → State → State
  | [], s => s
  | l :: ls, s => storeLanes p ls (storeAt (p.plus l.2.1) (leBytes l.2.2.toNat 4) s)

/-- An engine write of bytes: written, the words it touches set full and served, whole units unpoisoned (R196, R230). -/
def engineWrite (p : Phys) (ls : List (Nat × Byte)) (s : State) : State :=
  let s := ls.foldl (fun s l => storeAt (p.plus l.1) [l.2] s) s
  let s := if (AccOp.engWrite ls).wholeUnit p.off then s.setPoison p false else s
  if p.isScratch then
    fillWords ((List.range 16).filterMap fun i =>
      let w := p.off / 64 * 64 + 4 * i
      if ls.any (fun l => decide (w ≤ p.off + l.1 ∧ p.off + l.1 < w + 4)) then some { p with off := w } else none) s
  else s

/-- Store a list of 8-byte words, set their words full and serve them (R230). -/
def storeRecord (p : Phys) (ws : List W64) (s : State) : State :=
  let bs := ws.flatMap fun w => leBytes w.toNat 8
  let s := (storeAt p bs s).setPoison p false
  if p.isScratch then fillWords (wordsOf p bs.length) s else s

/-- JOIN's decrement at the record's home (R153): the outcome for the thread, or none when COUNT is 0. -/
def joinAt (p : Phys) (s : State) : Option PJoin × State :=
  let count := s.peek p 4
  if count = 0 then (none, s)
  else
    let s' := storeAt p (leBytes (count - 1) 4) s
    if count = 1 then
      let w0 := s.peek p 8
      (some (.continue_ (w0 / 2 ^ 32 % 2 ^ 19) (BitVec.ofNat 16 (s.peek (p.plus 8) 2)) (s.peekWords (p.plus 16) 6)), s')
    else (some .retire, s')

/-- A FENCE with nothing left before it orders nothing any more (R234). -/
def pruneFences (s : State) : State :=
  { s with fences := s.fences.filter fun f =>
      decide (earlier s f.tid f.seq ≠ []) || decide (flagsOut s f.tid f.seq ≠ []) }

/-- Remove an access that is accepted or refused; fences that order nothing any more go with it. -/
def settleAcc (a : Acc) (s : State) : State := pruneFences { s with accs := s.accs.filter fun x => x.id ≠ a.id }

end Sys2Proof.Machine
end

