-- ==== Sys2Proof/Machine/System.lean ====
section
/-!
DEFINITION. System registers (R70 to R72, R96, R306, R343, R381): SRD, SWR and the steps in which their writes take effect.
-/

namespace Sys2Proof.Machine

/-! ### Reading -/

/-- COREID (Table 2-9). -/
def coreId (c : CoreId) : W64 :=
  BitVec.ofNat 64 (c.core + c.cluster * 2 ^ 8 + c.die * 2 ^ 14 + c.node % 65536 * 2 ^ 16)

/-- NETCAP (Table 2-8). -/
def netcap : W64 := 0x0080_0040_0040#64

/-- SCSTAT (Table 14-4); a dark strand has no peer. -/
def Strand.stat (dark : Bool) (x : Strand) : W64 :=
  BitVec.ofNat 64 (x.active.toNat + x.retrain.toNat * 2 ^ 8 + x.parked.toNat * 2 ^ 16 + x.retired.toNat * 2 ^ 24 +
    (if x.far < Config.strands ∧ dark = false then x.peer.toNat else 0xFFFF) * 2 ^ 32 + (if x.up then 2 ^ 48 else 0))

/-- The strand SCSEL names. -/
def scStrand (sel : BitVec 13) : Nat := sel.toNat % 1024
/-- The wavelength SCSEL names. -/
def scWave (sel : BitVec 13) : Nat := sel.toNat / 1024

/-- BOOT (Table 15-10). -/
def Package.boot (p : Package) : W64 :=
  BitVec.ofNat 64 (p.phase % 8 + (if p.slotB then 8 else 0) + p.reason % 16 * 16)

/-- A register of thread or core scope, read near (Table 3-1); `none`: it is read far. -/
def nearReg (s : State) (tid : Tid) (n : Nat) : Option W64 :=
  let t := s.th tid
  let c := s.core tid.core
  match n with
  | 0x001 => some (coreId tid.core)
  | 0x002 => some (BitVec.ofNat 64 tid.slot)
  | 0x010 => some (c.xb.setWidth 64)
  | 0x011 => some (c.ovh.setWidth 64)
  | 0x012 => some (t.tvb.setWidth 64)
  | 0x013 => some (t.tcause &&& 0xFF)
  | 0x014 => some t.tpc
  | 0x015 => some t.tinfo[0]
  | 0x016 => some t.tinfo[1]
  | 0x017 => some t.tinfo[2]
  | 0x018 => some t.tinfo[3]
  | 0x019 => some (BitVec.ofNat 64 (t.rhdr.toNat + t.rword.toNat * 2 ^ 19))
  | 0x01A => some (t.eto.setWidth 64)
  | 0x01B => some (t.flg.setWidth 64)
  | 0x01C => some (t.seed.setWidth 64)
  | 0x01D => some (BitVec.ofNat 64 t.cdone)
  | 0x020 => some c.spw[0]
  | 0x021 => some c.spw[1]
  | 0x022 => some c.spw[2]
  | 0x023 => some c.spw[3]
  | 0x050 => some (t.space.setWidth 64)
  | 0x060 => some (BitVec.ofNat 64 ((if t.inHandler then 1 else 0) + (if t.deferred then 2 else 0) +
      t.res.toNat * 2 ^ 32))
  | 0x061 => some (BitVec.ofNat 64 t.ccnt)
  | 0x062 => some t.ctxh
  | 0x063 => some (BitVec.ofNat 64 (t.restarts.toNat + (if t.ckr then 4 else 0)))
  | 0x064 => some (t.prog.setWidth 64)
  | 0x065 => some t.spill
  | 0x066 => some (t.teamNo.setWidth 64)
  | 0x067 => some (c.tfrb.setWidth 64)
  | 0x068 => some (t.lavg.setWidth 64)
  | 0x069 => some t.gridf
  | 0x070 => some (t.scsel.setWidth 64)
  | _ => none

/-- A register of die, slice, package, strand or wavelength scope, as it stands when the read is accepted (R70, R96, R104);
`sel`: SCSEL as it stood when the read issued (R343). -/
def farReg (s : State) (tid : Tid) (sel : BitVec 13) (n : Nat) : W64 :=
  let h := s.die (dieOf tid.core)
  let p := s.pkg tid.core.node
  let x := s.slice tid.core
  let k := s.strand tid.core.node (scStrand sel)
  match n with
  | 0x000 => BitVec.ofNat 64 p.taper
  | 0x030 => netcap
  | 0x040 => x.agt.setWidth 64
  | 0x041 => x.agk.setWidth 64
  | 0x042 => BitVec.ofNat 64 x.agz
  | 0x043 => BitVec.ofNat 64 x.age
  | 0x044 => BitVec.ofNat 64 x.ago
  | 0x051 => h.part
  | 0x071 => BitVec.ofNat 64 (k.park.toNat + k.wake.toNat * 2 ^ 8)
  | 0x072 => k.stat (p.darkNow && p.changing.contains (scStrand sel))
  | 0x073 => BitVec.ofNat 64 ((nth [] k.errs.toList (scWave sel)).sum % 2 ^ 32 + nth 0 k.bad.toList (scWave sel) % 2 ^ 32 * 2 ^ 32)
  | 0x074 => h.pvc
  | 0x080 => p.hack.setWidth 64
  | 0x081 => p.boot
  | _ => 0

/-- An earlier instruction that can set a flag has not written its result (R169). -/
def Thread.flagsPending (t : Thread) : Bool := t.pending.any fun p => p.flags.isSome

/-- SRD and SWR of FLG are held at issue for earlier flags (R169). -/
def flgHold (n : BitVec 11) (s : State) : Option Hold := if n = 0x01B ∧ s.me.flagsPending then some .flg else none

/-- SRD (R96): a near read writes Gd at once; a far read, TAPER's among them (R104), empties Gd and is answered by the
register's unit. FLG is held for earlier flags (R169). -/
def execSrd (d : BitVec 4) (n : BitVec 11) (g : Guard) (s : State) : Out :=
  .next (gatedHold 1 g false [] (destG d) (flgHold n)
    (fun s =>
      let s := s.begin
      match nearReg s s.cur n.toNat with
      | some x => retire 1 false (s.modMe fun t => t.wG d x)
      | none =>
        retire 1 false (postMine (.thread s.nextId 0) (.sysreg n.toNat s.me.scsel) 0 0
          (issuePending true (longG d) none 1 (.g 0) false false s))) s)

/-! ### Writing -/

/-- A team runs on a die (R352). -/
def teamsRun (s : State) (h : DieId) : Bool :=
  (List.range Config.clusters).any fun k =>
    (s.cluster ⟨h.node, h.die, k⟩).teams.any fun e => decide (e.2.state ≠ .saved)

/-- The limits of a register's value (R62, R201, R306, R343, R352): `false` raises ILLEGAL. Those of PART are the same in every phase
of bring-up (log 111). -/
def valueOk (s : State) (tid : Tid) (n : Nat) (x : W64) : Bool :=
  match n with
  | 0x010 => decide (x.toNat ≤ 0x80000 ∧ x.toNat % 8 = 0)
  | 0x011 => decide (x.toNat < 0x80000 ∧ x.toNat % 8 = 0)
  | 0x012 => decide (x.toNat < 0x80000 ∧ x.toNat % 8 = 0)
  | 0x020 | 0x021 | 0x022 | 0x023 => decide (bits x 1 7 = 0 ∧ bits x 57 7 = 0)
  | 0x051 =>
    let old := (s.die (dieOf tid.core)).part
    decide (bits x 8 2 ≠ 3) &&
      !(teamsRun s (dieOf tid.core) &&
        decide (bits x 0 8 ≠ bits old 0 8 ∨ bits x 8 2 ≠ bits old 8 2 ∨ bits x 16 44 ≠ bits old 16 44)) &&
      !decide (bits x 8 2 ≠ bits old 8 2 ∧ bits x 0 8 = bits old 0 8)
  | 0x067 => decide (x.toNat ≤ 0x7FC00 ∧ x.toNat % 64 = 0)
  | 0x071 => decide (bits x 8 8 ≠ 0)
  | _ => true

/-- Registers of slice, strand and package scope that the thread does not wait for (R70, R288, R343, R381). -/
def remoteReg (n : Nat) : Bool := decide (n ∈ [0x040, 0x041, 0x071, 0x074, 0x080])

/-- The last write of a thread that has not yet taken effect. -/
def lastWrite (s : State) (tid : Tid) : Option Nat := ((s.regWrites.filter fun w => decide (w.tid = tid)).getLast?).map (·.id)

/-- SWR of FLG takes effect as it issues: it is held for earlier flags (R169), then for the thread's earlier SWRs (R96). -/
def flgWriteHold (n : BitVec 11) (s : State) : Option Hold :=
  (flgHold n s).or (if n = 0x01B then (lastWrite s s.cur).map .regWrite else none)

/-- SWR (R96): a value outside the register's limits raises ILLEGAL at step 5 (R70). The write is on its way to its unit; a
register of thread or core scope, or PART, is written before the thread's next instruction (R45, R70). -/
def execSwr (a : GSrc) (n : BitVec 11) (g : Guard) (s : State) : Out :=
  .next (gatedHold 1 g (SysReg.supervisor n) [srcG a] [] (flgWriteHold n)
    (fun s =>
      let x := s.me.src a
      if ¬ valueOk s s.cur n.toNat x then trap (causeOf .illegal s.me.word64) s
      else if n = 0x01B then retire 1 false (s.begin.modMe fun t => { t with flg := x.setWidth 6 })
      else
        let s := s.begin
        let id := s.nextId
        let s := { s.fresh with regWrites := s.regWrites ++ [⟨id, s.cur, n.toNat, x, s.me.scsel⟩] }
        let s := retire 1 false s
        if remoteReg n.toNat then s else s.modMe fun t => { t with hold := .regWrite id }) s)

/-- FLG_ACCESS (R169): every earlier flag-setting result is written, and the held SRD or SWR of FLG issues. -/
def execFlgAccess (tid : Tid) (s : State) : Out :=
  .next (if (s.th tid).hold = .flg ∧ ¬ (s.th tid).flagsPending then s.modTh tid fun t => { t with hold := .none } else s)

/-- The write of thread scope (R70): reserved and RO fields ignored (R96). -/
def Thread.writeReg (t : Thread) (n : Nat) (x : W64) : Thread :=
  match n with
  | 0x012 => { t with tvb := x.setWidth 19 }
  | 0x013 => { t with tcause := x &&& 0xFF }
  | 0x014 => { t with tpc := x }
  | 0x015 => { t with tinfo := t.tinfo.set 0 x }
  | 0x016 => { t with tinfo := t.tinfo.set 1 x }
  | 0x017 => { t with tinfo := t.tinfo.set 2 x }
  | 0x018 => { t with tinfo := t.tinfo.set 3 x }
  | 0x019 => { t with rhdr := x.setWidth 19, rword := BitVec.ofNat 7 (bits x 19 7) }
  | 0x01A => { t with eto := x.setWidth 32 }
  | 0x01C => { t with seed := x.setWidth 32, gen := genSeeds (x.setWidth 32) }
  | 0x050 => { t with space := x.setWidth 16 }
  | 0x060 => { t with
      inHandler := x.getLsbD 0
      deferred := x.getLsbD 1
      res := BitVec.ofNat 19 (bits x 32 19) }
  | 0x065 => { t with spill := x }
  | 0x070 => { t with scsel := x.setWidth 13 }
  | _ => t

/-- The write of core scope (R45, R62, R201, R306). -/
def Core.writeReg (c : Core) (n : Nat) (x : W64) : Core :=
  match n with
  | 0x010 => { c with xb := x.setWidth 20 }
  | 0x011 => { c with ovh := x.setWidth 19 }
  | 0x020 => { c with spw := c.spw.set 0 x }
  | 0x021 => { c with spw := c.spw.set 1 x }
  | 0x022 => { c with spw := c.spw.set 2 x }
  | 0x023 => { c with spw := c.spw.set 3 x }
  | 0x067 => { c with tfrb := x.setWidth 19 }
  | _ => c

/-- A register write that may take effect now: no earlier SWR of its thread is still on its way (R96). -/
def findWrite (s : State) (k : Nat) : Option RegWrite :=
  match s.regWrites.find? (fun w => w.id = k) with
  | none => none
  | some w => if s.regWrites.any (fun v => decide (v.tid = w.tid ∧ v.id < w.id)) then none else some w

/-- The write has taken effect: it is gone, and a thread held for it goes on (R70). -/
def endWrite (w : RegWrite) (s : State) : State :=
  let s := { s with regWrites := s.regWrites.filter fun v => v.id ≠ w.id }
  if (s.th w.tid).hold = .regWrite w.id then s.modTh w.tid fun t => { t with hold := .none } else s

/-- A step that makes one kind of register write take effect; it is enabled for the registers of `p`. -/
def applyWrite (p : Nat → Bool) (k : Nat) (f : RegWrite → State → State) (s : State) : Out :=
  match findWrite s k with
  | some w => .next (if p w.reg then endWrite w (f w s) else s)
  | none => .next s

/-- SEED_WRITE (R166): every generator state is set from SEED. -/
def execSeedWrite (k : Nat) (s : State) : Out :=
  applyWrite (· = 0x01C) k (fun w s => s.modTh w.tid fun t => t.writeReg w.reg w.val) s

/-- AGREEMENT_WRITE (R288): the slice of the writing core accepts AGT or AGK, ahead of queued commands. -/
def execAgreementWrite (k : Nat) (s : State) : Out :=
  applyWrite (fun n => n = 0x040 ∨ n = 0x041) k
    (fun w s => s.modSlice w.tid.core fun x =>
      if w.reg = 0x040 then { x with agt := w.val.setWidth 32 } else { x with agk := w.val.setWidth 32 }) s

/-- A write that its unit refuses as it accepts it: the SWR, which the thread still waits for, traps with ILLEGAL (R352, log 111). -/
def refuseWrite (w : RegWrite) (s : State) : State :=
  let t := s.th w.tid
  let word := match t.block with | some b => b.words.getD (t.wordIx - 1) 0 | none => 0
  if t.hold = .regWrite w.id then
    enterTrap w.tid (causeOf .illegal (word.setWidth 64)) (t.pc.setWidth 64 - 4) (t.bh.setWidth 64) none
      (s.modTh w.tid fun t => { t with hold := .none })
  else s

/-- PART_WRITE (R352, R385): the die's partition, and with it the clock that PNUM and CLK name. Bits [63:60] are reserved. The
limits of R352 hold also as the die accepts the write. -/
def execPartWrite (k : Nat) (s : State) : Out :=
  .next (match findWrite s k with
    | none => s
    | some w =>
      if w.reg ≠ 0x051 then s
      else if valueOk s w.tid 0x051 w.val then
        endWrite w (s.modDie (dieOf w.tid.core) fun h => { h with part := BitVec.ofNat 64 (bits w.val 0 60) })
      else refuseWrite w { s with regWrites := s.regWrites.filter fun v => v.id ≠ w.id })

/-- REGISTER_WRITE (R45, R70): a write of thread or core scope, or of PVC, takes effect. -/
def execRegisterWrite (k : Nat) (s : State) : Out :=
  applyWrite (fun n => n ∉ [0x01C, 0x040, 0x041, 0x051, 0x071, 0x080]) k
    (fun w s =>
      if w.reg = 0x074 then s.modDie (dieOf w.tid.core) fun h => { h with pvc := w.val &&& 0xFFFF }
      else if w.reg ∈ [0x010, 0x011, 0x020, 0x021, 0x022, 0x023, 0x067] then
        s.modCore w.tid.core fun c => c.writeReg w.reg w.val
      else s.modTh w.tid fun t => t.writeReg w.reg w.val) s

end Sys2Proof.Machine
end

