-- ==== Sys2Proof/Machine/MemoryInstr.lean ====
section
/-!
DEFINITION. Scalar memory instructions at issue: LD and ST (R92 to R95), stores that write tags (R212), atomics (R213),
reductions (R214), STFL (R272), FENCE and FENCESC (R233 to R235) with the end of its drain.
-/

namespace Sys2Proof.Machine

/-- LD (R93): ALIGN at issue; Gd goes empty and one access is on its way. -/
def execLd (d : BitVec 4) (a : GSrc) (z : MemSize) (x : Bool) (o : BitVec 8) (g : Guard) (s : State) : Out :=
  .next (gatedTrap 1 g false [srcG a] (destG d)
    (fun s =>
      let ea := eaScaled (s.me.src a) o z
      if ¬ aligned ea z.bytes then trap (causeOf .align ea) s
      else
        let s := s.begin
        retire 1 false (postMine (.thread s.nextId 0) (.load x) ea z.bytes
          (issuePending true (longG d) none 1 (.g 0) true false s))) s)

/-- Post a store of the issuing thread with one answer to come, once its checks at issue have passed (R63, R94). -/
def postStore (n : Nat) (close : Bool) (op : AccOp) (val : PVal) (left : Nat) (ea : W64) (s : State) : State :=
  if ¬ aligned ea n then trap (causeOf .align ea) s
  else if ownXB s ea then trap (accessFault ea 3) s
  else
    let s := s.begin
    retire 1 close (postMine (.thread s.nextId 0) op ea n (issuePending false none none left val false false s))

/-- The low bytes of a register (R93: `Gd[8 × n − 1 : 0]`). -/
def lowBytes (x : W64) (n : Nat) : List Byte := leBytes x.toNat n

/-- ST (R93). -/
def execSt (d a : GSrc) (z : MemSize) (o : BitVec 8) (g : Guard) (s : State) : Out :=
  .next (gatedTrap 1 g false [srcG d, srcG a] []
    (fun s => postStore z.bytes false (.store (lowBytes (s.me.src d) z.bytes)) (.g 0) 1 (eaScaled (s.me.src a) o z) s) s)

/-- An access that writes a tag (R212): ALIGN, the address checks of R142 and R192, then it is on its way. -/
def tagStore (n : Nat) (op : AccOp) (ea : W64) (s : State) : State :=
  if ¬ aligned ea n then trap (causeOf .align ea) s
  else
    match taggedPlace s.cur.core ea with
    | .error f => trap f s
    | .ok _ => postStore n true op (.g 0) 1 ea s

/-- STFW (R212). -/
def execStfw (a b : GSrc) (g : Guard) (s : State) : Out :=
  .next (gatedTrap 1 g false [srcG a, srcG b] [] (fun s => tagStore 4 (.stf (lowBytes (s.me.src b) 4)) (s.me.src a) s) s)
/-- STFD (R212). -/
def execStfd (a b : GSrc) (g : Guard) (s : State) : Out :=
  .next (gatedTrap 1 g false [srcG a, srcG b] [] (fun s => tagStore 8 (.stf (lowBytes (s.me.src b) 8)) (s.me.src a) s) s)
/-- SETE (R212). -/
def execSete (a : GSrc) (g : Guard) (s : State) : Out :=
  .next (gatedTrap 1 g false [srcG a] [] (fun s => tagStore 4 .sete (s.me.src a) s) s)
/-- SETF (R212). -/
def execSetf (a : GSrc) (g : Guard) (s : State) : Out :=
  .next (gatedTrap 1 g false [srcG a] [] (fun s => tagStore 4 .setf (s.me.src a) s) s)

/-- The issue of an atomic (R213): Gd goes empty; it closes its region. -/
def atomicIssue (op : AtomOp) (d : BitVec 4) (z : Bool) (ea v e : W64) (s : State) : State :=
  let n := wdBytes z
  if ¬ aligned ea n then trap (causeOf .align ea) s
  else if ownXB s ea then trap (accessFault ea 3) s
  else
    let s := s.begin
    retire 1 true (postMine (.thread s.nextId 0) (.atom op v e) ea n (issuePending true (longG d) none 1 (.g 0) false false s))

/-- An atomic that does not read Gd (R213). -/
def atomic (op : AtomOp) (d : BitVec 4) (a b : GSrc) (z : Bool) (g : Guard) (s : State) : Out :=
  .next (gatedTrap 1 g false [srcG a, srcG b] (destG d)
    (fun s => atomicIssue op d z (s.me.src a) (s.me.src b) 0 s) s)

/-- AADD (R213). -/
def execAadd (d : BitVec 4) (a b : GSrc) (z : Bool) (g : Guard) (s : State) : Out := atomic .add d a b z g s
/-- AAND (R213). -/
def execAand (d : BitVec 4) (a b : GSrc) (z : Bool) (g : Guard) (s : State) : Out := atomic .and d a b z g s
/-- AOR (R213). -/
def execAor (d : BitVec 4) (a b : GSrc) (z : Bool) (g : Guard) (s : State) : Out := atomic .or d a b z g s
/-- AXOR (R213). -/
def execAxor (d : BitVec 4) (a b : GSrc) (z : Bool) (g : Guard) (s : State) : Out := atomic .xor d a b z g s
/-- AMIN (R213). -/
def execAmin (d : BitVec 4) (a b : GSrc) (z : Bool) (g : Guard) (s : State) : Out := atomic .min d a b z g s
/-- AMAX (R213). -/
def execAmax (d : BitVec 4) (a b : GSrc) (z : Bool) (g : Guard) (s : State) : Out := atomic .max d a b z g s
/-- AMINU (R213). -/
def execAminu (d : BitVec 4) (a b : GSrc) (z : Bool) (g : Guard) (s : State) : Out := atomic .minu d a b z g s
/-- AMAXU (R213). -/
def execAmaxu (d : BitVec 4) (a b : GSrc) (z : Bool) (g : Guard) (s : State) : Out := atomic .maxu d a b z g s
/-- AXCHG (R213). -/
def execAxchg (d : BitVec 4) (a b : GSrc) (z : Bool) (g : Guard) (s : State) : Out := atomic .xchg d a b z g s
/-- ACAS (R213): Gd is read at issue as the expected value. -/
def execAcas (d : BitVec 4) (a b : GSrc) (z : Bool) (g : Guard) (s : State) : Out :=
  .next (gatedTrap 1 g false [srcD d, srcG a, srcG b] (destG d)
    (fun s => atomicIssue .cas d z (s.me.src a) (s.me.src b) (s.me.rG d) s) s)

/-- A reduction (R214): nothing is returned; it closes its region. -/
def reduction (op : AtomOp) (a b : GSrc) (z : Bool) (g : Guard) (s : State) : Out :=
  .next (gatedTrap 1 g false [srcG a, srcG b] []
    (fun s => postStore (wdBytes z) true (.red op (s.me.src b)) (.g 0) 1 (s.me.src a) s) s)

/-- REDADD (R214). -/
def execRedadd (a b : GSrc) (z : Bool) (g : Guard) (s : State) : Out := reduction .add a b z g s
/-- REDAND (R214). -/
def execRedand (a b : GSrc) (z : Bool) (g : Guard) (s : State) : Out := reduction .and a b z g s
/-- REDOR (R214). -/
def execRedor (a b : GSrc) (z : Bool) (g : Guard) (s : State) : Out := reduction .or a b z g s
/-- REDXOR (R214). -/
def execRedxor (a b : GSrc) (z : Bool) (g : Guard) (s : State) : Out := reduction .xor a b z g s
/-- REDMIN (R214). -/
def execRedmin (a b : GSrc) (z : Bool) (g : Guard) (s : State) : Out := reduction .min a b z g s
/-- REDMAX (R214). -/
def execRedmax (a b : GSrc) (z : Bool) (g : Guard) (s : State) : Out := reduction .max a b z g s
/-- REDMINU (R214). -/
def execRedminu (a b : GSrc) (z : Bool) (g : Guard) (s : State) : Out := reduction .minu a b z g s
/-- REDMAXU (R214). -/
def execRedmaxu (a b : GSrc) (z : Bool) (g : Guard) (s : State) : Out := reduction .maxu a b z g s

/-- The checks of a flag address at issue (R272): ALIGN, then the form of a cluster-window address. -/
def flagAddrFault (fa : W64) : Option FaultInfo :=
  if ¬ aligned fa 8 then some (causeOf .align fa)
  else if bits fa 56 8 ≠ 0xF1 ∨ bits fa 32 1 = 0 ∨ bits fa 22 2 ≠ 0 then some (accessFault fa 2)
  else none

/-- STFL (R272): the store, with the flag's raise to follow its acceptance; two answers are to come. -/
def stfl (n : Nat) (d a b : GSrc) (g : Guard) (s : State) : Out :=
  .next (gatedTrap 1 g false [srcG d, srcG a, srcG b] []
    (fun s =>
      let ea := s.me.src a
      let fa := s.me.src d
      if ¬ aligned ea n then trap (causeOf .align ea) s
      else
        match flagAddrFault fa with
        | some f => trap f s
        | none => postStore n true (.stfl (lowBytes (s.me.src b) n)) (.flag fa 64 s.cur.core.node .awaited) 2 ea s) s)

/-- STFL.W (R272). -/
def execStflw (d a b : GSrc) (g : Guard) (s : State) : Out := stfl 4 d a b g s
/-- STFL.D (R272). -/
def execStfld (d a b : GSrc) (g : Guard) (s : State) : Out := stfl 8 d a b g s

/-- FENCE (R234): later accesses homed in the scope are held for earlier ones; with none in flight it orders nothing. -/
def execFence (sc : Scope) (g : Guard) (s : State) : Out :=
  .next (gated 1 g false [] []
    (fun s =>
      retire 1 false
        (if sc = .thread ∨ (earlier s s.cur s.nextId = [] ∧ flagsOut s s.cur s.nextId = []) then s
         else { s.fresh with fences := s.fences ++ [⟨s.cur, s.nextId, sc⟩] })) s)

/-- FENCESC (R235): the thread leaves the ready set; FENCESC.THR completes at once. -/
def execFencesc (sc : Scope) (g : Guard) (s : State) : Out :=
  .next (gated 1 g false [] []
    (fun s =>
      let s := retire 1 false s
      if sc = .thread then s else s.modMe fun t => { t with hold := .fencesc sc }) s)

/-- FENCESC_DRAIN_END (R235): every earlier access homed in the scope is accepted or refused; the thread is ready again. A fault
that is still on its way then no longer finds the hold (log 44). -/
def execFencescDrainEnd (tid : Tid) (s : State) : Out :=
  .next (match (s.th tid).hold with
    | .fencesc sc => if drained s tid s.nextId sc then s.modTh tid fun t => { t with hold := .none } else s
    | _ => s)

end Sys2Proof.Machine
end

