-- ==== Sys2Proof/Machine/Accept.lean ====
section
/-!
DEFINITION. Acceptance at the home of one unit of a thread's access, and what the thread sees of it (R93 to R95, R153,
R212 to R218, R226, R272, R273): results that fill, deferred faults, the ends of implicit blocks, region restarts, stops.
-/

namespace Sys2Proof.Machine

/-! ### At the home -/

/-- A memory's state of bring-up (Table 15-12): before phase 3 HBM and B-stack serve nothing (log 20). -/
def notYetServed (s : State) (p : Phys) : Bool :=
  (match p.region with | .hbm => true | .bstack _ => true | _ => false) && decide ((s.pkg p.node).phase < 3)

/-- What a home answers to one unit, under an XB of the issuing core: a refusal, or nothing against it. -/
def homeRefusalXB (s : State) (tid : Tid) (xb : BitVec 20) (ctx : W64) (p : Phys) (ea : W64) (len : Nat) (op : AccOp) :
    Option FaultInfo :=
  if notYetServed s p then some (accessFault ea 2) else homeCheck s tid xb ctx p ea len op

/-- What a home answers to one unit that issues now. -/
def homeRefusal (s : State) (tid : Tid) (ctx : W64) (p : Phys) (ea : W64) (len : Nat) (op : AccOp) : Option FaultInfo :=
  homeRefusalXB s tid (s.core tid.core).xb ctx p ea len op

/-- What the home answers to a unit in flight (R45: its own core's XB is the one it issued under). -/
def Acc.refusal (a : Acc) (p : Phys) (s : State) : Option FaultInfo :=
  homeRefusalXB s a.tid a.xb a.ctx p a.ea a.len a.op

/-- The value an atomic leaves and the old value (R213). -/
def rmw (op : AtomOp) (p : Phys) (n : Nat) (v e : W64) (s : State) : Nat × State :=
  let old := s.peek p n
  (old, storeAt p (leBytes (op.eval n old (v.toNat % 2 ^ (8 * n)) (e.toNat % 2 ^ (8 * n))) n) s)

/-- The access of a slot whose translation fault awaits a reply: the oldest (R204, R207, log 63). -/
def faultPending (s : State) (c : CoreId) (slot : Nat) : Option Acc :=
  s.accs.find? fun a => decide (a.tid.core = c ∧ a.tid.slot % 16 = slot ∧ a.trans = .faulted)

/-- The doubleword of an agent that a reply is written to: its slot. A reply to a slot that has no fault pending, or has its
reply already, is discarded (R207). -/
def replyAt (p : Phys) (x : W64) (s : State) : State :=
  match p.region with
  | .agent k c =>
    let core : CoreId := ⟨p.node, p.die, k, c⟩
    (match faultPending s core (p.off / 8), (s.core core).replies.look (p.off / 8) with
     | some a, none => s.modCore core fun q => { q with replies := q.replies.set (p.off / 8) (a.id, x) }
     | _, _ => s)
  | _ => s

/-- A store accepted at its home; a store to an agent is a reply word (R207). -/
def acceptStore (p : Phys) (bs : List Byte) (s : State) : State :=
  match p.region with
  | .agent _ _ => replyAt p (BitVec.ofNat 64 (leNat bs)) s
  | _ => storeAt p bs s

/-- A thread's operation on its unit, performed whole (R210, R218): the value for the thread and the new state. -/
def perform (a : Acc) (p : Phys) (s : State) : PVal × State :=
  match a.op with
  | .load sx => (.g (extendLoad sx a.len (s.peek p a.len)), s)
  | .store bs =>
    let s := acceptStore p bs s
    (.g 0, if a.op.wholeUnit p.off then s.setPoison p false else s)
  | .stfl bs => (.g 0, storeAt p bs s)
  | .vload ls => (.lanes (ls.map fun l => (l.1, BitVec.ofNat 32 (s.peek (p.plus l.2) 4))), s)
  | .vstore ls =>
    let s := storeLanes p ls s
    (.g 0, if a.op.wholeUnit p.off then s.setPoison p false else s)
  | .atom op v e => let r := rmw op p a.len v e s; (.g (BitVec.ofNat 64 r.1), r.2)
  | .red op v => (.g 0, (rmw op p a.len v 0 s).2)
  | .stf bs => (.g 0, fillWords (wordsOf p bs.length) (storeAt p bs s))
  | .sete => (.g 0, s.setTag p false)
  | .setf => (.g 0, fillWords [p] s)
  | _ => (.g 0, s)

/-- A lane of STFL or VSTFL has been accepted at a node: the lowest lane's node is that of the flag (R273). -/
def Pending.noteLane (lane node : Nat) (p : Pending) : Pending :=
  match p.val with
  | .flag fa l n st => { p with val := .flag fa (min l lane) (if lane < l then node else n) st }
  | _ => p

/-- The value an answer brings to a pending instruction. -/
def Pending.take (lane node : Nat) (v : PVal) (p : Pending) : Pending :=
  match p.val, v with
  | .lanes xs, .lanes ys => { p with val := .lanes (xs ++ ys) }
  | .flag _ _ _ _, _ => p.noteLane lane node
  | .g _, .g x => { p with val := .g x }
  | _, _ => p

/-- The flag of STFL or VSTFL is at a stage. -/
def Pending.flagAt (st : FlagStage) (p : Pending) : Pending :=
  match p.val with
  | .flag fa l n _ => { p with val := .flag fa l n st }
  | _ => p

/-- A unit of the pending instruction's data is not yet accepted or refused at its home. -/
def dataOut (s : State) (tid : Tid) (pid : Nat) : Bool :=
  s.accs.any fun a => decide (a.tid = tid) && (match a.agent with | .thread q _ => decide (q = pid) | _ => false)

/-- STFL and VSTFL: with every unit of the data accepted, the flag's raise goes out; after a refusal it is not raised, and the
last answer ends the instruction (R272, R273). -/
def flagNext (tid : Tid) (ctx : W64) (xb : BitVec 20) (pid : Nat) (s : State) : State :=
  match (s.th tid).pend? pid with
  | some p =>
    (match p.val with
     | .flag fa _ node .awaited =>
       if dataOut s tid pid then s
       else if p.refused ≠ [] then (if p.left = 1 then answer tid pid id s else s)
       else
         modPending tid pid (Pending.flagAt .posted)
           { s.fresh with raises := s.raises ++ [⟨s.nextId, tid, ctx, p.word, pid, node, fa, p.vector, xb⟩] }
     | _ => s)
  | none => s

/-- A waiter from another die of the issuing thread's package is queued on a word (R226). DESIGN CHOICE: a doubleword wait counts
for its lower word alone, in whose queue it stands (R143, log 117). -/
def farWaiter (s : State) (tid : Tid) (p : Phys) : Bool :=
  (wordQueue s p false).any fun w => decide (w.tid.core.die ≠ tid.core.die)

/-- A flag release that finds a waiter of another die when it arrives is promoted (R226). -/
def mustPromote (s : State) (a : Acc) (p : Phys) : Bool :=
  !a.promoted &&
  match a.op with
  | .stf bs => (wordsOf p bs.length).any (farWaiter s a.tid)
  | .setf => farWaiter s a.tid p
  | _ => false

/-- The home has refused the thread's JOIN: it stays pending until the fault comes to the thread (R153, R308). -/
def Thread.joinRefused (pid : Nat) (t : Thread) : Thread :=
  { t with pjoin := if t.pjoin = some .asked then some (.refused pid) else t.pjoin }

/-- The fault of a JOIN has come to its thread: no join is pending. -/
def Thread.joinDropped (pid : Nat) (t : Thread) : Thread :=
  if t.pjoin = some (.refused pid) then { t with pjoin := none, hold := if t.hold = .blockEnd then .none else t.hold } else t

/-- JOIN at the record's home (R153). -/
def acceptJoin (a : Acc) (pid : Nat) (p : Phys) (s : State) : State :=
  let r := joinAt p s
  match r.1 with
  | none =>
    refuse a.tid pid 0 ⟨.deque, a.ea, 0, 3⟩ (s.modTh a.tid (Thread.joinRefused pid))
  | some out =>
    answer a.tid pid id (r.2.modTh a.tid fun t => { t with pjoin := if t.pjoin = some .asked then some out else t.pjoin })

/-- A refusal of one unit. -/
def refuseUnit (a : Acc) (pid lane : Nat) (f : FaultInfo) (s : State) : State :=
  let s := if a.op = .join then s.modTh a.tid (Thread.joinRefused pid) else s
  flagNext a.tid a.ctx a.xb pid (refuse a.tid pid lane f s)

/-- A unit of a thread's access arrives at its home and is accepted or refused (R218). -/
def acceptThread (a : Acc) (pid lane : Nat) (p : Phys) (s : State) : State :=
  if mustPromote s a p then { s with accs := mapIf s.accs (fun x => x.id = a.id) fun x => { x with promoted := true } }
  else
    let s := settleAcc a s
    match a.refusal p s with
    | some f => refuseUnit a pid lane f s
    | none =>
      if a.op = .join then acceptJoin a pid p s
      else
        let r := perform a p s
        flagNext a.tid a.ctx a.xb pid (answer a.tid pid (Pending.take lane p.node r.1) r.2)

/-- An earlier read of TAPER by the thread is still on its way (R96: a thread's reads of TAPER do not decrease). -/
def taperBefore (s : State) (a : Acc) : Bool :=
  s.accs.any fun b => decide (b.tid = a.tid ∧ b.id < a.id) && (match b.op with | .sysreg n _ => decide (n = 0) | _ => false)

/-- A far register read is accepted at its unit (R70, R96). -/
def acceptRegister (a : Acc) (pid n : Nat) (sel : BitVec 13) (s : State) : State :=
  if n = 0 ∧ taperBefore s a then s
  else answer a.tid pid (Pending.take 0 0 (.g (farReg s a.tid sel n))) (settleAcc a s)

/-- A raise is refused, or does not arrive: the fault is the instruction's, with TINFO2[24], unless its data has one (R272,
R350). -/
def raiseRefused (r : FlagRaise) (f : FaultInfo) (s : State) : State :=
  let s := { s with raises := s.raises.filter fun x => x.id ≠ r.id }
  pruneFences (answer r.tid r.pid
    (fun p =>
      let p := p.flagAt .made
      if p.refused ≠ [] then p
      else { p with refused := [(0, { f with t2 := f.t2 ||| BitVec.ofNat 64 (2 ^ 24) })], vector := false }) s)

/-- The raise may be accepted at the flag now: after the thread's earlier accesses to those bytes and those that a FENCE puts
before it (R95, R234, log 102). -/
def raiseTurn (s : State) (r : FlagRaise) (p : Phys) : Bool :=
  !earlierTouches s r.tid r.pid p 8 && !flagTouches s r.tid r.pid p 8 && fencesAllow s r.tid r.pid p false

/-- STFL_FLAG_RAISE and VSTFL_FLAG_RAISE (R272, R273): the flag doubleword, named in the cluster window of the data's
package, is incremented and set full, or refuses the raise. -/
def raiseFlag (r : FlagRaise) (s : State) : State :=
  match taggedPlace { r.tid.core with node := r.node } r.flag with
  | .error f => raiseRefused r f s
  | .ok p =>
    if ¬ raiseTurn s r p then s
    else
      match homeRefusalXB s r.tid r.xb r.ctx p r.flag 8 (.stf []) with
      | some f => raiseRefused r f s
      | none =>
        let s := { s with raises := s.raises.filter fun x => x.id ≠ r.id }
        pruneFences (answer r.tid r.pid (Pending.flagAt .made)
          (fillWords [p, p.plus 4] (storeAt p (leBytes ((s.peek p 8 + 1) % 2 ^ 64) 8) s)))

/-- The raise of a name, of STFL or of VSTFL. -/
def flagRaise (vector : Bool) (k : Nat) (s : State) : State :=
  match s.raises.find? (fun r => r.id = k ∧ r.vector = vector) with
  | some r => raiseFlag r s
  | none => s

/-- STFL_FLAG_RAISE (R272). -/
def execStflFlagRaise (k : Nat) (s : State) : Out := .next (flagRaise false k s)
/-- VSTFL_FLAG_RAISE (R273). -/
def execVstflFlagRaise (k : Nat) (s : State) : Out := .next (flagRaise true k s)

/-! ### What the thread sees -/

/-- A fault may be delivered now (R308): not before a register write has taken effect, nor while the block's end is due or
the thread is stopped by the controller, nor after a wait was won. A block's end that waits for registers (R48) may be left. -/
def deliverable (s : State) (tid : Tid) : Bool :=
  let t := s.th tid
  (match t.hold with | .regWrite _ => false | .preempted => false | _ => true) &&
  !(s.waits.any fun w => decide (w.tid = tid) && w.isDecided) &&
  !(t.atEnd && decide (t.hold = .none) && t.blocked.isNone && decide (t.life = .running))

/-- DEFERRED_DELIVERY (R308, R309): faults are delivered in the order in which their answers arrived; one that comes while a
handler runs is held (R308). No answer comes before a word that is sure to issue earlier (Table 0-4, R392). A thread that has
ended has nothing more held back. -/
def execDeferredDelivery (tid : Tid) (n : Nat) (s : State) : Out :=
  .next
    (let t := s.th tid
     let hold := decide (t.inHandler ∧ t.life = .running)
     match t.answers.find? (fun a => !(a.held && hold)) with
     | some a =>
       if a.pid ≠ n ∨ (a.held ∧ t.life = .running) ∨ ¬ deliverable s tid ∨ nextFirst s tid a.word then s
       else if hold then
         s.modTh tid fun t => { t.joinDropped n with answers := mapIf t.answers (fun b => b.pid = n) fun b => { b with held := true } }
       else deliver tid a (s.modTh tid (Thread.joinDropped n))
     | none => s)

/-- TINFO0 of an instruction that waits for an answer and no register: role 3 (R47). -/
def roleNone : W64 := 0xC00#64

/-- The bound of an implicit block or a GJOIN that began at taper `since` is reached (R47): 0 and 1 both at the first
boundary after it. -/
def Thread.etoReached (t : Thread) (since now : Nat) : Bool := decide (since + max 1 t.eto.toNat ≤ now)

/-- EMPTY_TIMEOUT (R47, R128): the block's bound is reached with a register still empty, or GJOIN's answer still out. A thread
out of the ready set for a translation fault is not subject to it (R204), nor is a wait for an access, or a GJOIN, that waits at the
fabric die (R346, R348). At a block's end that waits for the registers of a join TPC is the block's last word (log 141). -/
def execEmptyTimeout (tid : Tid) (s : State) : Out :=
  .next
    (let t := s.th tid
     let now := s.taper tid.core.node
     if t.life ≠ .running ∨ translationHeld s tid then s
     else
       match t.hold, t.blocked, t.stillEmpty with
       | .gjoin since id, _, _ =>
         if t.etoReached since now ∧ ¬ leaseHeld s tid id then
           enterTrap tid (causeOf .emptyTimeout roleNone) (t.pc.setWidth 64 - 4) (t.bh.setWidth 64) none
             (leaveHold tid false s)
         else s
       | _, some b, some w =>
         if t.etoReached b.since now ∧ ¬ fabricHeld s tid w.ref then
           enterTrap tid (causeOf .emptyTimeout w.tinfo) (if t.atEnd then t.lastWord else t.pc.setWidth 64) (t.bh.setWidth 64) none
             (s.modTh tid fun t => { t with blocked := none })
         else s
       | _, _, _ => s)

/-- REGION_RESTART (R316): the restart of the current region goes on after its tick boundary, and its block is fetched
afresh. -/
def execRegionRestart (tid : Tid) (s : State) : Out :=
  .next (match (s.th tid).hold, (s.th tid).fetch with
    | .tick n, some f =>
      if (s.th tid).restarted ∧ n ≤ s.taper tid.core.node then
        fetchHeader tid f (s.modTh tid fun t => { t with fetch := none, hold := .none })
      else s
    | _, _ => s)

/-! ### Records of stopped threads (R310 to R312) -/

/-- Every access the thread issued has been accepted or refused, and every answer is in (R90, R310); a GJOIN that the thread
has left is one too (R128). -/
def quiet (s : State) (tid : Tid) : Bool :=
  !(s.leaseReqs.any fun r => decide (r.tid = tid)) &&
  !(s.accs.any fun a => decide (a.tid = tid) && a.ofThread) &&
  !(s.raises.any fun r => decide (r.tid = tid)) &&
  (s.th tid).pending.all fun p => decide (p.left = 0)

/-- A thread-fault record (Table 13-6). -/
def faultRecord (tid : Tid) (t : Thread) (i : StopInfo) : List W64 :=
  [BitVec.ofNat 64 (i.fault.cause.code + tid.slot % 16 * 2 ^ 8 + i.event % 16 * 2 ^ 12), i.tpc, i.fault.t0, i.fault.t1,
   i.fault.t2, i.t3 &&& 0x7FFFF, t.ctxh, BitVec.ofNat 64 t.blockIx]

/-- Bit `slot` of a core's pending mask (R311). -/
def recordPending (s : State) (tid : Tid) : Bool :=
  (s.peek (scratchAt tid.core (s.core tid.core).tfrb.toNat) 4) / 2 ^ tid.slot % 2 = 1

/-- The fault entry that a record makes in its grid's report (Table 15-3). -/
def faultEntry (tid : Tid) (ws : List W64) : List W64 :=
  [BitVec.ofNat 64 (bits (wordAt ws 0) 0 16 + (coreId tid.core).toNat % 2 ^ 16 * 2 ^ 16 + tid.core.node % 65536 * 2 ^ 48),
   wordAt ws 7, wordAt ws 1, wordAt ws 2, wordAt ws 3, wordAt ws 4]

/-- A package reports to the root that GRIDF names: `n` blocks of a class (0 COMPLETED, 1 FAULTED, 2 LOST, 3 CANCELLED), a
fault (4) or a failed gang barrier (5) (R365, R367). -/
def report (gridf : W64) (node cls n : Nat) (entry : List W64) (s : State) : State :=
  if n = 0 then s
  else { s.fresh with reports := s.reports ++ [⟨s.nextId, bits gridf 32 16, bits gridf 0 24, node, cls, n, entry⟩] }

/-- Write a thread-fault record, then the slot's bit in the pending mask, each in one acceptance (R311). DESIGN CHOICE: the mask is
updated also in a unit that is poisoned (log 155). -/
def writeFaultRecord (tid : Tid) (ws : List W64) (s : State) : State :=
  let base := (s.core tid.core).tfrb.toNat
  let s := storeRecord (scratchAt tid.core (base + 64 * tid.slot)) ws s
  let p := scratchAt tid.core base
  fillWords [p] (storeAt p (leBytes (s.peek p 4 ||| 2 ^ tid.slot) 4) s)

/-- Give a thread another name where a lock, a group, an endpoint, a posted receive or a grid names it. -/
def Tid.rename (a b x : Tid) : Tid := if x = a then b else x
/-- The same in a lease. -/
def Lease.rename (a b : Tid) (l : Lease) : Lease :=
  match l.body with
  | .lock k p o d => { l with body := .lock k p (Tid.rename a b o) d }
  | .group n j t => { l with body := .group n (j.map (Tid.rename a b)) t }
  | _ => l
/-- The same in a die. -/
def Die.rename (a b : Tid) (d : Die) : Die := { d with
  leases := d.leases.map fun e => (e.1, e.2.rename a b)
  locks := d.locks.map fun k => { k with prev := k.prev.map (Tid.rename a b) }
  endpoints := d.endpoints.map fun e => (e.1, { e.2 with
    tid := Tid.rename a b e.2.tid
    posted := e.2.posted.map fun p => { p with tid := Tid.rename a b p.tid } }) }
/-- The same in the grids of a package. -/
def Package.rename (a b : Tid) (p : Package) : Package := { p with
  grids := p.grids.map fun e => (e.1, { e.2 with owner := Tid.rename a b e.2.owner }) }
/-- The same everywhere. -/
def renameThread (a b : Tid) (s : State) : State := { s with
  dies := s.dies.map fun e => (e.1, e.2.rename a b)
  packages := s.packages.map fun e => (e.1, e.2.rename a b) }

/-- The name of a thread that has left its slot: no slot's (log 24). -/
def goneTid (n : Nat) (t : Tid) : Tid := ⟨t.core, 16 * (n + 1) + t.slot % 16⟩

/-- A slot is free again (R90, R310): the thread leaves its team, which it may leave faulted (R365). What it held stays its
own, not the next thread's of the slot (R111, log 24). -/
def freeSlot (tid : Tid) (faulted : Bool) (s : State) : State :=
  let no := (s.th tid).teamNo.toNat
  let s := (renameThread tid (goneTid s.nextId tid) (s.setTh tid (Thread.resetAt tid))).fresh
  match (s.cluster (clusterOf tid.core)).teams.look no with
  | some m =>
    if m.members.contains tid then
      s.modCluster (clusterOf tid.core) fun k => { k with
        teams := k.teams.set no { m with members := m.members.filter (· ≠ tid), faulted := m.faulted || faulted } }
    else s
  | none => s

/-- A thread-fault record of a team's thread is one fault of its grid, also when its team has gone before it (R367). -/
def reportFault (tid : Tid) (t : Thread) (i : StopInfo) (ws : List W64) (s : State) : State :=
  if i.counts then report t.gridf tid.core.node 4 1 (faultEntry tid ws) s else s

/-- A record held for a slot, behind those it holds already (R311). -/
def holdRecord (tid : Tid) (ws : List W64) (c : Core) : Core :=
  { c with heldRecs := c.heldRecs.set tid.slot (c.heldRecs.get [] tid.slot ++ [ws]) }

/-- THREAD_STOP (R310, R311): a stopped thread's accesses are all accepted or refused; its slot is freed, and its record
is written, or held while the slot's bit is still pending. -/
def execThreadStop (tid : Tid) (s : State) : Out :=
  .next (match (s.th tid).life, (s.th tid).stop with
    | .stopped, some i =>
      if tid.slot = 0 ∨ ¬ quiet s tid then s
      else
        let ws := faultRecord tid (s.th tid) i
        let s := freeSlot tid true (reportFault tid (s.th tid) i ws s)
        if recordPending s tid ∨ (s.core tid.core).heldRecs.look tid.slot ≠ none then s.modCore tid.core (holdRecord tid ws)
        else writeFaultRecord tid ws s
    | _, _ => s)

/-- HELD_FAULT_RECORD_WRITE (R311): slot 0 has cleared the bit, and the oldest record held for the slot is written. -/
def execHeldFaultRecordWrite (c : CoreId) (k : Nat) (s : State) : Out :=
  .next (match (s.core c).heldRecs.look k with
    | some (ws :: rest) =>
      if recordPending s ⟨c, k⟩ then s
      else
        writeFaultRecord ⟨c, k⟩ ws (s.modCore c fun q =>
          { q with heldRecs := if rest = [] then q.heldRecs.erase k else q.heldRecs.set k rest })
    | _ => s)

/-- SLOT_RELEASE (R90): every access of an ended thread has completed, and its slot is free again. -/
def execSlotRelease (tid : Tid) (s : State) : Out :=
  .next (if (s.th tid).life = .ended ∧ quiet s tid ∧ (s.th tid).answers = [] then freeSlot tid false s else s)

/-- JOIN_OUTCOME_APPLY (R153): the thread stands at its block's end, and the outcome of its pending join has come. An RFT
that waits for it issues (R154). -/
def execJoinOutcomeApply (tid : Tid) (s : State) : Out :=
  .next (match (s.th tid).hold, (s.th tid).pjoin with
    | .blockEnd, some _ =>
      if (s.th tid).joinOpen then s
      else if (s.th tid).joinHeld then s.modTh tid fun t => { t with hold := .none }
      else applyJoin tid s
    | _, _ => s)

end Sys2Proof.Machine
end

