-- ==== Sys2Proof/Machine/Control.lean ====
section
/-!
DEFINITION. Control transfers and traps on purpose (R88 to R91, R97 to R101).
-/

namespace Sys2Proof.Machine

/-- NH as a 64-bit value (R88). DESIGN CHOICE: of a block that ends at 0x8_0000, whose NH is no 19-bit value, it is 0x8_0000,
the address that its fall-through wants (log 95). -/
def Thread.nh64 (t : Thread) : W64 := BitVec.ofNat 64 t.nh

/-- BR (R88). -/
def execBr (o : BitVec 21) (g : Guard) (s : State) : Out :=
  .next (control g [] [] (fun s => transfer (dispTarget s.me.bh o) 1 (retire 1 false s.begin)) s)

/-- CALL (R88): the link is written before the transfer. -/
def execCall (o : BitVec 21) (g : Guard) (s : State) : Out :=
  .next (control g [] (destG 15)
    (fun s => transfer (dispTarget s.me.bh o) 2 (retire 1 false (s.begin.modMe fun t => t.wG 15 t.nh64))) s)

/-- A register transfer: a target that is no multiple of 8 traps with ALIGN (R59). With a pending join the transfer is
not taken (R153). -/
def registerTransfer (kind : Nat) (link : Option (BitVec 4)) (a : GSrc) (s : State) : State :=
  let x := s.me.src a
  if ¬ aligned x 8 ∧ ¬ s.me.joinDue then trap (causeOf .align x) s
  else
    let s := s.begin
    let s := match link with
      | some d => if x = 0 ∨ ¬ aligned x 8 then s else s.modMe fun t => t.wG d t.nh64
      | none => s
    transferReg x kind (retire 1 false s)

/-- JMP (R89). -/
def execJmp (a : GSrc) (g : Guard) (s : State) : Out :=
  .next (control g [srcG a] [] (registerTransfer 3 none a) s)
/-- JCALL (R89): the target is read before the link is written; a target of 0 or one that traps writes no link. -/
def execJcall (d : BitVec 4) (a : GSrc) (g : Guard) (s : State) : Out :=
  .next (control g [srcG a] (destG d) (registerTransfer 4 (some d) a) s)
/-- RET (R89). -/
def execRet (a : GSrc) (g : Guard) (s : State) : Out :=
  .next (control g [srcG a] [] (registerTransfer 5 none a) s)

/-- EXIT (R90); with a pending join its outcome decides (R153, Table 5-8). -/
def execExit (g : Guard) (s : State) : Out :=
  .next (control g [] []
    (fun s => if s.me.joinDue then retire 1 false s.begin else endThread s.cur (retire 1 false s.begin)) s)

/-- TRAP (R98). -/
def execTrap (i : BitVec 11) (g : Guard) (s : State) : Out :=
  .next (control g [] [] (fun s => trapAt (causeOf .trap (simm i)) s.me.nh64 s) s)
/-- BRK (R99). -/
def execBrk (g : Guard) (s : State) : Out :=
  .next (control g [] [] (fun s => trap (causeOf .brk 0) s) s)
/-- SYS (R100). -/
def execSys (a b : GSrc) (g : Guard) (s : State) : Out :=
  .next (control g [srcG a, srcG b] []
    (fun s => trapAt ⟨.sys, s.me.src a, s.me.src b, 0⟩ s.me.nh64 s) s)

/-- LEN of the header at an offset of the own scratchpad, 0 past its end (R101). -/
def lenAt (s : State) (h : BitVec 19) : Nat :=
  if h.toNat + 8 ≤ Config.scratchBytes then
    hdrLen (BitVec.ofNat 64 (s.peek (scratchAt s.cur.core h.toNat) 8))
  else 0

/-- THE RETURN FROM A HANDLER (R101): IN and DEF are cleared (R308). With a pending join the block's end applies it
instead of a transfer (R154); the region that RFT begins then begins at the header which that fetches (Table 13-7, log 35). Else the thread resumes within the block at TINFO3 when TCAUSE is not 0 and TPC lies in it
on a word, unchecked, and otherwise transfers to TPC as a header; a TPC that is no multiple of 8 takes ALIGN, with IN already clear
(DEDUCED, log 33). DESIGN CHOICE: a TINFO3 that is no multiple of 8 names the
header at that very offset (log 96). -/
def returnFromTrap (s : State) : State :=
  let t := s.me
  let h : BitVec 19 := t.tinfo[3].setWidth 19
  let len := lenAt s h
  let out := fun (t : Thread) => { t with inHandler := false, deferred := false, joinHeld := false }
  let back := s.begin.modMe fun t => out (Thread.retire 1 false t)
  if t.pjoin.isSome then back.modMe fun t => t.regionAt t.bh t.wordIx
  else if t.tcause &&& 0xFF ≠ 0 ∧ h.toNat + 8 ≤ t.tpc.toNat ∧ t.tpc.toNat < h.toNat + 8 + 4 * len ∧
      (t.tpc.toNat - h.toNat) % 4 = 0 then
    let w := (t.tpc.toNat - h.toNat - 8) / 4
    fetchHeader s.cur ⟨h.setWidth 64, .resume w false, t.bh.setWidth 64⟩ (back.modMe fun t => t.regionAt h w)
  else if ¬ aligned t.tpc 8 then trap (causeOf .align t.tpc) (s.modMe out)
  else transferReg t.tpc 6 (back.modMe fun x => x.regionAt (t.tpc.setWidth 19) 0)

/-- RFT (R101): ILLEGAL unless a handler is running. It waits for the outcome of a join carried into the handler (R154). -/
def execRft (g : Guard) (s : State) : Out :=
  .next (controlHold g [] []
    (fun s => if s.me.inHandler ∧ s.me.joinHeld ∧ s.me.joinOpen then some .blockEnd else none)
    (fun s => if s.me.inHandler then returnFromTrap s else trap (causeOf .illegal s.me.word64) s) s)

end Sys2Proof.Machine
end

