-- ==== Sys2Proof/Machine/Numbers.lean ====
section
/-!
DEFINITION. Number formats (R157 to R161, R170): the layout of each floating-point format, exact decoding of a code, and
the elements of a vector lane.
-/

namespace Sys2Proof.Machine

/-- A floating-point format (Table 6-1): widths of its exponent and mantissa, its bias, whether it has infinities, its
canonical NaN (R159; 0 where the format has none), the code of its largest finite value, and whether it has signalling
NaNs. -/
structure Fmt where
  eb : Nat
  mb : Nat
  bias : Nat
  hasInf : Bool
  nan : Nat
  maxCode : Nat
  signals : Bool
  deriving DecidableEq, Repr

/-- FP32. -/
def fp32 : Fmt := ⟨8, 23, 127, true, 0x7FC00000, 0x7F7FFFFF, true⟩
/-- FP16. -/
def fp16 : Fmt := ⟨5, 10, 15, true, 0x7E00, 0x7BFF, true⟩
/-- BF16. -/
def fpBf16 : Fmt := ⟨8, 7, 127, true, 0x7FC0, 0x7F7F, true⟩
/-- FP8 E4M3. -/
def fpE4M3 : Fmt := ⟨4, 3, 7, false, 0x7F, 0x7E, false⟩
/-- FP8 E5M2. -/
def fpE5M2 : Fmt := ⟨5, 2, 15, true, 0x7E, 0x7B, false⟩
/-- FP6 E2M3. -/
def fpE2M3 : Fmt := ⟨2, 3, 1, false, 0, 0x1F, false⟩
/-- FP6 E3M2. -/
def fpE3M2 : Fmt := ⟨3, 2, 3, false, 0, 0x1F, false⟩
/-- FP4 E2M1. -/
def fpE2M1 : Fmt := ⟨2, 1, 1, false, 0, 0x7, false⟩

/-- Width of a code. -/
def Fmt.width (f : Fmt) : Nat := 1 + f.eb + f.mb
/-- The exponent of the largest finite value (R162). -/
def Fmt.emax (f : Fmt) : Int := (f.maxCode / 2 ^ f.mb : Nat) - (f.bias : Int)
/-- The code of a sign and a magnitude code. -/
def Fmt.signed (f : Fmt) (neg : Bool) (mag : Nat) : Nat := (if neg then 2 ^ (f.eb + f.mb) else 0) + mag
/-- The code of an infinity. -/
def Fmt.inf (f : Fmt) (neg : Bool) : Nat := f.signed neg ((2 ^ f.eb - 1) * 2 ^ f.mb)

/-- A decoded value: a NaN (signalling or not), an infinity, or (−1)^neg × m × 2^e exactly. -/
inductive Num where
  | nan (signalling : Bool)
  | inf (neg : Bool)
  | fin (neg : Bool) (m : Nat) (e : Int)
  deriving DecidableEq, Repr

/-- Decode a code of a format (R158, R159). -/
def Fmt.decode (f : Fmt) (x : Nat) : Num :=
  let neg := x / 2 ^ (f.eb + f.mb) % 2 = 1
  let e := x / 2 ^ f.mb % 2 ^ f.eb
  let m := x % 2 ^ f.mb
  if f.hasInf ∧ e = 2 ^ f.eb - 1 then
    if m = 0 then .inf neg else .nan (f.signals && decide (m < 2 ^ (f.mb - 1)))
  else if f.nan ≠ 0 ∧ ¬ f.hasInf ∧ x % 2 ^ (f.eb + f.mb) = f.nan then .nan false
  else if e = 0 then .fin neg m (1 - (f.bias : Int) - (f.mb : Int))
  else .fin neg (m + 2 ^ f.mb) ((e : Int) - (f.bias : Int) - (f.mb : Int))

/-- Whether a value is a NaN. -/
def Num.isNan : Num → Bool
  | .nan _ => true
  | _ => false
/-- Whether a value is a signalling NaN. -/
def Num.signals : Num → Bool
  | .nan b => b
  | _ => false
/-- Whether a value is a zero. -/
def Num.isZero : Num → Bool
  | .fin _ m _ => decide (m = 0)
  | _ => false
/-- The sign of a value that is no NaN. -/
def Num.neg : Num → Bool
  | .nan _ => false
  | .inf n => n
  | .fin n _ _ => n
/-- The value with its sign inverted. -/
def Num.negate : Num → Num
  | .nan b => .nan b
  | .inf n => .inf (!n)
  | .fin n m e => .fin (!n) m e

/-- A signed integer times 2^(e − b), for b not above e. -/
def scaled (neg : Bool) (m : Nat) (e b : Int) : Int :=
  let v : Int := (m * 2 ^ (e - b).toNat : Nat)
  if neg then -v else v

/-- Order of two values that are no NaNs: negative, 0 or positive; the zeros are equal. -/
def Num.cmp : Num → Num → Int
  | .inf a, .inf b => (if a then -1 else 1) - (if b then -1 else 1)
  | .inf a, _ => if a then -1 else 1
  | _, .inf b => if b then 1 else -1
  | .fin a m e, .fin b n d =>
    let k := min e d
    scaled a m e k - scaled b n d k
  | _, _ => 0

/-- floor(log2(m)) for m above 0, as an exponent of m × 2^e. -/
def ilog (m : Nat) (e : Int) : Int := (Nat.log2 m : Int) + e

/-- The format of a float element type; I32 has none (R170). -/
def elemFmt : VType → Fmt
  | .f16 => fp16
  | .bf16 => fpBf16
  | _ => fp32

/-- Whether a type holds two elements in a lane (R170). -/
def isPair : VType → Bool
  | .bf16 => true
  | .f16 => true
  | _ => false

/-- Elements of a register of a type (R184). -/
def elemCount (t : VType) : Nat := if isPair t then 128 else 64

/-- Element `k` of a lane list in element order: k is a lane, or a half of lane k / 2 (R170, R184). -/
def elemAt (t : VType) (x : Lanes) (k : Nat) : Nat :=
  if isPair t then (x.toList.getD (k / 2) 0).toNat / 2 ^ (16 * (k % 2)) % 2 ^ 16 else (x.toList.getD k 0).toNat

/-- The lanes of a list of elements in element order (R170). -/
def lanesOf (t : VType) (es : List Nat) : Lanes :=
  tab 64 fun i =>
    if isPair t then BitVec.ofNat 32 (es.getD (2 * i) 0 % 2 ^ 16 + es.getD (2 * i + 1) 0 % 2 ^ 16 * 2 ^ 16)
    else BitVec.ofNat 32 (es.getD i 0)

/-- The decoded format of an element code of a packed block (Table 6-8): 0 to 4, with K4 (5) read as E2M1. -/
def packFmt : Nat → Fmt
  | 0 => fpE4M3
  | 1 => fpE5M2
  | 2 => fpE2M3
  | 3 => fpE3M2
  | _ => fpE2M1

end Sys2Proof.Machine
end

