-- ==== Sys2Proof/Machine/Flags.lean ====
section
/-!
DEFINITION. Rounding and the flags it sets (R162 to R168, Tables 2-10, 6-3): one routine rounds an exact magnitude once
in any mode, detects tininess after rounding, and applies the limit of the format.
-/

namespace Sys2Proof.Machine

/-- The flags an operation sets, as the bits of FLG (Table 2-10). -/
abbrev Fl := BitVec 6

/-- INV. -/
def flINV : Fl := 1
/-- DZ. -/
def flDZ : Fl := 2
/-- OF. -/
def flOF : Fl := 4
/-- UF. -/
def flUF : Fl := 8
/-- NX. -/
def flNX : Fl := 16
/-- SAT. -/
def flSAT : Fl := 32

/-- A flag if a condition holds. -/
def Fl.when (b : Bool) (f : Fl) : Fl := if b then f else 0

/-- Rounding modes (Table 6-3); SR with the value its generator step drew (R165). -/
inductive Mode where
  | rne | rtz | rdn | rup
  | sr (g : W32)
  deriving DecidableEq, Repr

/-- The magnitude k + r / d, with r < d, goes to k or k + 1 (Table 6-3, R165). -/
def Mode.pick (md : Mode) (neg : Bool) (k r d : Nat) : Nat :=
  if r = 0 then k
  else
    let up := match md with
      | .rne => decide (d < 2 * r ∨ (2 * r = d ∧ k % 2 = 1))
      | .rtz => false
      | .rdn => neg
      | .rup => !neg
      | .sr g => decide (g.toNat < r * 2 ^ 32 / d)
    if up then k + 1 else k

/-- num / den × 2^s as a quotient and a remainder over a divisor. -/
def quot (num den : Nat) (s : Int) : Nat × Nat × Nat :=
  let n := if 0 ≤ s then num * 2 ^ s.toNat else num
  let d := if 0 ≤ s then den else den * 2 ^ (-s).toNat
  (n / d, n % d, d)

/-- floor(log2(num / den)). -/
def ratLog (num den : Nat) : Int :=
  let e : Int := (Nat.log2 num : Int) - (Nat.log2 den : Int)
  if num * 2 ^ (-e).toNat < den * 2 ^ e.toNat then e - 1 else e

/-- Round num / den × 2^x once, with no upper limit: the magnitude code, with NX and UF. Tiny: below the smallest normal
after rounding to the format's precision (R167, R168). DESIGN CHOICE: under SR that rounding uses the draw of the result's own
(log 154). -/
def Fmt.round (f : Fmt) (md : Mode) (neg : Bool) (num den : Nat) (x : Int) : Nat × Fl :=
  if num = 0 then (0, 0)
  else
    let emin : Int := 1 - (f.bias : Int)
    let e := ratLog num den + x
    let at_ := fun (q : Int) => quot num den (x - q)
    let (k, r, d) := at_ (max e emin - (f.mb : Int))
    let code := (max e emin - emin).toNat * 2 ^ f.mb + md.pick neg k r d
    if r = 0 then (code, 0)
    else
      let (k', r', d') := at_ (e - (f.mb : Int))
      let tiny := decide (e < emin ∧ md.pick neg k' r' d' < 2 ^ (f.mb + (emin - e).toNat))
      (code, flNX ||| Fl.when tiny flUF)

/-- Round into a format with infinities, or one whose limit saturates (R162 to R164, R168): the code and its flags. DESIGN CHOICE: a clamp by `sat` into a format with infinities sets SAT and NX, and no
OF (log 153). -/
def Fmt.encode (f : Fmt) (md : Mode) (sat neg : Bool) (num den : Nat) (x : Int) : Nat × Fl :=
  let (code, fl) := f.round md neg num den x
  if code ≤ f.maxCode then (f.signed neg code, fl)
  else if sat || !f.hasInf then (f.signed neg f.maxCode, fl ||| flNX ||| Fl.when sat flSAT)
  else
    let stay := match md with
      | .rtz => true
      | .rdn => !neg
      | .rup => neg
      | _ => false
    ((if stay then f.signed neg f.maxCode else f.inf neg), fl ||| flOF ||| flNX)

/-- An exact finite value rounded with RNE (R167). -/
def Fmt.rne (f : Fmt) (neg : Bool) (m : Nat) (e : Int) : Nat × Fl := f.encode .rne false neg m 1 e

/-- The magnitude m × 2^e as an integer part, a remainder and its divisor, for rounding to an integer (R164). -/
def intParts (m : Nat) (e : Int) : Nat × Nat × Nat := quot m 1 e

end Sys2Proof.Machine
end

