-- ==== Sys2Proof/Machine/Arith.lean ====
section
/-!
DEFINITION. Floating-point operations on codes (R167, R175 to R183): sum, product, fused sum, minimum and maximum,
comparison, the special functions, conversions, scaling, and the quantisation and decoding of blocks. Each gives the
result's code and the flags it sets.
-/

namespace Sys2Proof.Machine

/-! ### Sum, product, comparison (R167, R175 to R177) -/

/-- INV when an operand is a signalling NaN (R167). -/
def sigInv (xs : List Num) : Fl := Fl.when (xs.any Num.signals) flINV

/-- The exact sum of two values that are no NaNs, rounded once (R167). -/
def Fmt.sum (f : Fmt) : Num → Num → Nat × Fl
  | .inf a, .inf b => if a = b then (f.inf a, 0) else (f.nan, flINV)
  | .inf a, _ => (f.inf a, 0)
  | _, .inf b => (f.inf b, 0)
  | .fin a m e, .fin b n d =>
    let k := min e d
    let v := scaled a m e k + scaled b n d k
    if v = 0 then (f.signed (a && b && decide (m = 0) && decide (n = 0)) 0, 0)
    else f.rne (decide (v < 0)) v.natAbs k
  | _, _ => (f.nan, 0)

/-- The exact product of two values that are no NaNs; none for 0 × inf. -/
def Num.mul : Num → Num → Option Num
  | .inf a, .inf b => some (.inf (a != b))
  | .inf a, .fin b n _ => if n = 0 then none else some (.inf (a != b))
  | .fin a m _, .inf b => if m = 0 then none else some (.inf (a != b))
  | .fin a m e, .fin b n d => some (.fin (a != b) (m * n) (e + d))
  | _, _ => none

/-- A value rounded with RNE. -/
def Fmt.ofNum (f : Fmt) : Num → Nat × Fl
  | .nan b => (f.nan, Fl.when b flINV)
  | .inf a => (f.inf a, 0)
  | .fin a m e => f.rne a m e

/-- a + b (R167). -/
def Fmt.add (f : Fmt) (a b : Nat) : Nat × Fl :=
  let x := f.decode a
  let y := f.decode b
  if x.isNan || y.isNan then (f.nan, sigInv [x, y]) else f.sum x y

/-- a − b. -/
def Fmt.sub (f : Fmt) (a b : Nat) : Nat × Fl :=
  let x := f.decode a
  let y := f.decode b
  if x.isNan || y.isNan then (f.nan, sigInv [x, y]) else f.sum x y.negate

/-- a × b. -/
def Fmt.mul (f : Fmt) (a b : Nat) : Nat × Fl :=
  let x := f.decode a
  let y := f.decode b
  if x.isNan || y.isNan then (f.nan, sigInv [x, y])
  else
    match x.mul y with
    | none => (f.nan, flINV)
    | some p => f.ofNum p

/-- a × b + c, or c − a × b, rounded once; 0 × inf sets INV even if c is NaN (R177). -/
def Fmt.fma (f : Fmt) (neg : Bool) (a b c : Nat) : Nat × Fl :=
  let x := f.decode a
  let y := f.decode b
  let z := f.decode c
  if x.isNan || y.isNan then (f.nan, sigInv [x, y, z])
  else
    match x.mul y with
    | none => (f.nan, flINV)
    | some p => if z.isNan then (f.nan, sigInv [z]) else f.sum (if neg then p.negate else p) z

/-- Order with −0 below +0 (R175). -/
def Num.below (x y : Num) : Bool :=
  decide (x.cmp y < 0) || (decide (x.cmp y = 0) && x.neg && !y.neg)

/-- minimumNumber, or maximumNumber (R175). -/
def Fmt.pick (f : Fmt) (max : Bool) (a b : Nat) : Nat × Fl :=
  let x := f.decode a
  let y := f.decode b
  let fl := sigInv [x, y]
  if x.isNan && y.isNan then (f.nan, fl)
  else if x.isNan then (b, fl)
  else if y.isNan then (a, fl)
  else if max then (if x.below y then b else a, fl)
  else (if y.below x then b else a, fl)

/-- The comparisons of R176. -/
inductive VCmp where
  | eq | ne | lt | le
  deriving DecidableEq, Repr

/-- A comparison of integers. -/
def VCmp.int (k : VCmp) (d : Int) : Bool :=
  match k with
  | .eq => d = 0
  | .ne => d ≠ 0
  | .lt => d < 0
  | .le => d ≤ 0

/-- A float comparison and its flags (R176). -/
def Fmt.compare (f : Fmt) (k : VCmp) (a b : Nat) : Bool × Fl :=
  let x := f.decode a
  let y := f.decode b
  if x.isNan || y.isNan then
    (decide (k = .ne), match k with | .lt | .le => flINV | _ => sigInv [x, y])
  else (k.int (x.cmp y), 0)

/-! ### Special functions (R179, Table 6-6) -/

/-- Fraction bits of the fixed-point series (log 12). -/
def fixBits : Nat := 256

/-- Terms t / k of the series of 2 atanh(n / d), t shrinking by (n / d)² each time. -/
def atanhTerms (n2 d2 : Nat) : Nat → Nat → Nat → Nat
  | 0, _, _ => 0
  | fuel + 1, t, k => t / k + atanhTerms n2 d2 fuel (t * n2 / d2) (k + 2)

/-- ln((d + n) / (d − n)) × 2^256, for n / d at most 1/3. -/
def lnRatio (n d : Nat) : Nat := atanhTerms (n * n) (d * d) 100 (n * 2 ^ (fixBits + 1) / d) 1

/-- ln 2 × 2^256. -/
def ln2Fix : Nat := lnRatio 1 3

/-- Terms of the series of exp(y). -/
def expTerms (y : Nat) : Nat → Nat → Nat → Nat
  | 0, _, _ => 0
  | fuel + 1, t, k => t + expTerms y fuel (t * y / 2 ^ fixBits / k) (k + 1)

/-- 2^(n / d) × 2^256, for n / d below 1. -/
def exp2Fix (n d : Nat) : Nat := expTerms (ln2Fix * n / d) 80 (2 ^ fixBits) 1

/-- A value known to more than 200 bits and known to be inexact: its last bit is set, so that it is neither exact nor a
tie (log 12). -/
def sticky (x : Nat) : Nat := if x % 2 = 0 then x + 1 else x

/-- The special functions. -/
inductive Special where
  | rcp | rsq | sqrt | exp2 | log2
  deriving DecidableEq, Repr

/-- 1 / a. -/
def Fmt.rcp (f : Fmt) : Num → Nat × Fl
  | .nan b => (f.nan, Fl.when b flINV)
  | .inf n => (f.signed n 0, 0)
  | .fin n m e => if m = 0 then (f.inf n, flDZ) else f.encode .rne false n 1 m (-e)

/-- The even exponent form of m × 2^e. -/
def evenExp (m : Nat) (e : Int) : Nat × Int := if e % 2 = 0 then (m, e) else (2 * m, e - 1)

/-- 1 / √a. -/
def Fmt.rsq (f : Fmt) : Num → Nat × Fl
  | .nan b => (f.nan, Fl.when b flINV)
  | .inf n => if n then (f.nan, flINV) else (0, 0)
  | .fin n m e =>
    if m = 0 then (f.inf n, flDZ)
    else if n then (f.nan, flINV)
    else
      let (m, e) := evenExp m e
      let r := Nat.sqrt (2 ^ fixBits / m)
      f.rne false (2 * r + (if r * r * m = 2 ^ fixBits then 0 else 1)) (-(e / 2) - fixBits / 2 - 1)

/-- √a. -/
def Fmt.sqrt (f : Fmt) : Num → Nat × Fl
  | .nan b => (f.nan, Fl.when b flINV)
  | .inf n => if n then (f.nan, flINV) else (f.inf false, 0)
  | .fin n m e =>
    if m = 0 then (f.signed n 0, 0)
    else if n then (f.nan, flINV)
    else
      let (m, e) := evenExp m e
      let r := Nat.sqrt (m * 2 ^ fixBits)
      f.rne false (2 * r + (if r * r = m * 2 ^ fixBits then 0 else 1)) (e / 2 - fixBits / 2 - 1)

/-- 2^a. Beyond 2^9 in magnitude every result is beyond every format's range. -/
def Fmt.exp2 (f : Fmt) : Num → Nat × Fl
  | .nan b => (f.nan, Fl.when b flINV)
  | .inf n => if n then (0, 0) else (f.inf false, 0)
  | .fin n m e =>
    if m = 0 then f.rne false 1 0
    else if 9 ≤ ilog m e then f.rne false 1 (if n then -600 else 600)
    else
      let d : Nat := 2 ^ (-e).toNat
      let a : Int := scaled n m (max e 0) 0
      let k := a / (d : Int)
      let r := (a % (d : Int)).toNat
      if r = 0 then f.rne false 1 k else f.rne false (sticky (exp2Fix r d)) (k - fixBits)

/-- log2(a). -/
def Fmt.log2 (f : Fmt) : Num → Nat × Fl
  | .nan b => (f.nan, Fl.when b flINV)
  | .inf n => if n then (f.nan, flINV) else (f.inf false, 0)
  | .fin n m e =>
    if m = 0 then (f.inf true, flDZ)
    else if n then (f.nan, flINV)
    else
      let one := 2 ^ Nat.log2 m
      let k := ilog m e
      if m = one then f.rne (decide (k < 0)) k.natAbs 0
      else
        let v := k * (2 ^ fixBits : Nat) + (lnRatio (m - one) (m + one) * 2 ^ fixBits / ln2Fix : Nat)
        f.rne (decide (v < 0)) (sticky v.natAbs) (-fixBits)

/-- A special function of a code (R179). -/
def Fmt.special (f : Fmt) (k : Special) (a : Nat) : Nat × Fl :=
  match k with
  | .rcp => f.rcp (f.decode a)
  | .rsq => f.rsq (f.decode a)
  | .sqrt => f.sqrt (f.decode a)
  | .exp2 => f.exp2 (f.decode a)
  | .log2 => f.log2 (f.decode a)

/-! ### Conversion (R180, R183, R287) -/

/-- A value rounded into a format in a mode; `sat`: the limit of a format saturates. A NaN gives the canonical NaN. -/
def Fmt.convert (f : Fmt) (md : Mode) (sat : Bool) : Num → Nat × Fl
  | .nan b => (f.nan, Fl.when b flINV)
  | .inf a => if f.hasInf then (f.inf a, 0) else (f.signed a f.maxCode, 0)
  | .fin a m e => f.encode md sat a m 1 e

/-- The bits of a signed integer in an I32 lane. -/
def i32Bits (neg : Bool) (k : Nat) : Nat := if neg then (2 ^ 32 - k) % 2 ^ 32 else k % 2 ^ 32

/-- A value rounded to I32 (Table 6-7). -/
def toI32 (md : Mode) : Num → Nat × Fl
  | .nan _ => (0, flINV)
  | .inf a => (if a then 0x80000000 else 0x7FFFFFFF, flSAT ||| flNX)
  | .fin a m e =>
    let (k, r, d) := intParts m e
    let v := md.pick a k r d
    if v ≤ (if a then 2 ^ 31 else 2 ^ 31 - 1) then (i32Bits a v, Fl.when (decide (r ≠ 0)) flNX)
    else (if a then 0x80000000 else 0x7FFFFFFF, flSAT ||| flNX)

/-- A value rounded to an integral value of the same format (Table 6-7); a zero keeps the sign. -/
def Fmt.integral (f : Fmt) (md : Mode) (x : Nat) : Nat × Fl :=
  match f.decode x with
  | .nan b => (f.nan, Fl.when b flINV)
  | .inf _ => (x, 0)
  | .fin a m e =>
    let (k, r, d) := intParts m e
    if r = 0 then (x, 0) else ((f.rne a (md.pick a k r d) 0).1, flNX)

/-- The signed value of an n-bit two's-complement number. -/
def signedOf (n x : Nat) : Int := if x % 2 ^ n < 2 ^ (n - 1) then (x % 2 ^ n : Nat) else (x % 2 ^ n : Nat) - (2 ^ n : Nat)

/-- a × 2^n rounded once (R183). Beyond 2^1000 every product rounds as at 2^1000. -/
def Fmt.scale (f : Fmt) (x : Nat) (n : Int) : Nat × Fl :=
  match f.decode x with
  | .nan b => (f.nan, Fl.when b flINV)
  | .inf _ => (x, 0)
  | .fin a m e => if m = 0 then (x, 0) else f.rne a m (e + max (-1000) (min 1000 n))

/-! ### Blocks (R160 to R163, R182) -/

/-- The decoded FP32 values of a block. -/
abbrev decode32 (x : Nat) : Num := fp32.decode x

/-- A NaN, or an infinity of a format that has none (R162). -/
def spoils (f : Fmt) : Num → Bool
  | .nan _ => true
  | .inf _ => !f.hasInf
  | _ => false

/-- The magnitude of a finite value, as a multiple of 2^−149, the smallest FP32 subnormal. -/
def Num.mag : Num → Nat
  | .fin _ m e => m * 2 ^ (e + 149).toNat
  | _ => 0

/-- clamp(floor(log2(amax)) − emax, −127, 127); −127 for amax = 0 (R162). `amax` is a multiple of 2^−149. -/
def blockExp (amax : Nat) (emax : Int) : Int :=
  if amax = 0 then -127 else max (-127) (min 127 (ilog amax (-149) - emax))

/-- A quantised block: element codes, scale and spare, with its flags. -/
structure Quant where
  codes : List Nat
  scale : Nat
  spare : Nat
  fl : Fl
  deriving DecidableEq, Repr

/-- An element of an MX block (R162). -/
def mxElem (f : Fmt) (x : Int) (md : Mode) : Num → Nat × Fl
  | .nan _ => (0, 0)
  | .inf a => (f.inf a, 0)
  | .fin a m e => f.encode md true a m 1 (e - x)

/-- MX quantisation of 32 values, each with the mode that rounds it (R162). -/
def mxQuant (f : Fmt) (xs : List (Nat × Mode)) : Quant :=
  let ns := xs.map fun x => (decode32 x.1, x.2)
  if ns.any (fun n => spoils f n.1) then ⟨xs.map (fun _ => 0), 0xFF, 0, flINV⟩
  else
    let x := blockExp (ns.foldl (fun b n => max b n.1.mag) 0) f.emax
    let rs := ns.map fun n => mxElem f x n.2 n.1
    ⟨rs.map (·.1), (x + 127).toNat, 0, rs.foldl (fun b r => b ||| r.2) 0⟩

/-- K4 quantisation of 32 values (R163). -/
def k4Quant (xs : List Nat) : Quant :=
  let ns := xs.map decode32
  if ns.any (spoils fpE2M1) then ⟨xs.map (fun _ => 0), 0xFF, 0, flINV⟩
  else
    let mags := ns.map Num.mag
    let a1 := mags.foldl max 0
    let i1 := mags.findIdx (· = a1)
    let a2 := (mags.eraseIdx i1).foldl max 0
    if a1 = 0 then ⟨xs.map (fun _ => 0), 0, 0, 0⟩
    else
      let x := if a2 = 0 then blockExp a1 7 else blockExp a2 2
      let one := fun (n : Num) =>
        let r := mxElem fpE2M1 x .rne n
        (if r.1 = 8 then 0 else r.1, r.2)
      let big := mxElem fpE4M3 x .rne (ns.getD i1 (.nan false))
      let rs := (List.range 32).map fun k => if k = i1 then (8, big.2) else one (ns.getD k (.nan false))
      ⟨rs.map (·.1), (x + 127).toNat, big.1, rs.foldl (fun b r => b ||| r.2) 0⟩

/-- The value of an element code of a block with a scale and a spare (R160, R161). -/
def blockElem (fmt code scale spare : Nat) : Num :=
  if scale = 0xFF then .nan false
  else
    let v := if fmt = 5 ∧ code = 8 then fpE4M3.decode spare else (packFmt fmt).decode code
    match v with
    | .fin a m e => .fin a m (e + (scale : Int) - 127)
    | v => v

end Sys2Proof.Machine
end

