-- ==== Sys2Proof/Machine/Waits.lean ====
section
/-!
DEFINITION. The explicit waits (R139 to R147): their issue, acceptance, success and timeout; barriers (R145) and locks
(R117, R118, R146).
-/

namespace Sys2Proof.Machine

/-! ### Issue -/

/-- The registers a wait of a kind writes (Table 5-3). -/
def WaitKind.dests (k : WaitKind) (q : BitVec 4) : List RegRef :=
  match k with
  | .ring _ d | .lock _ d | .ldsw d | .ldsd d | .ldcw d | .ldcd d => [.g d, .q q]
  | _ => [.q q]

/-- A wait issues (R140): its registers go empty, the thread leaves the ready set. -/
def issueWait (close : Bool) (kind : WaitKind) (addr : W64) (q : BitVec 4) (t : Nat) (s : State) : State :=
  let s := s.begin
  let w : QWait := ⟨s.nextId, s.cur, s.me.ctxh, s.me.pc.toNat, kind, addr, q, t, .sent, none, none⟩
  let s := { s.fresh with waits := s.waits ++ [w] }
  (retire 1 close s).modMe fun t => { (kind.dests q).foldl Thread.empty t with hold := .wait }

/-- A wait on a tagged word of `n` bytes (R142): ALIGN and ACCESS at issue. -/
def issueWordWait (n : Nat) (close : Bool) (kind : WaitKind) (addr : W64) (q : BitVec 4) (t : Nat) (s : State) : State :=
  if ¬ aligned addr n then trap (causeOf .align addr) s
  else
    match taggedPlace s.cur.core addr with
    | .error f => trap f s
    | .ok _ => issueWait close kind addr q t s

/-- The timeout `Gb[31:0]` (R139). -/
def timeout (b : W64) : Nat := bits b 0 32

/-- WAITF (Table 5-3). -/
def execWaitf (a b : GSrc) (q : BitVec 4) (g : Guard) (s : State) : Out :=
  .next (gatedTrap 1 g false [srcG a, srcG b] [.q q]
    (fun s => issueWordWait 4 false .full (s.me.src a) q (timeout (s.me.src b)) s) s)
/-- WAITM (Table 5-3). -/
def execWaitm (d a b : GSrc) (q : BitVec 4) (g : Guard) (s : State) : Out :=
  .next (gatedTrap 1 g false [srcG d, srcG a, srcG b] [.q q]
    (fun s => issueWordWait 4 false (.matches_ ((s.me.src d).setWidth 32)) (s.me.src a) q (timeout (s.me.src b)) s) s)
/-- WAITT (R144). -/
def execWaitt (a b : GSrc) (q : BitVec 4) (g : Guard) (s : State) : Out :=
  .next (gatedTrap 1 g false [srcG a, srcG b] [.q q]
    (fun s => issueWait false (.taper (s.me.src a)) 0 q (timeout (s.me.src b)) s) s)
/-- WAITID (R144). -/
def execWaitid (a b : GSrc) (q : BitVec 4) (g : Guard) (s : State) : Out :=
  .next (gatedTrap 1 g false [srcG a, srcG b] [.q q]
    (fun s => issueWait false (.jobs (s.me.src a)) 0 q (timeout (s.me.src b)) s) s)
/-- BAR (R145). -/
def execBar (j : BitVec 2) (b : GSrc) (q : BitVec 4) (g : Guard) (s : State) : Out :=
  .next (gatedTrap 1 g false [srcG b] [.q q]
    (fun s => issueWait true (.bar (s.me.rJ j)) 0 q (timeout (s.me.src b)) s) s)
/-- RECVW (R147): Gd is read as well as written. -/
def execRecvw (d : BitVec 4) (a b : GSrc) (q : BitVec 4) (g : Guard) (s : State) : Out :=
  .next (gatedTrap 1 g false [srcD d, srcG a, srcG b] [.g d, .q q]
    (fun s => issueWordWait 4 false (.ring ((s.me.rG d).setWidth 32) d) (s.me.src a) q (timeout (s.me.src b)) s) s)
/-- LDSW (Table 5-3). DESIGN CHOICE, for every wait that writes Gd: of two destinations that are still empty Gd comes before Qn
(log 149). -/
def execLdsw (d : BitVec 4) (a b : GSrc) (q : BitVec 4) (g : Guard) (s : State) : Out :=
  .next (gatedTrap 1 g false [srcG a, srcG b] [.g d, .q q]
    (fun s => issueWordWait 4 false (.ldsw d) (s.me.src a) q (timeout (s.me.src b)) s) s)
/-- LDSD (Table 5-3). -/
def execLdsd (d : BitVec 4) (a b : GSrc) (q : BitVec 4) (g : Guard) (s : State) : Out :=
  .next (gatedTrap 1 g false [srcG a, srcG b] [.g d, .q q]
    (fun s => issueWordWait 8 false (.ldsd d) (s.me.src a) q (timeout (s.me.src b)) s) s)
/-- LDCW (Table 5-3, R143). -/
def execLdcw (d : BitVec 4) (a b : GSrc) (q : BitVec 4) (g : Guard) (s : State) : Out :=
  .next (gatedTrap 1 g false [srcG a, srcG b] [.g d, .q q]
    (fun s => issueWordWait 4 true (.ldcw d) (s.me.src a) q (timeout (s.me.src b)) s) s)
/-- LDCD (Table 5-3, R143). -/
def execLdcd (d : BitVec 4) (a b : GSrc) (q : BitVec 4) (g : Guard) (s : State) : Out :=
  .next (gatedTrap 1 g false [srcG a, srcG b] [.g d, .q q]
    (fun s => issueWordWait 8 true (.ldcd d) (s.me.src a) q (timeout (s.me.src b)) s) s)

/-- LLOCK (R146): the key is on its way to its home; Gb holds the life and the timeout. -/
def execLlock (d : BitVec 4) (a b : GSrc) (q : BitVec 4) (g : Guard) (s : State) : Out :=
  .next (gatedTrap 1 g false [srcG a, srcG b] [.g d, .q q]
    (fun s =>
      let key := s.me.src a
      if ¬ aligned key 64 then trap (causeOf .align key) s
      else if classify s.cur.core key = .nothing then trap (accessFault key 2) s
      else
        postAcc s.cur s.me.ctxh s.me.space s.me.pc.toNat (.lockKey s.nextId) .key key 64
          (issueWait true (.lock (bits (s.me.src b) 0 32) d) key q (bits (s.me.src b) 32 32) s)) s)

/-! ### Ends -/

/-- The value of Gd at a timeout (Table 5-3); none: the old value. -/
def QWait.late (w : QWait) : Option W64 :=
  match w.kind with
  | .ring _ _ => none
  | _ => some 0

/-- A wait times out (R140). -/
def timeOut (w : QWait) (s : State) : State := answerWait w false w.late none s

/-- A wait's fault with source 2: LAPSED, STALE, and the ACCESS of its granule check (R141, log 32); a path that is not live keeps
source 4 (R119, Table 4-10). -/
def waitSource (f : FaultInfo) : FaultInfo :=
  if f.t2 = 4 then f
  else if f.cause = .lapsed ∨ f.cause = .stale ∨ (f.cause = .access ∧ f.t2 = 8) then { f with t2 := 2 } else f

/-- Accepted and queued, in order of acceptance (R143). -/
def queueWait (w : QWait) (now : Nat) (s : State) : State :=
  { s with waits := s.waits.filter (fun x => x.seq ≠ w.seq) ++ [{ w with stage := .queued now }] }

/-- The condition has not come to hold at acceptance: a timeout of 0 ends the wait, else it queues (R140). -/
def notYet (w : QWait) (now : Nat) (s : State) : State := if w.t = 0 then timeOut w s else queueWait w now s

/-! ### Locks (R117, R118, R146) -/

/-- The waiters of a lock, in order of acceptance. -/
def lockQueue (s : State) (h : DieId) (key : Nat) : List QWait :=
  s.waits.filter fun w => w.isQueued &&
    (match w.kind, w.key with | .lock _ _, some p => decide (p.key = key ∧ p.home = h) | _, _ => false)

/-- A lock's hold is live and attached. -/
def lockHeld (s : State) (h : DieId) (k : Lock) : Bool :=
  match k.hold with
  | none => false
  | some i => decide ((s.lease h i).state = .live)

/-- A lock without holder, waiter and binding does not exist (R117). -/
def pruneLock (h : DieId) (key : Nat) (s : State) : State :=
  match lockAt s h key with
  | none => s
  | some k =>
    if lockHeld s h k ∨ lockQueue s h key ≠ [] ∨
        ((List.range 4).any fun d => (s.die ⟨h.node, d⟩).binds.any fun b => decide (b.die = h ∧ b.key = key)) then s
    else s.modDie h fun d => { d with locks := d.locks.filter fun x => x.key ≠ key }

/-- An entry is FREE with its lapse effects finished, and no waiter has reserved it (R112, R146); entry 0 is the
supervisor context's (R375). -/
def entryReady (s : State) (h : DieId) (i : Nat) : Bool :=
  let l := s.lease h i
  decide (0 < i ∧ i < Config.leaseEntries ∧ l.state = .free) &&
    (match l.body with | .range _ _ _ z => z | _ => true) &&
    !(s.waits.any fun w => decide (w.resv = some i) && (match w.key with | some p => decide (p.home = h) | none => false))

/-- Some entry of a die's lease table is ready (R112): not every one is listed and unready. -/
def someEntry (s : State) (h : DieId) : Bool :=
  let busy := ((s.die h).leases.filter fun e => decide (e.1 ≠ 0) && !entryReady s h e.1).length
  let resv := (s.waits.filter fun w => match w.resv, w.key with
    | some i, some p => decide (p.home = h) && decide ((s.die h).leases.look i = none)
    | _, _ => false).length
  decide (busy + resv + 1 < Config.leaseEntries)

/-- Create a lease in an entry (Table 4-3). -/
def createLease (h : DieId) (i : Nat) (k : LKind) (life : Nat) (holder holder2 : W64) (body : LBody) (s : State) : State :=
  s.modLease h i fun l => ⟨.live, k, l.gen, s.taper h.node + min life Config.maxLife, s.taper h.node, holder, holder2, body, false⟩

/-- Grant a lock to a waiter whose entry is reserved (R146): the hold is created, and the wait succeeds with its handle. -/
def grantLock (h : DieId) (p : Phys) (w : QWait) (s : State) : State :=
  match w.resv, w.kind with
  | some i, .lock life _ =>
    let s := createLease h i .lock life w.ctx 0 (.lock w.addr p.key w.tid false) s
    let s := s.modDie h fun d => { d with locks := d.locks.map fun k => if k.key = p.key then { k with hold := some i } else k }
    answerWait w true (some (handleOf h .lock i (s.lease h i).gen)) none s
  | _, _ => s

/-- LLOCK at the key's home (R146); `i`: the entry reserved. Refusals 3, 2, 1 in that order. -/
def acceptLock (w : QWait) (a : Acc) (p : Phys) (i : Nat) (s : State) : State :=
  let h := p.home
  let w := { w with key := some p }
  let drop := fun (s : State) => { s with accs := s.accs.filter fun x => x.id ≠ a.id }
  if isSystem s p then answerWait w false none (some (accessFault w.addr 10)) (drop s)
  else
    match granuleCheck s w.ctx p w.addr with
    | some f => answerWait w false none (some (waitSource f)) (drop s)
    | none =>
      let lock := lockAt s h p.key
      if (lock.map fun k => holdsLock s h k w.tid).getD false then answerWait w false (some 3) none (drop s)
      else if lock = none ∧ Config.lockEntries ≤ (s.die h).locks.length then answerWait w false (some 2) none (drop s)
      else if ¬ someEntry s h then answerWait w false (some 1) none (drop s)
      else if ¬ entryReady s h i then s
      else
        let s := drop s
        let s := if lock = none then
            s.modDie h fun d => { d with locks := d.locks ++ [⟨p.key, w.addr, none, none, 0⟩] }
          else s
        let w := { w with resv := some i }
        if ¬ (lock.map (lockHeld s h)).getD false ∧ lockQueue s h p.key = [] then grantLock h p w s
        else if w.t = 0 then pruneLock h p.key (timeOut w s)
        else queueWait w (s.taper h.node) s

/-! ### Barriers (R145) -/

/-- The waiters of a group's current phase. -/
def barQueue (s : State) (handle : W64) : List QWait :=
  s.waits.filter fun w => w.isQueued && (match w.kind with | .bar x => decide (x = handle) | _ => false)

/-- The scope of a group's phase: the smallest of CLUSTER, DIE, PACKAGE and GROUP that contains every thread joined. -/
def groupScope (ts : List Tid) : Scope :=
  match ts with
  | [] => .group
  | t :: ts =>
    if ts.all fun u => decide (clusterOf u.core = clusterOf t.core) then .cluster
    else if ts.all fun u => decide (dieOf u.core = dieOf t.core) then .die
    else if ts.all fun u => decide (u.core.node = t.core.node) then .package
    else .group

/-- The phase completes with its last arrival: every waiter has won, and waits for the arrivals' accesses to drain (R145). -/
def completePhase (ws : List QWait) (sc : Scope) (s : State) : State :=
  let drains := ws.map fun w => (w.tid, w.seq)
  { s with waits := mapIf s.waits (fun w => ws.any fun x => x.seq = w.seq) fun w => { w with stage := .won drains sc } }

/-- A handle of another package needs the fabric, and a live path; without the one the refusal is ACCESS code 2, as for an access (R385,
log 28), without the other LAPSED with source 4 (R119), and over a dead link PATH with outcome 0 (R350). The null handle names no
package. -/
def pathRefusal (s : State) (tid : Tid) (ctx x : W64) : Option FaultInfo :=
  if x = 0 ∨ (hHome x).node = tid.core.node then none
  else if ¬ fabricUp s tid.core.node (hHome x).node then some (accessFault x 2)
  else if ¬ pathLive s tid.core.node ctx (hHome x).node then some ⟨.lapsed, 0, 0, 4⟩
  else if (s.pkg tid.core.node).deadLinks.contains (hHome x).node then some ⟨.path, x, 0, 0⟩
  else none

/-- A handle that a context presents over a live path waits for a change of its route (R346). -/
def handleWaits (s : State) (tid : Tid) (ctx x : W64) : Bool :=
  (pathRefusal s tid ctx x).isNone && handleHeld s tid.core.node x

/-- BAR at the group's home (R145). -/
def acceptBar (w : QWait) (x : W64) (s : State) : State :=
  match pathRefusal s w.tid w.ctx x with
  | some f => faultWait w f s
  | none =>
    if handleHeld s w.tid.core.node x then s
    else
    match (if x = 0 then Lookup.stale else present s x) with
    | .stale => answerWait w false none (some ⟨.stale, x, 0, 2⟩) s
    | .lapsed => answerWait w false none (some ⟨.lapsed, x, 0, 2⟩) s
    | .live h _ l =>
      match l.body with
      | .group n joined _ =>
        let ws := barQueue s x ++ [w]
        if ws.length = n then completePhase ws (groupScope joined) s else notYet w (s.taper h.node) s
      | _ => answerWait w false none (some ⟨.stale, x, 0, 2⟩) s

/-! ### Acceptance (R140 to R147) -/

/-- A word wait at the word's home: the checks of R142, then it joins the word's queue, which is served in order if the word is
full (R143); a timeout of 0 ends it if it is still there. -/
def acceptWord (w : QWait) (p : Phys) (s : State) : State :=
  match homeRefusal s w.tid w.ctx p w.addr (if w.double then 8 else 4) (.load false) with
  | some f => faultWait w (waitSource f) s
  | none =>
    let s := serveWord p (queueWait w (s.taper p.node) s)
    if w.t = 0 ∧ s.waits.any (fun x => decide (x.seq = w.seq)) then timeOut w s else s

/-- The thread's earlier accesses let a word wait be accepted: overlapping bytes and fences (R95, R234). -/
def wordMayAccept (s : State) (w : QWait) (p : Phys) : Bool :=
  translatedBefore s w.tid w.seq && !earlierTouches s w.tid w.seq p (if w.double then 8 else 4) &&
    !flagTouches s w.tid w.seq p (if w.double then 8 else 4) &&
    fencesAllow s w.tid w.seq p false

/-- WAIT_ACCEPT (R140): the wait arrives at its deciding place and succeeds, times out, is refused or queues. `i`: the
lease entry an LLOCK reserves. DESIGN CHOICE: an LLOCK behind a FENCE is accepted after the accesses that a write there would
wait for (log 103). -/
def execWaitAccept (tid : Tid) (i : Nat) (s : State) : Out :=
  .next (match s.waits.find? (fun w => decide (w.tid = tid) && decide (w.stage = .sent)) with
    | none => s
    | some w =>
      match w.kind with
      | .taper a => if a.toNat ≤ s.taper tid.core.node then endWait w true none s else notYet w (s.taper tid.core.node) s
      | .jobs a => if a.toNat ≤ (s.th tid).cdone then endWait w true none s else notYet w (s.taper tid.core.node) s
      | .bar x => acceptBar w x s
      | .lock _ _ =>
        (match s.accs.find? (fun a => a.agent = .lockKey w.seq) with
         | some a =>
           (match a.trans with
            | .done p =>
             if translatedBefore s tid w.seq ∧ a.reaches s ∧ fencesAllow s tid w.seq p false then acceptLock w a p i s else s
            | _ => s)
         | none => s)
      | _ =>
        match w.place with
        | some p => if wordMayAccept s w p then acceptWord w p s else s
        | none => s)

/-- A queued wait has reached its timeout boundary (R140). -/
def QWait.due (w : QWait) (s : State) : Bool :=
  match w.stage with
  | .queued t0 => decide (t0 + w.t ≤ s.taper w.node)
  | _ => false

/-- WAIT_TIMEOUT (R140): a queued wait at its boundary ends with Qn 0; an LLOCK's reservation is released (R146). -/
def execWaitTimeout (tid : Tid) (s : State) : Out :=
  .next (match s.waits.find? (fun w => decide (w.tid = tid) && w.due s) with
    | some w =>
      let s := timeOut w s
      (match w.key with | some p => pruneLock p.home p.key s | none => s)
    | none => s)

/-- WAITT's condition comes to hold at a tick boundary of its die (R144). -/
def serveTaper (n : Nat) (s : State) : State :=
  (s.waits.filter fun w => w.isQueued && decide (w.tid.core.node = n) &&
    (match w.kind with | .taper a => decide (a.toNat ≤ s.taper n) | _ => false)).foldl (fun s w => endWait w true none s) s

/-- WAITID's condition comes to hold as CDONE rises (R144). -/
def serveJobs (tid : Tid) (s : State) : State :=
  match s.waits.find? (fun w => w.isQueued && decide (w.tid = tid) &&
      (match w.kind with | .jobs a => decide (a.toNat ≤ (s.th tid).cdone) | _ => false)) with
  | some w => endWait w true none s
  | none => s

/-- A won barrier wait may fill: every arrival's earlier accesses homed in the phase's scope have drained (R145). -/
def barDrained (s : State) (w : QWait) : Bool :=
  match w.stage with
  | .won ds sc => ds.all fun d => drained s d.1 d.2 sc
  | _ => false

/-- A decided wait is answered: a barrier's success once its drains have ended, and what waited for a change of circuits. -/
def answerDecided (w : QWait) (s : State) : State :=
  match w.stage with
  | .answered ok v f => answerWait w ok v f s
  | _ => if barDrained s w then answerWait w true none none s else s

/-- RESULT_FILL (R46, R145, R346): a result with its last answer, or a wait's outcome whose answer may come, fills its
registers and wakes what waits on them. -/
def execResultFill (tid : Tid) (pid : Nat) (s : State) : Out :=
  .next (match s.waits.find? (fun w => decide (w.tid = tid) && decide (w.seq = pid)) with
    | some w => answerDecided w s
    | none =>
      match (s.th tid).pend? pid with
      | some p => if p.left = 0 ∧ p.refused = [] then fillPending tid pid s else s
      | none => s)

end Sys2Proof.Machine
end

