-- ==== Sys2Proof/Machine/Translation.lean ====
section
/-!
DEFINITION. Translation (R198 to R209): the walk of the page tables, the caches of leaves, the fault record and its ring,
and TLBI.
-/

namespace Sys2Proof.Machine

/-- What a walk ends in (R204): a leaf with its place, or the entry that ended it with CAUSE, LEVEL and its place. -/
inductive Walk where
  | leaf (e : W64) (die off : Nat)
  | fault (cause level : Nat) (entry : W64) (die off : Nat)
  deriving DecidableEq, Repr

/-- A pointer entry is malformed (R199, Table 7-5); `sub`: it names a sub-page table. -/
def badPointer (sub : Bool) (e : W64) : Bool :=
  decide (bits e 1 1 = 0 ∨ bits e 2 14 ≠ 0 ∨ bits e 43 21 ≠ 0) || (sub && decide (bits e 18 2 ≠ 0))

/-- A leaf entry is malformed (R199, Table 7-6); `sub`: level 5. -/
def badLeaf (sub : Bool) (e : W64) : Bool :=
  decide (bits e 1 1 = 1 ∨ bits e 8 8 ≠ 0 ∨ bits e 45 3 ≠ 0 ∨ (bits e 2 1 = 0 ∧ bits e 3 1 = 1) ∨ 3 ≤ bits e 4 3 ∨
    (bits e 4 3 = 0 ∧ bits e 7 1 = 1)) ||
  (if sub then decide (bits e 4 3 ≠ 0) else decide (bits e 18 11 ≠ 0))

/-- The index of a virtual address at a level (Table 7-4). -/
def vaIndex (va : W64) (level : Nat) : Nat :=
  match level with
  | 1 => bits va 48 9
  | 2 => bits va 39 9
  | 3 => bits va 30 9
  | 4 => bits va 21 9
  | _ => bits va 10 11

/-- The 4 KiB table page that holds an entry carries an uncorrectable error (R208; a sub-page table's four pages and the space
table's count one by one: log 105). -/
def badTable (s : State) (p : Phys) : Bool := s.poisoned.any fun u => decide (u / 4096 = p.key / 4096)

/-- Walk on from the entry at an HBM offset of a die (R199): `n` levels follow, `level` is the entry's own. -/
def walkFrom (s : State) (node : Nat) (sub : Bool) (va : W64) : Nat → Nat → Nat → Nat → Walk
  | 0, level, die, off =>
    let p : Phys := ⟨node, die, .hbm, off⟩
    let e := BitVec.ofNat 64 (s.peek p 8)
    if badTable s p then .fault 3 level 0 die off
    else if bits e 0 1 = 0 then .fault 0 level e die off
    else if badLeaf sub e then .fault 2 level e die off
    else .leaf e die off
  | n + 1, level, die, off =>
    let p : Phys := ⟨node, die, .hbm, off⟩
    let e := BitVec.ofNat 64 (s.peek p 8)
    if badTable s p then .fault 3 level 0 die off
    else if bits e 0 1 = 0 then .fault 0 level e die off
    else if badPointer (sub && decide (level = 4)) e then .fault 2 level e die off
    else walkFrom s node sub va n (level + 1) (bits e 16 2) (bits e 18 25 * 4096 + vaIndex va (level + 1) * 8)

/-- The walk of a core's thread (R199): from its die's space table, through level 5 in a sub-page window (`sub`). -/
def walk (s : State) (c : CoreId) (space : BitVec 16) (sub : Bool) (va : W64) : Walk :=
  walkFrom s c.node sub va (if sub then 5 else 4) 0 c.die (space.toNat * 8)

/-- Where a leaf leads (R200). -/
def leafPlace (sub : Bool) (e va : W64) : Phys :=
  ⟨bits e 48 16, bits e 16 2, .hbm, bits e 18 27 * 1024 + (if sub then bits va 0 10 else bits va 0 21)⟩

/-- A leaf permits an access (R200). -/
def permits (e : W64) (op : AccOp) : Bool :=
  (!op.reads || decide (bits e 2 1 = 1)) && (!op.writes || decide (bits e 3 1 = 1))

/-- The metadata at the tail of a compressed frame (R197). -/
def inMetadata (e va : W64) : Bool :=
  decide (bits e 4 3 ≠ 0 ∧ bits e 7 1 = 0) && decide (2 ^ 21 - 4096 ≤ bits va 0 21)

/-- The page or sub-page number that tags a cached leaf (R202). -/
def pageOf (sub : Bool) (va : W64) : Nat := if sub then bits va 10 47 else bits va 21 36

/-- A cached leaf of a core's or its cluster's cache (R202), but for one that a TLBI of the core has taken from it (R209). -/
def cached (s : State) (c : CoreId) (space : BitVec 16) (sub : Bool) (va : W64) : Option W64 :=
  let hit := fun (e : CacheEntry) => decide (e.space = space ∧ e.sub = sub ∧ e.page = pageOf sub va) && !e.barred.contains c.core
  match (s.core c).cache.find? hit with
  | some e => some e.leaf
  | none => ((s.cluster (clusterOf c)).cache.find? hit).map (·.leaf)

/-- Put a leaf into a cache of `n` entries; the oldest entry makes room (log 15). -/
def cacheFill (n : Nat) (e : CacheEntry) (l : List CacheEntry) : List CacheEntry :=
  (e :: l.filter (fun x => ¬ (x.space = e.space ∧ x.sub = e.sub ∧ x.page = e.page))).take n

/-- A walk fills both caches with its leaf (R202). -/
def fillCaches (c : CoreId) (space : BitVec 16) (sub : Bool) (va leaf : W64) (s : State) : State :=
  let e : CacheEntry := ⟨space, sub, pageOf sub va, leaf, []⟩
  let s := s.modCore c fun k => { k with cache := cacheFill Config.coreCache e k.cache }
  s.modCluster (clusterOf c) fun k => { k with cache := cacheFill Config.clusterCache e k.cache }

/-- What the translation of an access comes to. -/
inductive Translated where
  | ok (p : Phys) (s : State)
  | refused (f : FaultInfo)
  | fault (cause level : Nat) (entry : W64) (die off : Nat)

/-- Translate an address for an operation (R200, R202, R204); `sub`: it lies in a sub-page window; `old`: a cached leaf that
has not been invalidated is used where there is one. A missing permission is confirmed by a walk from memory. DESIGN CHOICE: a
leaf found in the cluster's cache does not fill the core's (log 101), and a leaf without the permission is a fault also for the
metadata of its frame (R197, R204, log 133). -/
def translate (s : State) (c : CoreId) (space : BitVec 16) (sub : Bool) (va : W64) (op : AccOp) (old : Bool) : Translated :=
  let use := fun (leaf : W64) (s : State) =>
    if inMetadata leaf va then Translated.refused (accessFault va 6) else .ok (leafPlace sub leaf va) s
  let fromMemory :=
    match walk s c space sub va with
    | .fault a b e d o => Translated.fault a b e d o
    | .leaf e die off =>
      if permits e op then use e (fillCaches c space sub va e s)
      else Translated.fault 1 (if sub then 5 else 4) e die off
  if old then
    match cached s c space sub va with
    | some e => if permits e op then use e s else fromMemory
    | none => fromMemory
  else fromMemory

/-! ### Fault records (R204 to R206) -/

/-- The core that serves translation faults of a cluster (R204, log 13). -/
def serviceOf (s : State) (c : CoreId) : CoreId :=
  s.service.get ⟨c.node, c.die, 0, 0⟩ (clusterKey (clusterOf c))

/-- KIND of Table 7-9. -/
def AccOp.kind : AccOp → Nat
  | .load _ | .sysreg _ _ | .key => 0
  | .store _ | .stfl _ | .stf _ | .sete | .setf | .port _ => 1
  | .atom _ _ _ | .red _ _ | .join => 2
  | .vload _ => 3
  | .vstore _ => 4
  | .engRead => 5
  | .engWrite _ | .raise => 6

/-- KIND of an access: the units of a save area are stores and loads of the issuing context (R330, R331, log 144). -/
def Acc.kind (a : Acc) : Nat :=
  match a.agent with
  | .save _ _ => if a.op.writes then 1 else 0
  | _ => a.op.kind

/-- The address of a slot's reply word (R205, R207). -/
def replyAddr (tid : Tid) : W64 :=
  windowAddr ⟨tid.core.node, tid.core.die, .agent tid.core.cluster tid.core.core, 8 * (tid.slot % 16)⟩

/-- The fault record of an access (Table 7-9). -/
def faultRec (a : Acc) (cause level : Nat) (entry : W64) (die off : Nat) : List W64 :=
  [a.ea,
   BitVec.ofNat 64 (a.space.toNat + a.tid.slot % 16 * 2 ^ 16 + (coreId a.tid.core).toNat % 2 ^ 16 * 2 ^ 20 +
     cause % 16 * 2 ^ 36 + level % 8 * 2 ^ 40 + a.kind * 2 ^ 43),
   a.ctx, replyAddr a.tid, if cause = 3 then 0 else entry,
   BitVec.ofNat 64 (off % 2 ^ 37 + die % 4 * 2 ^ 37), 0, 0]

/-- Post a fault record, if the service core's ring has room (R206). DESIGN CHOICE: the head and tail words are read, and the tail
written, also in a unit that is poisoned (log 155). -/
def postFault (c : CoreId) (ws : List W64) (s : State) : Option State :=
  let sc := serviceOf s c
  let head := s.peek (scratchAt sc 0x7FFC0) 4
  let tail := s.peek (scratchAt sc 0x7FFC4) 4
  if (tail + 1) % 63 = head then none
  else
    let s := storeRecord (scratchAt sc (0x7F000 + 64 * (tail % 63))) ws s
    some (fillWords [scratchAt sc 0x7FFC4] (storeAt (scratchAt sc 0x7FFC4) (leBytes ((tail + 1) % 63) 4) s))

/-- Change the translation of an access. -/
def setTrans (k : Nat) (t : Trans) (s : State) : State :=
  { s with accs := mapIf s.accs (fun a => a.id = k) fun a => { a with trans := t } }

/-- The place of an access is known; one to another package now arrives at the fabric die (R348). -/
def setPlace (k : Nat) (p : Phys) (s : State) : State :=
  { s.fresh with accs := mapIf s.accs (fun a => a.id = k) fun a => { a with trans := .done p, arrived := s.nextId } }

/-- A translation fault (R204): the record is posted, or waits in the agent for room in the ring (R206). -/
def raiseTransFault (a : Acc) (ws : List W64) (s : State) : State :=
  match postFault a.tid.core ws s with
  | some s => setTrans a.id .faulted s
  | none => setTrans a.id (.ringFull ws) s

/-- FAULT_RING_RETRY (R206): a record that found the ring full is offered again. -/
def execFaultRingRetry (k : Nat) (s : State) : Out :=
  .next (match s.accs.find? (fun a => a.id = k) with
    | some a =>
      (match a.trans with
       | .ringFull ws => raiseTransFault a ws s
       | _ => s)
    | none => s)

/-! ### TLBI (R209) -/

/-- A cached leaf that TLBI selects: KIND 0 the page or sub-page of `a`, 1 the space, 2 all. -/
def CacheEntry.selected (kind : Nat) (space : BitVec 16) (a : W64) (e : CacheEntry) : Bool :=
  match kind with
  | 0 => decide (e.space = space ∧ e.page = pageOf e.sub a)
  | 1 => decide (e.space = space)
  | _ => true

/-- An access of another package that has been performed there: only its acknowledgement is still to come (R350). -/
def Acc.accepted (a : Acc) : Bool :=
  match a.agent with
  | .performed _ _ _ => true
  | _ => false

/-- An access translated with a leaf that TLBI selects. -/
def Acc.selected (kind : Nat) (space : BitVec 16) (a : W64) (x : Acc) : Bool :=
  decide (classify x.tid.core x.ea = .virt) && x.place.isSome &&
  (match kind with
   | 0 =>
     decide (x.space = space ∧ pageOf x.sub x.ea = pageOf x.sub a)
   | 1 => decide (x.space = space)
   | _ => true)

/-- The cores of a die. -/
def coresOfDie (h : DieId) : List CoreId :=
  (List.range Config.clusters).flatMap fun k => (List.range Config.cores).map fun c => ⟨h.node, h.die, k, c⟩

/-- The agents within a reach (R209): the issuing core, its die, its package, every package reached over a live path. -/
def tlbiReach (s : State) (tid : Tid) (reach : Nat) : List CoreId :=
  let n := tid.core.node
  match reach with
  | 0 => [tid.core]
  | 1 => coresOfDie (dieOf tid.core)
  | 2 => (List.range 4).flatMap fun d => coresOfDie ⟨n, d⟩
  | _ =>
    (s.group.filter fun m => decide (m = n) || pathLive s n (s.th tid).ctxh m).flatMap fun m =>
      (List.range 4).flatMap fun d => coresOfDie ⟨m, d⟩

/-- A cache of a core lies within a reach. -/
def reachesCore (l : List CoreId) (k : Nat) : Bool := l.contains (coreOfKey k)
/-- A cluster's cache lies within a reach: the whole die does. -/
def reachesCluster (reach : Nat) (l : List CoreId) (k : Nat) : Bool :=
  decide (reach ≠ 0) && l.contains (coreIn (clusterOfKey k) 0)

/-- Selected leaves stay in a cluster's cache, but not for the cores given: each of them translates from the tables (R209). -/
def Cluster.bar (cores : List Nat) (kind : Nat) (space : BitVec 16) (va : W64) (k : Cluster) : Cluster :=
  { k with cache := mapIf k.cache (·.selected kind space va) fun y => { y with barred := cores.foldl insertNat y.barred } }

/-- The caches of leaves after a removal (R209): every selected leaf is gone from each core's and each cluster's cache within
reach. REACH 0 is the issuing core's cache alone: the cluster's keeps the leaf, for its other cores (log 125). -/
def State.purge (s : State) (l : List CoreId) (reach kind : Nat) (space : BitVec 16) (va : W64) : State := { s with
  cores := s.cores.map fun e =>
    if reachesCore l e.1 then (e.1, { e.2 with cache := e.2.cache.filter fun y => !y.selected kind space va }) else e
  clusters := s.clusters.map fun e =>
    if reachesCluster reach l e.1 then
      (e.1, { e.2 with cache := e.2.cache.filter fun y => !y.selected kind space va })
    else (e.1, e.2.bar ((l.filter fun c => decide (clusterKey (clusterOf c) = e.1)).map (·.core)) kind space va) }

/-- Units of engines that are not on their way yet are translated again (R209, R258). -/
def retranslate (l : List CoreId) (kind : Nat) (space : BitVec 16) (va : W64) (s : State) : State := { s with
  accs := mapIf s.accs (fun y => y.selected kind space va && l.contains y.tid.core && !y.ofThread && !y.sent)
    fun y => { y with trans := .need } }

/-- An access on its way that a TLBI selects, translated with a leaf that is no longer what the tables hold (R209). -/
def TlbiReq.stale (r : TlbiReq) (s : State) (x : Acc) : Bool :=
  x.selected r.kind r.space r.va && r.cores.contains x.tid.core && !x.accepted &&
    (match walk s x.tid.core x.space x.sub x.ea with
     | .leaf e _ _ => !permits e x.op || decide (x.place ≠ some (leafPlace x.sub e x.ea))
     | .fault _ _ _ _ _ => true)

/-- TLBI (R209): slot 0 only; the selected leaves are removed from every cache within reach, in-flight engine units are
translated again, and the thread is out of the ready set until every agent has acknowledged. -/
def execTlbi (a b : GSrc) (g : Guard) (s : State) : Out :=
  .next (gatedTrap 1 g true [srcG a, srcG b] []
    (fun s =>
      let va := s.me.src a
      let x := s.me.src b
      let kind := bits x 16 2
      let space := BitVec.ofNat 16 (bits x 0 16)
      let reach := bits x 18 2
      if kind = 3 then trap (causeOf .illegal x) s
      else
        let s := s.begin
        let l := tlbiReach s s.cur reach
        let hit := fun (y : Acc) => y.selected kind space va && l.contains y.tid.core
        let ids := (s.accs.filter fun y => hit y && (y.ofThread || y.sent)).map (·.id)
        let id := s.nextId
        let s := retranslate l kind space va (s.fresh.purge l reach kind space va)
        let s := { s with tlbis := s.tlbis ++ [⟨id, s.cur, l, ids, l, kind, space, va, reach⟩] }
        (retire 1 false s).modMe fun t => { t with hold := .tlbi id }) s)

/-- TLBI_ACK (R209): an agent's accesses translated with a removed leaf are all settled, and it acknowledges. With the last
acknowledgement the leaves that walks have put into the caches since the issue are removed too, so that what is issued from then on
is translated from the tables as they then are; the thread is ready again once no access still on its way was translated with such
a leaf (log 125). -/
def execTlbiAck (k : Nat) (c : CoreId) (s : State) : Out :=
  .next (match s.tlbis.find? (fun r => r.id = k) with
    | none => s
    | some r =>
      if ¬ r.waiting.contains c ∨
          s.accs.any (fun a => decide (a.tid.core = c) && r.accs.contains a.id && !a.accepted) then s
      else
        let left := r.waiting.filter (· ≠ c)
        if left = [] then
          let s := retranslate r.cores r.kind r.space r.va (s.purge r.cores r.reach r.kind r.space r.va)
          if s.accs.any (r.stale s) then s else
          let s := { s with tlbis := s.tlbis.filter fun x => x.id ≠ k }
          if (s.th r.tid).hold = .tlbi k then s.modTh r.tid fun t => { t with hold := .none } else s
        else { s with tlbis := mapIf s.tlbis (fun x => x.id = k) fun x => { x with waiting := left } })

end Sys2Proof.Machine
end

