-- ==== Sys2Proof/Machine/Leases.lean ====
section
/-!
DEFINITION. Lease requests (R122 to R124), lease instructions (R125 to R129) and REL (R236), with the steps in which a
service core or a home answers them.
-/

namespace Sys2Proof.Machine

/-! ### Issue -/

/-- The service core's read of an LCTX descriptor, as a load of the issuing context, is on its way (R122, R123, log 47). -/
def readDescriptor (r : LeaseReq) (s : State) : State :=
  match r.ins with
  | .lctx _ _ _ _ _ =>
    if aligned r.a 64 then postMine (.descriptor r.id) (.load false) r.a 64 s else s
  | _ => s

/-- A lease request issues (R123): Gd and Qn go empty, the request is on its way; it closes its region. DESIGN CHOICE: of two
destinations that are still empty Gd comes before Qn (log 149). -/
def leaseRequest (i : Instr) (d : BitVec 4) (a b : GSrc) (q : BitVec 4) (g : Guard) (s : State) : Out :=
  .next (gated 1 g false [srcG a, srcG b] [.g d, .q q]
    (fun s =>
      let r : LeaseReq := ⟨s.nextId, s.cur, s.me.ctxh, i, s.me.src a, s.me.src b, s.me.pc.toNat, none⟩
      let s := issuePending true (longG d) (some (.q q)) 1 (.gq 0 false) false false s
      retire 1 true (readDescriptor r { s with leaseReqs := s.leaseReqs ++ [r] })) s)

/-- LRANGE (R122). -/
def execLrange (d : BitVec 4) (a b : GSrc) (q : BitVec 4) (g : Guard) (s : State) : Out :=
  leaseRequest (.lrange d a b q g) d a b q g s
/-- LGROUP (R122). -/
def execLgroup (d : BitVec 4) (a b : GSrc) (q : BitVec 4) (g : Guard) (s : State) : Out :=
  leaseRequest (.lgroup d a b q g) d a b q g s
/-- LPATH (R122). -/
def execLpath (d : BitVec 4) (a b : GSrc) (q : BitVec 4) (g : Guard) (s : State) : Out :=
  leaseRequest (.lpath d a b q g) d a b q g s
/-- LCTX (R122). -/
def execLctx (d : BitVec 4) (a b : GSrc) (q : BitVec 4) (g : Guard) (s : State) : Out :=
  leaseRequest (.lctx d a b q g) d a b q g s

/-- A lease instruction issues (R125 to R129): Gd goes empty, the handle is on its way to its home. -/
def leaseInstr (i : Instr) (close : Bool) (d : BitVec 4) (srcs : List GSrc) (a b : Thread → W64) (g : Guard) (s : State) :
    Out :=
  .next (gated 1 g false (srcs.map srcG) (destG d)
    (fun s =>
      let r : LeaseReq := ⟨s.nextId, s.cur, s.me.ctxh, i, a s.me, b s.me, s.me.pc.toNat, none⟩
      let s := issuePending true (longG d) none 1 (.g 0) false false s
      retire 1 close { s with leaseReqs := s.leaseReqs ++ [r] }) s)

/-- RNW (R125). -/
def execRnw (d : BitVec 4) (a b : GSrc) (g : Guard) (s : State) : Out :=
  leaseInstr (.rnw d a b g) true d [a, b] (·.src a) (·.src b) g s
/-- LIFE (R126). -/
def execLife (d : BitVec 4) (a : GSrc) (g : Guard) (s : State) : Out :=
  leaseInstr (.life d a g) false d [a] (·.src a) (fun _ => 0) g s
/-- LINFO (R127). -/
def execLinfo (d : BitVec 4) (a b : GSrc) (g : Guard) (s : State) : Out :=
  leaseInstr (.linfo d a b g) false d [a, b] (·.src a) (·.src b) g s
/-- BIND (R129). -/
def execBind (d : BitVec 4) (a b : GSrc) (g : Guard) (s : State) : Out :=
  leaseInstr (.bind d a b g) false d [a, b] (·.src a) (·.src b) g s

/-- A lease instruction that holds the thread for its answer (R128, R236). -/
def leaseHold (i : Instr) (a : GSrc) (g : Guard) (h : Nat → State → Hold) (s : State) : Out :=
  .next (gated 1 g false [srcG a] []
    (fun s =>
      let id := s.nextId
      let r : LeaseReq := ⟨id, s.cur, s.me.ctxh, i, s.me.src a, 0, s.me.pc.toNat, none⟩
      let hold := h id s
      (retire 1 false { s.fresh with leaseReqs := s.leaseReqs ++ [r] }).modMe fun t => { t with hold := hold }) s)

/-- GJOIN (R128): bounded by ETO from its issue. -/
def execGjoin (j : BitVec 2) (a : GSrc) (g : Guard) (s : State) : Out :=
  leaseHold (.gjoin j a g) a g (fun id s => .gjoin (s.taper s.cur.core.node) id) s
/-- REL (R236). -/
def execRel (a : GSrc) (sc : Scope) (g : Guard) (s : State) : Out :=
  leaseHold (.rel a sc g) a g (fun _ s => .rel (s.me.src a) sc false) s

/-! ### Lease requests at the service core (R122 to R124) -/

/-- A request is settled: it is no longer on its way. -/
def dropReq (k : Nat) (s : State) : State := { s with leaseReqs := s.leaseReqs.filter fun r => r.id ≠ k }

/-- Zero memory and set it full (R115, R194): whole units, so poison is cleared (R196). -/
def clearRange (key n : Nat) (s : State) : State :=
  let inside := fun (k : Nat) => decide (key ≤ k) && decide (k < key + n)
  { s with
    mem := s.mem.filter fun c => !inside c.1
    empties := s.empties.filter fun k => !inside k
    poisoned := s.poisoned.filter fun k => !inside k || s.rowsLost (physOfKey k) }

/-- Round up to a whole number of granules of `g` bytes (R124). -/
def roundUp (x g : Nat) : Nat := (x + g - 1) / g * g

/-- Every granule of a range is FREE and none is SYSTEM (R114, R124). -/
def rangeFree (s : State) (p : Phys) (n : Nat) : Bool :=
  decide (p.off + n ≤ p.region.size) && !systemOverlaps s p n &&
  !((s.die p.home).leases.any fun e =>
    match e.2.body with
    | .range _ size phys zeroed =>
      decide (e.2.kind = .range) && (decide (e.2.state ≠ .free) || !zeroed) && overlaps phys size p.key n
    | _ => false)

/-- A virtual range that is mapped for a context, readable and writable, onto one run of HBM of a die (R124). -/
def mappedRun (s : State) (tid : Tid) (va n die : Nat) : Option Phys :=
  let at_ : Nat → Option Phys := fun (i : Nat) =>
    let a := BitVec.ofNat 64 (va + i)
    let sub := inWindow (s.core tid.core) a
    match walk s tid.core (s.th tid).space sub a with
    | .leaf e _ _ => if bits e 2 2 = 3 then some (leafPlace sub e a) else none
    | .fault _ _ _ _ _ => none
  let step := if (s.core tid.core).spw.toList.any (fun w => w.getLsbD 0) then 1024 else 2 ^ 21
  match at_ 0 with
  | none => none
  | some p =>
    if p.node = tid.core.node ∧ p.die = die ∧ at_ (n - 1024) = some (p.plus (n - 1024)) ∧
        (List.range ((n + step - 1) / step)).all (fun i => decide (at_ (step * i) = some (p.plus (step * i)))) then some p
    else none

/-- HBM offsets at which a run of free granules may begin: behind the space table, or behind memory in use. Every longest run
begins at one of them. -/
def runStarts (s : State) (h : DieId) : List Nat :=
  let base := (⟨h.node, h.die, .hbm, 0⟩ : Phys).key
  let used := (s.sysMem.map fun r => r.start + r.len) ++
    ((s.die h).leases.map fun e => match e.2.body with | .range _ n k _ => k + n | _ => 0)
  0x80000 :: (used.filter fun k => decide (base ≤ k)).map fun k => roundUp (k - base) 4096

/-- A 4 KiB page of a die's HBM for a table: the first free one (log 21). -/
def freeTablePage (s : State) (h : DieId) : Option Nat :=
  (runStarts s h).find? fun o => rangeFree s ⟨h.node, h.die, .hbm, o⟩ 4096

/-- Why the service core cannot map a page where it chose to: the tables there do not allow it, or no page is left for one. -/
inductive NoMap where
  | taken
  | full
  deriving DecidableEq, Repr

/-- The table that the entry at an HBM offset of a die points to, made first where the entry is invalid: its die and offset
(R199, log 21). -/
def tableOf (h : DieId) (die off : Nat) (s : State) : Except NoMap (State × Nat × Nat) :=
  let p : Phys := ⟨h.node, die, .hbm, off⟩
  let e := BitVec.ofNat 64 (s.peek p 8)
  if bits e 0 1 = 1 then
    (if badPointer false e ∨ s.isPoisoned p then .error .taken else .ok (s, bits e 16 2, bits e 18 25 * 4096))
  else
    match freeTablePage s h with
    | none => .error .full
    | some o =>
      let q : Phys := ⟨h.node, h.die, .hbm, o⟩
      let s := clearRange q.key 4096 s
      let s := { s with sysMem := s.sysMem ++ [⟨q.key, 4096⟩] }
      .ok (storeAt p (leBytes (3 + h.die * 2 ^ 16 + o / 4096 * 2 ^ 18) 8) s, h.die, o)

/-- Map a 2 MiB page in a die's tables (R199); one that is mapped onto the same frame, to be read and written, stays so. -/
def mapPage (h : DieId) (space : BitVec 16) (va : Nat) (leaf : W64) (s : State) : Except NoMap State :=
  let a := BitVec.ofNat 64 va
  let next := fun (level : Nat) (x : Except NoMap (State × Nat × Nat)) =>
    x.bind fun x => (tableOf h x.2.1 x.2.2 x.1).map fun y => (y.1, y.2.1, y.2.2 + vaIndex a level * 8)
  match next 4 (next 3 (next 2 (next 1 (.ok (s, h.die, space.toNat * 8))))) with
  | .error e => .error e
  | .ok (s, die, off) =>
    let p : Phys := ⟨h.node, die, .hbm, off⟩
    let old := s.peek p 8
    if old % 2 = 0 then .ok (storeAt p (leBytes leaf.toNat 8) s)
    else if old = leaf.toNat then .ok s
    else .error .taken

/-- A leaf that lets a page be read and written (Table 7-6). -/
def rwLeaf (node die off : Nat) : W64 := BitVec.ofNat 64 (13 + die * 2 ^ 16 + off / 1024 * 2 ^ 18 + node % 65536 * 2 ^ 48)

/-- Map `n` pages of a space onto a run of HBM, in the tables of every die of the package (R124, R199). -/
def mapPages (tid : Tid) (die va off : Nat) : Nat → State → Except NoMap State
  | 0, s => .ok s
  | n + 1, s =>
    ((List.range Config.dies).foldl
      (fun (x : Except NoMap State) d => x.bind (mapPage ⟨tid.core.node, d⟩ (s.th tid).space va (rwLeaf tid.core.node die off)))
      (.ok s)).bind (mapPages tid die (va + 2 ^ 21) (off + 2 ^ 21) n)

/-- The 2 MiB pages that a virtual range of `size` bytes lies in. -/
def rangePages (va size : Nat) : Nat := (va % 2 ^ 21 + size + 2 ^ 21 - 1) / 2 ^ 21

/-- A virtual range lies in no sub-page window of its package (R201). -/
def outsideWindows (s : State) (node va pages : Nat) : Bool :=
  (List.range pages).all fun i => s.cores.all fun e =>
    decide ((coreOfKey e.1).node ≠ node) || !inWindow e.2 (BitVec.ofNat 64 (va + 2 ^ 21 * i))

/-- What the service core's number for an HBM range names: the virtual address, and the run of granules to map there. -/
def hbmVa (b : Nat) : Nat := b % 2 ^ 57
/-- HBM offset of the run. -/
def hbmOff (b : Nat) : Nat := b / 2 ^ 57 * 4096

/-- Where the service core puts an HBM range (R124, log 21): at a virtual range that is mapped onto one run, whose place is
aligned to its granule too, or at one that it maps, frame by frame, onto a run with the same offsets in its pages. -/
def hbmChoice (s : State) (tid : Tid) (die size b : Nat) : Option Phys :=
  let va := hbmVa b
  if va % 4096 ≠ 0 ∨ 2 ^ 57 < va + size then none
  else
    match mappedRun s tid va size die with
    | some p => if p.off % 4096 = 0 then some p else none
    | none =>
      if va % 2 ^ 21 = hbmOff b % 2 ^ 21 ∧ hbmOff b + size ≤ Config.hbmBytes ∧
          outsideWindows s tid.core.node (va / 2 ^ 21 * 2 ^ 21) (rangePages va size) then
        some ⟨tid.core.node, die, .hbm, hbmOff b⟩
      else none

/-- An LRANGE request word is malformed (Table 4-8): refusal 3. -/
def badRange (a : W64) : Bool :=
  decide (bits a 0 37 = 0 ∨ bits a 37 3 ≠ 0 ∨ bits a 40 2 = 3 ∨ 43 < bits a 44 6 ∨ bits a 53 11 ≠ 0 ∨
    (bits a 40 2 = 0 ∧ bits a 44 6 ≠ 0) ∨ (bits a 40 2 ≠ 1 ∧ bits a 50 3 ≠ 0))

/-- The memory of an LRANGE's class is available: before phase 3 of bring-up the scratchpads alone are (R385, log 28). -/
def classServed (s : State) (r : LeaseReq) : Bool := decide (bits r.a 40 2 = 1 ∨ 3 ≤ (s.pkg r.tid.core.node).phase)

/-- Where an LRANGE may be granted when the service core chooses `b`: the place, the base that LINFO reads, the size (R124). -/
def rangeChoice (s : State) (r : LeaseReq) (b : Nat) : Option (Phys × W64 × Nat) :=
  let a := r.a
  let n := r.tid.core.node
  let die := bits a 42 2
  if ¬ classServed s r then none
  else match bits a 40 2 with
  | 0 =>
    let size := roundUp (bits a 0 37) 4096
    (hbmChoice s r.tid die size b).bind fun p =>
      if rangeFree s p size then some (p, BitVec.ofNat 64 (hbmVa b), size) else none
  | 1 =>
    let size := roundUp (bits a 0 37) 64
    let p : Phys := ⟨n, die, .scratch (bits a 44 6) (bits a 50 3), b⟩
    if b % 64 = 0 ∧ (s.core ⟨n, die, bits a 44 6, bits a 50 3⟩).xb.toNat ≤ b ∧ rangeFree s p size then
      some (p, windowAddr p, size) else none
  | _ =>
    let size := roundUp (bits a 0 37) 64
    let p : Phys := ⟨n, die, .bstack (bits a 44 6), b⟩
    if b % 64 = 0 ∧ rangeFree s p size then some (p, windowAddr p, size) else none

/-- Not enough memory of the class of an LRANGE (refusal 2): none is available yet, or no run of FREE granules of the scratchpad, the
B-stack or the HBM is long enough (log 21). -/
def noRoom (s : State) (r : LeaseReq) : Bool :=
  !classServed s r ||
  match bits r.a 40 2 with
  | 0 =>
    let h : DieId := ⟨r.tid.core.node, bits r.a 42 2⟩
    let size := roundUp (bits r.a 0 37) 4096
    (runStarts s h).all fun o => !rangeFree s ⟨h.node, h.die, .hbm, o⟩ size
  | 1 => (List.range (Config.scratchBytes / 64)).all fun k => (rangeChoice s r (64 * k)).isNone
  | _ => (List.range (Config.bstackBytes / 64)).all fun k => (rangeChoice s r (64 * k)).isNone

/-- The die whose service core answers a request (Table 4-6). -/
def requestHome (r : LeaseReq) : DieId :=
  match r.ins with
  | .lrange _ _ _ _ _ => ⟨r.tid.core.node, bits r.a 42 2⟩
  | _ => dieOf r.tid.core

/-- Entries of a die's group table in use (R122, R137). -/
def groupsUsed (s : State) (h : DieId) : Nat :=
  ((s.die h).leases.filter fun e =>
    decide (e.2.state ≠ .free) && (match e.2.body with | .group _ _ team => !team | _ => false)).length

/-- Answer a request: the handle or the refusal code with Qn (R123). -/
def answerRequest (r : LeaseReq) (x : W64) (ok : Bool) (s : State) : State :=
  answer r.tid r.id (fun p => { p with val := .gq x ok }) (dropReq r.id s)

/-- Grant a request in entry `i` (R123). -/
def grantRequest (r : LeaseReq) (h : DieId) (i : Nat) (k : LKind) (holder2 : W64) (body : LBody) (s : State) : State :=
  let x := handleOf h k i (s.lease h i).gen
  let holder := if k = .ctx then x else r.ctx
  answerRequest r x true (createLease h i k (bits r.b 0 32) holder holder2 body s)

/-- A context descriptor is out of range (Table 4-5). -/
def badDescriptor (ws : List W64) : Bool :=
  decide (bits (wordAt ws 0) 16 48 ≠ 0 ∨ bits (wordAt ws 1) 19 45 ≠ 0 ∨ bits (wordAt ws 1) 0 3 ≠ 0) ||
    (ws.drop 2).any fun w => decide (w ≠ 0)

/-- What an answer to a request may be: the lease to create, a refusal code, or, with the service core's choice not possible or
its reading not done, nothing. -/
inductive Decision where
  | grant (k : LKind) (holder2 : W64) (body : LBody) (clear : Nat × Nat)
  | refuse (code : Nat)
  | no
  deriving DecidableEq, Repr

/-- The service core's decision on a request (R122 to R124, Table 4-7). `i = 262,144`: it finds no room for an LRANGE. -/
def decideRequest (s : State) (r : LeaseReq) (i b : Nat) : Decision :=
  match r.ins with
  | .lrange _ _ _ _ _ =>
    if badRange r.a then .refuse 3
    else if i = Config.leaseEntries then (if noRoom s r then .refuse 2 else .no)
    else
      match rangeChoice s r b with
      | some (p, base, size) => .grant .range 0 (.range base size p.key true) (p.key, size)
      | none => .no
  | .lgroup _ _ _ _ _ =>
    if bits r.a 0 24 = 0 ∨ bits r.a 24 40 ≠ 0 then .refuse 3
    else if Config.groupEntries ≤ groupsUsed s (dieOf r.tid.core) then .refuse 2
    else .grant .group 0 (.group (bits r.a 0 24) [] false) (0, 0)
  | .lpath _ _ _ _ _ =>
    if bits r.a 16 48 ≠ 0 ∨ bits r.a 0 16 = r.tid.core.node then .refuse 3
    else if ¬ s.group.contains (bits r.a 0 16) then .refuse 4
    else .grant .path 0 (.path (bits r.a 0 16)) (0, 0)
  | _ =>
    if ¬ aligned r.a 64 then .refuse 3
    else
      match r.desc with
      | none => .no
      | some ws =>
        if badDescriptor ws then .refuse 3
        else .grant .ctx r.ctx (.ctx r.a (BitVec.ofNat 16 (bits (wordAt ws 0) 0 16)) (BitVec.ofNat 19 (bits (wordAt ws 1) 0 19)))
          (0, 0)

/-- The mapping of an HBM range that the service core grants (R124): `s0` is the state that it decided in. -/
def mapGranted (s0 : State) (r : LeaseReq) (b : Nat) (s : State) : Except NoMap State :=
  match r.ins with
  | .lrange _ _ _ _ _ =>
    let size := roundUp (bits r.a 0 37) 4096
    if bits r.a 40 2 ≠ 0 ∨ (mappedRun s0 r.tid (hbmVa b) size (bits r.a 42 2)).isSome then .ok s
    else mapPages r.tid (bits r.a 42 2) (hbmVa b / 2 ^ 21 * 2 ^ 21) (hbmOff b / 2 ^ 21 * 2 ^ 21) (rangePages (hbmVa b) size) s
  | _ => .ok s

/-- The service core of a die runs (R382, log 13). -/
def serviceRuns (s : State) (h : DieId) : Bool := coreRuns s ⟨h.node, h.die, 0, 0⟩

/-- The service core has read an LCTX's descriptor (R122). -/
def descriptorRead (k : Nat) (ws : List W64) (s : State) : State :=
  { s with leaseReqs := mapIf s.leaseReqs (fun r => r.id = k) fun r => { r with desc := some ws } }

/-- The read of the descriptor is refused: the fault is the LCTX's, and no lease is created (R123). -/
def descriptorRefused (k : Nat) (f : FaultInfo) (s : State) : State :=
  match s.leaseReqs.find? (fun r => decide (r.id = k)) with
  | some r => refuse r.tid r.id 0 f (dropReq k s)
  | none => s

/-- LEASE_REQUEST_ANSWER (R123): the service core grants request `k` in entry `i`, an LRANGE at `b`, or refuses it. A new
range begins zero and full (R115); one for whose tables no memory is left is refusal 2 (log 21). A service core that does not run
answers nothing (R382). DESIGN CHOICE: a request that refusal 2, 3 or 4 applies to gets that one also where no entry is ready
(log 97). -/
def execLeaseRequestAnswer (k i b : Nat) (s : State) : Out :=
  .next (match s.leaseReqs.find? (fun r => decide (r.id = k) && isRequest r.ins) with
    | none => s
    | some r =>
      let h := requestHome r
      if ¬ serviceRuns s h then s else
      match decideRequest s r i b with
      | .no => s
      | .refuse c => answerRequest r (BitVec.ofNat 64 c) false s
      | .grant kind h2 body clear =>
        if ¬ someEntry s h then answerRequest r 1 false s
        else if ¬ entryReady s h i then s
        else
          match mapGranted s r b (grantRequest r h i kind h2 body (clearRange clear.1 clear.2 s)) with
          | .ok t => t
          | .error .full => answerRequest r 2 false s
          | .error .taken => s)

/-! ### Lease instructions at the home (R125 to R129, R236) -/

/-- Report a fault of an instruction that holds the thread and has no register to fill (R128, R236). -/
def reportHeld (r : LeaseReq) (f : FaultInfo) (s : State) : State :=
  s.modTh r.tid fun t => { t with answers := t.answers ++ [⟨f, r.word, t.region, r.id, false, false⟩] }

/-- The thread that holds a LOCK lease (R111). -/
def Lease.ownedBy (l : Lease) (tid : Tid) : Bool := match l.body with | .lock _ _ o _ => decide (o = tid) | _ => false
/-- A hold is detached (R118). -/
def Lease.isDetached (l : Lease) : Bool := match l.body with | .lock _ _ _ d => d | _ => false

/-- RNW at the home (R111, R125, R375); an entry struck by an error lapses all the same (R313). -/
def rnwAt (r : LeaseReq) (h : DieId) (i : Nat) (l : Lease) (s : State) : State :=
  if l.kind = .lock ∧ ¬ l.ownedBy r.tid then refuse r.tid r.id 0 (leaseFault .unheld r.a) s
  else if i = 0 ∨ (l.kind ≠ .lock ∧ ¬ l.heldBy r.ctx) then refuse r.tid r.id 0 (leaseFault .access r.a) s
  else
    let life := min r.b.toNat Config.maxLife
    answer r.tid r.id (fun p => { p with val := .g (BitVec.ofNat 64 life) })
      (s.modLease h i fun l => if l.spoiled then l else { l with x := s.taper h.node + life, since := s.taper h.node })

/-- LIFE at the home (R121, R126). -/
def lifeAt (r : LeaseReq) (h : DieId) (l : Lease) (s : State) : State :=
  let v : PVal := if h.node = r.tid.core.node then .lifeNear l.x else .lifeFar (l.x - s.taper h.node)
  answer r.tid r.id (fun p => { p with val := v }) s

/-- The items of LINFO (Table 4-9). -/
def linfoItem (s : State) (h : DieId) (l : Lease) (item : Nat) : W64 :=
  match item with
  | 0 => BitVec.ofNat 64 l.x
  | 1 =>
    (match l.body with
     | .range base _ _ _ => base
     | .lock key _ _ _ => key
     | .group n _ _ => BitVec.ofNat 64 n
     | .path n => BitVec.ofNat 64 n
     | .ctx d _ _ => d
     | _ => 0)
  | 2 =>
    (match l.body with
     | .range _ n _ _ => BitVec.ofNat 64 n
     | .group _ j _ => BitVec.ofNat 64 j.length
     | _ => 0)
  | 3 =>
    (match l.body with
     | .lock _ _ o _ => BitVec.ofNat 64 ((coreId o.core).toNat % 2 ^ 16 + o.slot % 16 * 2 ^ 16)
     | .ctx _ _ _ => l.holder2
     | _ => l.holder)
  | 4 => BitVec.ofNat 64 (s.taper h.node)
  | _ => 0

/-- LIFE and LINFO are accepted from any thread of a holding context (R111). -/
def inspect (r : LeaseReq) (l : Lease) (f : State → State) (s : State) : State :=
  if l.heldBy r.ctx then f s else refuse r.tid r.id 0 (leaseFault .access r.a) s

/-- GJOIN's reply: J[d] takes the handle and the thread is ready again, if it still waits for it (R128). -/
def gjoinReply (r : LeaseReq) (j : BitVec 2) (s : State) : State :=
  match (s.th r.tid).hold with
  | .gjoin _ id => if id = r.id then s.modTh r.tid fun t => { t.wJ j r.a with hold := .none } else s
  | _ => s
/-- GJOIN is refused: a thread that still waits traps (R128). -/
def gjoinRefuse (r : LeaseReq) (f : FaultInfo) (s : State) : State :=
  match (s.th r.tid).hold with
  | .gjoin _ id => if id = r.id then reportHeld r f s else s
  | _ => s

/-- GJOIN at the group's home (R128). -/
def gjoinAt (r : LeaseReq) (j : BitVec 2) (h : DieId) (i : Nat) (l : Lease) (s : State) : State :=
  match l.body with
  | .group n joined team =>
    if l.holder ≠ r.ctx then gjoinRefuse r (leaseFault .access r.a) s
    else if joined.contains r.tid then gjoinReply r j s
    else if joined.length = n then gjoinRefuse r ⟨.access, r.a, 0, 0x100⟩ s
    else gjoinReply r j (s.modLease h i fun l => { l with body := .group n (joined ++ [r.tid]) team })
  | _ => gjoinRefuse r (leaseFault .stale r.a) s

/-- BIND, both handles live (R129): 3 for different packages, 0 recorded, 1 table full, 2 bound to another lock. -/
def bindResult (s : State) (ha : DieId) (ia : Nat) (hb : DieId) (key : Nat) : Nat × State :=
  if ha.node ≠ hb.node then (3, s)
  else
    match (s.die ha).binds.find? fun b => decide (b.range = ia) with
    | some b => (if b.die = hb ∧ b.key = key then 0 else 2, s)
    | none =>
      if Config.bindEntries ≤ (s.die ha).binds.length then (1, s)
      else (0, s.modDie ha fun d => { d with binds := d.binds ++ [⟨ia, hb, key⟩] })

/-- BIND at the homes (R129). -/
def bindAt (r : LeaseReq) (ha : DieId) (ia : Nat) (la : Lease) (s : State) : State :=
  let no := fun (f : FaultInfo) => refuse r.tid r.id 0 f s
  match present s r.b with
  | .stale => no (leaseFault .stale r.b)
  | .lapsed => no (leaseFault .lapsed r.b)
  | .live hb _ lb =>
    if la.kind ≠ .range then no (leaseFault .stale r.a)
    else
      match lb.body with
      | .lock _ key o det =>
        if la.holder ≠ r.ctx then no (leaseFault .access r.a)
        else if o ≠ r.tid then no (leaseFault .unheld r.b)
        else if det then no (leaseFault .lapsed r.b)
        else
          let x := bindResult s ha ia hb key
          answer r.tid r.id (fun p => { p with val := .g (BitVec.ofNat 64 x.1) }) x.2
      | _ => no (leaseFault .stale r.b)

/-- The order of scopes. -/
def scopeRank : Scope → Nat
  | .thread => 0 | .core => 1 | .cluster => 2 | .die => 3 | .package => 4 | .group => 5
/-- The wider of two scopes. -/
def widest (a b : Scope) : Scope := if scopeRank a < scopeRank b then b else a

/-- The scope a waiter adds to a REL (R236). -/
def waiterScope (tid : Tid) (w : QWait) : Scope :=
  if dieOf w.tid.core = dieOf tid.core then .die
  else if w.tid.core.node = tid.core.node then .package
  else .group

/-- REL's first check at the key's home (R236): a detached hold is LAPSED whoever presents it (R118), one of another thread
UNHELD; then it drains at the widest scope. -/
def relAt (r : LeaseReq) (sc : Scope) (h : DieId) (l : Lease) (s : State) : State :=
  match l.body with
  | .lock _ key o det =>
    if det then reportHeld r (leaseFault .lapsed r.a) s
    else if o ≠ r.tid then reportHeld r (leaseFault .unheld r.a) s
    else
      let wide := (lockQueue s h key).foldl (fun a w => widest a (waiterScope r.tid w)) sc
      s.modTh r.tid fun t => { t with hold := .rel r.a wide true }
  | _ => reportHeld r (leaseFault .stale r.a) s

/-- A REL that its thread has left has no effect (R308); every other instruction goes on. -/
def stillHeld (s : State) (r : LeaseReq) : Bool :=
  match r.ins, (s.th r.tid).hold with
  | .rel _ _ _, .rel x _ false => decide (x = r.a)
  | .rel _ _ _, _ => false
  | _, _ => true

/-- Refuse a lease instruction: as the fault of a producer, or at the word that holds the thread. -/
def refuseLease (r : LeaseReq) (f : FaultInfo) (s : State) : State :=
  match r.ins with
  | .gjoin _ _ _ => gjoinRefuse r f s
  | .rel _ _ _ => reportHeld r f s
  | _ => refuse r.tid r.id 0 f s

/-- What becomes of the handles that an instruction presents, on their way to their homes. -/
inductive Arrival where
  | home
  | waits
  | refused (f : FaultInfo)
  deriving DecidableEq, Repr

/-- The handles of an instruction in turn (R119, R346): one in another package needs a live path, and waits while its route is
being changed. -/
def arrival (s : State) (r : LeaseReq) : List W64 → Arrival
  | [] => .home
  | x :: xs =>
    match pathRefusal s r.tid r.ctx x with
    | some f => .refused f
    | none => if handleHeld s r.tid.core.node x then .waits else arrival s r xs

/-- RNW. -/
def isRenewal : Instr → Bool
  | .rnw _ _ _ _ => true
  | _ => false

/-- LEASE_OP_AT_HOME (R125): the home checks a presented handle and performs RNW, LIFE, LINFO, GJOIN or BIND, or REL's first
check. RNWs of one thread to one lease keep their order; nothing else is ordered. -/
def execLeaseOpAtHome (k : Nat) (s : State) : Out :=
  .next (match s.leaseReqs.find? (fun r => decide (r.id = k) && !isRequest r.ins) with
    | none => s
    | some r =>
      if s.leaseReqs.any (fun x => decide (x.id < k ∧ x.tid = r.tid ∧ x.a = r.a) && isRenewal x.ins && isRenewal r.ins) then s
      else if ¬ stillHeld s r then dropReq k s
      else
        match arrival s r r.handles with
        | .waits => s
        | .refused f => refuseLease r f (dropReq k s)
        | .home =>
          let s := dropReq k s
          match present s r.a with
          | .stale => refuseLease r (leaseFault .stale r.a) s
          | .lapsed => refuseLease r (leaseFault .lapsed r.a) s
          | .live h i l =>
            match r.ins with
            | .rnw _ _ _ _ => rnwAt r h i l s
            | .life _ _ _ => inspect r l (lifeAt r h l) s
            | .linfo _ _ _ _ =>
              inspect r l (answer r.tid r.id fun p => { p with val := .g (linfoItem s h l (bits r.b 0 4)) }) s
            | .gjoin j _ _ => gjoinAt r j h i l s
            | .bind _ _ _ _ => bindAt r h i l s
            | .rel _ sc _ => relAt r sc h l s
            | _ => s)

/-- REL_DRAIN_END (R236): the drain has ended; the key's home, once the route to it is not being changed (R346), rechecks the hold,
and the thread is ready again. -/
def execRelDrainEnd (tid : Tid) (s : State) : Out :=
  .next (match (s.th tid).hold with
    | .rel x sc true =>
      if drained s tid s.nextId sc && answered s tid && !handleWaits s tid (s.th tid).ctxh x then
        match present s x with
        | .live _ _ _ => s.modTh tid fun t => { t with hold := .none }
        | _ =>
          s.fresh.modTh tid fun t => { t with
            answers := t.answers ++ [⟨leaseFault .lapsed x, t.pc.toNat - 4, t.region, s.nextId, false, false⟩]
            hold := .rel x .thread false }
      else s
    | _ => s)

/-! ### Smoke and zeroing (R110, R112, R115, R313) -/

/-- SMOKE_END (R110): at the 64th boundary after its lapse an entry is FREE with the next generation. -/
def execSmokeEnd (h : DieId) (i : Nat) (s : State) : Out :=
  .next
    (let l := s.lease h i
     if l.state = .smoke ∧ l.since + Config.smokeTicks ≤ s.taper h.node then
       s.modLease h i fun l => { l with state := .free, gen := nextGen l.gen }
     else s)

/-- RANGE_ZEROING (R115): the scrubber has written zero to every byte of a lapsed range and set its words full. -/
def execRangeZeroing (h : DieId) (i : Nat) (s : State) : Out :=
  .next
    (let l := s.lease h i
     match l.body with
     | .range base size phys false =>
       if l.state = .live then s
       else (clearRange phys size s).modLease h i fun l => { l with body := .range base size phys true }
     | _ => s)

/-- LEASE_ENTRY_ERROR (R313): an uncorrectable error makes a lease lapse at the next tick boundary; the supervisor
context never lapses (R375). -/
def execLeaseEntryError (h : DieId) (i : Nat) (s : State) : Out :=
  .next
    (if (s.lease h i).state = .live ∧ i ≠ 0 then
       s.modLease h i fun l => { l with x := min l.x (s.taper h.node + 1), spoiled := true }
     else s)

end Sys2Proof.Machine
end

