-- ==== Sys2Proof/Machine/Teams.lean ====
section
/-!
DEFINITION. Fork and join (R148 to R154) and teams: placement from the inbox (R133 to R137), the start of fork records
(R152), the end of a team (R138), abandonment (R328).
-/

namespace Sys2Proof.Machine

/-! ### JINIT, FORK, JOIN -/

/-- The registers a LIVE field names, in ascending order. -/
def liveRegs (live : BitVec 16) : List (BitVec 4) :=
  ((List.range 16).filter fun r => live.getLsbD r).map (BitVec.ofNat 4)

/-- The header a JINIT or FORK names, or the trap it takes (R149, R150): beyond XB, or malformed for a transfer. DESIGN CHOICE:
TINFO1 and TINFO2 of that HEADER are 0 (log 114). -/
def namedHeader (s : State) (h : W64) : Except FaultInfo W64 :=
  if (s.core s.cur.core).xb.toNat < h.toNat + 8 then .error (accessFault h 0)
  else
    let x := BitVec.ofNat 64 (s.peek (scratchAt s.cur.core h.toNat) 8)
    if headerBad (.transfer 0) x ∨ 6 < (liveRegs (hdrLive x)).length then .error ⟨.header, x, 0, 0⟩ else .ok x

/-- The check of a join-record address (R148): ALIGN, and ACCESS outside the scratchpads of the issuing cluster (log 22). -/
def joinPlace (c : CoreId) (a : W64) : Except FaultInfo Phys :=
  if ¬ aligned a 64 then .error (causeOf .align a)
  else
    match classify c a with
    | .place p => if p.isScratch ∧ homedIn c p .cluster then .ok p else .error (accessFault a 2)
    | _ => .error (accessFault a 2)

/-- RECONV of the current block's header (R149). -/
def Thread.reconv (t : Thread) : Nat := (t.block.map (fun b => hdrReconv b.hdr)).getD 0

/-- What JINIT has checked before it reads the values (R149). -/
def jinitChecks (a : GSrc) (s : State) : Except FaultInfo (W64 × W64) :=
  let t := s.me
  if t.reconv = 0 then .error (causeOf .illegal t.word64)
  else
    let cont := BitVec.ofNat 64 (t.bh.toNat + 8 * t.reconv)
    match namedHeader s cont with
    | .error f => .error f
    | .ok h =>
      match joinPlace s.cur.core (t.src a) with
      | .error f => .error f
      | .ok _ => .ok (cont, h)

/-- The registers that JINIT and FORK wait for, once their checks have passed. DESIGN CHOICE: in the order of the sources they stand
after Ga, in ascending order (log 150). -/
def liveSrcs {α : Type} (checked : Except FaultInfo (α × W64)) : List Src :=
  match checked with
  | .ok (_, h) => (liveRegs (hdrLive h)).map fun r => ⟨.g r, r.toNat, false, false⟩
  | .error _ => []

/-- The values of the registers named in LIVE, padded with zeros to six (Tables 5-6, 5-7). -/
def liveVals (t : Thread) (live : BitVec 16) : List W64 :=
  let v := (liveRegs live).map t.rG
  v ++ List.replicate (6 - v.length) 0

/-- JINIT (R149): the join record is written as one store of 64 bytes. -/
def execJinit (a : GSrc) (g : Guard) (s : State) : Out :=
  .next (gatedTrap 1 g false (srcG a :: (if s.me.full (.g a.r) then liveSrcs (jinitChecks a s) else [])) []
    (fun s =>
      match jinitChecks a s with
      | .error f => trap f s
      | .ok (cont, h) =>
        let ws := [BitVec.ofNat 64 (1 + cont.toNat % 2 ^ 19 * 2 ^ 32), (hdrLive h).setWidth 64] ++ liveVals s.me (hdrLive h)
        postStore 64 false (.store (ws.flatMap fun w => leBytes w.toNat 8)) (.g 0) 1 (s.me.src a) s) s)

/-- What FORK has checked at issue (R150), its own XB for the write of COUNT among them (R63). -/
def forkChecks (a : GSrc) (o : BitVec 16) (s : State) : Except FaultInfo ((W64 × Phys) × W64) :=
  let t := s.me
  let tg := dispTarget t.bh o
  match namedHeader s tg with
  | .error f => .error f
  | .ok h =>
    match joinPlace s.cur.core (t.src a) with
    | .error f => .error f
    | .ok p => if ownXB s (t.src a) then .error (accessFault (t.src a) 3) else .ok ((tg, p), h)

/-- Records of a team that stand in its spill area on a core. -/
def spilled (c : Core) (no : Nat) : List ForkRec := c.forks.filter fun r => decide (r.teamNo = no) && r.spot.isSome

/-- A place for one more fork record on a core (R151): with 16 records in the hardware deque the oldest of them moves to its
own team's spill area, which must have room. -/
def forkRoom (c : Core) : Bool :=
  match c.forks[Config.dequeEntries - 1]? with
  | none => true
  | some old => decide ((spilled c old.teamNo).length < Config.spillEntries)

/-- A fork task record's words (Table 5-7). -/
def ForkRec.words (r : ForkRec) : List W64 :=
  [BitVec.ofNat 64 (r.target % 2 ^ 19 + r.live.toNat * 2 ^ 19 + r.teamNo % 2 ^ 7 * 2 ^ 35), r.jrec] ++ r.vals.take 6

/-- Where a record of a team's spill area on a core lies: at SPILL, in that core's scratchpad (R151, R324). -/
def spillPlace (s : State) (c : CoreId) (no spot : Nat) : Option Phys :=
  match (s.cluster (clusterOf c)).teams.look no with
  | none => none
  | some m =>
    match classify c (m.spills.get 0 c.core + BitVec.ofNat 64 (64 * spot)) with
    | .place p => some p
    | _ => none

/-- The seventeenth newest record of a core moves to a place of its team's spill area (R151): the lowest that none of the team's
records has (log 107). -/
def spillOldest (c : CoreId) (s : State) : State :=
  match (s.core c).forks[Config.dequeEntries]? with
  | none => s
  | some old =>
    let used := (spilled (s.core c) old.teamNo).filterMap (·.spot)
    let spot := ((List.range Config.spillEntries).find? fun k => !used.contains k).getD 0
    let s := s.modCore c fun k => { k with
      forks := k.forks.zipIdx.map fun e => if e.2 = Config.dequeEntries then { e.1 with spot := some spot } else e.1 }
    match spillPlace s c old.teamNo spot with
    | some p => storeRecord p old.words s
    | none => s

/-- The newest spilled records move back as records leave the hardware deque (R151). -/
def unspill (l : List ForkRec) : List ForkRec :=
  l.zipIdx.map fun e => if e.2 < Config.dequeEntries then { e.1 with spot := none } else e.1

/-- Push a fork record (R150, R151). -/
def pushFork (c : CoreId) (r : ForkRec) (s : State) : State :=
  spillOldest c (s.modCore c fun k => { k with forks := r :: k.forks })

/-- Take the fork records that satisfy a test off a core (R152, R323, R328). -/
def takeForks (c : CoreId) (out : ForkRec → Bool) (s : State) : State :=
  s.modCore c fun k => { k with forks := unspill (k.forks.filter fun r => !out r) }

/-- A fault that a home answers to a read or update made at issue: the word has issued, and the
fault is a deferred one (R94, R150, R308). -/
def readRefused (n : Nat) (close : Bool) (f : FaultInfo) (s : State) : State :=
  let s := s.begin
  let a : Answer := ⟨f, s.me.pc.toNat, s.me.region, s.nextId, false, s.me.inHandler⟩
  let s := (retire n close s).fresh
  if s.me.inHandler then s.modMe fun t => { t with answers := t.answers ++ [a] } else deliver s.cur a s

/-- FORK (R150): held until its own earlier accesses let the record's home answer; then COUNT rises and the record is
pushed, newest first. -/
def execFork (a : GSrc) (o : BitVec 16) (g : Guard) (s : State) : Out :=
  .next (gatedHold 1 g false (srcG a :: (if s.me.full (.g a.r) then liveSrcs (forkChecks a o s) else [])) []
    (fun s =>
      match forkChecks a o s with
      | .ok ((_, p), _) => if updateFree s s.cur p then none else some (.update (s.me.src a))
      | .error _ => none)
    (fun s =>
      let x := s.me.src a
      match forkChecks a o s with
      | .error f => trap f s
      | .ok ((tg, p), h) =>
        if ¬ forkRoom (s.core s.cur.core) then trap ⟨.deque, x, 0, 1⟩ s
        else
          match homeRefusal s s.cur s.me.ctxh p x 4 .join with
          | some f => readRefused 1 true f s
          | none =>
            let count := s.peek p 4
            if count = 2 ^ 32 - 1 then readRefused 1 true ⟨.deque, x, 0, 2⟩ s
            else
              let r : ForkRec := ⟨tg.toNat, hdrLive h, s.me.teamNo.toNat, x, liveVals s.me (hdrLive h), s.cur, s.nextId, none⟩
              retire 1 true (pushFork s.cur.core r (storeAt p (leBytes (count + 1) 4) s.begin.fresh))) s)

/-- JOIN (R153): the decrement is on its way; a second JOIN while one is pending is ILLEGAL. -/
def execJoin (a : GSrc) (g : Guard) (s : State) : Out :=
  .next (gatedTrap 1 g false [srcG a] []
    (fun s =>
      let x := s.me.src a
      if s.me.pjoin.isSome then trap (causeOf .illegal s.me.word64) s
      else
        match joinPlace s.cur.core x with
        | .error f => trap f s
        | .ok _ =>
          if ownXB s x then trap (accessFault x 3) s
          else
            let s := s.begin
            retire 1 true ((postMine (.thread s.nextId 0) .join x 64
              (issuePending false none none 1 (.g 0) false false s)).modMe fun t => { t with pjoin := some .asked })) s)

/-! ### Starting a thread -/

/-- The state in which a thread starts (R44, Table 5-2, R152), BH and PC at its entry header before the first fetch: registers and
what comes from elsewhere are `f`'s to set. -/
def startThread (tid : Tid) (entry : Nat) (ctx : W64) (f : Thread → Thread) (s : State) : State :=
  let t := f { Thread.reset with life := .running, ctxh := ctx }
  let seed := startSeed (t.rG 1) (t.rG 2)
  let gen := genSeeds seed
  s.setTh tid { t with
    bh := BitVec.ofNat 19 entry
    pc := BitVec.ofNat 19 entry + 8
    seed := seed
    gen := gen
    genCk := gen
    rhdr := BitVec.ofNat 19 entry
    fetch := some ⟨BitVec.ofNat 64 entry, .transfer 7, 0⟩ }

/-- The free user slots of a core in ascending order (R134); one that does not run has none (R310, R382). -/
def freeSlots (s : State) (c : CoreId) : List Nat :=
  if ¬ coreRuns s c then []
  else (List.range 15).map (· + 1) |>.filter fun k => decide ((s.th ⟨c, k⟩).life = .free)

/-- Change a team-table entry. -/
def modTeam (c : ClusterId) (n : Nat) (f : Team → Team) (s : State) : State :=
  match (s.cluster c).teams.look n with
  | some m => s.modCluster c fun k => { k with teams := k.teams.set n (f m) }
  | none => s

/-! ### Placing a team (R133 to R137) -/

/-- A block-range record (Table 5-1). -/
def recEntry (r : List W64) : Nat := bits (wordAt r 0) 0 19
/-- COUNT. -/
def recCount (r : List W64) : Nat := bits (wordAt r 3) 0 32
/-- TEAM. -/
def recTeam (r : List W64) : Nat := bits (wordAt r 3) 32 7
/-- KIND. -/
def recKind (r : List W64) : Nat := bits (wordAt r 3) 60 4
/-- GSIZE. -/
def recGsize (r : List W64) : Nat := bits (wordAt r 5) 0 40
/-- GRIDF of a record (Table 5-2a). -/
def recGridf (r : List W64) : W64 :=
  BitVec.ofNat 64 (bits (wordAt r 6) 0 24 + bits (wordAt r 5) 40 4 * 2 ^ 24 + bits (wordAt r 6) 24 16 * 2 ^ 32)

/-- A record that slot 0 drops (R134). DESIGN CHOICE: one whose ENTRY is no multiple of 8 is dropped with the malformed ones (log 115). -/
def badRecord (r : List W64) : Bool :=
  decide (bits (wordAt r 0) 19 45 ≠ 0 ∨ bits (wordAt r 0) 0 3 ≠ 0 ∨ bits (wordAt r 3) 39 21 ≠ 0 ∨
    bits (wordAt r 5) 44 20 ≠ 0 ∨ bits (wordAt r 6) 40 24 ≠ 0 ∨ wordAt r 7 ≠ 0 ∨ recCount r = 0 ∨ recGsize r = 0 ∨
    recTeam r = 0 ∨ 120 < recTeam r)

/-- The head record leaves the inbox (R134). -/
def popInbox (c : CoreId) (s : State) : State := s.modCore c fun k => { k with inbox := k.inbox.tail, placed := 0 }

/-- Slot 0 drops the head record: its blocks not yet placed are counted in one class (R134, R365). -/
def dropRecord (c : CoreId) (r : List W64) (cls : Nat) (s : State) : State :=
  let done := (s.core c).placed
  popInbox c (report (recGridf r) c.node cls (recCount r - done) [] s)

/-- Where the threads of a team of `n` run (R134): thread t in the lowest free user slot of core (c0 + t) mod 8 not yet
taken; none when a core has too few. -/
def teamSlots (s : State) (c : CoreId) (n : Nat) : Option (List Tid) :=
  let place := fun (t : Nat) =>
    let core : CoreId := { c with core := (c.core + t) % 8 }
    ((freeSlots s core)[t / 8]?).map fun k => (⟨core, k⟩ : Tid)
  let l := (List.range n).filterMap place
  if l.length = n then some l else none

/-- The lowest free entry of a cluster's team table (R137). -/
def freeTeam (s : State) (c : ClusterId) : Option Nat :=
  (List.range Config.teamEntries).find? fun n => ((s.cluster c).teams.look n).isNone

/-- Memory of an address space that stacks lie in, as start and length: the stack sub-pages of threads of the space, saved ones
included (Table 5-2). -/
def stackAreas (s : State) (space : BitVec 16) : List (Nat × Nat) :=
  (s.threads.filterMap fun e =>
    if e.2.life ≠ .free ∧ e.2.space = space ∧ e.2.stack ≠ 0 then some (e.2.stack - 1024, 1024) else none) ++
  (s.clusters.flatMap fun e => e.2.teams.flatMap fun m =>
    if m.2.space = space then
      (match m.2.saved with
       | some x => x.threads.filterMap fun t => if t.2.stack ≠ 0 then some (t.2.stack - 1024, 1024) else none
       | none => [])
    else [])

/-- `n` bytes from `a` on may be given out as fresh stack sub-pages: whole sub-pages of the virtual addresses that no other thread
holds (R135, R152, log 14). -/
def freshArea (s : State) (space : BitVec 16) (a n : Nat) : Bool :=
  decide (a % 1024 = 0 ∧ 0 < a ∧ a + n ≤ 2 ^ 57) &&
    (stackAreas s space).all fun x => decide (a + n ≤ x.1 ∨ x.1 + x.2 ≤ a)

/-- Fresh stack sub-pages from `a` on for some threads in turn, each in a sub-page window of its thread's core (R201). -/
def stacksFit (s : State) (space : BitVec 16) (tids : List Tid) (a : Nat) : Bool :=
  freshArea s space a (1024 * tids.length) &&
    tids.zipIdx.all fun x => inWindow (s.core x.1.core) (BitVec.ofNat 64 (a + 1024 * x.2))

/-- The offset of a team's spill area on core `k` of its cluster (R151). -/
def spillOff (sp : List Nat) (k : Nat) : Nat := sp.getD k Config.scratchBytes

/-- Spill areas may be given out at these offsets of a cluster's eight cores: 4 KiB of each scratchpad, in whole granules that are
free (R114, R151, log 14). -/
def spillsFit (s : State) (c : CoreId) (sp : List Nat) : Bool :=
  (List.range Config.cores).all fun k =>
    decide (spillOff sp k % 64 = 0) && rangeFree s (scratchAt { c with core := k } (spillOff sp k)) 4096

/-- SPILL on each core of a cluster (R151): the address of the area in the cluster window (log 14). -/
def spillAddrs (c : CoreId) (sp : List Nat) : Map W64 :=
  (List.range Config.cores).map fun k => (k, windowAddr (scratchAt { c with core := k } (spillOff sp k)))

/-- Register G of a start. -/
def Thread.startG (t : Thread) (r x : Nat) : Thread := t.wG (BitVec.ofNat 4 r) (BitVec.ofNat 64 x)

/-- Start the threads of a team (Table 5-2), thread `t` first; `stk`: base of its stack sub-pages. DESIGN CHOICE: the sub-pages of a
team are one run, in the order of its threads (log 132). -/
def startTeam (r : List W64) (blk no stk : Nat) (group tvbCtx : W64) (tvb : BitVec 19) (space : BitVec 16)
    (spills : Map W64) : List Tid → Nat → State → State
  | [], _, s => s
  | tid :: tids, t, s =>
    startTeam r blk no stk group tvbCtx tvb space spills tids (t + 1)
      (startThread tid (recEntry r) tvbCtx
        (fun x =>
          let x := ((((x.startG 1 blk).startG 2 t).wG 3 (wordAt r 4)).startG 4 (recTeam r)).startG 5 (recGsize r)
          { x.startG 14 (stk + 1024 * t + 1024) with
            j := #v[group, 0, 0, 0]
            tvb := tvb
            space := space
            teamNo := BitVec.ofNat 7 no
            gridf := recGridf r
            spill := spills.get 0 tid.core.core
            stack := stk + 1024 * t + 1024
            blockIx := blk })
        s)

/-- Place one team of the head record (R134 to R137). `i`: the lease entry of its group; `stk`: the base of the fresh stack
sub-pages that the service core has mapped; `sp`: the offsets of the spill areas (log 14). DESIGN CHOICE: where the lease entry is not FREE,
or the cluster's table has no free entry, the record waits at the head of the inbox (log 152). -/
def placeTeam (c : CoreId) (r : List W64) (tvb : BitVec 19) (space : BitVec 16) (i stk : Nat) (sp : List Nat) (s : State) :
    State :=
  match teamSlots s c (recTeam r), freeTeam s (clusterOf c) with
  | some tids, some no =>
    if ¬ entryReady s (dieOf c) i ∨ ¬ stacksFit s space tids stk ∨ ¬ spillsFit s c sp then s
    else
      let h := dieOf c
      let ctx := wordAt r 1
      let blk := (wordAt r 2).toNat + (s.core c).placed
      let group := handleOf h .group i (s.lease h i).gen
      let s := createLease h i .group Config.maxLife ctx 0 (.group (recTeam r) tids true) s
      let spills := spillAddrs c sp
      let m : Team := {
        state := .running
        ctx := ctx
        block := blk
        size := recTeam r
        gridf := recGridf r
        group := group
        space := space
        tvb := tvb
        gsize := recGsize r
        members := tids
        core := c
        spills := spills
        faulted := false
        saved := none
        complete := false }
      let s := s.modCluster (clusterOf c) fun k => { k with teams := k.teams.set no m }
      let s := startTeam r blk no stk group ctx tvb space spills tids 0 s
      if (s.core c).placed + 1 = recCount r then popInbox c s else s.modCore c fun k => { k with placed := k.placed + 1 }
  | _, _ => s

/-- Slot 0 has served a SYS request and answers with STFD at its ANSWER (R377); what it answers is the firmware's. -/
def answerSys (c : CoreId) (r : List W64) (x : Nat) (s : State) : State :=
  let s := popInbox c s
  match taggedPlace c (wordAt r 7) with
  | .ok _ =>
    if ¬ aligned (wordAt r 7) 8 then s
    else
      let tid : Tid := ⟨c, 0⟩
      postAcc tid (s.th tid).ctxh (s.th tid).space 0 (.thread 0 0) (.stf (leBytes x 8)) (wordAt r 7) 8 s
  | .error _ => s

/-- A service core's fault ring holds a record that slot 0 has not read (R206). -/
def faultRingWaits (s : State) (c : CoreId) : Bool :=
  isServiceCore s c && decide (s.peek (scratchAt c 0x7FFC0) 4 % 63 ≠ s.peek (scratchAt c 0x7FFC4) 4 % 63)

/-- The host service core's ring holds a record that slot 0 has not taken: its HEAD and TAIL words differ (R380). -/
def hostRingWaits (s : State) (c : CoreId) : Bool :=
  decide (c.die = 0 ∧ c.cluster = 0 ∧ c.core = 0) && decide (s.peek (scratchAt c 0x7E800) 4 ≠ s.peek (scratchAt c 0x7E804) 4)

/-- The thread-fault area names records that slot 0 has not taken (R312). -/
def faultAreaWaits (s : State) (c : CoreId) : Bool := decide (s.peek (scratchAt c (s.core c).tfrb.toNat) 4 ≠ 0)

/-- Slot 0's loop comes to its inbox: nothing it serves first is ready (R374). -/
def servesInbox (s : State) (c : CoreId) : Bool :=
  !faultAreaWaits s c && !faultRingWaits s c && !hostRingWaits s c

/-- TEAM_PLACE (R134): slot 0 serves the head of its inbox: a malformed record is dropped as FAULTED, one whose CTX is not
live as CANCELLED, a SYS request is answered (R377), any other kind is dropped and counted (R374), else one team is
placed when slots are free. The records of a halted core are lost (R310, R365). -/
def execTeamPlace (c : CoreId) (i : Nat) (x : TeamChoice) (s : State) : Out :=
  .next (match (s.core c).inbox with
    | [] => s
    | r :: _ =>
      if (s.core c).halted then (if recKind r = 0 then dropRecord c r 2 s else popInbox c s)
      else if ¬ coreRuns s c ∨ ¬ servesInbox s c then s
      else if recKind r = 1 then answerSys c r x.base s
      else if recKind r ≠ 0 then (popInbox c s).modCore c fun k => { k with dropped := k.dropped + 1 }
      else if badRecord r then dropRecord c r 1 s
      else
        match present s (wordAt r 1) with
        | .live _ _ l =>
          (match l.body with
           | .ctx _ space tvb => placeTeam c r tvb space i x.base x.spills s
           | _ => dropRecord c r 3 s)
        | _ => dropRecord c r 3 s)

/-! ### Fork records (R151, R152) -/

/-- A record's team is running: those of a team that is being pre-empted wait (R323). -/
def forkRuns (s : State) (c : ClusterId) (r : ForkRec) : Bool :=
  match (s.cluster c).teams.look r.teamNo with
  | some m => decide (m.state = .running)
  | none => false

/-- The record that another core finds to steal at a core: its oldest, but not the last one, which the core takes itself when it has
a free slot (R152). -/
def stealable (s : State) (o : CoreId) : Option ForkRec :=
  let l := (s.core o).forks.filter (forkRuns s (clusterOf o))
  if l.length = 1 ∧ freeSlots s o ≠ [] then none else l.getLast?

/-- The fork record a free slot of a core would start: its own newest, else the oldest of the first other core that holds
one to steal (R152), with the core that holds it. -/
def nextFork (s : State) (c : CoreId) : Option (CoreId × ForkRec) :=
  match (s.core c).forks.filter (forkRuns s (clusterOf c)) with
  | r :: _ => some (c, r)
  | [] =>
    ((List.range 7).map fun k => ({ c with core := (c.core + k + 1) % 8 } : CoreId)).findSome? fun o =>
      (stealable s o).map fun r => (o, r)

/-- A forked thread's registers (R152). -/
def forkStart (r : ForkRec) (m : Team) (stk : Nat) (core : Nat) (t : Thread) : Thread :=
  let t := t.startG 14 stk
  let t := ((liveRegs r.live).zip r.vals).foldl (fun t e => t.wG e.1 e.2) t
  { t with
    tvb := m.tvb
    space := m.space
    teamNo := BitVec.ofNat 7 r.teamNo
    gridf := m.gridf
    spill := m.spills.get 0 core
    stack := stk
    blockIx := m.block }

/-- The start of a fork record that a core can make now: the record, the core that holds it, the record's team, and the lowest free
user slot (DESIGN CHOICE among the free ones, log 98). The forking thread's accesses before the FORK that are homed in the cluster
have drained (R150). -/
def forkTask (s : State) (c : CoreId) : Option (CoreId × ForkRec × Team × Tid) :=
  match freeSlots s c, nextFork s c with
  | k :: _, some (o, r) =>
    (match (s.cluster (clusterOf c)).teams.look r.teamNo with
     | some m => if m.state = .running ∧ drained s r.by_ r.seq .cluster then some (o, r, m, ⟨c, k⟩) else none
     | none => none)
  | _, _ => none

/-- FORK_RECORD_START (R152): a free user slot of a core starts a record. `stk`: top of the fresh stack sub-page, which lies in a
sub-page window of the core (R201). -/
def execForkRecordStart (c : CoreId) (stk : Nat) (s : State) : Out :=
  .next (match forkTask s c with
    | some (o, r, m, tid) =>
      if stk < 1024 ∨ ¬ stacksFit s m.space [tid] (stk - 1024) then s
      else
        let s := takeForks o (fun x => decide (x.seq = r.seq ∧ x.by_ = r.by_)) s
        let s := startThread tid r.target m.ctx (forkStart r m stk c.core) s
        modTeam (clusterOf c) r.teamNo (fun m => { m with members := m.members ++ [tid] }) s
    | none => s)

/-! ### The end of a team (R138, R310, R328, R365) -/

/-- A fork record of a team remains in the cluster (R138). -/
def teamForks (s : State) (c : ClusterId) (n : Nat) : Bool :=
  (List.range 8).any fun k => (s.core (coreIn c k)).forks.any fun r => decide (r.teamNo = n)

/-- A team is gone: its group is let go with RNW of life 0, its entry is free, its block is reported (R138, R365). -/
def finishTeam (c : ClusterId) (n : Nat) (m : Team) (cls : Nat) (s : State) : State :=
  let s := match present s m.group with
    | .live h i _ => s.modLease h i fun l => { l with x := s.taper h.node, since := s.taper h.node }
    | _ => s
  report m.gridf c.node cls 1 []
    (s.modCluster c fun k => { k with teams := k.teams.erase n })

/-- A core that holds a thread of the team, or placed it, has halted: the block is lost (R310, R365). -/
def teamLost (s : State) (m : Team) : Bool :=
  (s.core m.core).halted || m.members.any fun t => (s.core t.core).halted

/-- TEAM_END (R138): every thread has ended with its accesses complete and no fork record remains; or a core of the team
has halted and its block is lost (R310). -/
def execTeamEnd (c : ClusterId) (n : Nat) (s : State) : Out :=
  .next (match (s.cluster c).teams.look n with
    | none => s
    | some m =>
      if m.state = .running ∧ m.members = [] ∧ ¬ teamForks s c n then finishTeam c n m (if m.faulted then 1 else 0) s
      else if m.state = .running ∧ teamLost s m then finishTeam c n m 2 s
      else s)

/-- Delete the fork records of a team (R323, R328). -/
def dropForks (c : ClusterId) (n : Nat) : Nat → State → State
  | 0, s => s
  | k + 1, s =>
    let core := coreIn c k
    let s := if (s.core core).forks.any (fun r => decide (r.teamNo = n)) then
        takeForks core (fun r => decide (r.teamNo = n)) s
      else s
    dropForks c n k s

/-- A thread stops as for Discard and writes nothing (R328): it ends, and its pending join is dropped (R154); one that had
stopped already keeps its record to come. -/
def abandonThread (tid : Tid) (s : State) : State :=
  if (s.th tid).life = .stopped then s else (endThread tid s).modTh tid fun t => { t with answers := [], abandoned := true }

/-- A team is abandoned (R328, R365): its threads stop, its fork records are deleted, its block is counted in `cls`, or as
FAULTED when a thread had stopped. -/
def abandonTeam (c : ClusterId) (n cls : Nat) (s : State) : State :=
  match (s.cluster c).teams.look n with
  | none => s
  | some m =>
    let faulted := m.faulted || m.members.any fun t => decide ((s.th t).life = .stopped)
    let s := dropForks c n 8 (m.members.foldl (fun s t => abandonThread t s) s)
    let s := { s with preempts := mapIf s.preempts (fun p => decide (p.cluster = c ∧ p.team = n)) fun p =>
      { p with abandoned := true } }
    finishTeam c n m (if faulted ∧ cls = 3 then 1 else cls) s

end Sys2Proof.Machine
end

