-- ==== Sys2Proof/Machine/Engines.lean ====
section
/-!
DEFINITION. What engine commands share (R246 to R254, R396): issue with the records read, the queues and guards, tokens and
job IDs, layout records, and the streams of bytes that an engine reads and writes.
-/

namespace Sys2Proof.Machine

/-! ### Statuses and tokens (R249, R396) -/

/-- Codes of Tables 10-2, 11-2, 13-14 and 15-6. -/
def Status.code : Status → Nat
  | .discarded => 1 | .partial_ => 2 | .lapsed => 3 | .stale => 4 | .access => 5 | .poison => 6 | .path => 7
  | .ringFull => 8 | .gang => 9 | .malformed => 10 | .unheld => 11 | .noEndpoint => 12 | .truncated => 13 | .full => 14
  | .unavailable => 15 | .noTeam => 16 | .cls => 17 | .small => 18 | .busy => 19 | .noGrid => 20 | .duplicate => 21

/-- A failure token (Table 10-1). -/
def failToken (st : Status) (cause detail : Nat) : W64 :=
  BitVec.ofNat 64 (0xFF * 2 ^ 56 + cause % 2 ^ 8 * 2 ^ 48 + 0xF * 2 ^ 44 + st.code * 2 ^ 36 + detail % 2 ^ 36)

/-- The status of a refusal (R396). -/
def statusOf (f : FaultInfo) : Status :=
  match f.cause with
  | .lapsed => .lapsed
  | .stale => .stale
  | .unheld => .unheld
  | .poison => .poison
  | .path => .path
  | .align => .malformed
  | _ => .access

/-- A failure token of one status; for PATH, CAUSE says whether the outcome is unknown (Table 10-1). -/
def failOf (f : FaultInfo) : W64 := failToken (statusOf f) (if f.cause = .path then bits f.t2 0 8 else 0) 0

/-- The token of a transfer that a refusal cut after `n` bytes (R249, R255). -/
def cutToken (f : FaultInfo) (n : Nat) : W64 := if n = 0 then failOf f else failToken .partial_ (statusOf f).code n

/-- CDONE rises over the completed jobs that follow it (R250). -/
def Thread.raiseDone : Nat → Thread → Thread
  | 0, t => t
  | n + 1, t =>
    if t.jobsDone.contains (t.cdone + 1) then
      Thread.raiseDone n { t with cdone := t.cdone + 1, jobsDone := eraseNat t.jobsDone (t.cdone + 1) }
    else t

/-- A job is complete (R250): CDONE, then the waits on it (R144). -/
def jobDone (tid : Tid) (job : Nat) (s : State) : State :=
  let old := (s.th tid).cdone
  let s := s.modTh tid fun t =>
    let t := { t with jobsDone := insertNat t.jobsDone job }
    t.raiseDone t.jobsDone.length
  if (s.th tid).cdone = old then s else serveJobs tid s

/-- Fill a command's token (R249); a job is then complete (R250). -/
def token (c : Cmd) (x : W64) (s : State) : State :=
  let s := fillPending c.tid c.id (modPending c.tid c.id (fun p => { p with val := .g x, left := 0 }) s)
  if c.job = 0 then s else jobDone c.tid c.job s

/-- A command ends with a status and no more. -/
def failCmd (c : Cmd) (st : Status) (s : State) : State := token c (failToken st 0 0) s

/-! ### Issue (R247, R255) -/

/-- A record that a command names: its address and its length in bytes. -/
abbrev RecordRef := W64 × Nat

/-- The checks of a record's address at issue (R255): ALIGN, then ACCESS with reason 9 outside scratchpad. -/
def recordPlace (c : CoreId) (r : RecordRef) : Except FaultInfo Phys :=
  if ¬ aligned r.1 64 then .error (causeOf .align r.1)
  else
    match classify c r.1 with
    | .place p => if p.isScratch ∧ p.off + r.2 ≤ Config.scratchBytes then .ok p else .error (accessFault r.1 9)
    | _ => .error (accessFault r.1 9)

/-- The first record address that traps. DESIGN CHOICE: the record that Ga names is checked wholly before the one of Gb (log 134). -/
def recordTrap (c : CoreId) (rs : List RecordRef) : Option FaultInfo :=
  rs.findSome? fun r => match recordPlace c r with | .error f => some f | .ok _ => none

/-- A record that the thread's own earlier accesses keep from being read now (R95). -/
def recordWait (s : State) (rs : List RecordRef) : Option RecordRef :=
  rs.find? fun r => match recordPlace s.cur.core r with | .ok p => !recordFree s s.cur p r.2 | .error _ => false

/-- The first unit of the records whose home refuses the read (R94, R255). -/
def recordRefusal (s : State) (rs : List RecordRef) : Option FaultInfo :=
  rs.findSome? fun r =>
    match recordPlace s.cur.core r with
    | .error _ => none
    | .ok p => (List.range ((r.2 + 63) / 64)).findSome? fun k =>
        homeRefusal s s.cur s.me.ctxh (p.plus (64 * k)) (r.1 + BitVec.ofNat 64 (64 * k)) 64 (.load false)

/-- The records' words. -/
def recordWords (s : State) (rs : List RecordRef) : List W64 :=
  rs.flatMap fun r => match recordPlace s.cur.core r with | .ok p => s.peekWords p (r.2 / 8) | .error _ => []

/-- Add a command to its queue (R246, R274, R360). -/
def enqueue (q : EngineQueue) (c : Cmd) (s : State) : State :=
  match q with
  | .copy => s.modCluster (clusterOf c.tid.core) fun k => { k with copyQ := k.copyQ ++ [c] }
  | .message => s.modCluster (clusterOf c.tid.core) fun k => { k with msgQ := k.msgQ ++ [c] }
  | .launch => s.modCluster (clusterOf c.tid.core) fun k => { k with launchQ := k.launchQ ++ [c] }
  | .matrix => s.modCore c.tid.core fun k => { k with matrixQ := k.matrixQ ++ [c] }

/-- The guard that the issue fixes (R66). -/
def guardAtIssue (t : Thread) (g : Guard) : GuardVal :=
  if t.full (.q g.q) then .known (t.rQ g.q != g.neg) else .pend g.q g.neg

/-- The queueing of a command (R247): the job ID, the token register, the queue. -/
def queueCmd (i : Instr) (q : EngineQueue) (d : BitVec 4) (g : Guard) (a b : W64) (ws : List W64) (job close : Bool)
    (s : State) : State :=
  let s := s.begin
  let t := s.me
  let c : Cmd := {
    id := s.nextId, tid := s.cur, ctx := t.ctxh, space := t.space, ins := i, a := a, b := b, recw := ws
    job := if job then t.ccnt else 0, guard := guardAtIssue t g, word := t.pc.toNat }
  let s := issuePending true (longG d) none 1 (.g 0) false false s
  let s := if job then s.modMe fun t => { t with ccnt := t.ccnt + 1 } else s
  retire 2 close (enqueue q c s)

/-- Issue of an engine command (R66, R247): the guard does not stop it; its records are read, and it is queued. `check` is
a trap of the command's own. A poisoned guard register that is read is POISON (R313). -/
def engineIssue (i : Instr) (q : EngineQueue) (priv job close : Bool) (d : BitVec 4) (srcs : List GSrc) (g : Guard)
    (a b : Thread → W64) (recs : Thread → List RecordRef) (check : State → Option FaultInfo) (s : State) : Out :=
  let early := fun (s : State) => (check s).or (recordTrap s.cur.core (recs s.me))
  .next (gatedHold 2 Guard.none priv (srcs.map srcG) (destG d)
    (fun s =>
      if (early s).isSome then none
      else
        match recordWait s (recs s.me) with
        | some r => some (.access r.1 r.2)
        | none => if queueRoom s s.cur q then none else some (.queue q))
    (fun s =>
      match early s with
      | some f => trap f s
      | none =>
        if s.me.full (.q g.q) && s.me.bad (.q g.q) then trap (poisonRead (srcQ g.q)) s
        else
          match recordRefusal s (recs s.me) with
          | some f => readRefused 2 close f s
          | none => queueCmd i q d g (a s.me) (b s.me) (recordWords s (recs s.me)) job close s) s)

/-! ### Queues (R246, R248, R250) -/

/-- A channel's number in a cluster. -/
def Cmd.chan (c : Cmd) : Nat := c.tid.core.core * 16 + c.tid.slot

/-- The commands that are the oldest of their channels. -/
def queueHeads (q : List Cmd) : List Cmd :=
  q.filter fun c => decide ((q.find? fun x => decide (x.tid = c.tid)).map (·.id) = some c.id)

/-- Jobs of a channel that are running (R250). -/
def jobsRunning (s : State) (tid : Tid) : Nat :=
  (s.jobs.filter fun j => decide (j.chain = none ∧ j.cmd.tid = tid)).length +
    (s.msgs.filter fun m => decide (m.cmd.tid = tid) && !m.dead).length

/-- Every earlier job of the channel has left its queue (R250). -/
def jobTurn (s : State) (c : Cmd) : Bool :=
  let k := s.cluster (clusterOf c.tid.core)
  decide (c.job = 0) || !(k.copyQ ++ k.msgQ).any fun x => decide (x.tid = c.tid ∧ x.job ≠ 0 ∧ x.job < c.job)

/-- A command may start: its guard is true, and a job has its turn and is one of at most four (R246, R248, R250). -/
def startable (s : State) (c : Cmd) : Bool :=
  decide (c.guard = .known true) && jobTurn s c && (decide (c.job = 0) || decide (jobsRunning s c.tid < 4))

/-- Round-robin among channels by number: the next after `rr` (R246). -/
def roundRobinOf {α : Type} (rr : Nat) (l : List (Nat × α)) : Option α :=
  let low := fun (l : List (Nat × α)) => l.foldl (fun (b : Option (Nat × α)) c =>
    match b with | none => some c | some x => some (if c.1 < x.1 then c else x)) none
  ((low (l.filter fun c => decide (rr < c.1))).or (low l)).map (·.2)

/-- Round-robin among the channels of commands. -/
def roundRobin (rr : Nat) (l : List Cmd) : Option Cmd := roundRobinOf rr (l.map fun c => (c.chan, c))

/-! ### The request record of PREEMPT and SIGNAL (Table 13-12) -/

/-- CTX. -/
def reqCtx (c : Cmd) : W64 := wordAt c.recw 0
/-- NODE, DIE and CLUSTER. -/
def reqCluster (c : Cmd) : ClusterId :=
  ⟨bits (wordAt c.recw 1) 48 16, bits (wordAt c.recw 1) 14 2, bits (wordAt c.recw 1) 8 6⟩

/-- A command of the launch queue waits before it starts (R346): the route to the home of its CTX, or to the package that it is for, is
being changed. -/
def Cmd.routeHeld (s : State) (c : Cmd) : Bool :=
  match c.ins with
  | .launch _ _ _ _ _ => handleWaits s c.tid c.ctx c.a
  | .preempt _ _ _ _ | .signal _ _ _ _ =>
    let m := (reqCluster c).node
    handleWaits s c.tid c.ctx (reqCtx c) ||
      (decide (m ≠ c.tid.core.node) && pathLive s c.tid.core.node c.ctx m && crosses s c.tid.core.node m)
  | _ => false

/-- What the copy unit may start: a channel's command, or the next record of a chain channel, which takes part in the
round-robin as a channel of its own (R260). -/
inductive CopyPick where
  | cmd (c : Cmd)
  | chain (n : Nat)
  deriving DecidableEq, Repr

/-- The number of a chain channel in the round-robin: behind those of the slots. -/
def chainChan (n : Nat) : Nat := 128 + n

/-- What the copy unit of a cluster starts next. -/
def copyPick (s : State) (c : ClusterId) : Option CopyPick :=
  let k := s.cluster c
  roundRobinOf k.copyRR
    ((((queueHeads k.copyQ).filter (startable s)).map fun x => (x.chan, .cmd x)) ++
      (k.chains.toList.zipIdx.filter fun x => decide (x.1.state = 1 ∧ x.1.job = none)).map fun x => (chainChan x.2, .chain x.2))

/-- The command that the copy queue of a cluster starts next. -/
def nextCopy (s : State) (c : ClusterId) : Option Cmd :=
  match copyPick s c with
  | some (.cmd x) => some x
  | _ => none
/-- The command that the message queue starts next. -/
def nextMessage (s : State) (c : ClusterId) : Option Cmd :=
  let k := s.cluster c
  roundRobin k.msgRR ((queueHeads k.msgQ).filter (startable s))
/-- The command that the launch queue starts next; a thread's LAUNCH that has started and still waits goes before its others
(R361), and one whose route is being changed waits (R346). -/
def nextLaunch (s : State) (c : ClusterId) : Option Cmd :=
  let k := s.cluster c
  roundRobin k.launchRR ((queueHeads k.launchQ).filter fun x =>
    startable s x && !x.routeHeld s && !k.launching.any fun y => decide (y.tid = x.tid))

/-- A command leaves its queue as it starts (R246). -/
def dequeue (q : EngineQueue) (c : Cmd) (s : State) : State :=
  let out := fun (l : List Cmd) => l.filter fun x => decide (x.id ≠ c.id)
  match q with
  | .copy => s.modCluster (clusterOf c.tid.core) fun k => { k with copyQ := out k.copyQ, copyRR := c.chan }
  | .message => s.modCluster (clusterOf c.tid.core) fun k => { k with msgQ := out k.msgQ, msgRR := c.chan }
  | .launch => s.modCluster (clusterOf c.tid.core) fun k => { k with launchQ := out k.launchQ, launchRR := c.chan }
  | .matrix => s.modCore c.tid.core fun k => { k with matrixQ := out k.matrixQ }

/-- A queue's commands, as a channel of it sees them. -/
def queueOf (s : State) (c : CoreId) (q : EngineQueue) : List Cmd :=
  let k := s.cluster (clusterOf c)
  match q with
  | .copy => k.copyQ
  | .message => k.msgQ
  | .launch => k.launchQ
  | .matrix => (s.core c).matrixQ

/-! ### Layout records (R252, R253) -/

/-- ESIZE. -/
def layEsize (w : List W64) : Nat := bits (wordAt w 1) 0 16
/-- FLAG. -/
def layFlag (w : List W64) : Bool := bits (wordAt w 1) 16 1 = 1
/-- ZERO. -/
def layZero (w : List W64) : Bool := bits (wordAt w 1) 17 1 = 1
/-- COUNT of dimension `i`. -/
def layCount (w : List W64) (i : Nat) : Nat := bits (wordAt w (2 + i)) 0 32
/-- STRIDE of dimension `i`, signed. -/
def layStride (w : List W64) (i : Nat) : Int := signedOf 32 (bits (wordAt w (2 + i)) 32 32)
/-- Size in elements. -/
def layElems (w : List W64) : Nat := layCount w 0 * layCount w 1 * layCount w 2 * layCount w 3
/-- Size in bytes. -/
def layBytes (w : List W64) : Nat := layElems w * layEsize w

/-- The address of element `k`, dimension 0 fastest (R253). -/
def layAddr (w : List W64) (k : Nat) : W64 :=
  let i0 := k % layCount w 0
  let k1 := k / layCount w 0
  let i1 := k1 % layCount w 1
  let k2 := k1 / layCount w 1
  let i2 := k2 % layCount w 2
  let i3 := k2 / layCount w 2
  wordAt w 0 + BitVec.ofInt 64 (i0 * layStride w 0 + i1 * layStride w 1 + i2 * layStride w 2 + i3 * layStride w 3)

/-- A layout record is malformed (R253); `chain`: word 7 is the chain's (R259). -/
def layBad (dest chain : Bool) (w : List W64) : Bool :=
  let es := layEsize w
  decide (bits (wordAt w 1) 18 46 ≠ 0) || !([1, 2, 4, 8, 16, 32, 64].contains es) ||
  (List.range 4).any (fun i => decide (layCount w i = 0 ∨ layStride w i % es ≠ 0)) ||
  (!layZero w && decide ((wordAt w 0).toNat % es ≠ 0)) || decide (2 ^ 36 - 1 < layBytes w) ||
  (if dest then layZero w else layFlag w) || (!layFlag w && decide (wordAt w 6 ≠ 0)) ||
  (!chain && decide (wordAt w 7 ≠ 0))

/-! ### Streams of bytes (R254, R267) -/

/-- The 64-byte unit of element `k` of a destination, by its address. -/
def unitAddr (w : List W64) (k : Nat) : W64 := layAddr w k - BitVec.ofNat 64 ((layAddr w k).toNat % 64)

/-- Elements of a destination that `total` bytes of stream reach; the last may be filled in part. -/
def elemsFor (w : List W64) (total : Nat) : Nat := (total + layEsize w - 1) / layEsize w

/-- The units that `total` bytes of stream are written to, in the order of their first element. -/
def destUnits (w : List W64) (total : Nat) : List W64 := ((List.range (elemsFor w total)).map (unitAddr w)).eraseDups

/-- The bytes of a unit: offsets in it and positions in the stream. -/
def unitBytes (w : List W64) (total : Nat) (u : W64) : List (Nat × Nat) :=
  (List.range (elemsFor w total)).flatMap fun k =>
    if unitAddr w k = u then
      (List.range (min (layEsize w) (total - k * layEsize w))).map fun j =>
        ((layAddr w k - u).toNat + j, k * layEsize w + j)
    else []

/-- Bytes of a source stream received, by element of `es` bytes. -/
structure Stream where
  zero : Bool
  es : Nat
  got : Map (List Byte)
  deriving DecidableEq, Repr

/-- The byte at a position of the stream is there. -/
def Stream.has (x : Stream) (pos : Nat) : Bool := x.zero || (x.got.look (pos / x.es)).isSome
/-- The byte at a position of the stream. -/
def Stream.byte (x : Stream) (pos : Nat) : Byte :=
  if x.zero then 0 else ((x.got.look (pos / x.es)).getD []).getD (pos % x.es) 0

/-- The reads of a source: its units, each with its first element, in element order (R255); a unit is read as a whole (R258). -/
def srcReads (w : List W64) : List (W64 × Nat) :=
  (destUnits w (layBytes w)).map fun u => (u, ((List.range (layElems w)).find? fun k => unitAddr w k = u).getD 0)

/-- The elements of a source that lie in a unit are received with it. -/
def gotUnit (w : List W64) (u : W64) (bs : List Byte) (m : Map (List Byte)) : Map (List Byte) :=
  (List.range (layElems w)).foldl (fun m k =>
    if unitAddr w k = u then m.set k ((bs.drop (layAddr w k - u).toNat).take (layEsize w)) else m) m

/-- The write of a unit's bytes. -/
def Stream.write (x : Stream) (bs : List (Nat × Nat)) : AccOp := .engWrite (bs.map fun b => (b.1, x.byte b.2))

/-- An engine's raise of a flag (R254, R396): it adds 1, sets both words full and serves their waiters. -/
def raiseEngineFlag (tid : Tid) (ctx fa : W64) (s : State) : Option FaultInfo × State :=
  if ¬ aligned fa 8 then (some (causeOf .align fa), s)
  else
    match classify tid.core fa with
    | .place p =>
      if ¬ p.isScratch then (some (accessFault fa 2), s)
      else
        (match homeRefusal s tid ctx p fa 8 .raise with
         | some f => (some f, s)
         | none => (none, fillWords [p, p.plus 4] (storeAt p (leBytes ((s.peek p 8 + 1) % 2 ^ 64) 8) s)))
    | _ => (some (accessFault fa 2), s)

/-- Post an engine's access. -/
def postEngine (c : Cmd) (agent : Agent) (op : AccOp) (ea : W64) (len : Nat) (s : State) : State :=
  postAcc c.tid c.ctx c.space c.word agent op ea len s

/-- Drop engine accesses that are not, or no longer, to be made. -/
def dropAccs (p : Acc → Bool) (s : State) : State := { s with accs := s.accs.filter fun a => !p a }

/-- The stack base of a die that is the home of a place in its HBM (R195): bit 8 of the offset; elsewhere 0. -/
def Phys.stack (p : Phys) : Nat := match p.region with | .hbm => p.off / 256 % 2 | _ => 0

/-- Two accesses have one home. -/
def Acc.sameHome (a b : Acc) : Bool :=
  match a.place, b.place with
  | some p, some q => decide (p.node = q.node ∧ p.die = q.die ∧ p.region = q.region ∧ p.stack = q.stack)
  | _, _ => false

/-- The transfer that an engine's write belongs to (R255, R267). -/
def Agent.transfer : Agent → Option Nat
  | .copyWrite j _ => some j
  | .msgWrite j _ => some j
  | _ => none

/-- The copy job or message whose access it is (R257, R267). -/
def Agent.work : Agent → Option Nat
  | .copyRead j _ | .copyWrite j _ | .msgRead j _ | .msgWrite j _ => some j
  | _ => none

/-- An access of a kind, of the same job or message, waits for a reply to its translation fault (R257). -/
def jobHeld (s : State) (a : Acc) (kind : Acc → Bool) : Bool :=
  a.agent.work.isSome && s.accs.any fun x => decide (x.agent.work = a.agent.work) && kind x &&
    (match x.trans with | .faulted => true | .ringFull _ => true | .again => true | _ => false)

/-- An earlier write of the same transfer goes to the same home, or may go there: one home takes them in order, so that
only where there is more than one home the accepted bytes need not be the first ones (R256). -/
def writesBefore (s : State) (a : Acc) : Bool :=
  a.agent.transfer.isSome && s.accs.any fun x =>
    decide (x.id < a.id ∧ x.agent.transfer = a.agent.transfer) && (x.place.isNone || x.sameHome a)

end Sys2Proof.Machine
end

