-- ==== Sys2Proof/Machine/Copy.lean ====
section
/-!
DEFINITION. The copy unit (R252 to R262): CPY, CHAIN and CSTAT at issue and as they start, the units a job reads and writes,
the end of a job, and the record chains of slot 0.
-/

namespace Sys2Proof.Machine

/-! ### Issue -/

/-- CPY (R255). -/
def execCpy (d : BitVec 4) (a b : GSrc) (w : W32) (g : Guard) (s : State) : Out :=
  engineIssue (.cpy d a b w g) .copy false true true d [a, b] g (·.src a) (·.src b)
    (fun t => [(t.src a, 64), (t.src b, 64)]) (fun _ => none) s
/-- CHAIN (R260): slot 0 only. -/
def execChain (d : BitVec 4) (a b : GSrc) (w : W32) (g : Guard) (s : State) : Out :=
  engineIssue (.chain d a b w g) .copy true false true d [a, b] g (·.src a) (·.src b) (fun _ => []) (fun _ => none) s
/-- CSTAT (R262). -/
def execCstat (d : BitVec 4) (w : W32) (g : Guard) (s : State) : Out :=
  engineIssue (.cstat d w g) .copy false false false d [] g (fun _ => 0) (fun _ => 0) (fun _ => []) (fun _ => none) s

/-! ### Jobs -/

/-- A job in progress. -/
def State.job? (s : State) (j : Nat) : Option Job := s.jobs.find? fun x => decide (x.id = j)
/-- Change a job. -/
def modJob (j : Nat) (f : Job → Job) (s : State) : State := { s with jobs := mapIf s.jobs (fun x => decide (x.id = j)) f }
/-- A job is over. -/
def dropJob (j : Nat) (s : State) : State := { s with jobs := s.jobs.filter fun x => decide (x.id ≠ j) }

/-- An access of a job. -/
def Acc.ofJob (a : Acc) (j : Nat) : Bool :=
  match a.agent with
  | .copyRead i _ => decide (i = j)
  | .copyWrite i _ => decide (i = j)
  | _ => false
/-- A read of a job: reading has no effect, so after a refusal the rest is not made. -/
def Acc.jobRead (a : Acc) (j : Nat) : Bool :=
  match a.agent with
  | .copyRead i _ => decide (i = j)
  | _ => false
/-- The unit that a job's write makes. -/
def Acc.jobUnit (a : Acc) : Nat :=
  match a.agent with
  | .copyWrite _ n => n
  | _ => 0

/-- The stream of a job's source. -/
def Job.stream (j : Job) : Stream := ⟨layZero j.src, layEsize j.src, j.got⟩

/-- The bytes that a job writes to a unit: those of the elements before a refused read (R255). -/
def Job.unitBytes (j : Job) (u : W64) : List (Nat × Nat) :=
  (Sys2Proof.Machine.unitBytes j.dst (layBytes j.dst) u).filter fun b =>
    match j.cut with
    | none => true
    | some k => decide (b.2 < k * layEsize j.src)

/-- The writes of a unit can be issued: all their bytes have been read. -/
def Job.ready (j : Job) (u : W64) : Bool := decide (j.unitBytes u ≠ []) && (j.unitBytes u).all fun b => j.stream.has b.2

/-- Issue the writes of units whose bytes have all been read, in element order (R254, R255). -/
def issueUnits (j : Job) (us : List W64) (s : State) : State :=
  ((us.zipIdx.takeWhile fun x => j.ready x.1).drop j.issued).foldl (fun (s : State) x =>
    modJob j.id (fun q => { q with issued := q.issued + 1 })
      (postEngine j.cmd (.copyWrite j.id x.2) (j.stream.write (j.unitBytes x.1)) x.1 64 s)) s

/-- Issue what a job can write now. -/
def jobProgress (j : Nat) (s : State) : State :=
  match s.job? j with
  | none => s
  | some x => issueUnits x (destUnits x.dst (layBytes x.dst)) s

/-- Issue the reads of a source, unit by unit in element order (R255, R258). -/
def issueReads (c : Cmd) (agent : Nat → Agent) (src : List W64) (s : State) : State :=
  (srcReads src).foldl (fun s x => postEngine c (agent x.2) .engRead x.1 64 s) s

/-- A transfer starts: its reads are issued, or for a source of zeros its writes (R255). -/
def startJob (c : Cmd) (chain : Option (ClusterId × Nat)) (src dst : List W64) (s : State) : State :=
  let id := s.nextId
  let j : Job := ⟨id, c, chain, src, dst, [], 0, 0, 0, none, none⟩
  let s := { s.fresh with jobs := s.jobs ++ [j] }
  if layZero src then jobProgress id s else issueReads c (.copyRead id) src s

/-- A source unit is read at its home (R255, R258). -/
def jobReadDone (a : Acc) (j : Nat) (p : Phys) (s : State) : State :=
  jobProgress j (modJob j (fun x => { x with got := gotUnit x.src a.ea (s.bytes p a.len) x.got }) s)

/-- The number of bytes an engine write carries. -/
def AccOp.count : AccOp → Nat
  | .engWrite ls => ls.length
  | _ => 0

/-- The bytes an engine write carries. -/
def AccOp.engBytes : AccOp → List (Nat × Byte)
  | .engWrite ls => ls
  | _ => []

/-- A unit is written at its home (R254). -/
def jobWriteDone (a : Acc) (j n : Nat) (p : Phys) (s : State) : State :=
  modJob j (fun x => { x with accepted := x.accepted + a.op.count, top := max x.top (n + 1) }) (engineWrite p a.op.engBytes s)

/-- The read of a unit whose first element is `k` is refused: the elements before it are still copied, and no later unit is read (R255). -/
def jobReadRefused (j k : Nat) (f : FaultInfo) (s : State) : State :=
  let later := fun (a : Acc) => match a.agent with | .copyRead i n => decide (i = j ∧ k < n) | _ => false
  jobProgress j (dropAccs later (modJob j (fun x =>
    let k := match x.cut with | none => k | some i => min i k
    { x with
      refused := x.refused.or (some f)
      cut := some k
      top := max x.top (destUnits x.dst (k * layEsize x.dst)).length }) s))

/-- A write is refused: no further unit is issued, and its home takes none after it (R255, R256). -/
def jobWriteRefused (a : Acc) (j n : Nat) (f : FaultInfo) (s : State) : State :=
  let later := fun (x : Acc) => match x.agent with
    | .copyWrite i m => decide (i = j ∧ n < m) && x.sameHome a
    | _ => false
  dropAccs (fun x => x.jobRead j || later x) (modJob j (fun x => { x with
    refused := x.refused.or (some f)
    top := max x.top (n + 1) }) s)

/-- Every issued read and write of a job has been accepted or refused (R255). After a refusal, units above every settled
one need not have been issued. -/
def jobSettled (s : State) (j : Job) : Bool :=
  let open_ := s.accs.filter (·.ofJob j.id)
  match j.refused with
  | none => decide (open_ = [] ∧ j.issued = (destUnits j.dst (layBytes j.dst)).length)
  | some _ => open_.all fun a => !a.jobRead j.id && decide (j.top ≤ a.jobUnit)

/-- The end of a transfer: the flag, then what it came to: bytes accepted and the refusal that counts (R254). -/
def finishJob (j : Job) (s : State) : (Nat × Option FaultInfo) × State :=
  let s := dropJob j.id (dropAccs (·.ofJob j.id) s)
  if layFlag j.dst then
    let r := raiseEngineFlag j.cmd.tid j.cmd.ctx (wordAt j.dst 6) s
    ((j.accepted, j.refused.or r.1), r.2)
  else ((j.accepted, j.refused), s)

/-- CPY_COMPLETE (R255): every unit is settled; the flag is raised and the token filled. -/
def execCpyComplete (j : Nat) (s : State) : Out :=
  .next (match s.job? j with
    | none => s
    | some x =>
      if x.chain.isSome ∨ ¬ jobSettled s x then s
      else
        let r := finishJob x s
        let v := match x.refused, r.1.2 with
          | some f, _ => cutToken f x.accepted
          | none, some f => failOf f
          | none, none => BitVec.ofNat 64 x.cmd.job
        token x.cmd v r.2)

/-! ### Starts -/

/-- The records of a CPY can be copied (R255). -/
def copyOk (src dst : List W64) : Bool :=
  !layBad false false src && !layBad true false dst && decide (layElems src = layElems dst) &&
    decide (layEsize src = layEsize dst)

/-- A chain channel of a cluster. -/
def Cluster.chain (k : Cluster) (n : Nat) : Chain := k.chains.toList.getD n Chain.reset
/-- Change a chain channel. -/
def modChain (c : ClusterId) (n : Nat) (f : Chain → Chain) (s : State) : State :=
  s.modCluster c fun k => { k with chains := k.chains.setIfInBounds n (f (k.chain n)) }

/-- CHAIN starts (R260). -/
def startChain (c : ClusterId) (x : Cmd) (s : State) : State :=
  let n := bits x.b 0 2
  let ch := (s.cluster c).chain n
  let run := fun (at_ : W64) (q : Chain) => { q with state := 1, at_ := at_, kick := false, tid := x.tid, job := none }
  if ch.state = 1 then
    if x.a = 0 then token x 2 (modChain c n (fun q => { q with kick := true }) s) else token x 3 s
  else if x.a ≠ 0 then token x 0 (modChain c n (run x.a) s)
  else if ch.state = 2 then token x 1 (modChain c n (run ch.at_) s)
  else token x 3 s

/-- CPY_START (R246, R255): the copy unit starts the next command of its queue when that is a CPY or a CHAIN. -/
def execCpyStart (c : ClusterId) (s : State) : Out :=
  .next (match nextCopy s c with
    | none => s
    | some x =>
      match x.ins with
      | .cpy _ _ _ _ _ =>
        let src := x.recw.take 8
        let dst := x.recw.drop 8
        let s := dequeue .copy x s
        if copyOk src dst then startJob x none src dst s else failCmd x .malformed s
      | .chain _ _ _ _ _ => startChain c x (dequeue .copy x s)
      | _ => s)

/-- The items of CSTAT (R262). -/
def cstatItem (s : State) (c : ClusterId) (x : Cmd) (item : Nat) : W64 :=
  let k := s.cluster c
  let t := s.th x.tid
  match item with
  | 0 => BitVec.ofNat 64 (Config.copyQueue - k.copyQ.length)
  | 1 => BitVec.ofNat 64 (t.ccnt - 1 - t.cdone - t.jobsDone.length)
  | n => if n < 6 then (k.chain (n - 2)).at_ ||| BitVec.ofNat 64 (k.chain (n - 2)).state else 0

/-- CSTAT_START (R262). -/
def execCstatStart (c : ClusterId) (s : State) : Out :=
  .next (match nextCopy s c with
    | none => s
    | some x =>
      match x.ins with
      | .cstat _ w _ =>
        let s := dequeue .copy x s
        token x (cstatItem s c x (w.toNat % 16)) s
      | _ => s)

/-! ### Chains (R259 to R261) -/

/-- The place of a transfer record: 128-aligned in scratchpad. -/
def chainPlace (t : Tid) (a : W64) : Option Phys :=
  if ¬ aligned a 128 then none
  else
    match classify t.core a with
    | .place p => if p.isScratch then some p else none
    | _ => none

/-- A channel parks at its record. -/
def park (c : ClusterId) (n : Nat) (s : State) : State := modChain c n (fun q => { q with state := 2 }) s

/-- The command that a chain's transfers are made for: slot 0's (R260). -/
def chainCmd (s : State) (t : Tid) : Cmd :=
  ⟨0, t, (s.th t).ctxh, (s.th t).space, .exit Guard.none, 0, 0, [], 0, .known true, 0⟩

/-- A record is handed back: word 15 is written (an engine write), and the channel goes on to the NEXT it read (R260, R261). DESIGN
CHOICE: a channel that becomes idle keeps the address of its last record, which CSTAT reports (R262, log 119). -/
def handBack (c : ClusterId) (n : Nat) (ch : Chain) (p : Phys) (status bytes : Nat) (s : State) : State :=
  let next := ch.next
  let x := leBytes (status % 2 ^ 8 * 2 ^ 8 + bytes % 2 ^ 36 * 2 ^ 16) 8
  let ls := x.zipIdx.map fun b => (56 + b.2, b.1)
  let s := match homeRefusal s ch.tid (s.th ch.tid).ctxh (p.plus 64) (ch.at_ + 64) 64 (.engWrite ls) with
    | none => engineWrite (p.plus 64) ls s
    | some _ => s
  modChain c n (fun q => { q with state := if next = 0 then 0 else 1, at_ := if next = 0 then q.at_ else next, job := none }) s

/-- The status and bytes of a finished transfer (Table 10-5). -/
def chainResult (r : Nat × Option FaultInfo) (cut : Bool) : Nat × Nat :=
  match r.2 with
  | none => (0, r.1)
  | some f => (if cut ∧ r.1 ≠ 0 then Status.partial_.code else (statusOf f).code, r.1)

/-- A running channel looks at its record (R260). A record that its home does not let the channel read leaves it parked. -/
def chainLook (c : ClusterId) (n : Nat) (ch : Chain) (s : State) : State :=
  match chainPlace ch.tid ch.at_ with
  | none => park c n s
  | some p =>
    let read := fun (k : Nat) => homeRefusal s ch.tid (s.th ch.tid).ctxh (p.plus k) (ch.at_ + BitVec.ofNat 64 k) 64 .engRead
    if (read 0).isSome ∨ (read 64).isSome then park c n s
    else
      let w15 := BitVec.ofNat 64 (s.peek (p.plus 120) 8)
      if bits w15 0 1 = 0 then
        if ch.kick then modChain c n (fun q => { q with kick := false }) s else park c n s
      else
        let src := s.peekWords p 8
        let dst := s.peekWords (p.plus 64) 8
        if bits w15 1 7 ≠ 0 ∨ bits w15 52 12 ≠ 0 ∨ layBad false true src ∨ layBad true true dst ∨
            layElems src ≠ layElems dst ∨ layEsize src ≠ layEsize dst then
          handBack c n { ch with next := wordAt src 7 } p Status.malformed.code 0 s
        else
          startJob (chainCmd s ch.tid) (some (c, n)) src dst
            (modChain c n (fun q => { q with job := some s.nextId, next := wordAt src 7 }) s)

/-- CHAIN_RECORD_STEP (R260): in its turn of the round-robin a running channel reads its record and starts its transfer, or
parks; or it hands the record back once its transfer is settled. -/
def execChainRecordStep (c : ClusterId) (n : Nat) (s : State) : Out :=
  .next
    (let ch := (s.cluster c).chain n
     if ch.state ≠ 1 then s
     else
       match ch.job with
       | none =>
         if copyPick s c = some (.chain n) then chainLook c n ch (s.modCluster c fun k => { k with copyRR := chainChan n }) else s
       | some j =>
         match s.job? j, chainPlace ch.tid ch.at_ with
         | some x, some p =>
           if ¬ jobSettled s x then s
           else
             let r := finishJob x s
             let y := chainResult r.1 x.refused.isSome
             handBack c n ch p y.1 y.2 r.2
         | _, _ => s)

end Sys2Proof.Machine
end

