-- ==== Sys2Proof/Machine/Messages.lean ====
section
/-!
DEFINITION. The receive engine (R263 to R271): RRING, POST, SEND and RPROBE at issue and as they start, the decision of a
message, its landing or its place in the ring, and what the sender's token reports.
-/

namespace Sys2Proof.Machine

/-! ### Issue -/

/-- SEND (R268). -/
def execSend (d : BitVec 4) (a b : GSrc) (w : W32) (g : Guard) (s : State) : Out :=
  engineIssue (.send d a b w g) .message false true true d [a, b] g (·.src a) (·.src b) (fun t => [(t.src a, 64)])
    (fun _ => none) s
/-- POST (R265). -/
def execPost (d : BitVec 4) (a b : GSrc) (w : W32) (g : Guard) (s : State) : Out :=
  engineIssue (.post d a b w g) .message false false true d [a, b] g (·.src a) (·.src b) (fun t => [(t.src a, 128)])
    (fun _ => none) s
/-- RRING (R263). -/
def execRring (d : BitVec 4) (a b : GSrc) (w : W32) (g : Guard) (s : State) : Out :=
  engineIssue (.rring d a b w g) .message false false true d [a, b] g (·.src a) (·.src b) (fun _ => []) (fun _ => none) s
/-- RPROBE (R270). -/
def execRprobe (d : BitVec 4) (a b : GSrc) (w : W32) (g : Guard) (s : State) : Out :=
  engineIssue (.rprobe d a b w g) .message false false false d [a, b] g (·.src a) (·.src b) (fun _ => []) (fun _ => none) s

/-! ### Endpoints (R263) -/

/-- An endpoint of a die; an unlisted one has never been in use. -/
def State.endpoint (s : State) (h : DieId) (ep : Nat) : Endpoint := (s.die h).endpoints.get Endpoint.reset ep
/-- Change an endpoint. -/
def modEndpoint (h : DieId) (ep : Nat) (f : Endpoint → Endpoint) (s : State) : State :=
  s.modDie h fun d => { d with endpoints := d.endpoints.set ep (f (d.endpoints.get Endpoint.reset ep)) }

/-- An endpoint word (Table 10-6) with TMO 0. -/
def endpointWord (h : DieId) (ep gen : Nat) : W64 :=
  BitVec.ofNat 64 (h.node % 2 ^ 16 * 2 ^ 48 + h.die * 2 ^ 42 + ep * 2 ^ 32 + gen % 2 ^ 8 * 2 ^ 24)

/-- A number may be given out: never used, or ended 64 ticks ago (R263). -/
def endpointFree (s : State) (h : DieId) (ep : Nat) : Bool :=
  match (s.die h).endpoints.look ep with
  | none => decide (ep < Config.endpoints)
  | some e => !e.live && decide (e.endedAt + 64 ≤ s.taper h.node)

/-- Where the whole of a ring lies, or why it may not lie there (R263, check 2). -/
def ringPlace (c : CoreId) (b : W64) (n : Nat) : Option Phys :=
  match classify c b with
  | .place p =>
    if p.isScratch ∧ p.home = dieOf c ∧ p.off + 64 * (n + 1) ≤ Config.scratchBytes then some p else none
  | _ => none

/-- The RANGE lease that owns every granule of a ring, or the status that refuses it (R263, checks 3 and 4). -/
def ringLease (s : State) (ctx : W64) (p : Phys) (b : W64) (n : Nat) : Except Status Nat :=
  let at_ := fun (k : Nat) => p.plus (64 * k)
  match (List.range (n + 1)).findSome? fun k => granuleCheck s ctx (at_ k) (b + BitVec.ofNat 64 (64 * k)) with
  | some f => .error (statusOf f)
  | none =>
    match granule s p with
    | .owned i _ =>
      if (List.range (n + 1)).all fun k => match granule s (at_ k) with | .owned j _ => decide (j = i) | _ => false then .ok i
      else .error .access
    | _ => .error .access

/-- What the home of a word or doubleword of a ring's HEAD and TAIL answers to the engine's write of its bytes: poison (R196), a
binding, an XB, as to any write of the endpoint's thread. -/
def ringWordRefusal (s : State) (tid : Tid) (ctx : W64) (p : Phys) (bs : List Byte) : Option FaultInfo :=
  homeRefusal s tid ctx p (windowAddr p) bs.length (.engWrite (bs.zipIdx.map fun b => (b.2, b.1)))

/-- RRING's start in endpoint `ep` (R263). DESIGN CHOICE: a refused write of HEAD and TAIL fills the token last of all, and makes
no endpoint (R196, R396, log 143). -/
def startRring (x : Cmd) (ep : Nat) (s : State) : State :=
  let h := dieOf x.tid.core
  let n := x.b.toNat
  let s := dequeue .message x s
  if n < 2 ∨ 4096 < n ∨ ¬ aligned x.a 64 then failCmd x .malformed s
  else
    match ringPlace x.tid.core x.a n with
    | none => failCmd x .access s
    | some p =>
      match ringLease s x.ctx p x.a n with
      | .error st => failCmd x st s
      | .ok i =>
        if ¬ (List.range Config.endpoints).any (endpointFree s h) then failCmd x .full s
        else
          let old := (s.die h).endpoints.look ep
          let gen := match old with | none => Endpoint.reset.gen | some e => (e.gen + 1) % 256
          let head := p.plus (64 * n)
          let e : Endpoint := {
            live := true, gen := gen, endedAt := 0, ctx := x.ctx, range := i, base := x.a, n := n, resv := 0
            posted := [], head := head.key, headMoved := false, tid := x.tid }
          match ringWordRefusal s x.tid x.ctx head (leBytes 0 8) with
          | some f => token x (failOf f) s
          | none =>
            token x (endpointWord h ep gen)
              (modEndpoint h ep (fun _ => e) (fillWords [head, head.plus 4] (storeAt head (leBytes 0 8) s)))

/-- RRING_START (R263): `ep` is the number the engine gives out; a full table gives FULL whatever `ep`. -/
def execRringStart (c : ClusterId) (ep : Nat) (s : State) : Out :=
  .next (match nextMessage s c with
    | none => s
    | some x =>
      match x.ins with
      | .rring _ _ _ _ _ =>
        if endpointFree s (dieOfCluster c) ep ∨ ¬ (List.range Config.endpoints).any (endpointFree s (dieOfCluster c)) then
          startRring x ep s
        else s
      | _ => s)

/-- A live endpoint of a context. -/
def ownEndpoint (s : State) (h : DieId) (ctx : W64) (ep : Nat) : Bool :=
  let e := s.endpoint h ep
  e.live && decide (e.ctx = ctx)

/-! ### POST (R265) -/

/-- The completion record's place: 16-aligned in scratchpad; DONE 0 names none. -/
def donePlace (c : CoreId) (a : W64) : Option Phys :=
  if ¬ aligned a 16 then none
  else
    match classify c a with
    | .place p => if p.isScratch then some p else none
    | _ => none

/-- A receive descriptor is malformed (Table 10-7). -/
def badDescriptorPost (x : Cmd) : Bool :=
  decide (bits (wordAt x.recw 2) 8 56 ≠ 0) || ((x.recw.drop 4).take 4).any (fun w => decide (w ≠ 0)) ||
  layBad true false (x.recw.drop 8) ||
  (decide (wordAt x.recw 3 ≠ 0) && (donePlace x.tid.core (wordAt x.recw 3)).isNone)

/-- Receives posted on a die. -/
def postedCount (d : Die) : Nat := (d.endpoints.map fun e => e.2.posted.length).sum

/-- POST's start: the RECV lease is created in entry `i` (R265). -/
def startPost (x : Cmd) (i : Nat) (s : State) : State :=
  let h := dieOf x.tid.core
  let ep := bits (wordAt x.recw 2) 0 8
  if badDescriptorPost x then failCmd x .malformed (dequeue .message x s)
  else if ¬ ownEndpoint s h x.ctx ep then failCmd x .noEndpoint (dequeue .message x s)
  else if Config.postedReceives ≤ postedCount (s.die h) ∨ ¬ someEntry s h then failCmd x .full (dequeue .message x s)
  else if ¬ entryReady s h i then s
  else
    let s := dequeue .message x s
    let hd := handleOf h .recv i (s.lease h i).gen
    let r : Posted := {
      lease := hd, pattern := wordAt x.recw 0, mask := wordAt x.recw 1, done := wordAt x.recw 3, dest := x.recw.drop 8
      tid := x.tid, ctx := x.ctx, space := x.space }
    token x hd (modEndpoint h ep (fun e => { e with posted := e.posted ++ [r] })
      (createLease h i .recv (bits x.b 0 32) x.ctx 0 (.recv ep) s))

/-- POST_START (R265). -/
def execPostStart (c : ClusterId) (i : Nat) (s : State) : Out :=
  .next (match nextMessage s c with
    | none => s
    | some x =>
      match x.ins with
      | .post _ _ _ _ _ => startPost x i s
      | _ => s)

/-! ### SEND and the decision (R264, R266, R268, R269) -/

/-- Change a message. -/
def modMsg (j : Nat) (f : Msg → Msg) (s : State) : State := { s with msgs := mapIf s.msgs (fun x => decide (x.id = j)) f }

/-- An access of a message. -/
def Acc.ofMsg (a : Acc) (j : Nat) : Bool :=
  match a.agent with
  | .msgRead i _ => decide (i = j)
  | .msgWrite i _ => decide (i = j)
  | _ => false
/-- A read of a message. -/
def Acc.msgReads (a : Acc) (j : Nat) : Bool :=
  match a.agent with
  | .msgRead i _ => decide (i = j)
  | _ => false
/-- The unit that a message's write makes. -/
def Acc.msgUnit (a : Acc) : Nat :=
  match a.agent with
  | .msgWrite _ n => n
  | _ => 0

/-- The source key of a message (R266). -/
def sourceKey (c : CoreId) (tag : W32) : W64 :=
  BitVec.ofNat 64 (c.node % 2 ^ 16 * 2 ^ 48 + c.die * 2 ^ 46 + c.cluster * 2 ^ 40 + c.core * 2 ^ 37 + tag.toNat)

/-- The header goes out (R268): the taper at the first offer is where TMO counts from (R269). -/
def Msg.offer (now : Nat) (m : Msg) : Msg :=
  match m.phase with
  | .waiting again => { m with phase := .offered again, firstOffer := if again then m.firstOffer else now, arrived := 0 }
  | _ => m

/-- Headers that nothing holds back arrive at the fabric die (R266, R348). -/
def arriveFar (s : State) : State :=
  let due := fun (m : Msg) => m.atFabric s && decide (m.arrived = 0)
  if s.msgs.any due then { s.fresh with msgs := s.msgs.map fun m => if due m then { m with arrived := s.nextId } else m } else s

/-- Messages that stay in their package are offered as soon as nothing holds them back, and those to another package arrive at the
fabric die (R266, log 108). -/
def offerNear (s : State) : State :=
  let due := fun (m : Msg) => (match m.phase with | .waiting _ => true | _ => false) && !m.isFar && !heldBack s m
  arriveFar { s with msgs := s.msgs.map fun m => if due m then m.offer (s.taper m.cmd.tid.core.node) else m }

/-- A message is over, and its token filled, unless the death of its link has filled that before (R269). -/
def endMsg (m : Msg) (x : W64) (s : State) : State :=
  let s := dropAccs (·.ofMsg m.id) s
  let s := offerNear { s with msgs := s.msgs.filter fun y => decide (y.id ≠ m.id) }
  if m.dead then s else token m.cmd x s

/-- SEND's start: the checks of R268, then the offer of the header. Non-zero bits of Table 10-6 that hold no field make the
endpoint word malformed (log 104). -/
def startSend (x : Cmd) (s : State) : State :=
  let h : DieId := ⟨bits x.b 48 16, bits x.b 42 2⟩
  if layBad false false x.recw ∨ 2 ^ 24 < layBytes x.recw ∨ bits x.b 44 4 ≠ 0 ∨ bits x.b 40 2 ≠ 0 then failCmd x .malformed s
  else if h.node ≠ x.tid.core.node ∧ ¬ pathLive s x.tid.core.node x.ctx h.node then failCmd x .lapsed s
  else if (s.pkg x.tid.core.node).deadLinks.contains h.node then failCmd x .path s
  else
    match x.ins with
    | .send _ _ _ w _ =>
      let m : Msg := {
        id := s.nextId, cmd := x, key := sourceKey x.tid.core w, dest := h, ep := bits x.b 32 8, gen := bits x.b 24 8
        tmo := bits x.b 0 24, src := x.recw, phase := .waiting false, firstOffer := 0, refusedAt := 0
        posted := none, ring := none, order := 0, got := [], issued := [], top := 0, accepted := 0, cut := none
        refused := none, headerOut := false, flagFault := none, dead := false, arrived := 0 }
      offerNear { s.fresh with msgs := s.msgs ++ [m] }
    | _ => s

/-- The fabric die accepts a message's header for transmission, or refuses it: the fabric is not up (R385), there is no path
(R119), or the link is dead (R350). -/
def admitMsg (m : Msg) (s : State) : State :=
  let l := m.leg s
  if (s.pkg l.node).phase < 3 then endMsg m (failToken .access 0 0) s
  else if ¬ pathLive s l.node l.ctx l.peer then endMsg m (failToken .lapsed 0 0) s
  else if (s.pkg l.node).deadLinks.contains l.peer then endMsg m (failToken .path 0 0) s
  else if legWaits s l 0 then s
  else
    modMsg m.id (Msg.offer (s.taper l.node)) (sendOut l 0 s)

/-- SEND_START (R268). -/
def execSendStart (c : ClusterId) (s : State) : Out :=
  .next (match nextMessage s c with
    | none => s
    | some x =>
      match x.ins with
      | .send _ _ _ _ _ => startSend x (dequeue .message x s)
      | _ => s)

/-- A posted receive matches a key, and its lease is live (R266). -/
def Posted.takes (s : State) (key : W64) (r : Posted) : Bool :=
  decide ((key ^^^ r.pattern) &&& r.mask &&& 0xFFFFFFE0FFFFFFFF#64 = 0) &&
  match present s r.lease with
  | .live _ _ _ => true
  | _ => false

/-- Entries a message takes in a ring (R264). -/
def Msg.entries (m : Msg) : Nat := (32 + layBytes m.src + 63) / 64

/-- The unit that holds HEAD and TAIL of an endpoint's ring is poisoned (R196). -/
def ringPoisoned (s : State) (e : Endpoint) : Bool := s.isPoisoned (physOfKey e.head)

/-- Free room of an endpoint's ring (R264). -/
def ringRoom (s : State) (e : Endpoint) : Nat :=
  let head := s.peek (physOfKey e.head) 4 % e.n
  (head + e.n - e.resv - 1 + e.n) % e.n

/-- The offer is still in time: the first always is (R269). -/
def inTime (s : State) (m : Msg) : Bool :=
  match m.phase with
  | .offered false => true
  | _ => decide (s.taper m.cmd.tid.core.node < m.firstOffer + m.tmo)

/-- Start reading a message's payload (R268). -/
def readPayload (m : Msg) (s : State) : State := issueReads m.cmd (.msgRead m.id) m.src s

/-! ### The payload (R264, R267) -/

/-- The stream of a message's payload. -/
def Msg.stream (m : Msg) : Stream := ⟨layZero m.src, layEsize m.src, m.got⟩
/-- Payload bytes of a message: to the element at which a refused read ended it. -/
def Msg.size (m : Msg) : Nat :=
  match m.cut with
  | some (k, _) => k * layEsize m.src
  | none => layBytes m.src
/-- Payload bytes that are to be written: what DEST holds of a landing (R267), all of them in the ring. -/
def Msg.total (m : Msg) : Nat :=
  match m.posted with
  | some r => min m.size (layBytes r.dest)
  | none => m.size

/-- The writes of a message: their addresses, in order. -/
def Msg.units (m : Msg) : List W64 :=
  match m.posted, m.ring, m.phase with
  | some r, _, _ => destUnits r.dest m.total
  | none, some q, .ringing entry =>
    (List.range ((32 + m.total + 63) / 64)).map fun k => q.base + BitVec.ofNat 64 (64 * ((entry + k) % q.n))
  | _, _, _ => []

/-- The bytes of unit `k`: offsets in it, positions in the payload. In the ring the payload follows byte 32 (R264). -/
def Msg.unitBytes (m : Msg) (k : Nat) (u : W64) : List (Nat × Nat) :=
  match m.posted with
  | some r => Machine.unitBytes r.dest m.total u
  | none => (List.range 64).filterMap fun o =>
      let pos := 64 * k + o
      if 32 ≤ pos ∧ pos < 32 + m.total then some (o, pos - 32) else none

/-- Every payload byte up to a position has been read. -/
def Msg.upTo (m : Msg) (pos : Nat) : Bool :=
  m.stream.zero || (List.range (pos / layEsize m.src + 1)).all fun k => (m.got.look k).isSome

/-- The command under which a message's writes are made: those of the receiving context (R267). -/
def Msg.writer (m : Msg) : Cmd :=
  match m.posted, m.ring with
  | some r, _ => { m.cmd with tid := r.tid, ctx := r.ctx, space := r.space }
  | none, some q => { m.cmd with tid := q.tid, ctx := q.ctx }
  | none, none => m.cmd

/-- Issue the writes whose bytes, and all before them, have been read. -/
def issueMsgUnits (m : Msg) (s : State) : State :=
  m.units.zipIdx.foldl (fun (s : State) x =>
    let bs := m.unitBytes x.2 x.1
    if !m.issued.contains x.2 && bs.all (fun b => m.upTo b.2) then
      let s := modMsg m.id (fun q => { q with issued := q.issued ++ [x.2] }) s
      if bs = [] then s else postEngine m.writer (.msgWrite m.id x.2) (m.stream.write bs) x.1 64 s
    else s) s

/-- The payload is all read, or cut, and every write of it is accepted or refused. -/
def Msg.payloadDone (m : Msg) (s : State) : Bool :=
  match m.refused with
  | none => decide (m.issued.length = m.units.length) && !(s.accs.any (·.ofMsg m.id)) &&
      decide (m.total = 0 ∨ m.upTo (m.total - 1)) && (m.cut.isSome || m.stream.zero || m.upTo (layBytes m.src - 1))
  | some _ => (s.accs.filter (·.ofMsg m.id)).all fun a => decide (m.top ≤ a.msgUnit)

/-- The header of a ring message (R264). DESIGN CHOICE: STATUS is PARTIAL also where a write to the ring was refused (log 118). -/
def Msg.header (m : Msg) : List W64 :=
  [m.key,
   BitVec.ofNat 64 (m.accepted % 2 ^ 36 + (if m.cut.isSome ∨ m.refused.isSome then Status.partial_.code else 0) * 2 ^ 36 +
     m.entries % 2 ^ 16 * 2 ^ 44), 0, 0]

/-- The header of a ring message is written after its payload (R264). -/
def headerNext (j : Nat) (s : State) : State :=
  match s.msg? j with
  | none => s
  | some m =>
    match m.ring, m.phase with
    | some q, .ringing entry =>
      if m.headerOut ∨ ¬ m.payloadDone s then s
      else
        let s := dropAccs (·.ofMsg j) s
        let bs := m.header.flatMap fun w => leBytes w.toNat 8
        modMsg j (fun x => { x with headerOut := true })
          (postEngine m.writer (.msgWrite j m.entries) (.engWrite (bs.zipIdx.map fun b => (b.2, b.1)))
            (q.base + BitVec.ofNat 64 (64 * entry)) 64 s)
    | _, _ => s

/-- Go on with a message's writes. -/
def msgProgress (j : Nat) (s : State) : State :=
  headerNext j (match s.msg? j with
    | none => s
    | some m => if m.refused.isSome then s else issueMsgUnits m s)

/-- A unit of the payload is read at its home (R258, R268). -/
def msgReadDone (a : Acc) (j : Nat) (p : Phys) (s : State) : State :=
  msgProgress j (modMsg j (fun m => { m with got := gotUnit m.src a.ea (s.bytes p a.len) m.got }) s)

/-- A unit is written at its home; the header adds no payload bytes. -/
def msgWriteDone (a : Acc) (j n : Nat) (p : Phys) (s : State) : State :=
  msgProgress j (modMsg j
    (fun m => if m.headerOut then m else { m with accepted := m.accepted + a.op.count, top := max m.top (n + 1) })
    (engineWrite p a.op.engBytes s))

/-- A unit of a message is refused. A refused read ends the message there (R268); a refused write stops the landing (R267),
and the rest of the payload is not read. The header of a ring message is no payload: its refusal says nothing of that (R268). -/
def msgRefused (a : Acc) (j : Nat) (f : FaultInfo) (s : State) : State :=
  match a.agent with
  | .msgRead _ k =>
    let cutAt := fun (m : Msg) => match m.cut with
      | some (i, g) => if i < k then some (i, g) else some (k, f)
      | none => some (k, f)
    msgProgress j (dropAccs (fun x => match x.agent with | .msgRead i n => decide (i = j ∧ k < n) | _ => false)
      (modMsg j (fun m => { m with cut := cutAt m }) s))
  | _ =>
    let later := fun (x : Acc) => match x.agent with
      | .msgWrite i m => decide (i = j ∧ a.msgUnit < m) && x.sameHome a
      | _ => false
    msgProgress j (dropAccs (fun x => x.msgReads j || later x)
      (modMsg j (fun m => if m.headerOut then m
        else { m with refused := m.refused.or (some f), top := max m.top (a.msgUnit + 1) }) s))

/-- An offer is refused as a whole (R269). -/
def refuseOffer (m : Msg) (s : State) : State :=
  modMsg m.id (fun x => { x with phase := .refused, refusedAt := s.taper m.cmd.tid.core.node }) s

/-- A message goes to the first receive that takes it, or to the ring, or is refused (R264, R266, R269). DESIGN CHOICE: where HEAD
is poisoned, what the engine reads for the free room is POISON, and the sender's token reports it (R196, R396, log 143). -/
def decideMsg (m : Msg) (s : State) : State :=
  let e := s.endpoint m.dest m.ep
  if ¬ e.live ∨ e.gen ≠ m.gen then endMsg m (failToken .noEndpoint 0 0) s
  else if ¬ inTime s m then refuseOffer m s
  else
    match e.posted.find? (·.takes s m.key) with
    | some r =>
      let s := modEndpoint m.dest m.ep (fun e => { e with posted := e.posted.filter fun x => decide (x.lease ≠ r.lease) }) s
      let m := { m with phase := .landing, posted := some r }
      msgProgress m.id (readPayload m (offerNear (modMsg m.id (fun _ => m) s)))
    | none =>
      if ringPoisoned s e then endMsg m (failToken .poison 0 0) s
      else if ringRoom s e < m.entries then refuseOffer m s
      else
        let m := { m with phase := .ringing e.resv, ring := some ⟨e.base, e.n, e.tid, e.ctx⟩, order := s.nextId }
        let s := modEndpoint m.dest m.ep (fun e => { e with resv := (e.resv + m.entries) % e.n }) s.fresh
        msgProgress m.id (readPayload m (offerNear (modMsg m.id (fun _ => m) s)))

/-- MESSAGE_DECISION (R266): the first flit of an offered message is accepted at the endpoint's engine. -/
def execMessageDecision (j : Nat) (s : State) : Out :=
  .next (match s.msg? j with
    | none => s
    | some m =>
      match m.phase with
      | .offered _ => decideMsg m s
      | _ => s)

/-- An offer that was refused may be made again: the message is refused, and TMO has not run out (R269). -/
def mayRetry (s : State) (m : Msg) : Bool :=
  decide (m.phase = .refused ∧ s.taper m.cmd.tid.core.node < m.firstOffer + m.tmo)

/-- A refused message is offered again: to another package once its fabric die has accepted it (R119, R269). -/
def Msg.retry (now : Nat) (m : Msg) : Msg :=
  let m := { m with phase := .waiting true }
  if m.isFar then m else m.offer now

/-- RING_OFFER_RETRY (R269): a refused message is offered again. -/
def execRingOfferRetry (j : Nat) (s : State) : Out :=
  .next (match s.msg? j with
    | none => s
    | some m => if mayRetry s m then arriveFar (modMsg j (Msg.retry (s.taper m.cmd.tid.core.node)) s) else s)

/-- A message that has been refused has had its TMO ticks since the first offer (R269). -/
def ringLate (s : State) (m : Msg) : Bool :=
  decide (m.phase = .refused ∨ m.phase = .waiting true) && decide (m.firstOffer + m.tmo ≤ s.taper m.cmd.tid.core.node)

/-- RING_FULL_TIMEOUT (R269). -/
def execRingFullTimeout (j : Nat) (s : State) : Out :=
  .next (match s.msg? j with
    | none => s
    | some m => if ringLate s m then endMsg m (failToken .ringFull 0 0) s else s)

/-- RING_HEAD_STORE (R264, R269): a store at the HEAD word signals the senders whose messages the endpoint has refused. -/
def execRingHeadStore (h : DieId) (ep : Nat) (s : State) : Out :=
  .next
    (if (s.endpoint h ep).headMoved then
      let due := fun (m : Msg) => decide (m.dest = h ∧ m.ep = ep) && mayRetry s m
      let s := modEndpoint h ep (fun e => { e with headMoved := false }) s
      arriveFar { s with msgs := mapIf s.msgs due fun m => m.retry (s.taper m.cmd.tid.core.node) }
    else s)

/-- TAIL_UPDATE (R264): payload and header are written, and every message decided before on the endpoint has had its
update; TAIL advances, left full. DESIGN CHOICE: a refused write of TAIL leaves it, and is the refusal that the sender's token
reports (R196, R396, log 143). -/
def execTailUpdate (j : Nat) (s : State) : Out :=
  .next (match s.msg? j with
    | none => s
    | some m =>
      let earlier := s.msgs.any fun x => decide (x.dest = m.dest ∧ x.ep = m.ep ∧ x.gen = m.gen ∧ x.order < m.order) &&
        (match x.phase with | .ringing _ => true | _ => false)
      match m.phase with
      | .ringing _ =>
        if ¬ m.headerOut ∨ s.accs.any (·.ofMsg j) ∨ earlier then s
        else
          let e := s.endpoint m.dest m.ep
          let p := (physOfKey e.head).plus 4
          let bs := leBytes ((s.peek p 4 + m.entries) % e.n) 4
          let settle := fun (f : Option FaultInfo) => modMsg j (fun x => { x with phase := .settled, refused := x.refused.or f }) s
          if e.live ∧ e.gen = m.gen then
            match ringWordRefusal s e.tid e.ctx p bs with
            | some f => settle (some f)
            | none => fillWords [p] (storeAt p bs (settle none))
          else settle none
      | _ => s)

/-- The status of a landing's completion record (R267). DESIGN CHOICE: a refused read of the sender makes it PARTIAL also where DEST
is the shorter one (R268, log 120). -/
def Msg.landed (m : Msg) (r : Posted) : Nat :=
  if m.cut.isSome ∨ m.refused.isSome then Status.partial_.code
  else if layBytes r.dest < layBytes m.src then Status.truncated.code else 0

/-- The completion record (R267), written in one acceptance, unless its home refuses it. -/
def writeDone (m : Msg) (r : Posted) (s : State) : State :=
  if r.done = 0 then s
  else
    match donePlace r.tid.core r.done with
    | none => s
    | some p =>
      let ws := [m.key, BitVec.ofNat 64 (m.accepted % 2 ^ 36 + m.landed r * 2 ^ 36)]
      let ls := (ws.flatMap fun w => leBytes w.toNat 8).zipIdx.map fun b => (b.2, b.1)
      match homeRefusal s r.tid r.ctx p r.done 16 (.engWrite ls) with
      | some _ => s
      | none => engineWrite p ls s

/-- LANDING_COMPLETE (R267): every landed unit is settled; the completion record is written, then DEST's flag is raised. -/
def execLandingComplete (j : Nat) (s : State) : Out :=
  .next (match s.msg? j with
    | none => s
    | some m =>
      match m.phase, m.posted with
      | .landing, some r =>
        if ¬ m.payloadDone s then s
        else
          let s := writeDone m r (dropAccs (·.ofMsg j) s)
          let x := if layFlag r.dest then raiseEngineFlag r.tid r.ctx (wordAt r.dest 6) s else (none, s)
          modMsg j (fun m => { m with phase := .settled, flagFault := x.1.map statusOf }) x.2
      | _, _ => s)

/-- What a settled message's token reports (R254, R268). -/
def Msg.result (m : Msg) : W64 :=
  match m.refused.or (m.cut.map (·.2)) with
  | some f => cutToken f m.accepted
  | none =>
    if m.accepted < layBytes m.src then failToken .truncated 0 m.accepted
    else
      match m.flagFault with
      | some st => failToken st 0 0
      | none => BitVec.ofNat 64 m.cmd.job

/-- SEND_COMPLETE (R268): the receiver's writes are settled, and the sender's token fills, once the circuits of the answer's way are not
being changed (R346); the token of a message whose link has died is filled (R269). -/
def execSendComplete (j : Nat) (s : State) : Out :=
  .next (match s.msg? j with
    | some m => if m.phase = .settled ∧ answerHeld s m.dest.node m.cmd.tid.core.node = false then endMsg m m.result s else s
    | none => s)

/-- The first payload element of a message that has not been read. -/
def Msg.firstUnread (m : Msg) : Option Nat :=
  if m.stream.zero then none else (List.range (layElems m.src)).find? fun k => (m.got.look k).isNone

/-- A message whose link dies (R269): the sender's token gives PATH, with CAUSE 1 unless no flit has left; what the receiver
has decided ends where its payload stands, and lands or is written so. -/
def cutMsg (m : Msg) (s : State) : State :=
  match m.phase with
  | .waiting false => endMsg m (failToken .path 0 0) s
  | .waiting true | .offered _ | .refused => endMsg m (failToken .path 1 0) s
  | _ =>
    let s := if m.dead then s else token m.cmd (failToken .path 1 0) s
    let s := modMsg m.id (fun m => { m with dead := true }) s
    match m.phase, m.cut, m.firstUnread with
    | .settled, _, _ => s
    | _, none, some k =>
      msgProgress m.id (dropAccs (·.msgReads m.id) (modMsg m.id (fun m => { m with cut := some (k, ⟨.path, 0, 0, 1⟩) }) s))
    | _, _, _ => s

/-! ### RPROBE (R270) -/

/-- Walk the messages of a ring from entry `at_` on, at most `fuel` of them: what the token receives. A header in a poisoned unit
ends the walk with POISON (R196, R396). -/
def probe (s : State) (base : Phys) (n tail : Nat) (pat mask : W64) : Nat → Nat → W64
  | 0, _ => 0
  | fuel + 1, at_ =>
    if at_ = tail then 0
    else
      let p := base.plus (64 * at_)
      if s.isPoisoned p then failToken .poison 0 0
      else
        let key := BitVec.ofNat 64 (s.peek p 8)
        let w1 := BitVec.ofNat 64 (s.peek (p.plus 8) 8)
        if (key ^^^ pat) &&& mask &&& 0xFFFFFFE0FFFFFFFF#64 = 0 then
          BitVec.ofNat 64 (bits w1 0 36 + at_ % 2 ^ 16 * 2 ^ 36 + 2 ^ 62)
        else probe s base n tail pat mask fuel ((at_ + max 1 (bits w1 44 16)) % n)

/-- RPROBE_START (R270); HEAD and TAIL in a poisoned unit give POISON (R196, R396). -/
def execRprobeStart (c : ClusterId) (s : State) : Out :=
  .next (match nextMessage s c with
    | none => s
    | some x =>
      match x.ins with
      | .rprobe _ _ _ w _ =>
        let h := dieOfCluster c
        let ep := w.toNat % 256
        let s := dequeue .message x s
        if ¬ ownEndpoint s h x.ctx ep then failCmd x .noEndpoint s
        else
          let e := s.endpoint h ep
          let head := physOfKey e.head
          if ringPoisoned s e then failCmd x .poison s
          else token x (probe s { head with off := head.off - 64 * e.n } e.n (s.peek (head.plus 4) 4 % e.n) x.a x.b e.n
            (s.peek head 4 % e.n)) s
      | _ => s)

end Sys2Proof.Machine
end

