-- ==== Sys2Proof/Machine/Matrix.lean ====
section
/-!
DEFINITION. The matrix engine (R274 to R302): its commands at issue, the start conditions and the gang barrier, the order
of summation, drains and agreement, weight loads, self-tests, fencing and failure; and the discard of queued commands
whose guard is false (R248).
-/

namespace Sys2Proof.Machine

/-! ### Commands -/

/-- The words of a matrix command: its sub field and word1 (R289). -/
def mxWord : Instr → Option (Nat × W32)
  | .mma _ _ _ w _ => some (0, w)
  | .mwld _ w _ => some (1, w)
  | .mzero _ w _ => some (2, w)
  | .mdrain _ _ _ w _ => some (3, w)
  | .magr _ _ _ w _ => some (4, w)
  | .mstat _ w _ => some (5, w)
  | .mtest _ w _ => some (6, w)
  | _ => none

/-- The sub field of a command. -/
def Cmd.sub (c : Cmd) : Nat := ((mxWord c.ins).map (·.1)).getD 7
/-- word1 of a command. -/
def Cmd.word1 (c : Cmd) : W32 := ((mxWord c.ins).map (·.2)).getD 0
/-- A field of word1. -/
def Cmd.wf (c : Cmd) (lo n : Nat) : Nat := wfield c.word1 lo n
/-- A gang command (Table 11-1). -/
def Cmd.gang (c : Cmd) : Bool := decide (c.sub = 0 ∨ c.sub = 1 ∨ c.sub = 6)

/-- The row stride: Gb[18:0]. -/
def strideOf (b : W64) : Nat := bits b 0 19

/-- Bytes of an output element (R293). -/
def outBytes (ofmt : Nat) : Nat := if ofmt = 0 then 4 else if ofmt ≤ 2 then 2 else 1

/-- The address checks of MMA and MDRAIN (R290, R293): `last` bytes are touched in the last of `mr` + 1 rows. -/
def mxAddress (c : CoreId) (a b : W64) (mr last : Nat) : Option FaultInfo :=
  match classify c a with
  | .place p =>
    if bits a 56 8 ≠ 0xF0 then some (accessFault a 2)
    else if ¬ aligned a 64 then some (causeOf .align a)
    else if strideOf b % 64 ≠ 0 then some (causeOf .align b)
    else if 0x80000 < p.off + mr * strideOf b + last then some (accessFault a 2)
    else none
  | _ => some (accessFault a 2)

/-- The traps of a matrix instruction at step 5 (R289, R300). `w`: word1. -/
def mxTrap (w : W32) (addr : Thread → Option FaultInfo) (s : State) : Option FaultInfo :=
  let un := fun (n : Nat) => some (⟨.matrixUnavailable, s.me.word64, w.setWidth 64, BitVec.ofNat 64 n⟩ : FaultInfo)
  if (s.cluster (clusterOf s.cur.core)).mxFailed then un 0
  else if s.me.gridf.getLsbD 24 then un 1
  else addr s.me

/-- Issue of a matrix command (R289): no job ID, no records. -/
def mxIssue (i : Instr) (close : Bool) (d : BitVec 4) (srcs : List GSrc) (g : Guard) (a b : Thread → W64)
    (addr : Thread → Option FaultInfo) (s : State) : Out :=
  engineIssue i .matrix false false close d srcs g a b (fun _ => [])
    (mxTrap (((mxWord i).map (·.2)).getD 0) addr) s

/-- MMA (R290). -/
def execMma (d : BitVec 4) (a b : GSrc) (w : W32) (g : Guard) (s : State) : Out :=
  mxIssue (.mma d a b w g) true d [a, b] g (·.src a) (·.src b)
    (fun t => mxAddress s.cur.core (t.src a) (t.src b) (wfield w 0 6) 64) s
/-- MWLD (R291). -/
def execMwld (d : BitVec 4) (w : W32) (g : Guard) (s : State) : Out :=
  mxIssue (.mwld d w g) true d [] g (fun _ => 0) (fun _ => 0) (fun _ => none) s
/-- MZERO (R292). -/
def execMzero (d : BitVec 4) (w : W32) (g : Guard) (s : State) : Out :=
  mxIssue (.mzero d w g) true d [] g (fun _ => 0) (fun _ => 0) (fun _ => none) s
/-- MDRAIN (R293). -/
def execMdrain (d : BitVec 4) (a b : GSrc) (w : W32) (g : Guard) (s : State) : Out :=
  mxIssue (.mdrain d a b w g) true d [a, b] g (·.src a) (·.src b)
    (fun t => mxAddress s.cur.core (t.src a) (t.src b) (wfield w 0 6) (32 * outBytes (wfield w 10 3))) s
/-- MAGR (R294). -/
def execMagr (d : BitVec 4) (a b : GSrc) (w : W32) (g : Guard) (s : State) : Out :=
  mxIssue (.magr d a b w g) true d [a, b] g (·.src a) (·.src b) (fun _ => none) s
/-- MSTAT (R295): the one matrix instruction that does not close its region. -/
def execMstat (d : BitVec 4) (w : W32) (g : Guard) (s : State) : Out :=
  mxIssue (.mstat d w g) false d [] g (fun _ => 0) (fun _ => 0) (fun _ => none) s
/-- MTEST (R296). -/
def execMtest (d : BitVec 4) (w : W32) (g : Guard) (s : State) : Out :=
  mxIssue (.mtest d w g) true d [] g (fun _ => 0) (fun _ => 0) (fun _ => none) s

/-! ### Guards (R248) -/

/-- The command at the head of a channel's queue. The matrix queue is one FIFO of its core (R274). -/
def channelHead (s : State) (tid : Tid) (q : EngineQueue) : Option Cmd :=
  match q with
  | .matrix => ((s.core tid.core).matrixQ.head?).filter fun c => decide (c.tid = tid)
  | q => (queueOf s tid.core q).find? fun c => decide (c.tid = tid)

/-- ENGINE_GUARD_RESOLVE (R248): the head of a channel's queue whose guard is false is discarded; a job has its turn
first. -/
def execEngineGuardResolve (c : CoreId) (q : EngineQueue) (sl : Nat) (s : State) : Out :=
  .next (match channelHead s ⟨c, sl⟩ q with
    | none => s
    | some x =>
      if x.guard = .known false ∧ jobTurn s x = true then failCmd x .discarded (dequeue q x s)
      else s)

/-! ### Start conditions (Table 11-1, R276, R301) -/

/-- The drain of a core's slice. -/
def Cluster.drain? (k : Cluster) (core : Nat) : Option Drain := k.drains.look core

/-- Every command that the slice has started is complete. -/
def sliceIdle (s : State) (c : CoreId) : Bool :=
  let k := s.cluster (clusterOf c)
  decide (k.mma = [] ∧ k.mwld = [] ∧ k.mtest = none) && (k.drain? c.core).isNone

/-- The start condition of a command at the head of its slice's queue (Table 11-1). For a slice command and MTEST every
earlier command has completed (R295). An MMA waits for an MDRAIN or an MTEST that is still running also where an MWLD stands
between them (R290, R296, row 43 of Table 17-1; log 109). -/
def mxReady (s : State) (c : CoreId) (x : Cmd) : Bool :=
  let k := s.cluster (clusterOf c)
  match x.sub with
  | 0 => k.mtest.isNone && (k.drain? c.core).isNone && (decide (x.wf 9 1 = 0) || decide (k.mwld = []))
  | 1 => true
  | _ => sliceIdle s c

/-- The slice must be scrubbed before it serves a command: its record names another context, and it has not scrubbed for this
command yet (R301). -/
def mustScrub (s : State) (c : CoreId) (x : Cmd) : Bool :=
  match (s.slice c).lastCtx with
  | none => false
  | some ctx => decide (ctx ≠ x.ctx ∧ (s.slice c).scrubFor ≠ some x.id)

/-- The head of a core's matrix queue when its guard is true. Before phase 2 of bring-up the engines are off, and commands
wait (R385, log 28). -/
def mxHead (s : State) (c : CoreId) : Option Cmd :=
  ((s.core c).matrixQ.head?).filter fun x => decide (x.guard = .known true ∧ 2 ≤ (s.pkg c.node).phase)

/-- In phase 2 the engines run BF16 only (R385). -/
def fmtServed (s : State) (node f : Nat) : Bool := decide (f = 6 ∨ 3 ≤ (s.pkg node).phase)

/-- The slice command of one kind that starts now on a core. -/
def mxNext (s : State) (c : CoreId) (sub : Nat) : Option Cmd :=
  (mxHead s c).filter fun x => decide (x.sub = sub) && !mustScrub s c x && mxReady s c x

/-- The scrub for a queued command (R301): the matrix state is as after module reset; the record still names the context of the last
command started. -/
def Slice.scrub (id : Nat) (x : Slice) : Slice := { x with
  tiles := Vector.replicate 4 Tile.reset
  counts := []
  cpair := none
  active := Bank.reset
  shadow := Bank.reset
  agt := 0
  agk := 0
  agz := 0
  age := 0
  ago := 0
  scrubFor := some id }

/-- MATRIX_CONTEXT_SCRUB (R301): the head of the queue is of another context than the slice's last command; the slice is
scrubbed once its started commands are complete. -/
def execMatrixContextScrub (c : CoreId) (s : State) : Out :=
  .next (match mxHead s c with
    | some x => if mustScrub s c x ∧ sliceIdle s c = true then s.modSlice c (Slice.scrub x.id) else s
    | none => s)

/-- A command starts on its slice: it leaves the queue, and the slice records its context (R274, R301). -/
def mxStart (x : Cmd) (s : State) : State :=
  (dequeue .matrix x s).modSlice x.tid.core fun k => { k with lastCtx := some x.ctx, scrubFor := none }

/-- The commands of the members that have arrived at a cluster's barrier. -/
def gangCmds (s : State) (c : ClusterId) : List Cmd :=
  (s.cluster c).arrived.filterMap fun i => (s.core (coreIn c i)).matrixQ.head?

/-- A gang barrier fails (R276): every arrived member is removed with GANG, and each grid of a member counts the failure
(R367). -/
def gangFail (c : ClusterId) (s : State) : State :=
  let xs := gangCmds s c
  let grids := (xs.map fun x => (s.th x.tid).gridf).eraseDups
  let s := xs.foldl (fun s x => failCmd x .gang (dequeue .matrix x s)) s
  let s := s.modCluster c fun k => { k with arrived := [] }
  grids.foldl (fun s g => report g c.node 5 1 [] s) s

/-- The members of a full barrier agree (R276). -/
def gangAgrees (xs : List Cmd) : Bool :=
  match xs with
  | [] => false
  | x :: xs => xs.all fun y => decide (y.sub = x.sub ∧ y.word1 = x.word1 ∧ y.ctx = x.ctx)

/-- GANG_ARRIVAL (R276): a gang command meets its start condition and arrives; the eighth closes the barrier. -/
def execGangArrival (c : CoreId) (s : State) : Out :=
  .next (match mxHead s c with
    | none => s
    | some x =>
      let cl := clusterOf c
      if ¬ x.gang ∨ mustScrub s c x = true ∨ mxReady s c x = false ∨ (s.cluster cl).arrived.contains c.core = true then s
      else
        let s := s.modCluster cl fun k => { k with
          arriveT := if k.arrived = [] then s.taper c.node else k.arriveT
          arrived := k.arrived ++ [c.core] }
        if (s.cluster cl).arrived.length = Config.cores ∧ gangAgrees (gangCmds s cl) = false then gangFail cl s else s)

/-- The boundary at which an open barrier fails is reached (R276). -/
def gangLate (s : State) (c : ClusterId) : Bool :=
  let k := s.cluster c
  match gangCmds s c with
  | [] => false
  | x :: _ => decide (k.arrived.length < Config.cores ∧ k.arriveT + x.wf 24 8 + 1 ≤ s.taper c.node)

/-- GANG_BARRIER_TIMEOUT (R276). -/
def execGangBarrierTimeout (c : ClusterId) (s : State) : Out := .next (if gangLate s c then gangFail c s else s)

/-- The eight commands of a closed barrier, core 0 first, when they are of one kind. -/
def gangReady (s : State) (c : ClusterId) (sub : Nat) : Option (List Cmd) :=
  if (s.cluster c).arrived.length ≠ Config.cores ∨ (s.cluster c).testFails ≠ [] then none
  else
    let xs := (List.range Config.cores).filterMap fun i => (s.core (coreIn c i)).matrixQ.head?
    if xs.length = Config.cores ∧ (xs.all fun x => decide (x.sub = sub)) = true then some xs else none

/-- A gang starts on every slice (R276). -/
def gangStart (c : ClusterId) (xs : List Cmd) (s : State) : State :=
  (xs.foldl (fun s x => mxStart x s) s).modCluster c fun k => { k with arrived := [] }

/-- Every member's token takes one value. -/
def gangTokens (xs : List Cmd) (v : W64) (s : State) : State := xs.foldl (fun s x => token x v s) s

/-! ### Tiles (R282 to R284) -/

/-- A tile of a slice. -/
def Slice.tile (x : Slice) (n : Nat) : Tile := x.tiles.toList.getD n Tile.reset
/-- Change a tile. -/
def Slice.modTile (x : Slice) (n : Nat) (f : Tile → Tile) : Slice :=
  { x with tiles := x.tiles.setIfInBounds n (f (x.tile n)) }
/-- Element [i][j] of a tile. -/
def Tile.at_ (t : Tile) (i j : Nat) : W32 := t.el.get 0 (32 * i + j)
/-- Write an element; NAN and INF are sticky (R283). -/
def Tile.put (t : Tile) (i j : Nat) (x : W32) : Tile :=
  let k := 32 * i + j
  let v := fp32.decode x.toNat
  { t with
    el := if x = 0 then t.el.erase k else t.el.set k x
    nan := t.nan || v.isNan
    inf := t.inf || (match v with | .inf _ => true | _ => false) }
/-- Add a rounded group sum to an element (R282). -/
def Tile.accumulate (t : Tile) (i j : Nat) (x : Num) : Tile :=
  t.put i j (BitVec.ofNat 32 (fp32.add (t.at_ i j).toNat (fp32.ofNum x).1).1)

/-- The exact sum of finite values; −0 only if every one is −0 (R283). -/
def exactSum (xs : List Num) : Num :=
  let b := xs.foldl (fun (b : Int) x => match x with | .fin _ _ e => min b e | _ => b) 0
  let v := xs.foldl (fun (v : Int) x => match x with | .fin n m e => v + scaled n m e b | _ => v) 0
  if v = 0 then .fin (xs.all fun x => x.neg && x.isZero) 0 0 else .fin (decide (v < 0)) v.natAbs b

/-- A product is an infinity of a sign. -/
def isInf (neg : Bool) : Option Num → Bool
  | some (.inf n) => n = neg
  | _ => false

/-- gsum (R283); a product that is none is a NaN. -/
def gsum (ps : List (Option Num)) : Num :=
  if ps.any Option.isNone || (ps.any (isInf false) && ps.any (isInf true)) then .nan false
  else if ps.any (isInf false) then .inf false
  else if ps.any (isInf true) then .inf true
  else exactSum (ps.filterMap id)

/-- A product above 0, or with `neg` below it. -/
def counted (neg : Bool) : Option Num → Bool
  | some p => !p.isZero && decide (p.neg = neg)
  | none => false

/-- psum, or nsum: the sum of the magnitudes of the products of one sign (R284). -/
def signSum (neg : Bool) (ps : List (Option Num)) : Num :=
  if ps.any Option.isNone then .nan false
  else if ps.any (isInf neg) then .inf false
  else exactSum ((ps.filter (counted neg)).filterMap fun p => p.map fun x => if x.neg then x.negate else x)

/-- A count grows, with its limit (R284): the count, and whether it met the limit. -/
def countUp (c n : Nat) : Nat × Bool := if 65535 < c + n then (65535, true) else (c + n, false)

/-- One group of one element (R282, R284). -/
def mxGroup (tile : Nat) (split : Bool) (i j : Nat) (ps : List (Option Num)) (x : Slice) : Slice :=
  if split then
    let c := x.counts.get (0, 0) (32 * i + j)
    let p := countUp c.1 (ps.filter (counted false)).length
    let n := countUp c.2 (ps.filter (counted true)).length
    let x := x.modTile tile fun t => { t.accumulate i j (signSum false ps) with csat := t.csat || p.2 }
    let x := x.modTile (tile + 1) fun t => { t.accumulate i j (signSum true ps) with csat := t.csat || n.2 }
    { x with counts := if (p.1, n.1) = (0, 0) then x.counts.erase (32 * i + j) else x.counts.set (32 * i + j) (p.1, n.1) }
  else x.modTile tile fun t => t.accumulate i j (gsum ps)

/-! ### Rows and weights (R278 to R281) -/

/-- Width of an element code of a format (R278). -/
def mxWidth (f : Nat) : Nat :=
  match f with
  | 0 | 1 => 8
  | 2 | 3 => 6
  | 4 | 5 => 4
  | _ => 16

/-- BF16 pairs only with BF16 (R280). -/
def mxPair (a b : Nat) : Bool := decide ((a = 6) = (b = 6))
/-- K of two formats (Table 11-4). -/
def mxK (a b : Nat) : Nat := 3072 / max (mxWidth a) (mxWidth b)
/-- Rows that enter in one cycle (Table 11-4). -/
def mxRate (a b : Nat) : Nat := if max (mxWidth a) (mxWidth b) = 4 then 2 else 1

/-- Bytes [from, from + n) of a list. -/
def slice (l : List Byte) (a n : Nat) : List Byte := (l.drop a).take n

/-- Element `k` of a bit string of codes of a format. -/
def codeAt (f x k : Nat) : Nat := x / 2 ^ (mxWidth f * k) % 2 ^ mxWidth f

/-- The value of an element code with its block's scale and spare (R158, R161, R282). -/
def mxElemNum (f code scale spare : Nat) : Num := if f = 6 then fpBf16.decode code else blockElem f code scale spare

/-- Element `k` of column `c` of a bank (R278). -/
def bankElem (b : Bank) (col : Nat) (c k : Nat) : Num :=
  let byte := fun (i : Nat) => (b.data.getD (12288 + 64 * c + i) 0).toNat
  mxElemNum b.fmt (codeAt b.fmt col k) (byte (k / 32)) (byte (32 + k / 32))

/-- The data of column `c` of a bank as one little-endian number (R278). -/
def bankColumn (b : Bank) (c : Nat) : Nat := leNat (slice b.data (384 * c) 384)

/-- The elements of a row from the eight cores' slots (Tables 11-5, 11-6): the core that holds the first element of a
group supplies its scale and spare. -/
def rowElems (f k : Nat) (slots : List (List Byte)) : List Num :=
  let share := k / 8
  let nums := slots.map fun b => leNat (b.take 48)
  (List.range k).map fun e =>
    let g := e / 32
    let c := 32 * g / share
    let at_ := fun (o : Nat) => ((slots.getD c []).getD (o + (g - (c * share + 31) / 32)) 0).toNat
    mxElemNum f (codeAt f (nums.getD (e / share) 0) (e % share)) (at_ 48) (at_ 51)

/-- The products of group `g` (R282). -/
def groupProducts (row col : List Num) (g : Nat) : List (Option Num) :=
  (List.range 32).map fun j => (row.getD (32 * g + j) (.nan false)).mul (col.getD (32 * g + j) (.nan false))

/-- One row into one slice (R282): columns, and in each its groups in ascending order. -/
def mxRowSlice (tile : Nat) (split : Bool) (af i : Nat) (row : List Num) (x : Slice) : Slice :=
  let k := mxK af x.active.fmt
  (List.range 32).foldl (fun x j =>
    let n := bankColumn x.active j
    let col := (List.range k).map (bankElem x.active n j)
    (List.range (k / 32)).foldl (fun x g => mxGroup tile split i j (groupProducts row col g) x) x) x

/-- The tiles that an MMA writes, as a mask. -/
def Cmd.tileMask (c : Cmd) : Nat := if c.wf 8 1 = 1 then 3 * 2 ^ c.wf 6 2 else 2 ^ c.wf 6 2

/-- Tiles have received an accumulation (R299): after the last passing test of every physical group, a spare that is not in use yet
among them. -/
def Slice.touch (mask : Nat) (x : Slice) : Slice := { x with touched := x.touched.map (· ||| mask) }

/-! ### MMA (R279, R290) -/

/-- Change the gang of a name. -/
def modGang (c : ClusterId) (id : Nat) (f : Gang → Gang) (s : State) : State :=
  s.modCluster c fun k => { k with
    mma := mapIf k.mma (fun g => decide (g.id = id)) f
    mwld := mapIf k.mwld (fun g => decide (g.id = id)) f }

/-- The first member's command. -/
def Gang.cmd (g : Gang) : Cmd := g.cmds.headD ⟨0, ⟨⟨0, 0, 0, 0⟩, 0⟩, 0, 0, .exit Guard.none, 0, 0, [], 0, .known true, 0⟩

/-- The reads of row `i` by the eight cores (R290). -/
def postRow (c : ClusterId) (xs : List Cmd) (i : Nat) (s : State) : State :=
  xs.foldl (fun s x =>
    postEngine x (.mxRow c x.tid.core.core i) .engRead (x.a + BitVec.ofNat 64 (i * strideOf x.b)) 64 s) s

/-- An MMA may not run on a slice (R279, R284). -/
def mmaBad (x : Slice) (w : Cmd) : Bool :=
  let b := if w.wf 9 1 = 1 then x.shadow else x.active
  !b.valid || !mxPair (w.wf 10 3) b.fmt ||
    (decide (w.wf 8 1 = 1) && decide (w.wf 6 1 = 1 ∨ (x.cpair.map Fin.val) ≠ some (w.wf 7 1)))

/-- A slice as an MMA starts: the banks exchange roles (R279), and a non-split MMA ends a split pair it writes (R284). DESIGN CHOICE:
it does so as it starts, also when its row 0 is then refused and it writes no element (log 123). -/
def Slice.mmaStart (w : Cmd) (x : Slice) : Slice :=
  let x := if w.wf 9 1 = 1 then { x with active := x.shadow, shadow := x.active, activeIx := !x.activeIx } else x
  if w.wf 8 1 = 0 ∧ (x.cpair.map Fin.val) = some (w.wf 7 1) then { x with cpair := none } else x

/-- Change every slice of a cluster. -/
def modSlices (c : ClusterId) (f : Slice → Slice) (s : State) : State :=
  (List.range Config.cores).foldl (fun s i => s.modSlice (coreIn c i) f) s

/-- MMA_START (R276, R290): after the previous MMA's last row has entered. -/
def execMmaStart (c : ClusterId) (s : State) : Out :=
  .next (match gangReady s c 0 with
    | none => s
    | some xs =>
      if (s.cluster c).mma.any fun g => !g.shut then s
      else
        let w := xs.headD (Gang.cmd ⟨0, [], 0, [], 0, [], false⟩)
        let bad := !fmtServed s c.node (w.wf 10 3) ||
          (List.range Config.cores).any fun i => mmaBad (s.slice (coreIn c i)) w
        let s := gangStart c xs s
        if bad then gangTokens xs (failToken .malformed 0 0) s
        else
          let s := modSlices c (Slice.mmaStart w) s
          let g : Gang := ⟨s.nextId, xs, 0, [], 0, [], false⟩
          postRow c xs 0 (s.fresh.modCluster c fun k => { k with mma := k.mma ++ [g] }))

/-- The array's cycles in which rows enter are counted; every 1,024 a test is due (R298). -/
def Cluster.countRow (first : Bool) (k : Cluster) : Cluster :=
  if first then
    if k.stream + 1 = 1024 then { k with stream := 0, testsDue := k.testsDue + 1 } else { k with stream := k.stream + 1 }
  else k

/-- The next row must wait for a test (R298). -/
def rowBlocked (s : State) (c : ClusterId) : Bool := decide (2 ≤ (s.cluster c).testsDue) && !(s.cluster c).mxFailed

/-- The MMA whose rows are entering. -/
def rowGang (s : State) (c : ClusterId) : Option Gang := (s.cluster c).mma.find? fun g => !g.shut

/-- A row that all eight cores have supplied enters the array and accumulates (R282); after the last, or after a refusal,
no further row enters (R290). -/
def enterRow (c : ClusterId) (g : Gang) (s : State) : State :=
  if g.got.length + g.refused.length < Config.cores then s
  else if g.refused ≠ [] then modGang c g.id (fun g => { g with shut := true }) s
  else
    let w := g.cmd
    let af := w.wf 10 3
    let bf := (s.slice (coreIn c 0)).active.fmt
    let row := rowElems af (mxK af bf) (g.got.map (·.2))
    let s := modSlices c (fun x => (mxRowSlice (w.wf 6 2) (decide (w.wf 8 1 = 1)) af g.rows row x).touch w.tileMask) s
    let s := s.modCluster c (Cluster.countRow (decide (g.rows % mxRate af bf = 0)))
    let last := decide (g.rows = w.wf 0 6)
    let s := modGang c g.id (fun g => { g with rows := g.rows + 1, got := [], shut := last }) s
    if last then s else postRow c g.cmds (g.rows + 1) s

/-- A core's row slot is read at its home (R290). -/
def mxRowDone (a : Acc) (c : ClusterId) (core : Nat) (p : Phys) (s : State) : State :=
  match rowGang s c with
  | none => s
  | some g =>
    let g := { g with got := g.got.set core (s.bytes p a.len) }
    enterRow c g (modGang c g.id (fun _ => g) s)

/-- The read of a row slot is refused (R290). -/
def mxRowRefused (c : ClusterId) (core : Nat) (f : FaultInfo) (s : State) : State :=
  match rowGang s c with
  | none => s
  | some g =>
    let g := { g with refused := g.refused.set core (statusOf f) }
    enterRow c g (modGang c g.id (fun _ => g) s)

/-- The status of the lowest-numbered refusing core. -/
def Gang.status (g : Gang) : Option Status := (g.refused.head?).map (·.2)

/-- A failing group is fenced (R299): its logical group moves to a spare, and the tiles that it may have spoilt are marked.
`spare`: none when no spare is left. -/
def Slice.fence (g : Nat) (spare : Option Nat) (x : Slice) : Slice :=
  let mask := x.touched.toList.getD g 0
  { x with
    fenced := insertNat x.fenced g
    groupMap := match spare with
      | some p => x.groupMap.map fun q => if q = g then p else q
      | none => x.groupMap
    tiles := tab 4 fun i => { x.tile i with suspect := (x.tile i).suspect || decide (mask / 2 ^ i % 2 = 1) } }

/-- The unused spare that a fenced group's logical group moves to (R297, R299). DESIGN CHOICE: the lowest (log 121). -/
def Slice.spare (x : Slice) : Option Nat :=
  (List.range 10).find? fun p => !x.groupMap.contains p && !x.fenced.contains p

/-- The engine is marked failed (R299): every queued command of the cluster completes with UNAVAILABLE. -/
def engineFailed (c : ClusterId) (s : State) : State :=
  let s := s.modCluster c fun k => { k with mxFailed := true, arrived := [] }
  (List.range Config.cores).foldl (fun s i =>
    (s.core (coreIn c i)).matrixQ.foldl (fun s x => failCmd x .unavailable (dequeue .matrix x s)) s) s

/-- What the sequencer does with one failed test (R299). `v` names core v mod 8 and group v mod 80 / 8; from 80 on the check
code of the latches copied to the spare fails as well, and the engine with it. -/
def fenceOne (c : ClusterId) (v : Nat) (s : State) : State :=
  let core := coreIn c (v % 8)
  let x := s.slice core
  let s := s.modSlice core (Slice.fence (v % 80 / 8) x.spare)
  if (x.spare.isNone ∨ 80 ≤ v) ∧ (s.cluster c).mxFailed = false then engineFailed c s else s

/-- Failed tests take effect between two operations (R299). -/
def applyFails (c : ClusterId) (s : State) : State :=
  if (s.cluster c).mma = [] then
    (s.cluster c).testFails.foldl (fun s v => fenceOne c v s) (s.modCluster c fun k => { k with testFails := [] })
  else s

/-- MMA_COMPLETE (R290): the oldest MMA's last accumulations have landed, and its tokens fill. -/
def execMmaComplete (c : ClusterId) (s : State) : Out :=
  .next (match (s.cluster c).mma with
    | [] => s
    | g :: gs =>
      if ¬ g.shut then s
      else
        let v := match g.status with
          | none => 1
          | some st => if g.rows = 0 then failToken st 0 0 else failToken .partial_ st.code g.rows
        applyFails c (gangTokens g.cmds v (s.modCluster c fun k => { k with mma := gs })))

/-! ### MWLD (R278, R291) -/

/-- Units that a slice reads. -/
def mwldUnits : Nat := 224

/-- The place of unit `u` of slice `i` of an image (R278, R291). -/
def mwldPlace (c : ClusterId) (img i u : Nat) : Phys :=
  ⟨c.node, c.die, .bstack c.cluster,
   img * 0x20000 + (if u < 192 then i * 12288 + 64 * u else 96 * 1024 + i * 2048 + 64 * (u - 192))⟩

/-- The read of unit `u` of a slice (R291). -/
def postWeight (c : ClusterId) (id : Nat) (x : Cmd) (u : Nat) (s : State) : State :=
  postEngine x (.mxUnit c x.tid.core.core (id * 256 + u)) .engRead
    (windowAddr (mwldPlace c (x.wf 0 5) x.tid.core.core u)) 64 s

/-- MWLD_START (R291). -/
def execMwldStart (c : ClusterId) (s : State) : Out :=
  .next (match gangReady s c 1 with
    | none => s
    | some xs =>
      let s := gangStart c xs s
      if ¬ xs.all (fun x => fmtServed s c.node (x.wf 8 3)) then gangTokens xs (failToken .malformed 0 0) s
      else
        let id := s.nextId
        let s := s.fresh.modCluster c fun k => { k with mwld := k.mwld ++ [⟨id, xs, 0, [], 0, [], false⟩] }
        xs.foldl (fun s x => postWeight c id x 0 s) s)

/-- A weight unit is settled, and the slice's next one is read (R291). -/
def mwldNext (c : ClusterId) (core unit : Nat) (f : Gang → Gang) (s : State) : State :=
  let id := unit / 256
  let u := unit % 256
  match (s.cluster c).mwld.find? fun g => decide (g.id = id) with
  | none => s
  | some g =>
    let s := modGang c id (fun g => { f g with settled := g.settled + 1 }) s
    match g.cmds[core]? with
    | some x => if u + 1 < mwldUnits then postWeight c id x (u + 1) s else s
    | none => s

/-- A weight unit is read. -/
def mxUnitDone (a : Acc) (c : ClusterId) (core unit : Nat) (p : Phys) (s : State) : State :=
  mwldNext c core unit (fun g => { g with got := g.got.set (core * 256 + unit % 256) (s.bytes p a.len) }) s

/-- The read of a weight unit is refused. -/
def mxUnitRefused (c : ClusterId) (core unit : Nat) (f : FaultInfo) (s : State) : State :=
  mwldNext c core unit
    (fun g => { g with refused := if (g.refused.look core).isSome then g.refused else g.refused.set core (statusOf f) }) s

/-- A slice's shadow bank after a weight load. -/
def Gang.bank (g : Gang) (core : Nat) (old : Bank) : Bank :=
  if g.refused ≠ [] then { old with valid := false }
  else ⟨true, g.cmd.wf 8 3, g.cmd.wf 0 5,
    (g.got.filter fun e => decide (e.1 / 256 = core)).flatMap (·.2)⟩

/-- MWLD_COMPLETE (R291): every shadow bank becomes VALID, or INVALID after a refusal. -/
def execMwldComplete (c : ClusterId) (s : State) : Out :=
  .next (match (s.cluster c).mwld with
    | [] => s
    | g :: gs =>
      if g.settled ≠ Config.cores * mwldUnits then s
      else
        let s := (List.range Config.cores).foldl (fun s i =>
          s.modSlice (coreIn c i) fun x => { x with shadow := g.bank i x.shadow }) s
        let v := match g.status with | none => 1 | some st => failToken st 0 0
        gangTokens g.cmds v (s.modCluster c fun k => { k with mwld := gs }))

/-! ### Slice commands (R285 to R288, R292 to R295) -/

/-- MZERO on its slice (R284, R292). -/
def Slice.mzero (mask : Nat) (split : Bool) (x : Slice) : Slice :=
  let x := { x with tiles := tab 4 fun i => if mask / 2 ^ i % 2 = 1 then Tile.reset else x.tile i }
  if split then { x with cpair := some (if mask = 3 then 0 else 1), counts := [] }
  else
    match x.cpair with
    | some p => if mask / 4 ^ p.val % 4 ≠ 0 then { x with cpair := none } else x
    | none => x

/-- MZERO_START (R292). -/
def execMzeroStart (c : CoreId) (s : State) : Out :=
  .next (match mxNext s c 2 with
    | none => s
    | some x =>
      let s := mxStart x s
      let mask := x.wf 0 4
      let split := decide (x.wf 4 1 = 1)
      if split ∧ mask ≠ 3 ∧ mask ≠ 12 then failCmd x .malformed s
      else token x 1 (s.modSlice c (Slice.mzero mask split)))

/-- P − N, exactly; two infinities give a NaN, and an exact zero is +0 (R285). -/
def numDiff : Num → Num → Num
  | .nan _, _ => .nan false
  | _, .nan _ => .nan false
  | .inf a, .inf b => if a = b then .nan false else .inf a
  | .inf a, _ => .inf a
  | _, .inf b => .inf (!b)
  | .fin a m e, .fin b n d =>
    let k := min e d
    let v := scaled a m e k - scaled b n d k
    .fin (decide (v < 0)) v.natAbs k

/-- A value is an infinity. -/
def Num.isInf : Num → Bool
  | .inf _ => true
  | _ => false

/-- The agreement of an element (R286), with its count: 1 for AGE, 2 for AGO. -/
def agreement (p n : Num) (cp cn : Nat) : W32 × Nat :=
  if p.isNan || n.isNan || (p.isInf && n.isInf) then (0x7FC00000, 2)
  else if (cp = 0 ∧ cn = 0) ∨ (p.isZero && n.isZero) then (0, 1)
  else
    match p, n with
    | .fin a m e, .fin b l d =>
      let k := min e d
      let x := scaled a m e k
      let y := scaled b l d k
      (BitVec.ofNat 32 (fp32.encode .rne false false (x - y).natAbs (x + y).natAbs 0).1, 0)
    | _, _ => (0x3F800000, 0)

/-- The output format and rounding mode of a drain (Table 11-12). -/
def outFmt (n : Nat) : Fmt :=
  match n with
  | 0 => fp32
  | 1 => fpBf16
  | 2 => fp16
  | 3 => fpE4M3
  | _ => fpE5M2
/-- RND (Table 11-12). -/
def outMode (n : Nat) : Mode :=
  match n with
  | 0 => .rne
  | 1 => .rtz
  | 2 => .rdn
  | _ => .rup

/-- What a drain writes for one element, with the counts it adds to AGZ, AGE and AGO (Table 11-7, R285 to R287). -/
def drainElem (x : Slice) (w : Cmd) (i j : Nat) : Nat × Nat × Nat × Nat :=
  let tile := w.wf 6 2
  let f := outFmt (w.wf 10 3)
  let out := fun (v : Num) => (f.convert (outMode (w.wf 13 3)) false v).1
  let t := (x.tile tile).at_ i j
  if w.wf 8 2 = 0 then (if w.wf 10 3 = 0 then t.toNat else out (fp32.decode t.toNat), 0, 0, 0)
  else
    let p := fp32.decode t.toNat
    let n := fp32.decode ((x.tile (tile + 1)).at_ i j).toNat
    let c := x.counts.get (0, 0) (32 * i + j)
    let a := agreement p n c.1 c.2
    let av := fp32.decode a.1.toNat
    let th := fp32.decode x.agt.toNat
    let age := if a.2 = 1 then 1 else 0
    let ago := if a.2 = 2 then 1 else 0
    if w.wf 8 2 = 1 then (out (numDiff p n), 0, age, ago)
    else if w.wf 8 2 = 2 then (out av, 0, age, ago)
    else if !av.isNan && !th.isNan && decide (0 ≤ av.cmp th) && decide (x.agk.toNat ≤ c.1 + c.2) then
      (out (numDiff p n), 0, age, ago)
    else (0, 1, age, ago)

/-- The 64-byte units, or the half unit, of a row of a drain. -/
def rowUnits (a : W64) (bs : List Byte) : List (W64 × List Byte) :=
  if bs.length ≤ 64 then [(a, bs)] else [(a, bs.take 64), (a + 64, bs.drop 64)]

/-- A drain reads its rows (R285, R286, R293): the units to write and its counts. DESIGN CHOICE: GATED rows are gated by AGT and AGK
as they stand when the drain starts (R288, log 124). -/
def drainOf (x : Slice) (w : Cmd) : Drain :=
  let e := outBytes (w.wf 10 3)
  let rows := (List.range (w.wf 0 6 + 1)).map fun i => (i, (List.range 32).map (drainElem x w i))
  let sum := fun (f : Nat × Nat × Nat × Nat → Nat) => (rows.map fun r => (r.2.map f).sum).sum
  { cmd := w
    left := rows.flatMap fun r =>
      rowUnits (w.a + BitVec.ofNat 64 (r.1 * strideOf w.b)) (r.2.flatMap fun v => leBytes v.1 e)
    accepted := 0
    refused := none
    agz := sum fun v => v.2.1
    age := sum fun v => v.2.2.1
    ago := sum fun v => v.2.2.2 }

/-- Issue the write of a drain's next unit; units are written in order (R293). -/
def postDrain (c : CoreId) (d : Drain) (s : State) : State :=
  match d.left with
  | [] => s
  | u :: _ => postEngine d.cmd (.mxDrain c d.left.length) (.engWrite (u.2.zipIdx.map fun b => (b.2, b.1))) u.1 64 s

/-- Change a core's drain. -/
def setDrain (c : CoreId) (d : Drain) (s : State) : State :=
  s.modCluster (clusterOf c) fun k => { k with drains := k.drains.set c.core d }

/-- MDRAIN_START (R293). -/
def execMdrainStart (c : CoreId) (s : State) : Out :=
  .next (match mxNext s c 3 with
    | none => s
    | some x =>
      let s := mxStart x s
      let k := s.slice c
      if (x.wf 8 2 ≠ 0 ∧ (x.wf 6 1 = 1 ∨ (k.cpair.map Fin.val) ≠ some (x.wf 7 1))) ∨
          (0 < x.wf 0 6 ∧ strideOf x.b < 32 * outBytes (x.wf 10 3)) then
        failCmd x .malformed s
      else
        let d := drainOf k x
        postDrain c d (setDrain c d s))

/-- A unit of a drain is written at its home (R293). -/
def mxDrainDone (a : Acc) (c : CoreId) (p : Phys) (s : State) : State :=
  match (s.cluster (clusterOf c)).drain? c.core with
  | none => s
  | some d =>
    let d := { d with left := d.left.tail, accepted := d.accepted + a.op.count }
    postDrain c d (setDrain c d (engineWrite p a.op.engBytes s))

/-- A unit of a drain is refused: the drain stops (R293). -/
def mxDrainRefused (c : CoreId) (f : FaultInfo) (s : State) : State :=
  match (s.cluster (clusterOf c)).drain? c.core with
  | none => s
  | some d => setDrain c { d with left := [], refused := some f } s

/-- MDRAIN_COMPLETE (R286, R293). -/
def execMdrainComplete (c : CoreId) (s : State) : Out :=
  .next (match (s.cluster (clusterOf c)).drain? c.core with
    | none => s
    | some d =>
      if d.left ≠ [] then s
      else
        let s := s.modCluster (clusterOf c) fun k => { k with drains := k.drains.erase c.core }
        let s := s.modSlice c fun x => { x with agz := d.agz, age := d.age, ago := d.ago }
        token d.cmd (match d.refused with
          | some f => cutToken f d.accepted
          | none => BitVec.ofNat 64 (d.agz + d.age * 2 ^ 16 + d.ago * 2 ^ 32)) s)

/-- MAGR_START (R294). -/
def execMagrStart (c : CoreId) (s : State) : Out :=
  .next (match mxNext s c 4 with
    | none => s
    | some x =>
      token x 1 ((mxStart x s).modSlice c fun k => { k with agt := x.a.setWidth 32, agk := x.b.setWidth 32 }))

/-- A tile's byte of item 5 (Table 11-13). -/
def Tile.status (t : Tile) : Nat :=
  (if t.nan then 1 else 0) + (if t.inf then 2 else 0) + (if t.csat then 4 else 0) + (if t.suspect then 8 else 0)

/-- The items of MSTAT (Table 11-13). Every slice has had the tests of its 8 groups in bring-up, before an MSTAT runs (R385, log
110). -/
def mstatItem (x : Slice) (item : Nat) : W64 :=
  match item with
  | 0 => x.agt.setWidth 64
  | 1 => x.agk.setWidth 64
  | 2 => BitVec.ofNat 64 x.agz
  | 3 => BitVec.ofNat 64 x.age
  | 4 => BitVec.ofNat 64 x.ago
  | 5 => BitVec.ofNat 64 ((x.tile 0).status + (x.tile 1).status * 2 ^ 8 + (x.tile 2).status * 2 ^ 16 +
      (x.tile 3).status * 2 ^ 24)
  | 6 => BitVec.ofNat 64 ((if x.activeIx then 1 else 0) + (if x.active.valid then 2 else 0) +
      (if x.shadow.valid then 4 else 0) + x.active.fmt * 2 ^ 4 + x.shadow.fmt * 2 ^ 8 +
      (match x.cpair with | none => 0 | some p => 2 ^ 12 + p.val * 2 ^ 13) + x.active.img * 2 ^ 16 + x.shadow.img * 2 ^ 24)
  | 7 => BitVec.ofNat 64 (((List.range 10).filter fun p => !x.groupMap.contains p && !x.fenced.contains p).length +
      (x.fenced.map fun p => 2 ^ (8 + p)).sum)
  | 8 => BitVec.ofNat 64 ((x.tests + 8) % 2 ^ 32)
  | _ => 0

/-- MSTAT_START (R295). -/
def execMstatStart (c : CoreId) (s : State) : Out :=
  .next (match mxNext s c 5 with
    | none => s
    | some x => token x (mstatItem (s.slice c) (x.wf 0 4)) (mxStart x s))

/-! ### Tests (R296 to R299) -/

/-- The failures, of a list of the device's, of a group of a core. -/
def failsOf (bad : List Nat) (core group : Nat) : List Nat :=
  bad.filter fun v => decide (v % 8 = core ∧ v % 80 / 8 = group)

/-- A test of a physical group runs on a slice (R298): a pass ends the suspicion of its earlier sums. -/
def Slice.test (bad : List Nat) (core g : Nat) (x : Slice) : Slice :=
  { x with
    tests := x.tests + 1
    touched := if failsOf bad core g = [] then x.touched.setIfInBounds g 0 else x.touched }

/-- Run the tests that `groups` names on every slice, and record their failures. -/
def runTests (c : ClusterId) (bad : List Nat) (groups : Slice → List Nat) (s : State) : State :=
  (List.range Config.cores).foldl (fun s i =>
    let gs := groups (s.slice (coreIn c i))
    let s := s.modSlice (coreIn c i) fun x => gs.foldl (fun x g => x.test bad i g) x
    s.modCluster c fun k => { k with testFails := k.testFails ++ gs.flatMap fun g => (failsOf bad i g).take 1 }) s

/-- MTEST_START (R296). -/
def execMtestStart (c : ClusterId) (s : State) : Out :=
  .next (match gangReady s c 6 with
    | none => s
    | some xs =>
      let s := gangStart c xs s
      s.fresh.modCluster c fun k => { k with mtest := some ⟨s.nextId, xs, 0, [], 0, [], false⟩ })

/-- MTEST_COMPLETE (R296): every group in use has been tested, those in `bad` have failed, and each token reports how many
groups of its slice were fenced. -/
def execMtestComplete (c : ClusterId) (bad : List Nat) (s : State) : Out :=
  .next (match (s.cluster c).mtest with
    | none => s
    | some g =>
      let n := fun (x : Cmd) =>
        ((s.slice x.tid.core).groupMap.filter fun p => decide (failsOf bad x.tid.core.core p ≠ [])).length
      let t := applyFails c (runTests c bad (·.groupMap) (s.modCluster c fun k => { k with mtest := none }))
      g.cmds.foldl (fun t x =>
        token x (if (t.cluster c).mxFailed then failToken .unavailable 0 0 else BitVec.ofNat 64 (n x)) t) t)

/-- SELF_TEST (R298): a due test runs on the next group of every slice; those in `bad` fail. DESIGN CHOICE: the round robin takes the
logical groups in order, beginning with 0 (log 122). -/
def execSelfTest (c : ClusterId) (bad : List Nat) (s : State) : Out :=
  .next
    (let k := s.cluster c
     if k.testsDue = 0 ∨ k.mxFailed = true then s
     else
       let s := s.modCluster c fun k => { k with testsDue := k.testsDue - 1 }
       let s := runTests c bad (fun x => [x.groupMap.getD x.nextTest 0]) s
       applyFails c (modSlices c (fun x => { x with nextTest := (x.nextTest + 1) % 8 }) s))

end Sys2Proof.Machine
end

