-- ==== Sys2Proof/Machine/Preempt.lean ====
section
/-!
DEFINITION. Pre-emption (R322 to R331): PREEMPT and SIGNAL at issue, the checks and the choice of a response, the stop of a
team's threads, the save area, and the resume.
-/

namespace Sys2Proof.Machine

/-! ### Issue (R329) -/

/-- PREEMPT (R330): its request record is read whole. -/
def execPreempt (d : BitVec 4) (a : GSrc) (w : W32) (g : Guard) (s : State) : Out :=
  engineIssue (.preempt d a w g) .launch false false true d [a] g (·.src a) (fun _ => 0) (fun t => [(t.src a, 64)])
    (fun _ => none) s
/-- SIGNAL (R331). -/
def execSignal (d : BitVec 4) (a : GSrc) (w : W32) (g : Guard) (s : State) : Out :=
  engineIssue (.signal d a w g) .launch false false true d [a] g (·.src a) (fun _ => 0) (fun t => [(t.src a, 64)])
    (fun _ => none) s

/-! ### Further fields of the request record (Table 13-12) -/

/-- TEAM. -/
def reqTeam (c : Cmd) : Nat := bits (wordAt c.recw 1) 0 7
/-- DEADLINE. -/
def reqDeadline (c : Cmd) : Nat := bits (wordAt c.recw 2) 0 32
/-- POLICY. -/
def reqPolicy (c : Cmd) : Nat := bits (wordAt c.recw 2) 32 2
/-- AREA. -/
def reqArea (c : Cmd) : W64 := wordAt c.recw 3
/-- ASIZE. -/
def reqSize (c : Cmd) : Nat := bits (wordAt c.recw 4) 0 37

/-- The record is malformed. -/
def reqBad (signal : Bool) (c : Cmd) : Bool :=
  decide (bits (wordAt c.recw 1) 7 1 ≠ 0 ∨ bits (wordAt c.recw 1) 16 32 ≠ 0 ∨ bits (wordAt c.recw 2) 34 30 ≠ 0 ∨
    bits (wordAt c.recw 4) 37 27 ≠ 0 ∨ wordAt c.recw 5 ≠ 0 ∨ wordAt c.recw 6 ≠ 0 ∨ wordAt c.recw 7 ≠ 0 ∨
    Config.teamEntries ≤ reqTeam c ∨ Config.clusters ≤ (reqCluster c).cluster ∨ ¬ aligned (reqArea c) 4096) ||
    (signal && decide (reqPolicy c ≠ 0))

/-- The home of a CTX handle, when it is a live CTX. -/
def liveCtx (s : State) (x : W64) : Except Status Lease :=
  match present s x with
  | .stale => .error .stale
  | .lapsed => .error .lapsed
  | .live _ _ l => if l.kind = .ctx then .ok l else .error .stale

/-- Checks 1 to 4 of R330, and the fabric's phase (R385, log 28). -/
def reqRefusal (signal : Bool) (c : Cmd) (s : State) : Option Status :=
  if reqBad signal c then some .malformed
  else
    match liveCtx s (reqCtx c) with
    | .error st => some st
    | .ok l =>
      let node := (reqCluster c).node
      if ¬ (c.tid.slot = 0 ∧ c.tid.core.node = node) ∧ ¬ l.heldBy c.ctx then some .access
      else if node ≠ c.tid.core.node ∧ ¬ pathLive s c.tid.core.node c.ctx node then some .lapsed
      else if node ≠ c.tid.core.node ∧ ¬ fabricUp s c.tid.core.node node then some .access
      else none

/-- The team a request names: an entry of the CTX. -/
def reqEntry (c : Cmd) (s : State) : Option Team :=
  ((s.cluster (reqCluster c)).teams.look (reqTeam c)).filter fun m => decide (m.ctx = reqCtx c)

/-! ### Sizes and the estimator (R322, R325) -/

/-- Matrix state is saved with a team: it is the last running team of its context on the cluster, and the context is the
slices' last (R325). -/
def savesMatrix (s : State) (c : ClusterId) (n : Nat) (ctx : W64) : Bool :=
  !((s.cluster c).teams.any fun e => decide (e.1 ≠ n ∧ e.2.ctx = ctx ∧ e.2.state = .running)) &&
    (List.range Config.cores).any fun i => decide ((s.slice (coreIn c i)).lastCtx = some ctx)

/-- Bytes of the matrix record: K (R322). -/
def matrixBytes (yes : Bool) : Nat := if yes then 328192 else 0
/-- Bytes of an area: 7,680 for each thread, 8,192 for one that is saved (R322). -/
def areaBytes (n saves : Nat) (mx : Bool) : Nat := 16384 + 7680 * (n - saves) + 8192 * saves + matrixBytes mx

/-- The partition clock of a die in MHz (R2, R352, R385): 470 outside a partition, and throughout bring-up. -/
def clockMHz (p : Package) (d : Die) : Nat :=
  if p.phase < 4 ∨ bits d.part 0 8 = 0 then 470
  else match bits d.part 8 2 with
    | 0 => 940
    | 1 => 752
    | _ => 564

/-- r of a thread (R322). -/
def Thread.remaining (t : Thread) : Nat :=
  if t.prog.toNat < t.lavg.toNat then t.lavg.toNat - t.prog.toNat else max 1 (t.lavg.toNat / 4)

/-- A thread is held in a wait or an implicit block, GJOIN's among them (R128, R322). -/
def Thread.waiting (t : Thread) : Bool :=
  t.blocked.isSome || (match t.hold with | .wait => true | .gjoin _ _ => true | _ => false)

/-- A pending instruction of a thread is a producer (R46). -/
def Thread.produces (t : Thread) (pid : Nat) : Bool := (t.pend? pid).any (·.prod)

/-- An access is a producer's: of an instruction that marks a register empty, or of an engine command, whose token does. -/
def Acc.produced (s : State) (a : Acc) : Bool :=
  match a.agent with
  | .thread pid _ | .performed pid _ _ => (s.th a.tid).produces pid
  | .descriptor _ | .lockKey _ => false
  | _ => true

/-- An address leads to another package: by its window, or by the page tables as they stand. -/
def addrFar (s : State) (c : CoreId) (space : BitVec 16) (sub : Bool) (a : W64) : Bool :=
  match classify c a with
  | .place p => decide (p.node ≠ c.node)
  | .virt => (match walk s c space sub a with | .leaf e _ _ => decide ((leafPlace sub e a).node ≠ c.node) | _ => false)
  | .nothing => false

/-- A unit of a command's layout lies in another package. -/
def layoutFar (s : State) (c : Cmd) (w : List W64) : Bool :=
  !layZero w && (destUnits w (layBytes w)).any fun u =>
    addrFar s c.tid.core c.space (inWindow (s.core c.tid.core) u) u

/-- A command is bound for another package: with data, a message, a handle, a launch header or a request (R322). -/
def Cmd.goesFar (s : State) (c : Cmd) : Bool :=
  let far := fun (n : Nat) => decide (n ≠ c.tid.core.node)
  match c.ins with
  | .cpy _ _ _ _ _ => layoutFar s c (c.recw.take 8) || layoutFar s c (c.recw.drop 8)
  | .send _ _ _ _ _ => far (bits c.b 48 16) || layoutFar s c c.recw
  | .launch _ _ _ _ _ => far (hHome c.a).node || (decide (bits (wordAt c.recw 2) 39 3 = 5) && s.group.any far)
  | .preempt _ _ _ _ | .signal _ _ _ _ => far (hHome (reqCtx c)).node || far (reqCluster c).node
  | _ => false

/-- A thread's engine commands whose tokens are not filled: in a queue, waiting to launch, or running. -/
def commandsOf (s : State) (tid : Tid) : List Cmd :=
  let k := s.cluster (clusterOf tid.core)
  (k.copyQ ++ k.msgQ ++ k.launchQ ++ k.launching ++ (s.jobs.filter fun j => decide (j.chain = none)).map (·.cmd) ++
    (s.msgs.filter fun m => !m.dead).map (·.cmd) ++ s.preempts.map (·.cmd) ++
    ((s.pkg tid.core.node).grids.filter fun e => e.2.acking).map (·.2.cmd)).filter fun c => decide (c.tid = tid)

/-- A thread's producer (R46) is bound for another package: an access, a lease instruction, or an engine command, whose token it is. -/
def boundFar (s : State) (tid : Tid) : Bool :=
  s.accs.any (fun a => decide (a.tid = tid) && a.produced s &&
    ((a.leg s).isSome || (a.place.isNone && addrFar s a.tid.core a.space a.sub a.ea))) ||
  s.leaseReqs.any (fun r => decide (r.tid = tid) && (s.th tid).produces r.id &&
    r.handles.any fun x => decide ((hHome x).node ≠ tid.core.node)) ||
  (commandsOf s tid).any (·.goesFar s)

/-- W (R322). DESIGN CHOICE: a thread that is held in a wait, one that loads a word among them, has no producer outstanding for that
(log 137). -/
def outstanding (s : State) (l : List Tid) : Nat :=
  if l.all fun t => (s.th t).pending.all fun p => !p.prod then 0 else if l.any (boundFar s) then 1050 else 520

/-- The estimator (R322): 1 Drain, 2 Discard, 3 Save. -/
def estimate (s : State) (l : List Tid) (mx : Bool) (deadline f : Nat) : Nat :=
  let unit := fun (b : Nat) => (b + 63) / 64
  let bb := unit (areaBytes l.length 0 mx)
  let drain := (l.map fun t => 16 * (s.th t).remaining).foldl max 0 + bb
  let discard := bb + 4 * (l.map fun t => (s.th t).prog.toNat).foldl max 0
  let save := outstanding s l + unit (areaBytes l.length l.length mx)
  if (l.all fun t => !(s.th t).waiting) ∧ drain ≤ deadline * f then 1
  else if discard ≤ save then 2
  else 3

/-- CLASS of a team (R322). -/
def Team.cls (m : Team) : Nat := bits m.gridf 26 2

/-- The response a class and a POLICY allow; `e`: the estimator's (R322). -/
def response (cls policy e : Nat) : Option Nat :=
  match cls with
  | 0 => none
  | 1 => if policy = 3 then none else if policy ≠ 0 then some policy else some (if e = 3 then 2 else e)
  | 2 => some (if policy ≠ 0 then policy else e)
  | _ => if policy = 0 ∨ policy = 3 then some 3 else none

/-- The first granule of an area that the issuing context may not write (R330): a walk that does not end in a leaf counts
as ACCESS (log 25). -/
def areaRefusal (s : State) (c : Cmd) (a : W64) (n : Nat) : Option Status :=
  (List.range ((n + 1023) / 1024)).findSome? fun k =>
    let ea := a + BitVec.ofNat 64 (1024 * k)
    let op : AccOp := .store (List.replicate 64 0)
    match classify c.tid.core ea with
    | .place p => (homeRefusal s c.tid c.ctx p ea 64 op).map statusOf
    | .nothing => some .access
    | .virt =>
      match translate s c.tid.core c.space (inWindow (s.core c.tid.core) ea) ea op true with
      | .ok p _ => (homeRefusal s c.tid c.ctx p ea 64 op).map statusOf
      | _ => some .access

/-! ### Stopping a thread (Table 13-10) -/

/-- Change a pre-emption. -/
def modPreempt (id : Nat) (f : Preempt → Preempt) (s : State) : State :=
  { s with preempts := mapIf s.preempts (fun p => decide (p.id = id)) f }
/-- A pre-emption is over. -/
def dropPreempt (id : Nat) (s : State) : State := { s with preempts := s.preempts.filter fun p => p.id ≠ id }

/-- The thread stands still, to resume with a fetch. -/
def Thread.park (f : Fetch) (t : Thread) : Thread :=
  { t with hold := .preempted, blocked := none, block := none, fetch := some f }

/-- The resume point at RPC (R316). -/
def Thread.atRpc (t : Thread) : Fetch :=
  ⟨t.rhdr.setWidth 64, .saved t.rword.toNat (decide (t.rword = 0)), t.bh.setWidth 64⟩

/-- A thread's block cannot end yet: its JOIN's outcome has not come, or registers that CONTINUE writes are still empty (R48, R153). -/
def Thread.joinBlocks (t : Thread) : Bool := t.joinDue && (t.joinOpen || decide (t.joinWaits ≠ []))

/-- A thread behind the last word of its block, which nothing keeps from ending, ends the block before it stops: the next word
stands in the block that this fetches (R53, R323). -/
def settleEnd (tid : Tid) (s : State) : State :=
  let t := s.th tid
  if t.atEnd ∧ t.fetch = none ∧ t.joinBlocks = false then blockEnd tid s else s

/-- The word a Save resumes at: that of a pending fetch, or the next one of the block (R323, log 71). -/
def Thread.savePoint (t : Thread) : Fetch :=
  let w := match t.fetch.map (·.via) with
    | some (.resume w _) | some (.saved w _) => w
    | some _ => 0
    | none => t.wordIx
  ⟨(t.fetch.map (·.target)).getD (t.bh.setWidth 64), .saved w false, t.bh.setWidth 64⟩

/-- Save: at once, before the next word; a wait is withdrawn, and its word issues again, in a block that is fetched afresh and not
compared (R323). -/
def saveStop (tid : Tid) (s : State) : State :=
  let ended := decide ((s.th tid).hold = .wait) && !(s.waits.any fun w => decide (w.tid = tid))
  let s := settleEnd tid (leaveHold tid ended s)
  if (s.th tid).life = .running then s.modTh tid fun t => t.park t.savePoint else s

/-- An outstanding load of the current region is discarded, as it issues again: its registers are full with their old values,
and what it brings goes nowhere. -/
def Thread.discard (t : Thread) : Thread :=
  let mine := fun (p : Pending) => decide (p.region = t.region) && p.load
  let t := (t.pending.filter mine).foldl (fun t p => (t.restoreOpt p.dst).restoreOpt p.also) t
  { t with pending := mapIf t.pending mine fun p => { p with dst := none, also := none, void := true } }

/-- A wait that closes its region as it issues (R315). -/
def WaitKind.closes : WaitKind → Bool
  | .bar _ | .lock _ _ | .ldcw _ | .ldcd _ => true
  | _ => false

/-- The header at which a region that begins behind its block opens is fetched before the thread stops (Table 13-7). -/
def settleRegion (tid : Tid) (s : State) : State := if (s.th tid).behindBlock then settleEnd tid s else s

/-- Where a stopped thread resumes: at RPC, or, where the next header could not be fetched at once, at the word it stands at. -/
def restPoint (moved : Bool) (t : Thread) : Fetch := if moved then t.atRpc else t.savePoint

/-- The region of a thread begins at RPC: the next header has been fetched where it begins behind its block. -/
def regionBegun (tid : Tid) (before after : State) : Bool :=
  !(before.th tid).behindBlock || decide ((after.th tid).region ≠ (before.th tid).region)

/-- Discard: at once; the current region runs again from RPC (R316, R323), with the faults of its stores and of earlier regions
still to be delivered. A withdrawn wait that has closed its region is issued again (R323). -/
def discardStop (tid : Tid) (s : State) : State :=
  let again := s.waits.any fun w => decide (w.tid = tid) && w.kind.closes
  let old := leaveHold tid false s
  let s := if again then old else settleRegion tid old
  if (s.th tid).life ≠ .running then s
  else
    fillTh tid (fun t =>
      ({ t.discard with
        gen := t.genCk
        prog := 0
        restarted := !again
        answers := t.answers.filter fun a => !(decide (a.region = t.region) && a.load) }).park
        (if again then ⟨t.bh.setWidth 64, .saved t.wordIx (decide (t.wordIx = 0)), t.bh.setWidth 64⟩
        else restPoint (regionBegun tid old s) t)) s

/-- Drain: at the region boundary it has reached (R314, R323). -/
def drainStop (tid : Tid) (s : State) : State :=
  let u := settleRegion tid s
  if (u.th tid).life ≠ .running then u
  else u.modTh tid fun t =>
    let t := if t.atOpening then t.regionAt t.bh 0 else t
    t.park (restPoint (regionBegun tid s u) t)

/-- The thread stands behind a block that a join keeps from ending: its next word is not known (R153). -/
def joinAwaited (s : State) (tid : Tid) : Bool := (s.th tid).atEnd && (s.th tid).joinBlocks

/-- A thread that is to stop at once can stop now: no register write of its is under way, no wait has just been won, and its next
word is known. -/
def canStop (s : State) (tid : Tid) : Bool :=
  (match (s.th tid).hold with | .regWrite _ => false | _ => true) && !joinAwaited s tid &&
    !(s.waits.any fun w => decide (w.tid = tid) && w.isDecided)

/-- A draining thread is not in a wait or in another instruction's own hold. -/
def canDrain (s : State) (tid : Tid) : Bool :=
  !joinAwaited s tid &&
  (match (s.th tid).hold with
   | .none | .queue _ | .access _ _ | .update _ | .flg | .blockEnd | .tick _ => true
   | _ => false)

/-- Stop one thread of a pre-emption if it can stop now; one that has left is no longer waited for. -/
def stopOne (p : Preempt) (d : Tid × Option Nat) (s : State) : State :=
  let out := modPreempt p.id fun p => { p with draining := p.draining.filter fun x => x.1 ≠ d.1 }
  if (s.th d.1).life ≠ .running then out s
  else
    match d.2 with
    | none => if canStop s d.1 then out (if p.resp = 2 then discardStop d.1 s else saveStop d.1 s) else s
    | some _ =>
      if mustStop s d.1 ∧ canDrain s d.1 = true ∧ s.taper p.cluster.node < p.deadline then out (drainStop d.1 s) else s

/-- Stop the threads of a pre-emption that can stop now. -/
def stopAll (id : Nat) (s : State) : State :=
  match s.preempts.find? fun p => decide (p.id = id) with
  | some p => p.draining.foldl (fun s d => stopOne p d s) s
  | none => s

/-! ### PREEMPT (R330) -/

/-- Checks 5 to 10 of R330: the team with the response chosen. -/
def preemptChoice (c : Cmd) (s : State) : Except Status (Team × Nat) :=
  match reqEntry c s with
  | none => .error .noTeam
  | some m =>
    let k := reqCluster c
    if m.members.contains c.tid then .error .access
    else
      let mx := savesMatrix s k (reqTeam c) m.ctx
      let e := estimate s m.members mx (reqDeadline c) (clockMHz (s.pkg k.node) (s.die (dieOfCluster k)))
      match response m.cls (reqPolicy c) e with
      | none => .error .cls
      | some r =>
        if m.state ≠ .running then .error .busy
        else if reqSize c < areaBytes m.members.length m.members.length mx then .error .small
        else
          match areaRefusal s c (reqArea c) (reqSize c) with
          | some st => .error st
          | none => .ok (m, r)

/-- PREEMPT_START (R330). -/
def execPreemptStart (c : ClusterId) (s : State) : Out :=
  .next (match nextLaunch s c with
    | none => s
    | some x =>
      match x.ins with
      | .preempt _ _ _ _ =>
        let s := dequeue .launch x s
        (match reqRefusal false x s with
         | some st => failCmd x st s
         | none =>
           match preemptChoice x s with
           | .error st => failCmd x st s
           | .ok (m, r) =>
             let k := reqCluster x
             let now := s.taper k.node
             let p : Preempt := {
               id := s.nextId
               cmd := x
               cluster := k
               team := reqTeam x
               resume := false
               resp := r
               fall := false
               started := now
               deadline := now + reqDeadline x
               area := reqArea x
               draining := m.members.map fun t => (t, if r = 1 then some (s.th t).region else none)
               saves := if r = 3 then m.members.length else 0
               units := 0
               next := 0
               accepted := 0
               bad := false
               abandoned := false }
             let s := modTeam k p.team (fun m => { m with state := .preempting }) { s.fresh with preempts := s.preempts ++ [p] }
             stopAll p.id s)
      | _ => s)

/-- A thread of a Drain has not stopped at its region boundary when the deadline's boundary passes (R323). -/
def fallbackDue (s : State) (p : Preempt) (d : Tid × Option Nat) : Bool :=
  d.2.isSome && decide (p.deadline ≤ s.taper p.cluster.node ∧ (s.th d.1).life = .running)

/-- PREEMPT_DRAIN_FALLBACK (R323): such a thread is saved instead. -/
def execPreemptDrainFallback (tid : Tid) (s : State) : Out :=
  .next (match s.preempts.find? (fun p => p.draining.any fun d => decide (d.1 = tid) && fallbackDue s p d) with
    | some p =>
      stopAll p.id (modPreempt p.id (fun p => { p with
        fall := true
        saves := p.saves + 1
        draining := p.draining.map fun d => if d.1 = tid then (tid, none) else d }) s)
    | none => s)

/-! ### The save area (R324 to R326) -/

/-- A stopped thread may be saved: its accesses are settled, its results filled, its engine commands over (R323). -/
def savable (s : State) (tid : Tid) : Bool :=
  decide ((s.th tid).hold = .preempted) && quiet s tid && (s.th tid).pending.all fun p => decide (p.refused ≠ [])

/-- The header (Table 13-11). -/
def areaHeader (p : Preempt) (m : Team) (n bytes : Nat) (mx : Bool) : List W64 :=
  [BitVec.ofNat 64 (p.resp + (if mx then 16 else 0) + (if p.fall then 32 else 0) + n * 256), m.ctx, wordAt p.cmd.recw 1,
   BitVec.ofNat 64 bytes, BitVec.ofNat 64 m.block, 0, 0, 0]

/-- What a save records of a team (R324, R325). -/
def savedOf (p : Preempt) (m : Team) (s : State) : Saved :=
  let mx := savesMatrix s p.cluster p.team m.ctx
  let bytes := areaBytes m.members.length (min p.saves m.members.length) mx
  { id := p.id
    hdr := areaHeader p m m.members.length bytes mx
    threads := m.members.foldl (fun (l : Map Thread) t => l.set (tidKey t) (s.th t)) []
    forks := (List.range Config.cores).map fun i =>
      (i, (s.core (coreIn p.cluster i)).forks.filter fun r => decide (r.teamNo = p.team))
    matrix := if mx then (List.range Config.cores).filterMap fun i =>
        let x := s.slice (coreIn p.cluster i)
        if x.lastCtx = some m.ctx then some (i, x) else none
      else []
    bytes := bytes }

/-- The bytes of unit `u` of an area: the header, or the device's own (R326, log 23). -/
def areaUnit (v : Saved) (u : Nat) : List Byte :=
  if u = 0 then v.hdr.flatMap fun w => leBytes w.toNat 8
  else (List.range 64).map fun i => Config.saveByte v.id (64 * u + i)

/-- Post the write or the read of a unit of an area. -/
def postArea (p : Preempt) (op : AccOp) (u : Nat) (s : State) : State :=
  postEngine p.cmd (.save p.id u) op (p.area + BitVec.ofNat 64 (64 * u)) 64 s

/-- The team entry of a pre-emption or resume. -/
def preemptTeam (p : Preempt) (s : State) : Option Team := (s.cluster p.cluster).teams.look p.team

/-- The token of a PREEMPT (R330). -/
def preemptToken (p : Preempt) (resp bytes now : Nat) : W64 :=
  BitVec.ofNat 64 (resp + (if p.fall then 4 else 0) + (if p.deadline ≤ now then 8 else 0) + bytes / 64 % 2 ^ 28 * 16 +
    (now - p.started) % 2 ^ 32 * 2 ^ 32)

/-- Free a saved team's slots; what its threads held waits for them under other names (log 24). -/
def leaveSlots (id : Nat) : List Tid → State → State
  | [], s => s
  | t :: ts, s => leaveSlots id ts (renameThread t (goneTid id t) (s.setTh t (Thread.resetAt t)))

/-- The area is written whole: the entry is SAVED, the slots are free, the token fills (R330). -/
def finishSave (p : Preempt) (m : Team) (v : Saved) (s : State) : State :=
  let s := leaveSlots p.id m.members s
  let s := dropForks p.cluster p.team Config.cores s
  let s := modTeam p.cluster p.team
    (fun m => { m with state := .saved, members := [], complete := true }) (dropPreempt p.id s)
  token p.cmd (preemptToken p p.resp v.bytes (s.taper p.cluster.node)) s

/-- The pre-emption of a team that is gone ends: with LAPSED when it was abandoned, its CTX having lapsed (R334), else with RESP 0,
nothing having been written (R330). -/
def endPreempt (p : Preempt) (s : State) : State :=
  let s := dropAccs (fun a => match a.agent with | .save i _ => decide (i = p.id) | _ => false) (dropPreempt p.id s)
  if p.abandoned then failCmd p.cmd .lapsed s else token p.cmd (preemptToken p 0 0 (s.taper p.cluster.node)) s

/-- PREEMPT_COMPLETE (R323, R330): the response goes on. Threads stop; once every one has stopped and is quiet the area is
written, header last; then the team is saved and the token fills. A team that has ended before it stopped is finished with
RESP 0. A token of another package fills once the circuits of its way are not being changed (R346). -/
def execPreemptComplete (c : ClusterId) (n : Nat) (s : State) : Out :=
  .next (match s.preempts.find? (fun p => decide (p.cluster = c ∧ p.team = n ∧ p.resume = false)) with
    | none => s
    | some p =>
      let held := answerHeld s c.node p.cmd.tid.core.node
      match preemptTeam p s with
      | none => if held then s else endPreempt p s
      | some m =>
        if p.abandoned ∨ m.state ≠ .preempting then (if held then s else endPreempt p s)
        else if p.draining ≠ [] then stopAll p.id s
        else if m.members = [] ∧ ¬ teamForks s c n then
          if held then s
          else token p.cmd (preemptToken p 0 0 (s.taper c.node))
            (finishTeam c n m (if m.faulted then 1 else 0) (dropPreempt p.id s))
        else if ¬ (m.members.all (savable s)) then s
        else
          match m.saved with
          | none =>
            let v := savedOf p m s
            let s := modTeam c n (fun m => { m with saved := some v }) s
            postArea p (.store (areaUnit v 1)) 1
              (modPreempt p.id (fun p => { p with units := v.bytes / 64, next := 1 }) s)
          | some v => if p.next = p.units + 1 ∧ held = false then finishSave p m v s else s)

/-- A unit of a save area is written, whole, which ends its poison (R196): the next one, the header after the last (R326). -/
def saveWriteDone (id u : Nat) (ph : Phys) (bs : List Byte) (s : State) : State :=
  let s := (acceptStore ph bs s).setPoison ph false
  match s.preempts.find? fun p => decide (p.id = id) with
  | none => s
  | some p =>
    let s := modPreempt id (fun p => { p with accepted := p.accepted + 64, next := if u = 0 then p.units + 1 else u + 1 }) s
    match (preemptTeam p s).bind (·.saved) with
    | none => s
    | some v =>
      if u = 0 then s
      else if u + 1 < p.units then postArea p (.store (areaUnit v (u + 1))) (u + 1) s
      else postArea p (.store (areaUnit v 0)) 0 s

/-- A resume ends without effect (R331). -/
def resumeEnds (p : Preempt) (st : Status) (s : State) : State :=
  let s := dropAccs (fun a => match a.agent with | .save i _ => decide (i = p.id) | _ => false) (dropPreempt p.id s)
  failCmd p.cmd st (modTeam p.cluster p.team (fun m => if m.state = .resuming then { m with state := .saved } else m) s)

/-- A unit of a save area is read (R326, R331). -/
def saveReadDone (id u : Nat) (ph : Phys) (s : State) : State :=
  match s.preempts.find? fun p => decide (p.id = id) with
  | none => s
  | some p =>
    match (preemptTeam p s).bind (·.saved) with
    | none => resumeEnds p .noTeam s
    | some v =>
      let p := { p with bad := p.bad || decide (s.bytes ph 64 ≠ areaUnit v u), next := u + 1 }
      let s := modPreempt id (fun _ => p) s
      if u + 1 < p.units then postArea p .engRead (u + 1) s
      else if p.bad then resumeEnds p .malformed s
      else s

/-- A unit of a save area is refused (R330, R331): a save stops with PARTIAL, also when no byte was accepted. -/
def saveRefused (id : Nat) (f : FaultInfo) (s : State) : State :=
  match s.preempts.find? fun p => decide (p.id = id) with
  | none => s
  | some p =>
    if p.resume then resumeEnds p (statusOf f) s
    else
      token p.cmd (failToken .partial_ (statusOf f).code p.accepted)
        (modTeam p.cluster p.team (fun m => { m with state := .saved, complete := false }) (dropPreempt id s))

/-! ### SIGNAL (R331) -/

/-- op of a SIGNAL. -/
def signalOp (c : Cmd) : Nat :=
  match c.ins with
  | .signal _ _ w _ => w.toNat % 4
  | _ => 0

/-- QUERY. -/
def Team.query (m : Team) : W64 :=
  match m.state with
  | .running => 0
  | .preempting => 1
  | .saved => 2
  | .resuming => 3

/-- RESUME starts: the area is read. -/
def startResume (x : Cmd) (m : Team) (s : State) : State :=
  if m.state ≠ .saved then failCmd x .busy s
  else
    match m.complete, m.saved with
    | true, some v =>
      let k := reqCluster x
      let now := s.taper k.node
      let p : Preempt := {
        id := s.nextId
        cmd := x
        cluster := k
        team := reqTeam x
        resume := true
        resp := 0
        fall := false
        started := now
        deadline := now + reqDeadline x
        area := reqArea x
        draining := []
        saves := 0
        units := v.bytes / 64
        next := 0
        accepted := 0
        bad := false
        abandoned := false }
      postArea p .engRead 0 (modTeam k p.team (fun m => { m with state := .resuming })
        { s.fresh with preempts := s.preempts ++ [p] })
    | _, _ => failCmd x .malformed s

/-- SIGNAL_START (R331). -/
def execSignalStart (c : ClusterId) (s : State) : Out :=
  .next (match nextLaunch s c with
    | none => s
    | some x =>
      match x.ins with
      | .signal _ _ _ _ =>
        let s := dequeue .launch x s
        (match reqRefusal true x s with
         | some st => failCmd x st s
         | none =>
           match signalOp x, reqEntry x s with
           | 0, none => failCmd x .noTeam s
           | 0, some m => startResume x m s
           | 1, none => failCmd x .noTeam s
           | 1, some m =>
             if m.state ≠ .saved then failCmd x .busy s
             else token x 1 (abandonTeam (reqCluster x) (reqTeam x) 2 s)
           | _, none => token x 4 s
           | _, some m => token x m.query s)
      | _ => s)

/-- Where saved threads resume (R327): on their own cores, in the lowest free user slots; none when a core has too few. -/
def resumeSlots (s : State) (v : Saved) : Option (List (Tid × Tid × Thread)) :=
  let place := fun (e : Nat × Thread) =>
    let old := tidOfKey e.1
    let before := (v.threads.filter fun x => decide (x.1 < e.1 ∧ (tidOfKey x.1).core = old.core)).length
    ((freeSlots s old.core)[before]?).map fun k => (old, (⟨old.core, k⟩ : Tid), e.2)
  let l := v.threads.filterMap place
  if l.length = v.threads.length then some l else none

/-- A weight bank is loaded again from its image, checked as a MWLD of a thread's would be (R325). -/
def reloadBank (s : State) (c : ClusterId) (tid : Tid) (ctx : W64) (i : Nat) (b : Bank) : Bank :=
  if ¬ b.valid then b
  else
    let ps := (List.range mwldUnits).map (mwldPlace c b.img i)
    if ps.any fun p => (homeRefusal s tid ctx p (windowAddr p) 64 .engRead).isSome then { b with valid := false }
    else { b with data := ps.flatMap fun p => s.bytes p 64 }

/-- The matrix record of one slice is restored, unless the slice's last context is the team's (R325). -/
def restoreSlice (c : ClusterId) (tid : Tid) (ctx : W64) (e : Nat × Slice) (s : State) : State :=
  let core := coreIn c e.1
  if (s.slice core).lastCtx = some ctx then s
  else s.modSlice core fun x => { x with
    tiles := e.2.tiles
    counts := e.2.counts
    cpair := e.2.cpair
    active := reloadBank s c tid ctx e.1 e.2.active
    shadow := reloadBank s c tid ctx e.1 e.2.shadow
    agt := e.2.agt
    agk := e.2.agk
    agz := e.2.agz
    age := e.2.age
    ago := e.2.ago
    lastCtx := some ctx
    scrubFor := none }

/-- Every thread rejoins the ready set (R327). -/
def rejoin (id : Nat) : List (Tid × Tid × Thread) → State → State
  | [], s => s
  | e :: es, s =>
    rejoin id es (renameThread (goneTid id e.1) e.2.1 (s.setTh e.2.1 { e.2.2 with hold := .none }))

/-- A team's fork records return to a core (R327): those of its spill area stay there; the others join the hardware deque, the
newest last. -/
def restoreForks (c : CoreId) (l : List ForkRec) (s : State) : State :=
  let s := s.modCore c fun k => { k with forks := unspill (k.forks ++ l.filter fun r => r.spot.isSome) }
  ((l.filter fun r => r.spot.isNone).reverse).foldl (fun s r => pushFork c r s) s

/-- RESUME_PLACE (R327): the area has been read, and every core has the free slots that the threads need. -/
def execResumePlace (c : ClusterId) (n : Nat) (s : State) : Out :=
  .next (match s.preempts.find? (fun p => decide (p.cluster = c ∧ p.team = n ∧ p.resume = true)) with
    | none => s
    | some p =>
      match preemptTeam p s with
      | none => resumeEnds p .noTeam s
      | some m =>
        match m.saved with
        | none => resumeEnds p .noTeam s
        | some v =>
          if p.next ≠ p.units ∨ ¬ (v.matrix.all fun e => sliceIdle s (coreIn c e.1)) then s
          else
            match resumeSlots s v with
            | none => s
            | some l =>
              let tids := l.map fun e => e.2.1
              let s := rejoin v.id l s
              let s := v.matrix.foldl
                (fun s e => restoreSlice c (tids.headD ⟨coreIn c 0, 0⟩) m.ctx e s) s
              let s := v.forks.foldl (fun s e =>
                if e.2 = [] then s else restoreForks (coreIn c e.1) e.2 s) s
              token p.cmd 1 (modTeam c n
                (fun m => { m with state := .running, members := tids, saved := none, complete := false })
                (dropPreempt p.id s)))

/-- RESUME_DEADLINE (R331): a resume that is not placed by its boundary is withdrawn with BUSY. -/
def execResumeDeadline (c : ClusterId) (n : Nat) (s : State) : Out :=
  .next (match s.preempts.find? (fun p => decide (p.cluster = c ∧ p.team = n ∧ p.resume = true)) with
    | some p => if p.deadline ≤ s.taper c.node then resumeEnds p .busy s else s
    | none => s)

end Sys2Proof.Machine
end

