-- ==== Sys2Proof/Machine/Vector.lean ====
section
/-!
DEFINITION. The vector unit: majors 0x30 to 0x37 (R170 to R188): masks and kept lanes, LV, results that arrive late,
flags, and the generators of stochastic rounding.
-/

namespace Sys2Proof.Machine

/-! ### Lanes and results -/

/-- A lane. -/
def laneAt (x : Lanes) (i : Nat) : W32 := x.toList.getD i 0

/-- Each active lane takes its new value, each inactive lane keeps the old one and sets no flag (R171). -/
def masked (old : Lanes) (m : W64) (f : Nat → W32 × Fl) : Lanes × Fl :=
  let rs := (List.range 64).map fun i => if m.getLsbD i then f i else (laneAt old i, 0)
  (tab 64 fun i => (rs.getD i (0, 0)).1, rs.foldl (fun b r => b ||| r.2) 0)

/-- The registers a vector ALU instruction writes: its destination and LV (R51). -/
def vdests (v : BitVec 5) : List RegRef := if v = 24 then [.v 24] else [.v v, .v 24]

/-- Write a vector register and LV (R51); a write that is not of the whole register keeps its poison mark, and LV takes it with the
lanes (R313, log 100). -/
def Thread.wVL (t : Thread) (v : BitVec 5) (x : Lanes) (whole : Bool) : Thread :=
  let b := t.stillBad v whole
  if v = 24 then t.wVm 24 x b else (t.wVm v x b).wVm 24 x b

/-- The result of a vector ALU instruction: written at once with its flags, or, from a class of more than 4 cycles,
later, with destination and LV empty until then (R169, R173). `canFlag`: the instruction can set a flag; `whole`: it writes every
lane. -/
def vresult (slow canFlag whole : Bool) (v : BitVec 5) (r : Lanes × Fl) (s : State) : State :=
  if slow then
    issueResult (some (.v v)) (if v = 24 then none else some (.v 24)) (.v r.1 whole) (if canFlag then some r.2 else none) s
  else s.modMe fun t => { t.wVL v r.1 whole with flg := t.flg ||| r.2 }

/-- Every lane is active under a mask. -/
def Thread.allLanes (m : BitVec 2) (t : Thread) : Bool := decide (t.rM m = BitVec.allOnes 64)

/-- A vector ALU instruction. DESIGN CHOICE: in the order of R47 its mask comes last among the sources, and its own register
before LV among the destinations (log 99). -/
def vop (slow canFlag : Bool) (whole : Thread → Bool) (srcs : List Src) (v : BitVec 5) (f : Thread → Lanes × Fl) (s : State) : Out :=
  .next (gated 1 Guard.none false srcs (vdests v)
    (fun s => retire 1 false (vresult slow canFlag (whole s.me) v (f s.me) s)) s)

/-- An operation on an I32 lane, or on each float element of a lane (R170). -/
def lane2 (t : VType) (fi : W32 → W32 → W32) (ff : Fmt → Nat → Nat → Nat × Fl) (a b : W32) : W32 × Fl :=
  match t with
  | .i32 => (fi a b, 0)
  | .f32 => let r := ff fp32 a.toNat b.toNat; (BitVec.ofNat 32 r.1, r.2)
  | t =>
    let f := elemFmt t
    let lo := ff f (a.toNat % 2 ^ 16) (b.toNat % 2 ^ 16)
    let hi := ff f (a.toNat / 2 ^ 16) (b.toNat / 2 ^ 16)
    (BitVec.ofNat 32 (lo.1 + hi.1 * 2 ^ 16), lo.2 ||| hi.2)

/-- The same for three operands (R177). -/
def lane3 (t : VType) (fi : W32 → W32 → W32 → W32) (ff : Fmt → Nat → Nat → Nat → Nat × Fl) (a b c : W32) : W32 × Fl :=
  match t with
  | .i32 => (fi a b c, 0)
  | .f32 => let r := ff fp32 a.toNat b.toNat c.toNat; (BitVec.ofNat 32 r.1, r.2)
  | t =>
    let f := elemFmt t
    let lo := ff f (a.toNat % 2 ^ 16) (b.toNat % 2 ^ 16) (c.toNat % 2 ^ 16)
    let hi := ff f (a.toNat / 2 ^ 16) (b.toNat / 2 ^ 16) (c.toNat / 2 ^ 16)
    (BitVec.ofNat 32 (lo.1 + hi.1 * 2 ^ 16), lo.2 ||| hi.2)

/-- The scalar operand in every element of a lane (R178). -/
def scalarLane (t : VType) (b : W64) : W32 :=
  if isPair t then BitVec.ofNat 32 (bits b 0 16 + bits b 0 16 * 2 ^ 16) else b.setWidth 32

/-- An elementwise operation of two vector registers (Table 6-5). -/
def vbin (f : W32 → W32 → W32 × Fl) (v a b : BitVec 5) (m : BitVec 2) (e : Bool) (s : State) : Out :=
  vop false true (Thread.allLanes m) [srcV a e, srcV b e, srcM m e] v
    (fun t => masked (t.rV v) (t.rM m) fun i => f (laneAt (t.rV a) i) (laneAt (t.rV b) i)) s

/-- An elementwise operation of one vector register. -/
def vun (slow canFlag : Bool) (f : W32 → W32 × Fl) (v a : BitVec 5) (m : BitVec 2) (e : Bool) (s : State) : Out :=
  vop slow canFlag (Thread.allLanes m) [srcV a e, srcM m e] v
    (fun t => masked (t.rV v) (t.rM m) fun i => f (laneAt (t.rV a) i)) s

/-- An operation of a vector register and a scalar (R178). -/
def vscal (t : VType) (f : W32 → W32 → W32 × Fl) (v a : BitVec 5) (b : GSrc) (m : BitVec 2) (e : Bool) (s : State) :
    Out :=
  vop false true (Thread.allLanes m) [srcV a e, srcG b, srcM m e] v
    (fun x => masked (x.rV v) (x.rM m) fun i => f (laneAt (x.rV a) i) (scalarLane t (x.src b))) s

/-- A result without flags. -/
def plain2 (f : W32 → W32 → W32) (a b : W32) : W32 × Fl := (f a b, 0)

/-! ### Majors 0x30 and 0x32 (R175, R176, R178) -/

/-- Addition of a type. -/
def addLane (t : VType) : W32 → W32 → W32 × Fl := lane2 t (· + ·) Fmt.add
/-- Subtraction of a type. -/
def subLane (t : VType) : W32 → W32 → W32 × Fl := lane2 t (· - ·) Fmt.sub
/-- Multiplication of a type. -/
def mulLane (t : VType) : W32 → W32 → W32 × Fl := lane2 t (· * ·) Fmt.mul
/-- Minimum of a type. -/
def minLane (t : VType) : W32 → W32 → W32 × Fl := lane2 t (fun a b => if b.slt a then b else a) fun f => f.pick false
/-- Maximum of a type. -/
def maxLane (t : VType) : W32 → W32 → W32 × Fl := lane2 t (fun a b => if a.slt b then b else a) fun f => f.pick true

/-- The sign bits of a lane of a type. -/
def signBits (t : VType) : W32 := if isPair t then 0x80008000 else 0x80000000

/-- VADD. -/
def execVadd (v a b : BitVec 5) (m : BitVec 2) (e : Bool) (t : VType) (s : State) : Out := vbin (addLane t) v a b m e s
/-- VSUB. -/
def execVsub (v a b : BitVec 5) (m : BitVec 2) (e : Bool) (t : VType) (s : State) : Out := vbin (subLane t) v a b m e s
/-- VMUL. -/
def execVmul (v a b : BitVec 5) (m : BitVec 2) (e : Bool) (t : VType) (s : State) : Out := vbin (mulLane t) v a b m e s
/-- VMIN. -/
def execVmin (v a b : BitVec 5) (m : BitVec 2) (e : Bool) (t : VType) (s : State) : Out := vbin (minLane t) v a b m e s
/-- VMAX. -/
def execVmax (v a b : BitVec 5) (m : BitVec 2) (e : Bool) (t : VType) (s : State) : Out := vbin (maxLane t) v a b m e s
/-- VABS. -/
def execVabs (v a : BitVec 5) (m : BitVec 2) (e : Bool) (t : VType) (s : State) : Out :=
  vun false true
    (fun x => (if t = .i32 then (if x.slt 0 then -x else x) else x &&& ~~~ signBits t, 0)) v a m e s
/-- VNEG. -/
def execVneg (v a : BitVec 5) (m : BitVec 2) (e : Bool) (t : VType) (s : State) : Out :=
  vun false true (fun x => (if t = .i32 then -x else x ^^^ signBits t, 0)) v a m e s
/-- VAND; the type is ignored. -/
def execVand (v a b : BitVec 5) (m : BitVec 2) (e : Bool) (_ : VType) (s : State) : Out :=
  vbin (plain2 (· &&& ·)) v a b m e s
/-- VOR. -/
def execVor (v a b : BitVec 5) (m : BitVec 2) (e : Bool) (_ : VType) (s : State) : Out :=
  vbin (plain2 (· ||| ·)) v a b m e s
/-- VXOR. -/
def execVxor (v a b : BitVec 5) (m : BitVec 2) (e : Bool) (_ : VType) (s : State) : Out :=
  vbin (plain2 (· ^^^ ·)) v a b m e s
/-- VANDN. -/
def execVandn (v a b : BitVec 5) (m : BitVec 2) (e : Bool) (_ : VType) (s : State) : Out :=
  vbin (plain2 fun x y => x &&& ~~~ y) v a b m e s

/-- A shift left by b[4:0]. -/
def shlLane (a b : W32) : W32 := a <<< (b.toNat % 32)
/-- A logical shift right. -/
def shrLane (a b : W32) : W32 := a >>> (b.toNat % 32)
/-- An arithmetic shift right. -/
def sraLane (a b : W32) : W32 := a.sshiftRight (b.toNat % 32)

/-- VSHL. -/
def execVshl (v a b : BitVec 5) (m : BitVec 2) (e : Bool) (s : State) : Out := vbin (plain2 shlLane) v a b m e s
/-- VSHR. -/
def execVshr (v a b : BitVec 5) (m : BitVec 2) (e : Bool) (s : State) : Out := vbin (plain2 shrLane) v a b m e s
/-- VSRA. -/
def execVsra (v a b : BitVec 5) (m : BitVec 2) (e : Bool) (s : State) : Out := vbin (plain2 sraLane) v a b m e s
/-- VMOV. -/
def execVmov (v a : BitVec 5) (m : BitVec 2) (e : Bool) (_ : VType) (s : State) : Out :=
  vun false false (fun x => (x, 0)) v a m e s
/-- VSEL: every lane, active or not, by its mask bit. -/
def execVsel (v a b : BitVec 5) (m : BitVec 2) (e : Bool) (_ : VType) (s : State) : Out :=
  vop false false (fun _ => true) [srcV a e, srcV b e, srcM m e] v
    (fun t => (tab 64 fun i => if (t.rM m).getLsbD i then laneAt (t.rV a) i else laneAt (t.rV b) i, 0)) s

/-- A comparison of two lanes (R176). -/
def cmpLane (t : VType) (k : VCmp) (a b : W32) : Bool × Fl :=
  if t = .i32 then (k.int (a.toInt - b.toInt), 0) else fp32.compare k a.toNat b.toNat

/-- The mask a compare writes: bit i is lane i active and its comparison; inactive lanes set no flag (R176). -/
def cmpMask (m : W64) (f : Nat → Bool × Fl) : W64 × Fl :=
  let rs := (List.range 64).map fun i => if m.getLsbD i then f i else (false, 0)
  (BitVec.ofNat 64 (rs.foldr (fun r n => (if r.1 then 1 else 0) + 2 * n) 0), rs.foldl (fun b r => b ||| r.2) 0)

/-- A compare: Md and the flags; LV is unchanged (R176). -/
def vcompare (k : BitVec 2) (srcs : List Src) (m : BitVec 2) (f : Thread → Nat → Bool × Fl) (s : State) : Out :=
  .next (gated 1 Guard.none false srcs [.m k]
    (fun s => retire 1 false (s.modMe fun t =>
      let r := cmpMask (t.rM m) (f t)
      { t.wM k r.1 with flg := t.flg ||| r.2 })) s)

/-- A compare of two vector registers. -/
def vcmp (op : VCmp) (k : BitVec 2) (a b : BitVec 5) (m : BitVec 2) (e : Bool) (t : VType) (s : State) : Out :=
  vcompare k [srcV a e, srcV b e, srcM m e] m
    (fun x i => cmpLane t op (laneAt (x.rV a) i) (laneAt (x.rV b) i)) s
/-- A compare with a scalar. -/
def vcmps (op : VCmp) (k : BitVec 2) (a : BitVec 5) (b : GSrc) (m : BitVec 2) (e : Bool) (t : VType) (s : State) : Out :=
  vcompare k [srcV a e, srcG b, srcM m e] m
    (fun x i => cmpLane t op (laneAt (x.rV a) i) (scalarLane t (x.src b))) s

/-- VCMPEQ. -/
def execVcmpeq (k : BitVec 2) (a b : BitVec 5) (m : BitVec 2) (e : Bool) (t : VType) (s : State) : Out :=
  vcmp .eq k a b m e t s
/-- VCMPNE. -/
def execVcmpne (k : BitVec 2) (a b : BitVec 5) (m : BitVec 2) (e : Bool) (t : VType) (s : State) : Out :=
  vcmp .ne k a b m e t s
/-- VCMPLT. -/
def execVcmplt (k : BitVec 2) (a b : BitVec 5) (m : BitVec 2) (e : Bool) (t : VType) (s : State) : Out :=
  vcmp .lt k a b m e t s
/-- VCMPLE. -/
def execVcmple (k : BitVec 2) (a b : BitVec 5) (m : BitVec 2) (e : Bool) (t : VType) (s : State) : Out :=
  vcmp .le k a b m e t s

/-- VADDS. -/
def execVadds (v a : BitVec 5) (b : GSrc) (m : BitVec 2) (e : Bool) (t : VType) (s : State) : Out :=
  vscal t (addLane t) v a b m e s
/-- VSUBS. -/
def execVsubs (v a : BitVec 5) (b : GSrc) (m : BitVec 2) (e : Bool) (t : VType) (s : State) : Out :=
  vscal t (subLane t) v a b m e s
/-- VMULS. -/
def execVmuls (v a : BitVec 5) (b : GSrc) (m : BitVec 2) (e : Bool) (t : VType) (s : State) : Out :=
  vscal t (mulLane t) v a b m e s
/-- VMINS. -/
def execVmins (v a : BitVec 5) (b : GSrc) (m : BitVec 2) (e : Bool) (t : VType) (s : State) : Out :=
  vscal t (minLane t) v a b m e s
/-- VMAXS. -/
def execVmaxs (v a : BitVec 5) (b : GSrc) (m : BitVec 2) (e : Bool) (t : VType) (s : State) : Out :=
  vscal t (maxLane t) v a b m e s
/-- VSHLS. -/
def execVshls (v a : BitVec 5) (b : GSrc) (m : BitVec 2) (e : Bool) (s : State) : Out :=
  vscal .i32 (plain2 shlLane) v a b m e s
/-- VSHRS. -/
def execVshrs (v a : BitVec 5) (b : GSrc) (m : BitVec 2) (e : Bool) (s : State) : Out :=
  vscal .i32 (plain2 shrLane) v a b m e s
/-- VSRAS. -/
def execVsras (v a : BitVec 5) (b : GSrc) (m : BitVec 2) (e : Bool) (s : State) : Out :=
  vscal .i32 (plain2 sraLane) v a b m e s
/-- VCMPEQS. -/
def execVcmpeqs (k : BitVec 2) (a : BitVec 5) (b : GSrc) (m : BitVec 2) (e : Bool) (t : VType) (s : State) : Out :=
  vcmps .eq k a b m e t s
/-- VCMPLTS. -/
def execVcmplts (k : BitVec 2) (a : BitVec 5) (b : GSrc) (m : BitVec 2) (e : Bool) (t : VType) (s : State) : Out :=
  vcmps .lt k a b m e t s
/-- VBCAST. -/
def execVbcast (v : BitVec 5) (b : GSrc) (m : BitVec 2) (e : Bool) (t : VType) (s : State) : Out :=
  vop false false (Thread.allLanes m) [srcG b, srcM m e] v
    (fun x => masked (x.rV v) (x.rM m) fun _ => (scalarLane t (x.src b), 0)) s

/-! ### Major 0x31 (R177) -/

/-- VFMA and VFMS; the result needs more than 4 cycles when the sources are three distinct registers of V0 to V15
(Table 6-4). -/
def vfused (neg : Bool) (v a b c : BitVec 5) (m : BitVec 2) (e : Bool) (t : VType) (s : State) : Out :=
  vop (decide (a ≠ b ∧ b ≠ c ∧ a ≠ c ∧ a.toNat < 16 ∧ b.toNat < 16 ∧ c.toNat < 16)) (decide (t ≠ .i32))
    (Thread.allLanes m) [srcV a e, srcV b e, srcV c e, srcM m e] v
    (fun x => masked (x.rV v) (x.rM m) fun i =>
      lane3 t (fun p q r => (if neg then -(p * q) else p * q) + r) (fun f => f.fma neg)
        (laneAt (x.rV a) i) (laneAt (x.rV b) i) (laneAt (x.rV c) i)) s

/-- VFMA. -/
def execVfma (v a b c : BitVec 5) (m : BitVec 2) (e : Bool) (t : VType) (s : State) : Out := vfused false v a b c m e t s
/-- VFMS. -/
def execVfms (v a b c : BitVec 5) (m : BitVec 2) (e : Bool) (t : VType) (s : State) : Out := vfused true v a b c m e t s

/-! ### Major 0x33 (R179) -/

/-- A special function of each element. -/
def vspecial (k : Special) (v a : BitVec 5) (m : BitVec 2) (e : Bool) (t : VType) (s : State) : Out :=
  vun true true (fun x => lane2 t (fun a _ => a) (fun f a _ => f.special k a) x x) v a m e s

/-- VRCP. -/
def execVrcp (v a : BitVec 5) (m : BitVec 2) (e : Bool) (t : VType) (s : State) : Out := vspecial .rcp v a m e t s
/-- VRSQ. -/
def execVrsq (v a : BitVec 5) (m : BitVec 2) (e : Bool) (t : VType) (s : State) : Out := vspecial .rsq v a m e t s
/-- VSQRT. -/
def execVsqrt (v a : BitVec 5) (m : BitVec 2) (e : Bool) (t : VType) (s : State) : Out := vspecial .sqrt v a m e t s
/-- VEXP2. -/
def execVexp2 (v a : BitVec 5) (m : BitVec 2) (e : Bool) (t : VType) (s : State) : Out := vspecial .exp2 v a m e t s
/-- VLOG2. -/
def execVlog2 (v a : BitVec 5) (m : BitVec 2) (e : Bool) (t : VType) (s : State) : Out := vspecial .log2 v a m e t s

/-! ### Majors 0x34 and 0x35: conversion, packing, scaling (R180 to R183) -/

/-- A generator state by lane (R166). -/
def Thread.genAt (t : Thread) (i : Nat) : W32 := t.gen.toList.getD i 0

/-- The rounding mode of VCVT's c[2:0]; SR with the value drawn (R165, R180). -/
def cvtMode (k : Nat) (g : W32) : Mode :=
  match k with
  | 0 => .rne | 1 => .rtz | 2 => .rdn | 3 => .rup | _ => .sr g

/-- The elements of lane i that VCVT rounds, each with the source lane whose generator it steps (R166, Table 6-7):
none, one, or the low and the high element. -/
def cvtSources (t src : VType) (a : Lanes) (i : Nat) : List (Nat × Nat) :=
  if isPair t then
    if isPair src then [((laneAt a i).toNat % 2 ^ 16, i), ((laneAt a i).toNat / 2 ^ 16, i)]
    else if i < 32 then [((laneAt a (2 * i)).toNat, 2 * i), ((laneAt a (2 * i + 1)).toNat, 2 * i + 1)]
    else []
  else if isPair src then [] else [((laneAt a i).toNat, i)]

/-- Values drawn for the elements of a lane in order, each from its lane's generator; a second draw from one lane
follows the first (R166). -/
def draws (gen : Nat → W32) : List (Nat × Nat) → List W32
  | [(_, i), (_, j)] => [genStep (gen i), if i = j then genStep (genStep (gen i)) else genStep (gen j)]
  | [(_, i)] => [genStep (gen i)]
  | _ => []

/-- One element converted (Table 6-7). -/
def cvtElem (t src : VType) (md : Mode) (x : Nat) : Nat × Fl :=
  match t, src with
  | .i32, _ => toI32 md (fp32.decode x)
  | .f32, .i32 => fp32.convert md false (.fin (decide (2 ^ 31 ≤ x)) (signedOf 32 x).natAbs 0)
  | .f32, _ => fp32.integral md x
  | t, src => (elemFmt t).convert md false ((elemFmt src).decode x)

/-- An active lane of VCVT (Table 6-7). -/
def cvtLane (t src : VType) (k : Nat) (a : Lanes) (gen : Nat → W32) (i : Nat) : W32 × Fl :=
  if isPair src && !isPair t then
    let x := (laneAt a (32 * (k % 2) + i / 2)).toNat / 2 ^ (16 * (i % 2)) % 2 ^ 16
    let r := fp32.convert .rne false ((elemFmt src).decode x)
    (BitVec.ofNat 32 r.1, r.2)
  else
    let es := cvtSources t src a i
    let rs := (es.zip (draws gen es)).map fun x => cvtElem t src (cvtMode k x.2) x.1.1
    (BitVec.ofNat 32 (rs.foldr (fun r n => r.1 + 2 ^ 16 * n) 0), rs.foldl (fun b r => b ||| r.2) 0)

/-- Steps each generator takes in a VCVT with SR: once for each rounded element of an active lane (R165, R166). DESIGN CHOICE: of a
narrowing under a mask the bit of the destination lane says whether an element is active (log 116). -/
def cvtGen (t src : VType) (m : W64) (gen : Vector W32 64) : Vector W32 64 :=
  let used := (List.range 64).flatMap fun i =>
    if m.getLsbD i then (cvtSources t src Lanes.zero i).map (·.2) else []
  tab 64 fun i => (used.filter (· = i)).foldl (fun g _ => genStep g) (gen.toList.getD i 0)

/-- VCVT (R180). -/
def execVcvt (v a c : BitVec 5) (m : BitVec 2) (e : Bool) (t : VType) (s : State) : Out :=
  let src := vcvtSource c
  let k := c.toNat % 8
  .next (gated 1 Guard.none false [srcV a e, srcM m e] (vdests v)
    (fun s =>
      let x := s.me
      let r := masked (x.rV v) (x.rM m) (cvtLane t src k (x.rV a) x.genAt)
      let s := if k = 4 ∧ (isPair t ∨ ¬ isPair src) then
        s.modMe fun x => { x with gen := cvtGen t src (x.rM m) x.gen } else s
      retire 1 false (vresult true true (x.allLanes m) v r s)) s)

/-- The two blocks of a VPACK (R181). -/
def packBlocks (fmt md : Nat) (a : Lanes) (gen : Nat → W32) : List Quant :=
  [0, 32].map fun lo =>
    let lanes := (List.range 32).map (· + lo)
    if fmt = 5 then k4Quant (lanes.map fun i => (laneAt a i).toNat)
    else mxQuant (packFmt fmt) (lanes.map fun i =>
      ((laneAt a i).toNat, match md with | 0 => Mode.rne | 1 => .rtz | _ => .sr (genStep (gen i))))

/-- The element codes as one number, element k at bits [wk + w − 1 : wk] (Table 6-8). -/
def codeString (w : Nat) (cs : List Nat) : Nat := cs.foldr (fun c n => c + 2 ^ w * n) 0

/-- The register layout of two blocks (Table 6-8). -/
def packLanes (fmt : Nat) (qs : List Quant) : Lanes :=
  let w := (packFmt fmt).width
  let n := codeString w (qs.flatMap (·.codes))
  let q0 := qs.getD 0 ⟨[], 0, 0, 0⟩
  let q1 := qs.getD 1 ⟨[], 0, 0, 0⟩
  tab 64 fun j =>
    if j = 63 then BitVec.ofNat 32 (q0.scale + q1.scale * 2 ^ 8 + q0.spare * 2 ^ 16 + q1.spare * 2 ^ 24)
    else BitVec.ofNat 32 (n / 2 ^ (32 * j))

/-- VPACK (R181); with SR all 64 generators step (R165). -/
def execVpack (v a c : BitVec 5) (e : Bool) (s : State) : Out :=
  let fmt := c.toNat % 8
  let md := c.toNat / 8
  .next (gated 1 Guard.none false [srcV a e] (vdests v)
    (fun s =>
      let x := s.me
      let qs := packBlocks fmt md (x.rV a) x.genAt
      let s := if md = 2 then s.modMe fun x => { x with gen := x.gen.map genStep } else s
      retire 1 false (vresult true true true v (packLanes fmt qs, qs.foldl (fun b q => b ||| q.fl) 0) s)) s)

/-- An element of VUNPK (R182): the canonical NaN without INV, else the value rounded once. -/
def unpackElem (fmt code scale spare : Nat) : Nat × Fl :=
  match blockElem fmt code scale spare with
  | .nan _ => (fp32.nan, 0)
  | x => fp32.ofNum x

/-- VUNPK (R182). -/
def execVunpk (v a : BitVec 5) (c : BitVec 3) (e : Bool) (s : State) : Out :=
  let fmt := c.toNat
  let w := (packFmt fmt).width
  vop true true (fun _ => true) [srcV a e] v
    (fun x =>
      let n := codeString 32 ((List.range (2 * w)).map fun j => (laneAt (x.rV a) j).toNat)
      let top := (laneAt (x.rV a) 63).toNat
      masked Lanes.zero (BitVec.allOnes 64) fun k =>
        let r := unpackElem fmt (n / 2 ^ (w * k) % 2 ^ w) (top / 2 ^ (8 * (k / 32)) % 2 ^ 8)
          (top / 2 ^ (16 + 8 * (k / 32)) % 2 ^ 8)
        (BitVec.ofNat 32 r.1, r.2)) s

/-- VSCALE (R183). -/
def execVscale (v a b : BitVec 5) (m : BitVec 2) (e : Bool) (t : VType) (s : State) : Out :=
  vop true true (Thread.allLanes m) [srcV a e, srcV b e, srcM m e] v
    (fun x => masked (x.rV v) (x.rM m) fun i =>
      lane2 t (fun a _ => a) (fun f a n => f.scale a (signedOf (if isPair t then 16 else 32) n))
        (laneAt (x.rV a) i) (laneAt (x.rV b) i)) s

/-! ### Major 0x36: across lanes (R184 to R187) -/

/-- The operation of VRED and VSCAN on elements (R184). -/
def redOp (t : VType) (o : Nat) (a b : Nat) : Nat × Fl :=
  let f := elemFmt t
  let x := BitVec.ofNat 32 a
  let y := BitVec.ofNat 32 b
  if t = .i32 then
    ((match o with
      | 0 => x + y
      | 1 => if y.slt x then y else x
      | 2 => if x.slt y then y else x
      | 3 => x &&& y
      | 4 => x ||| y
      | _ => x ^^^ y).toNat, 0)
  else
    match o with
    | 0 => f.add a b
    | 1 => f.pick false a b
    | _ => f.pick true a b

/-- The identities (R184). -/
def redIdentity (t : VType) (o : Nat) : Nat :=
  let f := elemFmt t
  if t = .i32 then
    match o with
    | 0 => 0 | 1 => 2 ^ 31 - 1 | 2 => 2 ^ 31 | 3 => 2 ^ 32 - 1 | _ => 0
  else
    match o with
    | 0 => f.signed true 0 | 1 => f.inf false | _ => f.inf true

/-- The elements in order, with whether their lane is active (R171, R184). -/
def redElems (t : VType) (m : W64) (x : Lanes) : List (Nat × Bool) :=
  (List.range (elemCount t)).map fun k => (elemAt t x k, m.getLsbD (if isPair t then k / 2 else k))

/-- One level of the tree (R184). -/
def redLevel (op : Nat → Nat → Nat × Fl) : List (Nat × Fl) → List (Nat × Fl)
  | x :: y :: r => ((op x.1 y.1).1, x.2 ||| y.2 ||| (op x.1 y.1).2) :: redLevel op r
  | l => l

/-- `n` levels of the tree. -/
def redTree (op : Nat → Nat → Nat × Fl) : Nat → List (Nat × Fl) → List (Nat × Fl)
  | 0, l => l
  | n + 1, l => redTree op n (redLevel op l)

/-- VRED (R184): the result in element 0, every other bit 0. -/
def execVred (v a o : BitVec 5) (m : BitVec 2) (e : Bool) (t : VType) (s : State) : Out :=
  vop true (decide (t ≠ .i32)) (fun _ => true) [srcV a e, srcM m e] v
    (fun x =>
      let es := (redElems t (x.rM m) (x.rV a)).map fun y => if y.2 then y.1 else redIdentity t o.toNat
      let r := (redTree (redOp t o.toNat) 7 (es.map fun y => (y, 0))).headD (0, 0)
      (lanesOf t [r.1], r.2)) s

/-- The inclusive prefix of R185: elements of inactive lanes keep their old value. -/
def scanFrom (op : Nat → Nat → Nat × Fl) : Nat → Fl → List (Nat × Bool × Nat) → List Nat × Fl
  | _, fl, [] => ([], fl)
  | acc, fl, (x, on, old) :: r =>
    if on then
      let y := op acc x
      let q := scanFrom op y.1 (fl ||| y.2) r
      (y.1 :: q.1, q.2)
    else
      let q := scanFrom op acc fl r
      (old :: q.1, q.2)

/-- VSCAN (R185). -/
def execVscan (v a o : BitVec 5) (m : BitVec 2) (e : Bool) (t : VType) (s : State) : Out :=
  vop true (decide (t ≠ .i32)) (Thread.allLanes m) [srcV a e, srcM m e] v
    (fun x =>
      let es := (redElems t (x.rM m) (x.rV a)).zip ((List.range (elemCount t)).map (elemAt t (x.rV v)))
      let r := scanFrom (redOp t o.toNat) (redIdentity t o.toNat) 0 (es.map fun y => (y.1.1, y.1.2, y.2))
      (lanesOf t r.1, r.2)) s

/-- VPERM (R186). -/
def execVperm (v a b : BitVec 5) (m : BitVec 2) (e : Bool) (_ : VType) (s : State) : Out :=
  vop true false (Thread.allLanes m) [srcV a e, srcV b e, srcM m e] v
    (fun x => masked (x.rV v) (x.rM m) fun i => (laneAt (x.rV a) ((laneAt (x.rV b) i).toNat % 64), 0)) s
/-- VROT (R186). -/
def execVrot (v a : BitVec 5) (b : GSrc) (m : BitVec 2) (e : Bool) (_ : VType) (s : State) : Out :=
  vop true false (Thread.allLanes m) [srcV a e, srcG b, srcM m e] v
    (fun x => masked (x.rV v) (x.rM m) fun i => (laneAt (x.rV a) ((i + bits (x.src b) 0 6) % 64), 0)) s

/-- The value VEXTR reads (R187). -/
def extracted (t : VType) (x : Lanes) (b : W64) : W64 :=
  match t with
  | .i32 => (laneAt x (bits b 0 6)).signExtend 64
  | .f32 => (laneAt x (bits b 0 6)).setWidth 64
  | t => BitVec.ofNat 64 (elemAt t x (bits b 0 7))

/-- VEXTR (R187): LV is unchanged. -/
def execVextr (d : BitVec 4) (a : BitVec 5) (b : GSrc) (e : Bool) (t : VType) (s : State) : Out :=
  .next (gated 1 Guard.none false [srcV a e, srcG b] (destG d)
    (fun s => retire 1 false
      (if d = 0 then s
       else issueResult (longG d) none (.g (extracted t (s.me.rV a) (s.me.src b))) none s)) s)

/-- A register with one lane or element replaced (R187). -/
def inserted (t : VType) (x : Lanes) (a b : W64) : Lanes :=
  let i := if isPair t then bits b 0 7 / 2 else bits b 0 6
  tab 64 fun j =>
    let old := laneAt x j
    if j ≠ i then old
    else if isPair t then
      (if bits b 0 1 = 0 then (old &&& 0xFFFF0000#32) ||| BitVec.ofNat 32 (bits a 0 16)
       else (old &&& 0xFFFF#32) ||| BitVec.ofNat 32 (bits a 0 16 * 2 ^ 16))
    else a.setWidth 32

/-- VINS (R187): vd is read, so an empty vd blocks as a destination. -/
def execVins (v : BitVec 5) (a b : GSrc) (m : BitVec 2) (t : VType) (s : State) : Out :=
  vop true false (fun _ => false) [⟨.v v, v.toNat, false, true⟩, srcG a, srcG b, srcM m false] v
    (fun x =>
      let i := if isPair t then bits (x.src b) 0 7 / 2 else bits (x.src b) 0 6
      (if (x.rM m).getLsbD i then inserted t (x.rV v) (x.src a) (x.src b) else x.rV v, 0)) s

/-! ### Major 0x37: masks (R188) -/

/-- A mask operation of two masks; LV is unchanged. -/
def maskOp (f : W64 → W64 → W64) (k a b : BitVec 2) (e : Bool) (s : State) : Out :=
  .next (simple Guard.none [srcM a e, srcM b e] [.m k] (fun t => t.wM k (f (t.rM a) (t.rM b))) s)

/-- MAND. -/
def execMand (k a b : BitVec 2) (e : Bool) (s : State) : Out := maskOp (· &&& ·) k a b e s
/-- MOR. -/
def execMor (k a b : BitVec 2) (e : Bool) (s : State) : Out := maskOp (· ||| ·) k a b e s
/-- MXOR. -/
def execMxor (k a b : BitVec 2) (e : Bool) (s : State) : Out := maskOp (· ^^^ ·) k a b e s
/-- MANDN. -/
def execMandn (k a b : BitVec 2) (e : Bool) (s : State) : Out := maskOp (fun x y => x &&& ~~~ y) k a b e s
/-- MNOT. -/
def execMnot (k a : BitVec 2) (e : Bool) (s : State) : Out :=
  .next (simple Guard.none [srcM a e] [.m k] (fun t => t.wM k (~~~ t.rM a)) s)

/-- Number of 1 bits among bits [n−1:0] of a mask. -/
def maskCount (x : W64) : Nat → Nat
  | 0 => 0
  | n + 1 => maskCount x n + (if x.getLsbD n then 1 else 0)
/-- Index of the lowest 1 bit from `64 − n` on; 64 if there is none. -/
def maskFirst (x : W64) : Nat → Nat
  | 0 => 64
  | n + 1 => if x.getLsbD (63 - n) then 63 - n else maskFirst x n

/-- MPOPC. -/
def execMpopc (d : BitVec 4) (a : BitVec 2) (e : Bool) (s : State) : Out :=
  .next (simple Guard.none [srcM a e] (destG d) (fun t => t.wG d (BitVec.ofNat 64 (maskCount (t.rM a) 64))) s)
/-- MFIRST. -/
def execMfirst (d : BitVec 4) (a : BitVec 2) (e : Bool) (s : State) : Out :=
  .next (simple Guard.none [srcM a e] (destG d) (fun t => t.wG d (BitVec.ofNat 64 (maskFirst (t.rM a) 64))) s)
/-- MSET. -/
def execMset (k : BitVec 2) (a : GSrc) (s : State) : Out :=
  .next (simple Guard.none [srcG a] [.m k] (fun t => t.wM k (t.src a)) s)

end Sys2Proof.Machine
end

