-- ==== Sys2Proof/Machine/VectorMem.lean ====
section
/-!
DEFINITION. Vector memory instructions at issue: VLD and VST (R215), strided and indexed accesses (R216), VSTFL (R273), and
the write of the request port (R377). Only active lanes are accessed; what their homes answer is in `acceptThread`.
-/

namespace Sys2Proof.Machine

/-- An active lane with the address it accesses. -/
abbrev LaneAddr := Nat × W64

/-- The active lanes of a mask with their addresses, ascending. -/
def activeLanes (m : W64) (f : Nat → W64) : List LaneAddr :=
  (List.range 64).filterMap fun i => if m.getLsbD i then some (i, f i) else none

/-- A fault marked as a vector access's, with its lane (R217). -/
def laneFault (i : Nat) (f : FaultInfo) : FaultInfo :=
  { f with t2 := (f.t2 &&& 0xFFFF#64) ||| BitVec.ofNat 64 (2 ^ 23 + i * 2 ^ 16) }

/-- A lane of a contiguous access that lies past the end of the scratchpad or B-stack that holds its first byte (R215). -/
def pastEnd (c : CoreId) (ea a : W64) : Bool :=
  match classify c ea with
  | .place p =>
    (match p.region with
     | .agent _ _ => false
     | r => decide (r.size < p.off + (a - ea).toNat + 4))
  | _ => false

/-- The lowest lane that is refused at issue: past the end of its memory (R215), or a store below the own XB (R63, R94). -/
def issueRefusal (s : State) (ea : Option W64) (store : Bool) (ls : List LaneAddr) : Option FaultInfo :=
  ls.findSome? fun l =>
    if (ea.map fun e => pastEnd s.cur.core e l.2) = some true then some (laneFault l.1 (accessFault l.2 2))
    else if store && ownXB s l.2 then some (laneFault l.1 (accessFault l.2 3))
    else none

/-- Lanes grouped by the aligned 64-byte unit that holds them (R210), in order. -/
def unitsOf : List LaneAddr → List (List LaneAddr)
  | [] => []
  | l :: ls =>
    match unitsOf ls with
    | (k :: ks) :: us => if k.2.toNat / 64 = l.2.toNat / 64 then (l :: k :: ks) :: us else [l] :: (k :: ks) :: us
    | us => [l] :: us

/-- One unit's access: the operation on its lanes, each at its offset from the first. `data`: the register stored. -/
def unitOp (data : Option Lanes) (base : W64) (ls : List LaneAddr) : AccOp :=
  match data with
  | none => .vload (ls.map fun l => (l.1, (l.2 - base).toNat))
  | some x => .vstore (ls.map fun l => (l.1, (l.2 - base).toNat, laneAt x l.1))

/-- Put the units of a vector access in flight; the unit is known by its lowest lane (R217). -/
def postUnits (pid : Nat) (data : Option Lanes) : List (List LaneAddr) → State → State
  | [], s => s
  | [] :: us, s => postUnits pid data us s
  | (l :: ls) :: us, s =>
    let len := (ls.foldl (fun n k => max n (k.2 - l.2).toNat) 0) + 4
    postUnits pid data us (postMine (.thread pid l.1) (unitOp data l.2 (l :: ls)) l.2 len s)

/-- A vector load's registers: its destination and LL (R51). -/
def loadDests (v : BitVec 5) : List RegRef := if v = 25 then [.v 25] else [.v v, .v 25]

/-- A vector load once its checks at issue have passed: vd and LL go empty (R215). -/
def loadUnits (v : BitVec 5) (us : List (List LaneAddr)) (s : State) : State :=
  let s := s.begin
  retire 1 false (postUnits s.nextId none us
    (issuePending true (some (.v v)) (if v = 25 then none else some (.v 25)) us.length (.lanes []) true true s))

/-- A vector store once its checks at issue have passed. -/
def storeUnits (x : Lanes) (us : List (List LaneAddr)) (s : State) : State :=
  let s := s.begin
  retire 1 false
    (if us = [] then s
     else postUnits s.nextId (some x) us (issuePending false none none us.length (.g 0) false true s))

/-- The own core's request port (R377). -/
def isPort (c : CoreId) (ea : W64) : Bool :=
  match classify c ea with
  | .place p => decide (p.die = c.die ∧ p.region = .agent c.cluster c.core ∧ p.off = 0x100)
  | _ => false

/-- The write of the request port: one access of 16 lanes (R377). -/
def portWrite (ea : W64) (x : Lanes) (s : State) : State :=
  let s := s.begin
  retire 1 false (postMine (.thread s.nextId 0) (.port ((List.range 16).map (laneAt x))) ea 64
    (issuePending false none none 1 (.g 0) false true s))

/-- VLD (R215). -/
def execVld (v : BitVec 5) (a : GSrc) (o : BitVec 9) (m : BitVec 2) (e : Bool) (s : State) : Out :=
  .next (gatedTrap 1 Guard.none false [srcG a, srcM m e] (loadDests v)
    (fun s =>
      let ea := eaVector (s.me.src a) o
      let ls := activeLanes (s.me.rM m) fun i => ea + BitVec.ofNat 64 (4 * i)
      if ¬ aligned ea 4 then trap (causeOf .align ea) s
      else
        match issueRefusal s (some ea) false ls with
        | some f => trap f s
        | none => loadUnits v (unitsOf ls) s) s)

/-- VST (R215, R377). -/
def execVst (v : BitVec 5) (a : GSrc) (o : BitVec 9) (m : BitVec 2) (e : Bool) (s : State) : Out :=
  .next (gatedTrap 1 Guard.none false [srcV v e, srcG a, srcM m e] []
    (fun s =>
      let ea := eaVector (s.me.src a) o
      let ls := activeLanes (s.me.rM m) fun i => ea + BitVec.ofNat 64 (4 * i)
      if ¬ aligned ea 4 then trap (causeOf .align ea) s
      else
        match issueRefusal s (some ea) true ls with
        | some f => trap f s
        | none =>
          if isPort s.cur.core ea ∧ s.me.rM m = 0xFFFF then portWrite ea (s.me.rV v) s
          else storeUnits (s.me.rV v) (unitsOf ls) s) s)

/-- A strided or indexed access: each active lane on its own, all aligned before any is accessed (R216). -/
def laneAccess (store : Bool) (ls : List LaneAddr) (go : State → State) (s : State) : State :=
  match (ls.filter fun l => !aligned l.2 4).map (·.2) with
  | x :: xs => trap (causeOf .align (xs.foldl (fun b y => if y.ult b then y else b) x)) s
  | [] =>
    match issueRefusal s none store ls with
    | some f => trap f s
    | none => go s

/-- VLDT (R216). -/
def execVldt (v : BitVec 5) (a b : GSrc) (m : BitVec 2) (e : Bool) (s : State) : Out :=
  .next (gatedTrap 1 Guard.none false [srcG a, srcG b, srcM m e] (loadDests v)
    (fun s =>
      let ls := activeLanes (s.me.rM m) (eaStride (s.me.src a) (s.me.src b))
      laneAccess false ls (loadUnits v (ls.map fun l => [l])) s) s)
/-- VSTT (R216). -/
def execVstt (v : BitVec 5) (a b : GSrc) (m : BitVec 2) (e : Bool) (s : State) : Out :=
  .next (gatedTrap 1 Guard.none false [srcV v e, srcG a, srcG b, srcM m e] []
    (fun s =>
      let ls := activeLanes (s.me.rM m) (eaStride (s.me.src a) (s.me.src b))
      laneAccess true ls (storeUnits (s.me.rV v) (ls.map fun l => [l])) s) s)
/-- VLDX (R216). -/
def execVldx (v : BitVec 5) (a : GSrc) (b : BitVec 5) (m : BitVec 2) (e : Bool) (s : State) : Out :=
  .next (gatedTrap 1 Guard.none false [srcG a, srcV b e, srcM m e] (loadDests v)
    (fun s =>
      let ls := activeLanes (s.me.rM m) fun i => eaIndexed (s.me.src a) (laneAt (s.me.rV b) i)
      laneAccess false ls (loadUnits v (ls.map fun l => [l])) s) s)
/-- VSTX (R216). -/
def execVstx (v : BitVec 5) (a : GSrc) (b : BitVec 5) (m : BitVec 2) (e : Bool) (s : State) : Out :=
  .next (gatedTrap 1 Guard.none false [srcV v e, srcG a, srcV b e, srcM m e] []
    (fun s =>
      let ls := activeLanes (s.me.rM m) fun i => eaIndexed (s.me.src a) (laneAt (s.me.rV b) i)
      laneAccess true ls (storeUnits (s.me.rV v) (ls.map fun l => [l])) s) s)

/-- VSTFL's stores in flight: one answer for each unit and one for the flag, which is raised at once when no lane is
active (R273). -/
def flagUnits (x : Lanes) (fa : W64) (us : List (List LaneAddr)) (s : State) : State :=
  let s := s.begin
  let pid := s.nextId
  let node := s.cur.core.node
  let t := s.me
  let s := postUnits pid (some x) us (issuePending false none none (us.length + 1) (.flag fa 64 node (if us = [] then .posted else .awaited)) false true s)
  let s := if us = [] then
      { s.fresh with raises := s.raises ++ [⟨s.nextId, s.cur, t.ctxh, t.pc.toNat, pid, node, fa, true,
        (s.core s.cur.core).xb⟩] } else s
  retire 1 true s

/-- VSTFL (R273). -/
def execVstfl (v : BitVec 5) (a b : GSrc) (m : BitVec 2) (e : Bool) (s : State) : Out :=
  .next (gatedTrap 1 Guard.none false [srcV v e, srcG a, srcG b, srcM m e] []
    (fun s =>
      let ea := s.me.src a
      let fa := s.me.src b
      let ls := activeLanes (s.me.rM m) fun i => ea + BitVec.ofNat 64 (4 * i)
      if ¬ aligned ea 4 then trap (causeOf .align ea) s
      else
        match flagAddrFault fa with
        | some f => trap f s
        | none =>
          match issueRefusal s (some ea) true ls with
          | some f => trap f s
          | none => flagUnits (s.me.rV v) fa (unitsOf ls) s) s)

end Sys2Proof.Machine
end

