-- ==== Sys2Proof/Machine/Units.lean ====
section
/-!
DEFINITION. What happens to one unit of an access in flight, whoever makes it: its translation (R202 to R207), its
acceptance or refusal at its home (R218), and the request port (R377).
-/

namespace Sys2Proof.Machine

/-- An access in flight, by its name. -/
def State.acc? (s : State) (k : Nat) : Option Acc := s.accs.find? fun a => decide (a.id = k)

/-- A unit is refused; its agent takes the refusal (R94, R146, R217, R255, R268, R290, R330). -/
def refuseAcc (a : Acc) (f : FaultInfo) (s : State) : State :=
  let s := settleAcc a s
  match a.agent with
  | .thread pid lane => refuseUnit a pid lane f s
  | .performed pid lane _ => refuseUnit a pid lane f s
  | .copyRead j k => jobReadRefused j k f s
  | .copyWrite j n => jobWriteRefused a j n f s
  | .msgRead j _ => msgRefused a j f s
  | .msgWrite j _ => msgRefused a j f s
  | .mxRow c core _ => mxRowRefused c core f s
  | .mxUnit c core u => mxUnitRefused c core u f s
  | .mxDrain c _ => mxDrainRefused c f s
  | .descriptor k => descriptorRefused k f s
  | .lockKey seq =>
    (match s.waits.find? fun w => decide (w.seq = seq) with
     | some w => faultWait w (waitSource f) s
     | none => s)
  | .save id _ => saveRefused id f s

/-- The bytes that a store carries. -/
def AccOp.storeBytes : AccOp → List Byte
  | .store bs => bs
  | _ => []

/-- An engine's unit is accepted at its home and performed. -/
def performEngine (a : Acc) (p : Phys) (s : State) : State :=
  let s := settleAcc a s
  match a.agent with
  | .copyRead j _ => jobReadDone a j p s
  | .copyWrite j n => jobWriteDone a j n p s
  | .msgRead j _ => msgReadDone a j p s
  | .msgWrite j n => msgWriteDone a j n p s
  | .mxRow c core _ => mxRowDone a c core p s
  | .mxUnit c core u => mxUnitDone a c core u p s
  | .mxDrain c _ => mxDrainDone a c p s
  | .descriptor k => descriptorRead k (s.peekWords p 8) s
  | .save id u => (match a.op with | .engRead => saveReadDone id u p s | op => saveWriteDone id u p op.storeBytes s)
  | _ => s

/-- An engine's unit arrives at its home. The rows of an MMA wait while two due tests do (R298), and the read
of a descriptor while its service core does not run (R382). -/
def acceptEngine (a : Acc) (p : Phys) (s : State) : State :=
  let waits := match a.agent with
    | .mxRow c _ _ => rowBlocked s c
    | .descriptor _ => !serviceRuns s (dieOf a.tid.core)
    | _ => false
  if waits || writesBefore s a || !a.reaches s || !answerFits s a p || jobHeld s a (fun x => decide (x.id < a.id)) then s
  else
    match a.refusal p s with
    | some f => refuseAcc a f s
    | none => performEngine a p (respond a p s)

/-- A thread's access to another package is performed there (R218, R350); its answer awaits the end-to-end
acknowledgement (log 26). Nothing of the thread waits for its acceptance any more. -/
def acceptFar (a : Acc) (pid lane : Nat) (p : Phys) (s : State) : State :=
  match a.refusal p s with
  | some f => refuseAcc a f s
  | none =>
    if ¬ answerFits s a p then s else
    let r := perform a p (respond a p (settleAcc a s))
    flagNext a.tid a.ctx a.xb pid (modPending a.tid pid (Pending.noteLane lane p.node)
      { r.2 with accs := r.2.accs ++ [{ a with agent := .performed pid lane r.1 }] })

/-- MEMORY_ACCESS_ACCEPT (R218): one unit arrives at its home, or a register read at its unit, and is accepted or refused. -/
def execMemoryAccessAccept (k : Nat) (s : State) : Out :=
  .next (match s.acc? k with
    | none => s
    | some a =>
      match a.agent, a.op, a.place with
      | .thread pid _, .sysreg n sel, _ => acceptRegister a pid n sel s
      | .thread _ _, .port _, _ => s
      | .thread pid lane, _, some p =>
        if ¬ mayAccept s a p then s
        else if p.node = a.tid.core.node then acceptThread a pid lane p s
        else acceptFar a pid lane p s
      | .performed _ _ _, _, _ => s
      | .lockKey _, _, _ => s
      | _, _, some p => acceptEngine a p s
      | _, _, none => s)

/-! ### The request port (R377) -/

/-- The inbox record that the port makes: KIND 1 and the slot over bits [63:56] of word 3 (Table 15-7a). -/
def portRecord (slot : Nat) (ws : List W32) : List W64 :=
  (List.range 8).map fun i =>
    let x := (nth 0 ws (2 * i)).toNat + (nth 0 ws (2 * i + 1)).toNat * 2 ^ 32
    BitVec.ofNat 64 (if i = 3 then x % 2 ^ 56 + slot % 16 * 2 ^ 56 + 2 ^ 60 else x)

/-- SYS_REQUEST_PORT_WRITE (R377): the port puts the request into its core's inbox once that has a place. -/
def execSysRequestPortWrite (k : Nat) (s : State) : Out :=
  .next (match s.acc? k with
    | none => s
    | some a =>
      match a.agent, a.op, a.place with
      | .thread pid _, .port ws, some p =>
        if ¬ mayAccept s a p ∨ Config.inboxEntries ≤ (s.core a.tid.core).inbox.length then s
        else
          answer a.tid pid id ((settleAcc a s).modCore a.tid.core fun c => { c with inbox := c.inbox ++ [portRecord a.tid.slot ws] })
      | _, _, _ => s)

/-! ### Translation (R202 to R208) -/

/-- LLOCK's key on its way to its home is an access of its thread too (R146). -/
def Acc.isKey (a : Acc) : Bool := match a.agent with | .lockKey _ => true | _ => false

/-- The turn of an access to be translated: a thread's agent translates in issue order, an LLOCK's key among them (R202), and a
job whose access waits for a reply is held (R257). -/
def walkTurn (s : State) (a : Acc) : Bool :=
  if a.ofThread || a.isKey then translatedBefore s a.tid a.id else !jobHeld s a (fun x => decide (x.id ≠ a.id))

/-- The thread of an access that proceeds after a reply rejoins the ready set (R207); an implicit block that it is still in is
bounded anew, as the wait for the reply was not subject to ETO (R204, log 106). -/
def rejoinReady (a : Acc) (s : State) : State := if a.trans = .again ∧ a.ofThread then reboundBlock a.tid s else s

/-- An access's place is known, or it is refused, or a fault record is posted (R200, R202, R204); slot 0 takes ACCESS at once. -/
def walkAcc (a : Acc) (old : Bool) (s : State) : State :=
  if classify a.tid.core a.ea ≠ .virt ∨ (s.pkg a.tid.core.node).phase < 3 then refuseAcc a (accessFault a.ea 2) s
  else
    match translate s a.tid.core a.space a.sub a.ea a.op old with
    | .ok p s => rejoinReady a (setPlace a.id p s)
    | .refused f => refuseAcc a f s
    | .fault cause level entry die off =>
      if a.tid.slot = 0 then refuseAcc a (accessFault a.ea 1) s
      else raiseTransFault a (faultRec a cause level entry die off) s

/-- TRANSLATION_WALK (R202, R204); `old`: a cached leaf is used where there is one. -/
def execTranslationWalk (k : Nat) (old : Bool) (s : State) : Out :=
  .next (match s.acc? k with
    | none => s
    | some a => if (a.trans = .need ∨ a.trans = .again) ∧ walkTurn s a then walkAcc a old s else s)

/-- FAULT_REPLY (R207): the slot's agent applies the reply word: translate again, ACCESS or POISON. -/
def execFaultReply (tid : Tid) (s : State) : Out :=
  .next (match (s.core tid.core).replies.look tid.slot with
    | none => s
    | some (k, x) =>
      let s := s.modCore tid.core fun c => { c with replies := c.replies.erase tid.slot }
      match s.accs.find? fun a => decide (a.id = k ∧ a.trans = .faulted) with
      | none => s
      | some a =>
        if bits x 0 2 = 1 then refuseAcc a (accessFault a.ea 1) s
        else if bits x 0 2 = 2 then refuseAcc a ⟨.poison, a.ea, 0, 0⟩ s
        else setTrans a.id .again s)

end Sys2Proof.Machine
end

