-- ==== Sys2Proof/Machine/Lapse.lean ====
section
/-!
DEFINITION. The lapse of a lease and its kind's effects (R109, R110, R113, R117, R118, R263, R369, R371).
-/

namespace Sys2Proof.Machine

/-- Fault every wait of a list with LAPSED, source 2; TINFO0 is the lapsed lease (R141, Table 4-10). -/
def lapseWaits (x : W64) (ws : List QWait) (s : State) : State :=
  ws.foldl (fun s w => answerWait w false none (some ⟨.lapsed, x, match w.kind with | .bar _ => 0 | _ => w.addr, 2⟩) s) s

/-- Queued waits on words of a range (R141). -/
def rangeWaits (s : State) (phys size : Nat) : List QWait :=
  s.waits.filter fun w => w.isQueued && w.onWord &&
    (match w.place with | some p => decide (phys ≤ p.key) && decide (p.key < phys + size) | none => false)

/-- A lock whose key's range lapses ends (R118): its bindings end, its waiters take LAPSED, its hold is detached. -/
def endLock (h : DieId) (x : W64) (k : Lock) (s : State) : State :=
  let s : State := lapseWaits x (lockQueue s h k.key) s
  let s : State := (List.range 4).foldl (fun (s : State) (d : Nat) =>
    if (s.die ⟨h.node, d⟩).binds.any (fun b => decide (b.die = h ∧ b.key = k.key)) then
      s.modDie ⟨h.node, d⟩ fun q => { q with binds := q.binds.filter fun b => ¬ (b.die = h ∧ b.key = k.key) }
    else s) s
  let s : State := match k.hold with
    | some i =>
      if (s.lease h i).state = .live then
        s.modLease h i fun l => match l.body with
          | .lock key p o _ => { l with body := .lock key p o true }
          | _ => l
      else s
    | none => s
  s.modDie h fun d => { d with locks := d.locks.filter fun y => y.key ≠ k.key }

/-- An endpoint whose ring lies in a lapsed range ends (R263). -/
def Endpoint.endWith (i now : Nat) (e : Endpoint) : Endpoint :=
  if e.live && decide (e.range = i) then { e with live := false, endedAt := now, posted := [] } else e

/-- A RANGE lapses (R113, R118, R263): zeroing begins, its waits, bindings, locks and endpoints end. -/
def lapseRange (h : DieId) (i : Nat) (x : W64) (base : W64) (size phys : Nat) (s : State) : State :=
  let s := s.modLease h i fun l => { l with body := .range base size phys false }
  let s := lapseWaits x (rangeWaits s phys size) s
  let bound := (s.die h).binds.filter fun b => decide (b.range = i)
  let s := if bound = [] then s else s.modDie h fun d => { d with binds := d.binds.filter fun b => b.range ≠ i }
  let s := bound.foldl (fun s b => pruneLock b.die b.key s) s
  let s := ((s.die h).locks.filter fun k => decide (phys ≤ k.key ∧ k.key < phys + size)).foldl (fun s k => endLock h x k s) s
  if (s.die h).endpoints.any (fun e => e.2.live && decide (e.2.range = i)) then
    s.modDie h fun d => { d with endpoints := d.endpoints.map fun e => (e.1, e.2.endWith i (s.taper h.node)) }
  else s

/-- A hold lapses (R113, R117): its thread is the lock's previous holder, and the oldest waiter is granted a new hold. -/
def lapseHold (h : DieId) (i : Nat) (x : W64) (owner : Tid) (s : State) : State :=
  match (s.die h).locks.find? fun k => decide (k.hold = some i) with
  | none => s
  | some k =>
    let s := s.modDie h fun d => { d with locks := mapIf d.locks (fun y => decide (y.key = k.key)) fun y =>
      { y with hold := none, prev := some owner, prevHold := x } }
    match lockQueue s h k.key with
    | w :: _ => (match w.key with | some p => grantLock h p w s | none => s)
    | [] => pruneLock h k.key s

/-- Blocks that a grid's root loses with the path to a node (R365, R371). -/
def Grid.lose (node : Nat) (g : Grid) : Grid :=
  { g with
    lost := g.lost + g.held.get 0 node
    held := g.held.erase node
    reserve := g.reserve.filter fun r => r.1.node ≠ node
    gone := insertNat g.gone node }

/-- A PATH lapses (R113, R371): grids whose launching context has no other path to the node lose what it holds. -/
def lapsePath (h : DieId) (node : Nat) (s : State) : State :=
  let hit := fun (g : Grid) => decide (g.ended = none) && g.inscope.contains node && !g.gone.contains node &&
    !pathLive s h.node g.cmd.ctx node
  if (s.pkg h.node).grids.any (fun e => hit e.2) then
    s.modPkg h.node fun p => { p with grids := p.grids.map fun e => if hit e.2 then (e.1, e.2.lose node) else e }
  else s

/-- The context a LAUNCH names. -/
def Grid.ctx (g : Grid) : W64 := g.cmd.a

/-- The teams of a context in a package. -/
def ctxTeams (s : State) (n : Nat) (x : W64) : List (ClusterId × Nat) :=
  s.clusters.flatMap fun e =>
    if (clusterOfKey e.1).node = n then
      (e.2.teams.filter fun m => decide (m.2.ctx = x)).map fun m => (clusterOfKey e.1, m.1)
    else []

/-- Packages that acknowledged a grid of a context, or hold a team of it, running or saved (R328, R369). -/
def ctxPackages (s : State) (x : W64) : List Nat :=
  s.group.filter fun n => decide (ctxTeams s n x ≠ []) || s.packages.any fun p => p.2.grids.any fun e =>
    decide (e.2.ctx = x) && (e.2.acked.look n).isSome

/-- A CTX lapses (R113, R328, R369): a cancel notice goes to every package that acknowledged one of its grids, and so to every
one with a team of it. -/
def lapseCtx (x : W64) (s : State) : State :=
  (ctxPackages s x).foldl (fun s n => { s.fresh with notices := s.notices ++ [⟨s.nextId, n, x⟩] }) s

/-- The lapse effects of an entry (R113). -/
def lapseEffects (h : DieId) (i : Nat) (l : Lease) (s : State) : State :=
  let x := l.handle h i
  match l.body with
  | .range base size phys _ => lapseRange h i x base size phys s
  | .lock _ _ o det => if det then s else lapseHold h i x o s
  | .group _ _ _ => lapseWaits x (barQueue s x) s
  | .recv ep => modEndpoint h ep (fun e => { e with posted := e.posted.filter fun r => r.lease ≠ x }) s
  | .path n => lapsePath h n s
  | .ctx _ _ _ => lapseCtx x s
  | .none => s

/-- A live lease lapses now: SMOKE, then its kind's effects. -/
def lapseNow (h : DieId) (i : Nat) (s : State) : State :=
  let l := s.lease h i
  lapseEffects h i l (s.modLease h i fun l => { l with state := .smoke, since := s.taper h.node })

/-- A live lease lapses at the boundary just passed: the first, after X was set, at which the taper reaches X (R109). Entry 0 is
the supervisor context's, which never lapses (R375). -/
def lapseDue (s : State) (h : DieId) (i : Nat) : Bool :=
  let l := s.lease h i
  decide (i ≠ 0 ∧ l.state = .live ∧ l.x ≤ s.taper h.node ∧ l.since < s.taper h.node)

/-- LEASE_LAPSE (R109, R110). -/
def execLeaseLapse (h : DieId) (i : Nat) (s : State) : Out :=
  .next (if lapseDue s h i then lapseNow h i s else s)

end Sys2Proof.Machine
end

