-- ==== Sys2Proof/Machine/Fabric.lean ====
section
/-!
DEFINITION. The Pleade fabric (R336 to R350): wavelengths and strands, circuits and their reconfiguration, the sending
cap of a peer, and link death. What a fabric die sees of its fibres is the device's choice, an argument of the step.
-/

namespace Sys2Proof.Machine

/-! ### Wavelengths (R340 to R343) -/

/-- Set bits of a mask, ascending. -/
def waves (m : BitVec 8) : List Nat := (List.range 8).filter fun i => m.getLsbD i
/-- A mask of wavelengths. -/
def waveMask (l : List Nat) : BitVec 8 := BitVec.ofNat 8 (l.foldl (fun a i => a ||| 2 ^ i) 0)

/-- The active and the parked wavelengths of a strand that is UP (R342): the highest `park` of those neither retired nor
retraining are parked unless they have been woken, and at least one stays active. -/
def Strand.settleWaves (x : Strand) : Strand :=
  let cand := waves (~~~ (x.retired ||| x.retrain))
  let k := if x.woken then 0 else min x.park.toNat (cand.length - 1)
  if x.up then
    { x with active := waveMask (cand.take (cand.length - k)), parked := waveMask (cand.drop (cand.length - k)) }
  else x

/-- Change both ends of a strand, each with its package's number (R341: the two ends agree). -/
def modBoth (n k : Nat) (f : Nat → Strand → Strand) (s : State) : State :=
  let x := s.strand n k
  let s := s.modStrand n k (f n)
  if x.far < Config.strands then s.modStrand x.peer.toNat x.far (f x.peer.toNat) else s

/-- A strand that carries nothing. DESIGN CHOICE: a wavelength that was being retrained is so no more, and counts as good when the
strand comes up again (R341, log 147). -/
def Strand.off (x : Strand) : Strand :=
  { x with up := false, active := 0, parked := 0, retrain := 0, retries := 0, woken := false, below := 0 }

/-- A strand goes down at both ends. -/
def downStrand (n k : Nat) (s : State) : State := modBoth n k (fun _ => Strand.off) s

/-- A strand at a tick boundary: each active wavelength's errors of the tick enter its window of 64 ticks (R341), and the
transmit queue is looked at (R342). What errors and which depth the die finds is free (log 27). -/
def Strand.tick (id : Nat) (x : Strand) : Strand :=
  let depth := Config.queueDepth id
  { x with
    errs := tab 8 fun i =>
      ((if x.active.getLsbD i then Config.lineErrors (8 * id + i) else 0) :: nth [] x.errs.toList i).take 64
    bad := tab 8 fun i => nth 0 x.bad.toList i + (if x.active.getLsbD i then Config.idleWords (8 * id + i) else 0)
    queue := depth
    below := if depth < x.wake.toNat then x.below + 1 else 0 }

/-- Bit errors in a wavelength's window (R341). -/
def Strand.window (w : Nat) (x : Strand) : Nat := (nth [] x.errs.toList w).sum

/-- The windows of a strand after they have slid from those of `old`: a count that has risen above 20 asks for a retraining, until
that starts or the count is no longer above (R341). -/
def Strand.note (old x : Strand) : Strand :=
  { x with risen := waveMask ((List.range 8).filter fun w =>
      decide (20 < x.window w) && (x.risen.getLsbD w || decide (old.window w ≤ 20))) }

/-- The strands of a package at a tick boundary: every window slides, also one of a strand that is down (R341). -/
def tickStrands (n : Nat) (s : State) : State :=
  if (s.pkg n).strands = [] then s
  else s.fresh.modPkg n fun p => { p with
    strands := p.strands.map fun e => (e.1, e.2.note (e.2.tick (s.nextId * Config.strands + e.1))) }

/-- LINK_RETRY (R337, R340, R350): a flit is replayed; the sixteenth failed retry in a row is the strand's death. What a bad
codeword adds to a wavelength's count is a free value (log 27). -/
def execLinkRetry (n k : Nat) (ok : Bool) (s : State) : Out :=
  .next (if k < Config.strands ∧ (s.strand n k).up then
      let t := s.fresh.modStrand n k fun x => { x with
        retries := if ok then 0 else x.retries + 1
        bad := tab 8 fun i =>
          nth 0 x.bad.toList i + (if x.active.getLsbD i then Config.badWords (8 * s.nextId + i) else 0) }
      if 16 ≤ (t.strand n k).retries then downStrand n k t else t
    else s)

/-- The other end of a strand; a strand without a circuit has only its own. -/
def State.otherEnd (s : State) (n k : Nat) : Strand :=
  let x := s.strand n k
  if x.far < Config.strands then s.strand x.peer.toNat x.far else x

/-- A wavelength is the last active one of an end of its strand. -/
def Strand.lastAt (w : Nat) (x : Strand) : Bool := decide (waves x.active = [w])

/-- A wavelength is to be retrained: its window has risen above 20, and at each end another is active or can be woken (R341). -/
def retrainDue (s : State) (n k w : Nat) : Bool :=
  let x := s.strand n k
  let y := s.otherEnd n k
  x.up && x.active.getLsbD w && x.risen.getLsbD w && !(x.lastAt w && decide (x.parked = 0)) && !(y.lastAt w && decide (y.parked = 0))

/-- The parked wavelengths of a strand wake (R342). -/
def Strand.wakeUp (x : Strand) : Strand := { x with woken := true, below := 0 }.settleWaves

/-- The parked wavelengths of an end wake whose last active wavelength is to be retrained (R341). -/
def Strand.wakeFor (w : Nat) (x : Strand) : Strand := if x.lastAt w then x.wakeUp else x

/-- WAVELENGTH_RETRAIN_START (R341): the wavelength leaves the active set at both ends; where it is the last active one of an
end, the parked ones of that end are woken first. -/
def execWavelengthRetrainStart (n k w : Nat) (s : State) : Out :=
  .next
    (if Config.strands ≤ k ∨ 8 ≤ w ∨ ¬ retrainDue s n k w then s
     else if (s.strand n k).lastAt w ∨ (s.otherEnd n k).lastAt w then modBoth n k (fun _ => Strand.wakeFor w) s
     else modBoth n k (fun m x =>
       { x with retrain := x.retrain ||| waveMask [w], risen := x.risen &&& ~~~ waveMask [w], retrainT := x.retrainT.setIfInBounds w (s.taper m) }.settleWaves) s)

/-- A retraining has had its 500 ticks (R341). -/
def retrainLate (s : State) (n : Nat) (x : Strand) (w : Nat) : Bool :=
  x.retrain.getLsbD w && decide (nth 0 x.retrainT.toList w + Config.retrainTicks ≤ s.taper n)

/-- WAVELENGTH_RETRAIN_END (R341): within 500 ticks it rejoins at both ends, or it is retired. -/
def execWavelengthRetrainEnd (n k w : Nat) (ok : Bool) (s : State) : Out :=
  .next
    (let x := s.strand n k
     let back := ok && decide (s.taper n ≤ nth 0 x.retrainT.toList w + Config.retrainTicks)
     if k < Config.strands ∧ w < 8 ∧ x.retrain.getLsbD w then
       modBoth n k (fun _ x =>
         { x with
           retrain := x.retrain &&& ~~~ waveMask [w]
           retired := if back then x.retired else x.retired ||| waveMask [w] }.settleWaves) s
     else s)

/-- A strand's queue has reached WAKE while wavelengths are parked (R342). -/
def wakeDue (x : Strand) : Bool := x.up && decide (x.parked ≠ 0 ∧ x.wake.toNat ≤ x.queue)

/-- PARKED_WAKE (R342): the transmit queue has reached WAKE. DESIGN CHOICE: parking and waking change the active set of the writer's
own end of the strand alone (log 138). -/
def execParkedWake (n k : Nat) (s : State) : Out :=
  .next (if k < Config.strands ∧ wakeDue (s.strand n k) then s.modStrand n k Strand.wakeUp else s)

/-- The queue has stayed below WAKE for 64 tick boundaries (R342). -/
def parkDue (x : Strand) : Bool := x.woken && decide (64 ≤ x.below)

/-- PARK_AGAIN (R342). -/
def execParkAgain (n k : Nat) (s : State) : Out :=
  .next
    (if k < Config.strands ∧ parkDue (s.strand n k) then
       s.modStrand n k fun x => { x with woken := false }.settleWaves
     else s)

/-- SCCTL_WRITE (R342, R343). -/
def execScctlWrite (k : Nat) (s : State) : Out :=
  applyWrite (· = 0x071) k
    (fun w s => s.modStrand w.tid.core.node (scStrand w.sel) fun x =>
      { x with park := BitVec.ofNat 3 (bits w.val 0 3), wake := BitVec.ofNat 8 (bits w.val 8 8) }.settleWaves) s

/-! ### Links (R350) -/

/-- STRAND_DEATH (R350): every active wavelength has lost lock; the strand's flits are replayed on another, which no program
sees. -/
def execStrandDeath (n k : Nat) (s : State) : Out :=
  .next (if k < Config.strands ∧ (s.strand n k).up then downStrand n k s else s)

/-- An access on its way from a package to a peer, not yet answered. -/
def Acc.toPeer (s : State) (n p : Nat) (a : Acc) : Bool :=
  match a.leg s with
  | some l => decide (l.node = n ∧ l.peer = p)
  | none => false

/-- The outcome that PATH reports (R350): 0 when no flit of the request has been acknowledged, 1 otherwise. Whether a link
acknowledgement has come for a request that is not yet performed is free (log 27). -/
def Acc.pathFault (a : Acc) : FaultInfo :=
  let went := match a.agent with
    | .performed _ _ _ => true
    | _ => a.sent && Config.linkAcked a.id
  ⟨.path, a.ea, 0, if went then 1 else 0⟩

/-- The node of a handle's home differs from a request's own and is the peer. -/
def LeaseReq.toPeer (n p : Nat) (r : LeaseReq) : Bool :=
  decide (r.tid.core.node = n) && !isRequest r.ins && decide ((hHome r.a).node = p)

/-- A package holds a live PATH lease to a node. -/
def pathKept (s : State) (n p : Nat) : Bool :=
  (List.range 4).any fun d => (s.die ⟨n, d⟩).leases.any fun e => decide (e.2.state = .live ∧ e.2.body = .path p)

/-- A link to a peer is dead (R350): under a live PATH, no strand of some hop of the route to it is UP; what waits for a change of
circuits is no dead link (R346). -/
def linkDown (s : State) (n p : Nat) : Bool :=
  decide (p ≠ n) && s.group.contains p && pathKept s n p && !crosses s n p && !routeUp s n p

/-- The handle of the group whose barrier a wait is for. -/
def QWait.barHandle (w : QWait) : W64 := match w.kind with | .bar x => x | _ => 0

/-- A wait on its way to a barrier of a peer. -/
def QWait.toPeer (n p : Nat) (w : QWait) : Bool :=
  decide (w.tid.core.node = n ∧ w.stage = .sent) &&
    (match w.kind with | .bar x => decide ((hHome x).node = p) | _ => false)

/-- LINK_DEATH (R350): what is on its way to the peer ends with PATH. -/
def execLinkDeath (n p : Nat) (s : State) : Out :=
  .next
    (if linkDown s n p ∧ ¬ (s.pkg n).deadLinks.contains p then
       let s := s.modPkg n fun q => { q with deadLinks := insertNat q.deadLinks p }
       let s := (s.accs.filter (Acc.toPeer s n p)).foldl (fun s a => refuseAcc a a.pathFault s) s
       let s := (s.raises.filter fun r => decide (r.tid.core.node = n ∧ r.node = p)).foldl
         (fun s r => raiseRefused r ⟨.path, r.flag, 0, 1⟩ s) s
       let s := (s.msgs.filter fun m => decide (m.cmd.tid.core.node = n ∧ m.dest.node = p)).foldl (fun s m => cutMsg m s) s
       let s := (s.leaseReqs.filter (LeaseReq.toPeer n p)).foldl
         (fun s r => refuseLease r ⟨.path, r.a, 0, 1⟩ (dropReq r.id s)) s
       (s.waits.filter (QWait.toPeer n p)).foldl (fun s w => faultWait w ⟨.path, w.barHandle, 0, 1⟩ s) s
     else s)

/-- Join a strand of one package to a strand of another. -/
def joinStrand (n k m j : Nat) (fresh : Bool) (s : State) : State :=
  let on := fun (p far : Nat) (x : Strand) =>
    { x with
      up := true, peer := BitVec.ofNat 16 p, far := far, retries := 0, woken := false, below := 0, retrain := 0
      retired := if fresh then 0 else x.retired }.settleWaves
  (s.modStrand n k (on m j)).modStrand m j (on n k)

/-- Links that are dead no more: every hop of their route has a strand that is UP again (R350). -/
def reviveLinks (s : State) : State := { s with
  packages := s.packages.map fun p => (p.1, { p.2 with deadLinks := p.2.deadLinks.filter fun m => !routeUp s p.1 m }) }

/-- STRAND_UP (R350): a strand of the circuit to a peer comes up; streams go on from what was delivered. -/
def execStrandUp (n k p : Nat) (s : State) : Out :=
  .next
    (let x := s.strand n k
     if k < Config.strands ∧ p ≠ n ∧ ¬ x.up ∧ x.peer.toNat = p ∧ x.far < Config.strands ∧ s.group.contains p ∧
         x.retired ≠ BitVec.allOnes 8 ∧ ¬ (s.pkg n).changing.contains k then
       reviveLinks (joinStrand n k p x.far false s)
     else s)

/-! ### The sending cap (R347, R348) -/

/-- The fabric die accepts a waiting access for transmission, or refuses it: the fabric is not up (R385), there is no path
(R119), or the link is dead (R350). -/
def admitAcc (a : Acc) (l : Leg) (s : State) : State :=
  if (s.pkg l.node).phase < 3 then refuseAcc a (accessFault a.ea 2) s
  else if ¬ pathLive s l.node l.ctx l.peer then refuseAcc a ⟨.lapsed, 0, a.ea, 4⟩ s
  else if (s.pkg l.node).deadLinks.contains l.peer then refuseAcc a ⟨.path, a.ea, 0, 0⟩ s
  else if legWaits s l (a.op.payload a.len) then s
  else
    let held := a.held && blockHeld s a.tid
    let s := sendOut l (a.op.payload a.len) s
    let s := { s with accs := mapIf s.accs (fun b => decide (b.id = a.id)) fun b => { b with sent := true } }
    if held then reboundBlock a.tid s else s

/-- CAP_ADMIT (R119, R346, R348): the fabric die serves a waiting access or message header, in arrival order. -/
def execCapAdmit (k : Nat) (s : State) : Out :=
  .next (match s.acc? k, s.msg? k with
    | some a, _ =>
      (match a.leg s with
       | some l => if a.sent ∨ a.ofPerformed ∨ waitsBefore s a.arrived k l then s else admitAcc a l s
       | none => s)
    | none, some m => if m.atFabric s ∧ ¬ waitsBefore s m.arrived k (m.leg s) then admitMsg m s else s
    | none, none => s)

/-- The cap after an RTT sample (R347): 4 KiB more, half, or unchanged; samples and `now` count periods of the reference. -/
def Cap.sample (x now : Nat) (c : Cap) : Cap :=
  let l := (x :: c.samples).take 256
  let base := l.foldl min x
  let c := { c with samples := l }
  let recent := match c.halvedAt with | some t => decide (now < t + base) | none => false
  if 4 * x < 5 * base then { c with bytes := min Config.capCeiling (c.bytes + 4096) }
  else if decide (2 * base < x) && !recent then { c with bytes := max Config.capFloor (c.bytes / 2), halvedAt := some now }
  else c

/-- The thread sees the answer of an access performed in another package. -/
def answerFar (a : Acc) (s : State) : State :=
  match a.agent, a.place with
  | .performed pid lane v, some p =>
    flagNext a.tid a.ctx a.xb pid (answer a.tid pid (Pending.take lane p.node v) (settleAcc a s))
  | _, _ => s

/-- The period of the reference in which an acknowledgement arrives: 100 to a tick, which of them free (R347, log 27). -/
def ackNow (s : State) (n : Nat) (c : Cap) : Nat := max c.ackAt (100 * s.taper n + Config.ackPeriod s.nextId % 100)

/-- END_TO_END_ACK (R347, R350): everything performed at the peer for the partition is acknowledged, answers and launch headers that
went there too, and the sample adjusts the cap. In a dark interval no sample is taken (R346). DESIGN CHOICE: by a package that has a circuit that changes,
for all its peers, and by no other (log 157). -/
def execEndToEndAck (n p part rtt : Nat) (s : State) : Out :=
  .next
    (let c := s.cap n p part
     if c.flits = 0 ∨ rtt = 0 ∨ (s.pkg n).deadLinks.contains p then s
     else
       let mine := fun (a : Acc) =>
         match a.leg s with
         | some l => decide (l.node = n ∧ l.peer = p ∧ l.part = part)
         | none => false
       let left := s.accs.filter fun a => mine a && a.sent && !a.ofPerformed
       let offers := s.msgs.filter fun m => decide (m.leg s = ⟨n, p, m.cmd.ctx, part⟩) &&
         (match m.phase with | .offered _ => true | _ => false)
       let now := ackNow s n c
       let c := if (s.pkg n).darkNow then c else c.sample rtt now
       let c := { c with
         out := (left.map fun a => a.op.payload a.len).sum, flits := left.length + offers.length, ackAt := now }
       let s := s.fresh.modPkg n fun q => { q with caps := q.caps.set (capKey p part) c }
       (s.accs.filter fun a => mine a && a.ofPerformed).foldl (fun s a => answerFar a s) s)

/-! ### Reconfiguration (R346) -/

/-- The strands of a fibre. -/
def fibreStrands (f : Nat) : List Nat := (List.range 8).map fun i => 8 * f + i

/-- RECONFIG_DRAIN (R346): drain markers go out on every strand of the circuits that will change, each given by one of its
fibres, as node × 128 + fibre; both ends drain. -/
def execReconfigDrain (fs : List Nat) (s : State) : Out :=
  .next
    (if fs ≠ [] ∧ (fs.all fun f => decide ((s.strand (f / 128) (8 * (f % 128))).far < Config.strands)) ∧
        ¬ s.packages.any (fun p => p.2.darkNow) then
       fs.foldl (fun s f => (fibreStrands (f % 128)).foldl (fun s k =>
         let n := f / 128
         let x := s.strand n k
         let s := s.modPkg n fun q => { q with changing := insertNat q.changing k }
         s.modPkg x.peer.toNat fun q => { q with changing := insertNat q.changing x.far }) s) s
     else s)

/-- No flit is in flight, nor an acknowledgement to come, over a changing circuit (R346): of accesses, of messages, and of what
a cap still counts as outstanding. -/
def drainedCircuits (s : State) : Bool :=
  (s.accs.all fun a => !(a.sent || a.ofPerformed) ||
    (match a.leg s with | some l => !crosses s l.node l.peer | none => true)) &&
  (s.msgs.all fun m => !(match m.phase with | .offered _ => true | _ => false) || !m.isFar ||
    !crosses s m.cmd.tid.core.node m.dest.node) &&
  s.packages.all fun p => p.2.caps.all fun c => decide (c.2.flits = 0) || !crosses s p.1 (c.1 / 256)

/-- A strand is dark (R346); routes over its circuit stay until the relock. -/
def darkStrand (n k : Nat) (s : State) : State := s.modStrand n k Strand.off

/-- RECONFIG_DARK (R346): drained, the switch is set, and every changing strand is dark at both ends. -/
def execReconfigDark (n : Nat) (s : State) : Out :=
  .next
    (if (s.pkg n).changing = [] ∨ (s.pkg n).darkNow ∨ ¬ drainedCircuits s then s
     else
       let ps := s.packages.filter fun p => decide (p.2.changing ≠ [])
       ps.foldl (fun s p =>
         (p.2.changing.foldl (fun s k => darkStrand p.1 k s) s).modPkg p.1 fun q =>
           { q with darkNow := true, darkT := q.taper }) s)

/-- The circuit of a strand stands: it has one, which is not being changed. -/
def standing (s : State) (n k : Nat) : Bool :=
  decide ((s.strand n k).far < Config.strands) && !(s.pkg n).changing.contains k

/-- Fibres whose circuits stand. -/
def fibresUsed (s : State) : Nat :=
  (s.packages.map fun p => (p.2.strands.filter fun e => decide (e.1 % 8 = 0) && standing s p.1 e.1).length).sum

/-- The circuits of a relock are ones that can be set (R345): fibres of packages, each in one circuit, none in one that stands, and
no more of them than the switch has ports. -/
def circuitsOk (s : State) (ps : List (Nat × Nat)) : Bool :=
  let free := fun (f : Nat) => decide (f < 65535 * 128) && (fibreStrands (f % 128)).all fun k => !standing s (f / 128) k
  decide ((ps.flatMap fun p => [p.1, p.2]).Nodup) && decide (fibresUsed s + 2 * ps.length ≤ Config.switchPorts) &&
  ps.all fun p => decide (p.1 / 128 ≠ p.2 / 128) && free p.1 && free p.2

/-- PATH leases of a package whose destination has no route left lapse by force (R346). -/
def forceLapses (n : Nat) (s : State) : State :=
  let dead := s.dies.flatMap fun d => d.2.leases.filterMap fun e =>
    let l := s.lease (dieOfKey d.1) e.1
    match l.body with
    | .path m => if (dieOfKey d.1).node = n ∧ l.state = .live ∧ ¬ reach s n m then some (dieOfKey d.1, e.1) else none
    | _ => none
  dead.foldl (fun s x => lapseNow x.1 x.2 s) s

/-- The pod holds a package's reconfiguration within its bounds: the dark interval and the relock have had their ticks (R346,
log 76), and no further tick passes before the relock. -/
def darkLate (s : State) (n : Nat) : Bool :=
  (s.pkg n).darkNow && decide ((s.pkg n).darkT + Config.darkTicks ≤ s.taper n)

/-- The circuits that are being changed are no more, and a new choice of routes begins (R345, R346); what goes to the nodes `ms`
waits for the package's next tick boundary. -/
def Package.unlock (ms : List Nat) (p : Package) : Package := { p with
  strands := p.strands.map fun e => if p.changing.contains e.1 then (e.1, { e.2 with far := Config.strands }) else e
  changing := []
  darkNow := false
  relocks := p.relocks + 1
  relock := some ms }

/-- The nodes that a package has no way to while circuits are being changed (R346). -/
def darkNodes (s : State) (n : Nat) : List Nat := (s.packages.map (·.1)).filter (crosses s n)

/-- The bound of GJOIN or of an implicit block counts anew when what it waits for no longer waits for a change of circuits (R346,
log 106). -/
def Thread.rebound (before : State) (now : Nat) (tid : Tid) (t : Thread) : Thread :=
  match t.hold with
  | .gjoin _ id => if leaseHeld before tid id then { t with hold := .gjoin now id } else t
  | _ => if blockHeld before tid then { t with blocked := t.blocked.map fun b => { b with since := now } } else t

/-- The bounds of a package's threads after a relock. -/
def reboundJoins (n : Nat) (before s : State) : State := { s with
  threads := s.threads.map fun e =>
    if (tidOfKey e.1).core.node = n then (e.1, e.2.rebound before (s.taper n) (tidOfKey e.1)) else e }

/-- The relock ends at a package's tick boundary (R346): its paths without a route lapse, and what waits is free to go on. -/
def endRelock (n : Nat) (s : State) : State :=
  match (s.pkg n).relock with
  | none => s
  | some _ => forceLapses n (reboundJoins n s (s.modPkg n fun p => { p with relock := none }))

/-- RECONFIG_RELOCK (R345, R346): the new circuits, pairs of node × 128 + fibre, have locked; the group and the routes are
computed anew. For each package the relock ends at its next tick boundary (`endRelock`, log 146). -/
def execReconfigRelock (ps : List (Nat × Nat)) (s : State) : Out :=
  .next
    (if s.packages.any (fun p => (decide (p.2.changing ≠ []) && !p.2.darkNow) || p.2.relock.isSome) ∨ ¬ circuitsOk s ps then s
     else
       let s := { s with packages := s.packages.map fun p => (p.1, p.2.unlock (darkNodes s p.1)) }
       let s := ps.foldl (fun s p => (List.range 8).foldl (fun (s : State) (i : Nat) =>
         joinStrand (p.1 / 128) (8 * (p.1 % 128) + i) (p.2 / 128) (8 * (p.2 % 128) + i) true s) s) s
       let first := s.group.headD 0
       let s := { s with group := within s s.packages.length [first] }
       reviveLinks { s with packages := s.packages.map fun p =>
         (p.1, { p.2 with deadLinks := p.2.deadLinks.filter (reach s p.1) }) })

end Sys2Proof.Machine
end

