-- ==== Sys2Proof/Machine/Launch.lean ====
section
/-!
DEFINITION. Launches (R356 to R376): LAUNCH and LSTAT, the root's grid table, acknowledgements, dealing, the outcome of
blocks, the records at a grid's end, cancelling, and the load exchange.
-/

namespace Sys2Proof.Machine

/-! ### The launch header (Table 15-1) -/

/-- GX × GY × GZ. -/
def hdrSize (w : List W64) : Nat := bits (wordAt w 1) 0 32 * bits (wordAt w 1) 32 32 * bits (wordAt w 2) 0 32
/-- TEAM. -/
def hdrTeam (w : List W64) : Nat := bits (wordAt w 2) 32 7
/-- SCOPE. -/
def hdrScope (w : List W64) : Nat := bits (wordAt w 2) 39 3
/-- NOMX. -/
def hdrNomx (w : List W64) : Bool := bits (wordAt w 2) 42 1 = 1
/-- STATIC. -/
def hdrStatic (w : List W64) : Bool := bits (wordAt w 2) 43 1 = 1
/-- CLASS. -/
def hdrClass (w : List W64) : Nat := bits (wordAt w 2) 44 2
/-- Bit `k` of MASK. -/
def hdrMask (w : List W64) (k : Nat) : Bool := (wordAt w 3).getLsbD k
/-- DEADLINE. -/
def hdrDeadline (w : List W64) : Nat := bits (wordAt w 4) 0 32
/-- ACK. -/
def hdrAck (w : List W64) : Nat := bits (wordAt w 4) 32 32
/-- CHUNK. -/
def hdrChunk (w : List W64) : Nat := bits (wordAt w 5) 0 32

/-- A record of `n` bytes that the root writes: 64-aligned and whole in one scratchpad of the launching package (R358). -/
def rootRecord (c : CoreId) (a : W64) (n : Nat) : Option Phys :=
  if ¬ aligned a 64 then none
  else
    match classify c a with
    | .place p => if p.isScratch ∧ p.off + n ≤ Config.scratchBytes then some p else none
    | _ => none

/-- A header is malformed (R358). -/
def badHeader (c : CoreId) (w : List W64) : Bool :=
  decide (bits (wordAt w 0) 19 45 ≠ 0 ∨ bits (wordAt w 0) 0 3 ≠ 0 ∨ bits (wordAt w 2) 46 18 ≠ 0 ∨
    bits (wordAt w 3) 44 20 ≠ 0 ∨ bits (wordAt w 5) 32 32 ≠ 0) ||
  (w.drop 9).any (fun x => decide (x ≠ 0)) ||
  decide (hdrSize w = 0 ∨ 2 ^ 40 - 1 < hdrSize w ∨ hdrTeam w = 0 ∨ 120 < hdrTeam w ∨ hdrScope w < 3 ∨ 5 < hdrScope w ∨
    wordAt w 3 = 0 ∨ hdrAck w = 0 ∨ (hdrChunk w = 0 ∧ ¬ hdrStatic w)) ||
  (rootRecord c (wordAt w 7) 64).isNone || (rootRecord c (wordAt w 8) 256).isNone

/-- Dies in scope of a package (R359). -/
def scopeDies (w : List W64) (die : Nat) : List Nat := if hdrScope w = 3 then [die] else List.range 4
/-- Packages in scope, in ascending node order (R359, R362). -/
def scopeNodes (s : State) (w : List W64) (node : Nat) : List Nat := if hdrScope w = 5 then s.group else [node]

/-- A cluster is eligible for a grid launched from a die (R299, R359). -/
def eligible (s : State) (from_ : DieId) (w : List W64) (k : ClusterId) : Bool :=
  let mine := bits (s.die from_).part 0 8
  let part := (s.die (dieOfCluster k)).part
  hdrMask w k.cluster && decide (mine ≠ 0 ∧ bits part 0 8 = mine) && part.getLsbD (16 + k.cluster) &&
    (hdrNomx w || !(s.cluster k).mxFailed)

/-- The eligible clusters of a package, as die and cluster, ascending. -/
def eligibleOf (s : State) (from_ : DieId) (w : List W64) (node : Nat) : List (Nat × Nat) :=
  (scopeDies w from_.die).flatMap fun d =>
    ((List.range Config.clusters).filter fun k => eligible s from_ w ⟨node, d, k⟩).map fun k => (d, k)

/-! ### Issue -/

/-- LAUNCH (R361). -/
def execLaunch (d : BitVec 4) (a b : GSrc) (w : W32) (g : Guard) (s : State) : Out :=
  engineIssue (.launch d a b w g) .launch false false true d [a, b] g (·.src a) (·.src b) (fun t => [(t.src b, 128)])
    (fun _ => none) s
/-- LSTAT (R368). -/
def execLstat (d : BitVec 4) (a : GSrc) (w : W32) (g : Guard) (s : State) : Out :=
  engineIssue (.lstat d a w g) .launch false false false d [a] g (·.src a) (fun _ => 0) (fun _ => []) (fun _ => none) s

/-! ### The root -/

/-- A grid of a root's table. -/
def State.grid? (s : State) (r gid : Nat) : Option Grid := (s.pkg r).grids.look gid
/-- Change a grid. -/
def modGrid (r gid : Nat) (f : Grid → Grid) (s : State) : State :=
  match s.grid? r gid with
  | some g => s.modPkg r fun p => { p with grids := p.grids.set gid (f g) }
  | none => s

/-- The launch header of a grid. -/
def Grid.hdr (g : Grid) : List W64 := g.cmd.recw
/-- The launching die. -/
def Grid.from_ (g : Grid) : DieId := dieOf g.cmd.tid.core
/-- Blocks of a grid. -/
def Grid.size (g : Grid) : Nat := hdrSize g.hdr
/-- Blocks counted in some class (R365). -/
def Grid.counted (g : Grid) : Nat := g.completed + g.faulted + g.lost + g.cancelled

/-- HSEQ of a LAUNCH (R361). -/
def Cmd.hseq (c : Cmd) : Nat := match c.ins with | .launch _ _ _ w _ => w.toNat | _ => 0

/-- LAUNCHes of a package that have passed the checks, and whose grids have not started yet (R361). -/
def launchingOf (s : State) (n : Nat) : List Cmd :=
  s.clusters.flatMap fun e => if (clusterOfKey e.1).node = n then e.2.launching else []

/-- Entries of a root's grid table in use, or to be used by LAUNCHes that have passed the checks (R361). -/
def gridsUsed (s : State) (n : Nat) : Nat :=
  ((s.pkg n).grids.filter fun e => !e.2.freed).length + (launchingOf s n).length

/-- A record with this HSEQ has been launched, or will have been by a LAUNCH that has passed the checks (R361, R383). -/
def launchedBefore (s : State) (n h : Nat) : Bool :=
  decide (h ≠ 0) && (decide (h ≤ (s.pkg n).hlast) || (launchingOf s n).any fun y => decide (h ≤ y.hseq))

/-- The checks of a LAUNCH, in order (R361, R385). -/
def launchRefusal (s : State) (c : Cmd) : Option Status :=
  let root := s.pkg c.tid.core.node
  if root.phase < 4 then some .busy
  else
    match pathRefusal s c.tid c.ctx c.a with
    | some f => some (statusOf f)
    | none =>
      match liveCtx s c.a with
      | .error st => some st
      | .ok l =>
        if ¬ l.heldBy c.ctx then some .access
        else if badHeader c.tid.core c.recw then some .malformed
        else if launchedBefore s c.tid.core.node c.hseq then some .duplicate
        else if Config.gridEntries ≤ gridsUsed s c.tid.core.node then some .full
        else none

/-- Write a 64-byte unit as an engine write of the launching context; a refused unit is not written (R230, R358). -/
def rootWrite (c : Cmd) (a : W64) (ws : List W64) (s : State) : State :=
  match rootRecord c.tid.core a 64 with
  | none => s
  | some p =>
    let bs := ws.flatMap fun w => leBytes w.toNat 8
    match homeRefusal s c.tid c.ctx p a 64 (.engWrite (bs.zipIdx.map fun b => (b.2, b.1))) with
    | some _ => s
    | none => storeRecord p ws s

/-- DONE while the grid runs (R361): RUNNING, zeros, and word 7 empty, in one acceptance. -/
def writeRunning (c : Cmd) (s : State) : State :=
  match rootRecord c.tid.core (wordAt c.recw 7) 64 with
  | none => s
  | some p =>
    let bs := List.replicate 64 (0 : Byte)
    match homeRefusal s c.tid c.ctx p (wordAt c.recw 7) 64 (.engWrite (bs.zipIdx.map fun b => (b.2, b.1))) with
    | some _ => s
    | none =>
      let s := (storeAt p bs s).setPoison p false
      let s := (s.setTag (p.plus 56) false).setTag (p.plus 60) false
      fillWords (wordsOf p 56) s

/-- Blocks of STATIC slot `j` of `slots` (R364). -/
def slotBlocks (n slots j : Nat) : Nat := if j < n then (n - j + slots - 1) / slots else 0

/-- The STATIC slots of a grid (R364): node, die, cluster, and whether the package acknowledged. -/
def Grid.slots (g : Grid) : List (ClusterId × Bool) :=
  g.inscope.flatMap fun n =>
    match g.acked.look n with
    | some l => l.map fun x => (⟨n, x.1, x.2⟩, true)
    | none => (scopeDies g.hdr g.from_.die).flatMap fun d =>
        ((List.range Config.clusters).filter (hdrMask g.hdr)).map fun k => (⟨n, d, k⟩, false)

/-- The end of the acknowledgement phase (R361, R362, R364, R371): the token fills; under STATIC the blocks of silent
packages are lost, and the others hold theirs; with no slot at all every block is the root's to cancel (R365). A grid whose entry
has been freed before is forgotten (log 112). -/
def endAcks (r gid : Nat) (s : State) : State :=
  match s.grid? r gid with
  | none => s
  | some g =>
    let slots := if hdrStatic g.hdr then g.slots else []
    let g := slots.zipIdx.foldl (fun (g : Grid) x =>
      let n := slotBlocks g.size slots.length x.2
      let node := x.1.1.node
      if x.1.2 ∧ g.stopped.contains node then { g with cancelled := g.cancelled + n }
      else if x.1.2 ∧ ¬ g.gone.contains node then { g with held := g.held.set node (g.held.get 0 node + n) }
      else { g with lost := g.lost + n }) { g with acking := false }
    let none_ := decide (hdrStatic g.hdr ∧ slots = [] ∧ g.stopped.contains r)
    let g := if none_ then { g with next := g.size, cancelled := g.cancelled + (g.size - g.next) } else g
    let s := if g.freed then s.modPkg r fun p => { p with grids := p.grids.erase gid } else modGrid r gid (fun _ => g) s
    token g.cmd (BitVec.ofNat 64 (g.acked.length % 2 ^ 16 + g.inscope.length % 2 ^ 16 * 2 ^ 16 + gid % 2 ^ 24 * 2 ^ 32)) s

/-- Every package that the header was sent to has acknowledged: nothing more can come. -/
def Grid.allAcked (g : Grid) : Bool := g.sentTo.all fun n => (g.acked.look n).isSome || g.gone.contains n

/-- Blocks of a STATIC grid that slot `j` has not dealt. -/
def Grid.slotLeft (g : Grid) (j : Nat) : Nat := slotBlocks g.size g.slots.length j - g.slotNext.get 0 j

/-- Undealt blocks that a package holds of a grid. -/
def Grid.undealt (g : Grid) (n : Nat) : Nat :=
  if hdrStatic g.hdr then
    (if g.acking then 0
     else (g.slots.zipIdx.map fun x => if x.1.2 ∧ x.1.1.node = n then g.slotLeft x.2 else 0).sum)
  else ((g.reserve.filter fun x => decide (x.1.node = n)).map fun x => x.2.2).sum

/-- The dispatchers of a package stop dealing a grid: what it holds undealt is CANCELLED, and at the root what no package
has taken (R365, R369). -/
def stopGrid (r n : Nat) (g : Grid) (s : State) : State :=
  let here := decide (n = r)
  let rest := if here ∧ (¬ hdrStatic g.hdr ∨ (¬ g.acking ∧ g.slots = [])) then g.size - g.next else 0
  let s := modGrid r g.gid (fun g => { g with
    stopped := insertNat g.stopped n
    reserve := g.reserve.filter fun x => x.1.node ≠ n
    next := g.next + rest
    cancelled := g.cancelled + rest }) s
  report (BitVec.ofNat 64 (g.gid % 2 ^ 24 + r % 2 ^ 16 * 2 ^ 32)) n 3 (g.undealt n) [] s

/-- Bytes of a launch header (Table 15-1). -/
def headerBytes : Nat := 128

/-- The packages that a launch header is sent to (R362): those in scope with a live path and a link that is not dead. -/
def headerNodes (s : State) (c : Cmd) : List Nat :=
  let r := c.tid.core.node
  (scopeNodes s c.recw r).filter fun n => decide (n = r) || (pathLive s r c.ctx n && !(s.pkg r).deadLinks.contains n)

/-- The way of a launch header to a package. -/
def headerLeg (s : State) (c : Cmd) (n : Nat) : Leg := ⟨c.tid.core.node, n, c.ctx, partOf s c.tid⟩

/-- The header may go out to every package it is for: like any request it waits for a change of its route, for room under the cap,
and behind what waits already (R346, R348, log 128). -/
def headersFit (s : State) (c : Cmd) : Bool :=
  (headerNodes s c).all fun n => decide (n = c.tid.core.node) ||
    (!legWaits s (headerLeg s c n) headerBytes && !waitsBefore s s.nextId s.nextId (headerLeg s c n))

/-- A LAUNCH that has passed its checks may start its grid: the thread's earlier accesses have drained, and the header may go out
(R361). -/
def launchReady (s : State) (c : Cmd) : Bool := drained s c.tid c.id .group && headersFit s c

/-- The header goes to the other packages (R347, R362). -/
def sendHeaders (c : Cmd) (r : Nat) (nodes : List Nat) (s : State) : State :=
  (nodes.filter fun n => decide (n ≠ r)).foldl (fun s n => sendOut (headerLeg s c n) headerBytes s) s

/-- A grid starts at its root (R361, R362). One whose CTX has lapsed since the checks is cancelled as it starts (R369, log 78). -/
def startGrid (c : Cmd) (s : State) : State :=
  let r := c.tid.core.node
  let p := s.pkg r
  let gid := p.nextGid
  let nodes := scopeNodes s c.recw r
  let g : Grid := {
    gid := gid, cmd := c, owner := c.tid, started := p.taper, inscope := nodes
    sentTo := headerNodes s c
    acked := if nodes.contains r then [(r, eligibleOf s (dieOf c.tid.core) c.recw r)] else []
    acking := true, ackT := p.taper + hdrAck c.recw, next := 0, reserve := [], slotNext := [], placed := [], dealt := 0
    completed := 0, faulted := 0, lost := 0, cancelled := 0, held := [], stopped := [], gone := [], causes := [], total := 0
    entries := [], ended := none, status := 0, late := false, freed := false }
  let s := s.modPkg r fun p => { p with
    nextGid := (gid + 1) % 2 ^ 24
    hlast := max p.hlast c.hseq
    grids := p.grids.set gid g }
  let s := writeRunning c (sendHeaders c r g.sentTo s)
  let s := match liveCtx s c.a with | .ok _ => s | .error _ => stopGrid r r g s
  if g.allAcked then endAcks r gid s else s

/-- LAUNCH_START (R361): the checks are made once, as the command starts (R116); the grid starts when every earlier access of the
thread is accepted or refused, and its header may go out. -/
def execLaunchStart (c : ClusterId) (s : State) : Out :=
  .next (match (s.cluster c).launching.find? (launchReady s) with
    | some x => startGrid x (s.modCluster c fun k => { k with launching := k.launching.filter fun y => decide (y.id ≠ x.id) })
    | none =>
      match nextLaunch s c with
      | none => s
      | some x =>
        match x.ins with
        | .launch _ _ _ _ _ =>
          let s' := dequeue .launch x s
          (match launchRefusal s x with
           | some st => failCmd x st s'
           | none =>
             if launchReady s x then startGrid x s'
             else s'.modCluster c fun k => { k with launching := k.launching ++ [x] })
        | _ => s)

/-- An earlier launch of the same thread waits for a package's acknowledgement, whose header it receives first (R361). -/
def ackOrder (s : State) (r : Nat) (g : Grid) (n : Nat) : Bool :=
  (s.pkg r).grids.all fun e =>
    let x := e.2
    !(decide (x.owner = g.owner ∧ x.cmd.id < g.cmd.id) && x.acking && x.sentTo.contains n && (x.acked.look n).isNone &&
      !x.gone.contains n)

/-- LAUNCH_ACK (R362): a package's acknowledgement, with its eligible clusters, reaches the root in time, after those of the thread's
earlier launches (R361). After a lapse of the CTX the package deals nothing (R369). -/
def execLaunchAck (r gid n : Nat) (s : State) : Out :=
  .next (match s.grid? r gid with
    | none => s
    | some g =>
      if ¬ g.acking ∨ ¬ g.sentTo.contains n ∨ (g.acked.look n).isSome ∨ g.gone.contains n ∨
          (s.pkg r).deadLinks.contains n ∨ (n ≠ r ∧ crosses s r n) ∨ ¬ ackOrder s r g n then s
      else
        let live := match liveCtx s g.ctx with | .ok _ => true | .error _ => false
        let g := { g with
          acked := g.acked.set n (eligibleOf s g.from_ g.hdr n)
          stopped := if live then g.stopped else insertNat g.stopped n }
        let s := modGrid r gid (fun _ => g) s
        if g.allAcked then endAcks r gid s else s)

/-- LAUNCH_ACK_DEADLINE (R362). -/
def execLaunchAckDeadline (r gid : Nat) (s : State) : Out :=
  .next (match s.grid? r gid with
    | none => s
    | some g => if g.acking ∧ g.ackT ≤ s.taper r then endAcks r gid s else s)

/-! ### Dealing (R363, R364) -/

/-- The record of `n` blocks from `first` on (Table 5-1). -/
def Grid.record (g : Grid) (r first n : Nat) : List W64 :=
  let w := g.hdr
  [BitVec.ofNat 64 (bits (wordAt w 0) 0 19), g.ctx, BitVec.ofNat 64 first,
   BitVec.ofNat 64 (n % 2 ^ 32 + hdrTeam w % 2 ^ 7 * 2 ^ 32), wordAt w 6,
   BitVec.ofNat 64 (g.size % 2 ^ 40 + (if hdrNomx w then 2 ^ 40 else 0) + (if hdrStatic w then 2 ^ 41 else 0) +
     hdrClass w * 2 ^ 42),
   BitVec.ofNat 64 (g.gid % 2 ^ 24 + r % 2 ^ 16 * 2 ^ 24), 0]

/-- A core's inbox holds a record of a grid. -/
def holdsGrid (s : State) (c : CoreId) (r gid : Nat) : Bool :=
  (s.core c).inbox.any fun x => decide (recKind x = 0 ∧ bits (recGridf x) 0 24 = gid ∧ bits (recGridf x) 32 16 = r)

/-- The dispatchers of a package may deal a grid's blocks: its CTX is live at its home, no notice has reached the package,
and its path has not lapsed (R113, R369, R371). -/
def mayDeal (s : State) (g : Grid) (n : Nat) : Bool :=
  decide (g.ended = none) && (g.acked.look n).isSome && !g.stopped.contains n && !g.gone.contains n &&
  (match liveCtx s g.ctx with | .ok _ => true | .error _ => false)

/-- A package may yet place a record of a grid. -/
def Grid.mayPlace (g : Grid) (n : Nat) : Bool :=
  if hdrStatic g.hdr then g.acking || g.slots.zipIdx.any fun x => x.1.2 && decide (x.1.1.node = n) && decide (0 < g.slotLeft x.2)
  else decide (g.next < g.size) || g.reserve.any fun x => decide (x.1.node = n)

/-- An earlier grid of the same thread keeps a package from placing records of this one (R361). -/
def launchOrder (s : State) (r : Nat) (g : Grid) (n : Nat) : Bool :=
  (s.pkg r).grids.all fun e =>
    let x := e.2
    !(decide (x.owner = g.owner ∧ x.cmd.id < g.cmd.id) && mayDeal s x n && !x.placed.contains n && x.mayPlace n)

/-- A record goes into a core's inbox: its blocks are dealt (R365). -/
def deal (r gid : Nat) (c : CoreId) (first n : Nat) (f : Grid → Grid) (s : State) : State :=
  match s.grid? r gid with
  | none => s
  | some g =>
    let s := s.modCore c fun k => { k with inbox := k.inbox ++ [g.record r first n] }
    modGrid r gid (fun g => { f g with dealt := g.dealt + n, placed := insertNat g.placed c.node }) s

/-- Clusters of a package to which a grid may be dealt now: acknowledged as eligible, and still so (R299, R359, R363). -/
def dealClusters (s : State) (g : Grid) (n : Nat) : List (Nat × Nat) :=
  ((g.acked.look n).getD []).filter fun x => eligible s g.from_ g.hdr ⟨n, x.1, x.2⟩

/-- RANGE_REQUEST (R363): a die with an eligible cluster whose reserve is empty takes the root's next `n` blocks, within what its package may hold. -/
def execRangeRequest (r gid : Nat) (h : DieId) (n : Nat) (s : State) : Out :=
  .next (match s.grid? r gid with
    | none => s
    | some g =>
      let ks := dealClusters s g h.node
      let cores := ks.length * Config.cores
      let kept := ((g.reserve.filter fun x => decide (x.1.node = h.node)).map fun x => x.2.2).sum
      if hdrStatic g.hdr ∨ n = 0 ∨ ¬ (ks.any fun x => decide (x.1 = h.die)) ∨ ¬ mayDeal s g h.node ∨ g.size < g.next + n ∨
          4 * hdrChunk g.hdr * cores < kept + n ∨ g.reserve.any (fun x => decide (x.1 = h)) then s
      else modGrid r gid (fun g => { g with
        next := g.next + n
        reserve := g.reserve ++ [(h, g.next, n)]
        held := g.held.set h.node (g.held.get 0 h.node + n) }) s)

/-- The hungry core of a die that is served next: the first, in cluster and core order, that runs and has room in its inbox
(R310, R363). -/
def hungryCore (s : State) (r : Nat) (g : Grid) (h : DieId) : Option CoreId :=
  let ks := (dealClusters s g h.node).filter fun x => decide (x.1 = h.die)
  (ks.flatMap fun x => (List.range Config.cores).map fun i => (⟨h.node, h.die, x.2, i⟩ : CoreId)).find? fun c =>
    coreRuns s c && !holdsGrid s c r g.gid && decide ((s.core c).inbox.length < Config.inboxEntries)

/-- DEAL_RECORD (R363): a die deals at most CHUNK blocks of its reserve to a hungry core. -/
def execDealRecord (r gid : Nat) (h : DieId) (s : State) : Out :=
  .next (match s.grid? r gid with
    | none => s
    | some g =>
      if ¬ mayDeal s g h.node ∨ ¬ launchOrder s r g h.node then s
      else
        match g.reserve.find? (fun x => decide (x.1 = h)), hungryCore s r g h with
        | some x, some c =>
          let n := min (hdrChunk g.hdr) x.2.2
          let rest := g.reserve.filter fun y => decide (y ≠ x)
          deal r gid c x.2.1 n (fun g => { g with
            reserve := if n < x.2.2 then (h, x.2.1 + n, x.2.2 - n) :: rest else rest }) s
        | _, _ => s)

/-- STATIC_DEAL (R364): a slot's next block, to core floor(b / P) mod 8 of its cluster once that holds no record of the grid. -/
def execStaticDeal (r gid slot : Nat) (s : State) : Out :=
  .next (match s.grid? r gid with
    | none => s
    | some g =>
      match g.slots[slot]? with
      | none => s
      | some x =>
        let k := g.slotNext.get 0 slot
        let c := coreIn x.1 (k % 8)
        if ¬ hdrStatic g.hdr ∨ g.acking ∨ ¬ x.2 ∨ g.slotLeft slot = 0 ∨ ¬ mayDeal s g c.node ∨ ¬ launchOrder s r g c.node ∨
            ¬ coreRuns s c ∨ ¬ eligible s g.from_ g.hdr x.1 ∨ holdsGrid s c r gid ∨ Config.inboxEntries ≤ (s.core c).inbox.length then s
        else deal r gid c (slot + k * g.slots.length) 1 (fun g => { g with slotNext := g.slotNext.set slot (k + 1) }) s)

/-! ### Outcomes (R365 to R367) -/

/-- A fault enters the report: its cause's count, TOTAL and up to four entries (R367). -/
def Grid.addFault (entry : List W64) (g : Grid) : Grid :=
  let c := bits (wordAt entry 0) 0 8
  { g with
    causes := g.causes.set c (min 65535 (g.causes.get 0 c + 1))
    total := min (2 ^ 32 - 1) (g.total + 1)
    entries := if g.entries.length < 4 then g.entries ++ [entry] else g.entries }

/-- What a report does at the root (R365, R367). -/
def Grid.take (x : Report) (g : Grid) : Grid :=
  if g.ended.isSome then g
  else if x.cls = 4 then g.addFault x.entry
  else if x.cls = 5 then { g with causes := g.causes.set 11 (min 65535 (g.causes.get 0 11 + x.count)) }
  else if g.gone.contains x.node then g
  else
    let g := { g with held := g.held.set x.node (g.held.get 0 x.node - x.count) }
    match x.cls with
    | 0 => { g with completed := g.completed + x.count }
    | 1 => { g with faulted := g.faulted + x.count }
    | 2 => { g with lost := g.lost + x.count }
    | _ => { g with cancelled := g.cancelled + x.count }

/-- BLOCK_CLASS_REPORT (R365): a package's report reaches the root, in the order in which the package made them; over a
dead link, or while its route is being changed, it waits (R346, R371). -/
def execBlockClassReport (n k : Nat) (s : State) : Out :=
  .next (match s.reports.find? (fun x => decide (x.id = k ∧ x.node = n)) with
    | none => s
    | some x =>
      if s.reports.any (fun y => decide (y.id < k ∧ y.node = n ∧ y.root = x.root)) ∨ (s.pkg x.root).deadLinks.contains n ∨
          (n ≠ x.root ∧ crosses s n x.root) then s
      else modGrid x.root x.gid (Grid.take x) { s with reports := s.reports.filter fun y => y.id ≠ k })

/-- The fault report's words (Table 15-3). -/
def Grid.faultReport (g : Grid) : List W64 :=
  let counts := (List.range 5).map fun i =>
    BitVec.ofNat 64 ((List.range 4).foldl (fun a j =>
      if 4 * i + j = 0 then a else a + g.causes.get 0 (4 * i + j) % 65536 * 2 ^ (16 * j)) 0)
  let head := counts ++ [BitVec.ofNat 64 (g.total + g.entries.length * 2 ^ 32), 0, 0]
  let all := head ++ g.entries.flatten
  all ++ List.replicate (32 - all.length) 0

/-- The final status (R366). -/
def Grid.final (g : Grid) : Nat := if g.cancelled ≠ 0 then 2 else if g.faulted ≠ 0 then 4 else if g.lost ≠ 0 then 3 else 1

/-- The completion record at the end (Table 15-2). -/
def Grid.doneRecord (now : Nat) (g : Grid) : List W64 :=
  [BitVec.ofNat 64 (g.status + (if g.late then 16 else 0)), BitVec.ofNat 64 g.dealt, BitVec.ofNat 64 g.completed,
   BitVec.ofNat 64 g.faulted, BitVec.ofNat 64 g.lost, BitVec.ofNat 64 g.cancelled,
   BitVec.ofNat 64 (min (now - g.started) (2 ^ 32 - 1)), BitVec.ofNat 64 g.status]

/-- GRID_END (R366): every block is counted; the root writes the fault report, then the completion record. -/
def execGridEnd (r gid : Nat) (s : State) : Out :=
  .next (match s.grid? r gid with
    | none => s
    | some g =>
      if g.ended.isSome ∨ g.counted ≠ g.size then s
      else
        let now := s.taper r
        let g := { g with
          ended := some now
          status := g.final
          late := decide (hdrDeadline g.hdr ≠ 0 ∧ g.started + hdrDeadline g.hdr < now) }
        let s := modGrid r gid (fun _ => g) s
        let fs := g.faultReport
        let s := (List.range 4).foldl (fun s i =>
          rootWrite g.cmd (wordAt g.hdr 8 + BitVec.ofNat 64 (64 * i)) ((fs.drop (8 * i)).take 8) s) s
        rootWrite g.cmd (wordAt g.hdr 7) (g.doneRecord now) s)

/-- The entry of a grid is to be freed: it ended 64 ticks ago (R361). -/
def Grid.freeDue (now : Nat) (g : Grid) : Bool :=
  !g.freed && (match g.ended with | some t => decide (t + 64 ≤ now) | none => false)

/-- GRID_ENTRY_FREE (R361): 64 ticks after the grid's end. What a LAUNCH that still collects acknowledgements has of it stays for
its token alone (log 112). -/
def execGridEntryFree (r gid : Nat) (s : State) : Out :=
  .next (match s.grid? r gid with
    | none => s
    | some g =>
      if ¬ g.freeDue (s.taper r) then s
      else if g.acking then modGrid r gid (fun g => { g with freed := true }) s
      else s.modPkg r fun p => { p with grids := p.grids.erase gid })

/-! ### LSTAT (R368) -/

/-- The items of LSTAT. -/
def Grid.item (g : Grid) (i : Nat) : Nat :=
  match i with
  | 0 => g.status | 1 => g.dealt | 2 => g.completed | 3 => g.faulted | 4 => g.lost | 5 => g.cancelled
  | 6 => g.size - g.counted | 7 => g.total | _ => 0

/-- LSTAT_START (R368). -/
def execLstatStart (c : ClusterId) (s : State) : Out :=
  .next (match nextLaunch s c with
    | none => s
    | some x =>
      match x.ins with
      | .lstat _ _ w _ =>
        let s := dequeue .launch x s
        (match (s.grid? c.node (bits x.a 32 24)).filter (!·.freed) with
         | some g => token x (BitVec.ofNat 64 (g.item (w.toNat % 16))) s
         | none => failCmd x .noGrid s)
      | _ => s)

/-! ### Cancelling (R369, R370) -/

/-- CANCEL_NOTICE (R369): a package stops dealing the context's grids and abandons its running and saved teams. -/
def execCancelNotice (k : Nat) (s : State) : Out :=
  .next (match s.notices.find? (fun x => decide (x.id = k)) with
    | none => s
    | some x =>
      if (hHome x.ctx).node ≠ x.node ∧ crosses s (hHome x.ctx).node x.node then s
      else
      let s := { s with notices := s.notices.filter fun y => y.id ≠ k }
      let gs := s.packages.flatMap fun p => (p.2.grids.filter fun e =>
        decide (e.2.ctx = x.ctx ∧ e.2.ended = none) && (e.2.acked.look x.node).isSome && !e.2.stopped.contains x.node).map
          fun e => (p.1, e.2)
      let s := gs.foldl (fun s g => stopGrid g.1 x.node g.2 s) s
      (ctxTeams s x.node x.ctx).foldl (fun s m => abandonTeam m.1 m.2 3 s) s)

/-! ### The load exchange (R376) -/

/-- The mesh neighbours of a cluster, of 4 rows by 11 columns (R335); row-major numbering is presumed (log 29). -/
def meshNeighbours (k : Nat) : List Nat :=
  (if 11 ≤ k then [k - 11] else []) ++ (if k % 11 ≠ 0 then [k - 1] else []) ++
    (if k % 11 ≠ 10 then [k + 1] else []) ++ (if k + 11 < Config.clusters then [k + 11] else [])

/-- A core's load figure: records in its inbox and busy user slots. -/
def loadOf (s : State) (c : CoreId) : Nat :=
  (s.core c).inbox.length + ((List.range 15).filter fun k => decide ((s.th ⟨c, k + 1⟩).life ≠ .free)).length

/-- The load figures of a package's cores at a tick boundary whose taper is a multiple of 64 (R376). -/
def tickFigures (n : Nat) (s : State) : State :=
  if s.taper n % 64 ≠ 0 then s
  else
    let cs := (s.cores.map fun e => coreOfKey e.1) ++ s.threads.map fun e => (tidOfKey e.1).core
    ((cs.filter fun c => decide (c.node = n)).eraseDups).foldl
      (fun (t : State) c => t.modCore c fun k => { k with figure := loadOf s c }) s

/-- The neighbours that a core has a figure from: the same-numbered cores of the mesh neighbours that are of the die's
partition, and run. -/
def loadNeighbours (s : State) (c : CoreId) : List CoreId :=
  let part := (s.die (dieOf c)).part
  if bits part 0 8 = 0 ∨ ¬ part.getLsbD (16 + c.cluster) then []
  else (((meshNeighbours c.cluster).filter fun k => part.getLsbD (16 + k)).map fun k => { c with cluster := k }).filter (coreRuns s)

/-- The neighbour with the lowest figure; ties go to the lowest cluster. -/
def lowestLoad (s : State) (l : List CoreId) : Option CoreId :=
  l.foldl (fun (b : Option CoreId) c =>
    match b with
    | none => some c
    | some x => some (if (s.core c).figure < (s.core x).figure then c else x)) none

/-- The place in an inbox of the record to pass: the newest of KIND 0, not at the head and not of a STATIC grid. -/
def passable (l : List (List W64)) : Option Nat :=
  ((List.range l.length).filter fun i =>
    decide (0 < i) && decide (recKind (nth [] l i) = 0) && decide (bits (recGridf (nth [] l i)) 25 1 = 0)).getLast?

/-- A cluster is eligible for a record's grid. -/
def recordEligible (s : State) (r : List W64) (k : ClusterId) : Bool :=
  match s.grid? (bits (recGridf r) 32 16) (bits (recGridf r) 0 24) with
  | some g => eligible s g.from_ g.hdr k
  | none => false

/-- The neighbour to which a core passes a record, and the record's place in its inbox: the core's figure exceeds the lowest it
received by 2 or more, and the neighbour may take the record (R376). -/
def passTo (s : State) (c : CoreId) : Option (CoreId × Nat) :=
  match lowestLoad s (loadNeighbours s c), passable (s.core c).inbox with
  | some d, some i =>
    if (s.core c).figure < (s.core d).figure + 2 ∨ ¬ recordEligible s (nth [] (s.core c).inbox i) (clusterOf d) ∨
        Config.inboxEntries ≤ (s.core d).inbox.length then none
    else some (d, i)
  | _, _ => none

/-- A core has not exchanged its load at the boundary just passed, whose taper is a multiple of 64 (R376). -/
def exchangeDue (s : State) (c : CoreId) : Bool :=
  let now := s.taper c.node
  decide (now % 64 = 0 ∧ now ≠ 0 ∧ (s.core c).exchanged ≠ now) && coreRuns s c

/-- LOAD_EXCHANGE (R376): at a taper that is a multiple of 64, a micro-kernel whose figure exceeds the lowest it received
by 2 or more passes one record to that neighbour. The figures are those of the boundary. -/
def execLoadExchange (c : CoreId) (s : State) : Out :=
  .next
    (if exchangeDue s c then
       let t := s.modCore c fun k => { k with exchanged := s.taper c.node }
       match passTo s c with
       | some (d, i) =>
         (t.modCore c fun k => { k with inbox := k.inbox.eraseIdx i }).modCore d fun k =>
           { k with inbox := k.inbox ++ [nth [] (s.core c).inbox i] }
       | none => t
     else s)

end Sys2Proof.Machine
end

