-- ==== Sys2Proof/Machine/Host.lean ====
section
/-!
DEFINITION. The host port and the host ring (R378 to R383), the boot ROM and bring-up (R384, R385), module reset and the
tick (R103, R104), and memory repair (R193, R196).
-/

namespace Sys2Proof.Machine

/-! ### The tick and module reset (R103, R104) -/

/-- TICK_BOUNDARY (R103, R144): the taper of every die of a package increments, WAITTs whose taper has come succeed, and what
is looked at on boundaries is: the end of a relock (R346), the strands' windows (R341, R342), the accesses held at the fabric die (R346, R348) and the load
figures (R376). The pod ends a package's dark interval in time, so no tick passes it (R346, log 76). -/
def execTickBoundary (n : Nat) (s : State) : Out :=
  .next (if darkLate s n then s
    else tickFigures n (markHeld n (tickStrands n (serveTaper n
      (endRelock n (s.modPkg n fun p => { p with taper := p.taper + 1 }))))))

/-- Entries of a map whose key, divided by `k`, is not `n`. -/
def Map.leave {α : Type} (k n : Nat) (m : Map α) : Map α := m.filter fun e => decide (e.1 / k ≠ n)

/-- A slice after a module reset: as at reset, but for the mapping of its row groups, which only fencing changes (R297, log 85). -/
def Slice.resetKeeping (x : Slice) : Slice := { Slice.reset with groupMap := x.groupMap, fenced := x.fenced }

/-- A message of another package to one that is reset: its header is on its way again, to an endpoint that is no more (log 85). -/
def Msg.orphan (n : Nat) (m : Msg) : Msg :=
  if m.dest.node ≠ n then m
  else
    match m.phase with
    | .waiting _ => m
    | _ => { m with
        phase := .offered true, posted := none, ring := none, got := [], issued := [], top := 0, accepted := 0
        cut := none, refused := none, headerOut := false, flagFault := none, arrived := 0 }

/-- A package after a module reset (R104, R345): the module flash keeps its slots; the circuits that the pod's switch has set for its
fibres stand, with the routes over them and a change of them that is going on, and its strands are as at reset, down. DESIGN CHOICE:
the strands' other ends keep their retired wavelengths (log 139). -/
def Package.resetKeeping (p : Package) : Package := { Package.reset with
  flash := p.flash
  strands := p.strands.map fun e => (e.1, { Strand.reset with peer := e.2.peer, far := e.2.far })
  changing := p.changing
  darkNow := p.darkNow
  relocks := p.relocks
  relock := p.relock }

/-- MODULE_RESET (R104, R194, R297, R375): every die of a package is as at reset, scratchpad is zero and full; the slices keep the
mapping of their groups, and the other packages see their strands to it go down. -/
def execModuleReset (n : Nat) (s : State) : Out :=
  .next
    (let own := fun (t : Tid) => decide (t.core.node ≠ n)
     let s := (s.pkg n).strands.foldl (fun s e => if e.2.up then downStrand n e.1 s else s) s
     { s with
       threads := s.threads.leave 32768 n
       cores := s.cores.leave 2048 n
       slices := s.slices.map fun e =>
         if e.1 / 2048 = n then (e.1, e.2.resetKeeping) else e
       clusters := s.clusters.leave 256 n
       dies := s.dies.leave 4 n
       packages := s.packages.set n (s.pkg n).resetKeeping
       mem := s.mem.filter fun c => decide (c.1 / 2 ^ 42 ≠ n)
       empties := s.empties.filter fun k => decide (k / 2 ^ 42 ≠ n)
       poisoned := s.poisoned.filter fun k => decide (k / 2 ^ 42 ≠ n)
       sysMem := s.sysMem.filter fun r => decide (r.start / 2 ^ 42 ≠ n)
       service := s.service.leave 256 n
       accs := s.accs.filter fun a => own a.tid &&
         !(s.msgs.any fun m => decide (m.dest.node = n) && a.ofMsg m.id)
       fences := s.fences.filter fun f => own f.tid
       waits := s.waits.filter fun w => own w.tid
       leaseReqs := s.leaseReqs.filter fun r => own r.tid
       regWrites := s.regWrites.filter fun w => own w.tid
       jobs := s.jobs.filter fun j => own j.cmd.tid
       msgs := (s.msgs.filter fun m => own m.cmd.tid).map (Msg.orphan n)
       raises := s.raises.filter fun r => own r.tid
       tlbis := s.tlbis.filter fun r => own r.tid
       preempts := s.preempts.filter fun p => own p.cmd.tid && decide (p.cluster.node ≠ n)
       reports := s.reports.filter fun r => decide (r.node ≠ n)
       notices := s.notices.filter fun x => decide (x.node ≠ n) })

/-! ### Memory repair (R193, R196) -/

/-- Every row of a scratchpad is poisoned (R193, R196). -/
def poisonRows (c : CoreId) (s : State) : State :=
  (List.range (Config.scratchBytes / 64)).foldr (fun i s => s.setPoison (scratchAt c (64 * i)) true) s

/-- A bank is marked failed; its rebuilding into the spare begins while that is free (R193). -/
def Core.bankFails (b : Nat) (k : Core) : Core := { k with
  badBanks := insertNat k.badBanks b
  rebuilding := if k.rebuilding = none ∧ k.spareUsed = false then some b else k.rebuilding }

/-- BANK_FAILURE (R193): one of the 18 banks fails. A bank that fails beside another one leaves two banks' symbols in error in
every row, which is so poisoned. -/
def execBankFailure (c : CoreId) (b : Nat) (s : State) : Out :=
  .next
    (if 18 ≤ b ∨ (s.core c).badBanks.contains b = true then s
     else
       let t := s.modCore c (Core.bankFails b)
       if (s.core c).badBanks = [] then t else poisonRows c t)

/-- BANK_REBUILD_DONE (R193): the spare stands for the bank that was rebuilt; rows lost before stay poisoned until they are
stored whole (R196, log 126). -/
def execBankRebuildDone (c : CoreId) (s : State) : Out :=
  .next (match (s.core c).rebuilding with
    | some b => s.modCore c fun k => { k with badBanks := eraseNat k.badBanks b, rebuilding := none, spareUsed := true }
    | none => s)

/-- A unit of HBM or a scratchpad row, by its number. -/
def repairUnit (u : Nat) : Option Phys :=
  let p := physOfKey (64 * u)
  let ok := match p.region with
    | .hbm => decide (p.off < Config.hbmBytes)
    | .scratch k _ => decide (k < Config.clusters)
    | _ => false
  if ok = true ∧ p.key = 64 * u then some p else none

/-- What the pointer entries of some table pages of a package lead to (R199, Table 7-5): dies and HBM offsets in 4 KiB units. A
valid pointer's first byte is not 0, so memory lists it. -/
def tablesOf (s : State) (n : Nat) (sub : Bool) (pages : List (Nat × Nat)) : List (Nat × Nat) :=
  s.mem.filterMap fun c =>
    let p := physOfKey c.1
    let e := BitVec.ofNat 64 (s.peek p 8)
    if p.node = n ∧ p.region = .hbm ∧ p.off % 8 = 0 ∧ pages.contains (p.die, p.off / 4096) = true ∧ bits e 0 1 = 1 ∧
        badPointer sub e = false then some (bits e 16 2, bits e 18 25)
    else none

/-- A place lies in a table page (R199): in the space table of its die, or in a table that the space tables of its package
reach. -/
def inTablePage (s : State) (p : Phys) : Bool :=
  let roots := (List.range 4).flatMap fun d => (List.range 128).map fun i => (d, i)
  let t1 := tablesOf s p.node false roots
  let t2 := tablesOf s p.node false t1
  let t3 := tablesOf s p.node false t2
  let t4 := tablesOf s p.node false t3
  let t5 := tablesOf s p.node true t4
  decide (p.region = .hbm) &&
    ((roots ++ t1 ++ t2 ++ t3 ++ t4).contains (p.die, p.off / 4096) || t5.contains (p.die, p.off / 16384 * 4))

/-- PATROL_SCRUB_ERROR (R196): an uncorrectable unit is poisoned; one of a table page poisons the page (R208). -/
def execPatrolScrubError (u : Nat) (s : State) : Out :=
  .next (match repairUnit u with
    | none => s
    | some p =>
      if inTablePage s p then
        (List.range 64).foldr (fun i s => s.setPoison { p with off := p.off / 4096 * 4096 + 64 * i } true) s
      else s.setPoison p true)

/-! ### The host port (R378, R379) -/

/-- HSEQ of a host record. -/
def recHseq (r : List W64) : Nat := bits (wordAt r 1) 0 32

/-- Records with HSEQ at or below HACK leave the FIFO, one submitted late at once (R382). -/
def Package.dropServed (p : Package) : Package :=
  let gone := fun (r : List W64) => decide (recHseq r ≤ p.hack.toNat)
  { p with
    fifo := p.fifo.filter fun r => !gone r
    copied := p.copied - ((p.fifo.take p.copied).filter gone).length }

/-- HOST_SUBMISSION (R379): an 8-byte write of the submission window; the last takes the record into the FIFO, or, with the
FIFO full, drops and counts it. -/
def execHostSubmission (n : Nat) (off : BitVec 3) (x : W64) (s : State) : Out :=
  .next
    (let s := s.modPkg n fun p => { p with subwin := p.subwin.set off.toNat x off.isLt }
     if off ≠ 7 then s
     else
       s.modPkg n fun p =>
         if p.fifo.length < Config.fifoEntries then { p with fifo := p.fifo ++ [p.subwin.toList] }.dropServed
         else { p with dropped := min 127 (p.dropped + 1) })

/-- The place that a host address reaches: SYSTEM scratchpad or B-stack (R378). An unaligned access reaches none (log 30).
DESIGN CHOICE: an address with G = 0 reaches cluster 0 of die 0 (log 148). -/
def hostPlace (s : State) (n : Nat) (off : BitVec 33) : Option Phys :=
  match classify ⟨n, 0, 0, 0⟩ (0xF1#8 ++ (0#23 ++ off)) with
  | .place p =>
    let mem := match p.region with | .scratch _ _ => true | .bstack _ => true | _ => false
    if off.toNat % 8 = 0 ∧ mem = true ∧ isSystem s p ∧ isSystem s (p.plus 7) ∧ ¬ notYetServed s p ∧ ¬ s.isPoisoned p then some p
    else none
  | _ => none

/-- HOST_MEMORY_ACCESS (R378): a read, or a write of a doubleword, through the memory region; elsewhere a read is all ones
and a write is dropped. -/
def execHostMemoryAccess (n : Nat) (off : BitVec 33) (w : Option W64) (s : State) : Out :=
  .next (match w, hostPlace s n off with
    | none, some p => s.modPkg n fun q => { q with hostRead := BitVec.ofNat 64 (s.peek p 8) }
    | none, none => s.modPkg n fun q => { q with hostRead := BitVec.allOnes 64 }
    | some x, some p => storeAt p (leBytes x.toNat 8) s
    | some _, none => s)

/-- SUBSTAT (Table 15-8). -/
def Package.substat (p : Package) : Nat :=
  (Config.fifoEntries - p.fifo.length) + p.dropped % 2 ^ 7 * 2 ^ 9 + p.hack.toNat * 2 ^ 32

/-- A host read of the register region at an offset (R378); the submission window is for writes, and nothing else is there. -/
def hostRegisterRead (n : Nat) (off : BitVec 12) (s : State) : State :=
  match off with
  | 0x040 => s.modPkg n fun p => { p with hostRead := BitVec.ofNat 64 p.substat }
  | 0x048 => s.modPkg n fun p => { p with hostRead := p.boot }
  | _ => s

/-! ### The host ring (R380) -/

/-- The host service core. -/
def hostCore (n : Nat) : CoreId := ⟨n, 0, 0, 0⟩
/-- HEAD of the host ring. DESIGN CHOICE: HEAD and TAIL are read and written also in a unit that is poisoned (log 155). -/
def hostHead (s : State) (n : Nat) : Nat := s.peek (scratchAt (hostCore n) 0x7E800) 4
/-- TAIL of the host ring. -/
def hostTail (s : State) (n : Nat) : Nat := s.peek (scratchAt (hostCore n) 0x7E804) 4

/-- HOST_RECORD_COPY (R380): the oldest FIFO record not yet copied goes into the ring, then TAIL, set full. -/
def execHostRecordCopy (n : Nat) (s : State) : Out :=
  .next (match (s.pkg n).fifo[(s.pkg n).copied]? with
    | none => s
    | some r =>
      let t := hostTail s n % 32
      if (t + 1) % 32 = hostHead s n % 32 then s
      else
        let s := s.modPkg n fun p => { p with copied := p.copied + 1 }
        let s := storeRecord (scratchAt (hostCore n) (0x7E000 + 64 * t)) r s
        let p := scratchAt (hostCore n) 0x7E804
        fillWords [p] (storeAt p (leBytes ((t + 1) % 32) 4) s))

/-- The record at the head of the host ring, while the firmware runs and slot 0 has nothing to serve before it (R374). -/
def hostRecord (s : State) (n : Nat) : Option (List W64) :=
  if ¬ coreRuns s (hostCore n) ∨ faultAreaWaits s (hostCore n) ∨ faultRingWaits s (hostCore n) ∨
      hostHead s n % 32 = hostTail s n % 32 then none
  else some (s.peekWords (scratchAt (hostCore n) (0x7E000 + 64 * (hostHead s n % 32))) 8)

/-- KIND of a host record. -/
def hostKind (r : List W64) : Nat := bits (wordAt r 0) 0 4
/-- DIE of a host record. -/
def hostDie (n : Nat) (r : List W64) : DieId := ⟨n, bits (wordAt r 0) 4 2⟩

/-- Slot 0 has served a record: HEAD passes it, and HACK is to be written (R380). -/
def hostServed (n : Nat) (r : List W64) (s : State) : State :=
  let head := (hostHead s n + 1) % 32
  let s := storeAt (scratchAt (hostCore n) 0x7E800) (leBytes head 4) s
  { s.fresh with regWrites := s.regWrites ++
      [⟨s.nextId, ⟨hostCore n, 0⟩, 0x080, BitVec.ofNat 64 (recHseq r), 0⟩] }

/-- Slot 0 of the service core of a die that serves host records (log 13). -/
def serviceSlot (h : DieId) : Tid := ⟨⟨h.node, h.die, 0, 0⟩, 0⟩

/-- A command of the launch channel that slot 0 issued before has not started, or a LAUNCH of it still drains (R246, R361, R393 rows 33
and 51). -/
def launchWaits (s : State) (t : Tid) : Bool :=
  let k := s.cluster (clusterOf t.core)
  (k.launchQ ++ k.launching).any fun c => decide (c.tid = t)

/-- The header of a launch record, read as LAUNCH reads it (R361); none: the read fails. -/
def hostHeader (s : State) (t : Tid) (a : W64) : Option (List W64) :=
  match recordPlace t.core (a, 128) with
  | .error _ => none
  | .ok p =>
    let ctx := supervisorCtx t.core.node t.core.die
    if (homeRefusal s t ctx p a 64 (.load false)).isSome ∨ (homeRefusal s t ctx (p.plus 64) (a + 64) 64 (.load false)).isSome then none
    else some (s.peekWords p 16)

/-- Where the descriptor of a launch record lies. -/
def hostDescriptorAt (s : State) (t : Tid) (a : W64) : Option Phys :=
  match classify t.core a with
  | .place p => some p
  | .nothing => none
  | .virt =>
    match translate s t.core (s.th t).space (inWindow (s.core t.core) a) a (.load false) false with
    | .ok p _ => some p
    | _ => none

/-- The descriptor of a launch record, read as LCTX reads it, as a load of slot 0 (R122, R380); none: the read fails. -/
def hostDescriptor (s : State) (t : Tid) (a : W64) : Option (List W64) :=
  (hostDescriptorAt s t a).bind fun p =>
    let ctx := supervisorCtx t.core.node t.core.die
    if p.node ≠ t.core.node ∨ (homeRefusal s t ctx p a 64 (.load false)).isSome then none else some (s.peekWords p 8)

/-- LCTX of a launch record (R122, R380); descriptor 0 is the default. -/
def hostContext (s : State) (t : Tid) (r : List W64) (i : Nat) : Decision :=
  let ctx := supervisorCtx t.core.node t.core.die
  if wordAt r 3 = 0 then .grant .ctx ctx (.ctx 0 0 0) (0, 0)
  else
    decideRequest s ⟨0, t, ctx, .lctx 0 ⟨false, 0⟩ ⟨false, 0⟩ 0 Guard.none, wordAt r 3, 0, 0, hostDescriptor s t (wordAt r 3)⟩ i 0

/-- What slot 0 reads for a launch record, and the DONE record it may write itself (R361, R380): their places and lengths. -/
def hostAccesses (s : State) (t : Tid) (r : List W64) : List (Phys × Nat) :=
  let header := match recordPlace t.core (wordAt r 2, 128) with | .ok p => [(p, 128)] | .error _ => []
  let desc := if wordAt r 3 = 0 then none else hostDescriptorAt s t (wordAt r 3)
  let done := (hostHeader s t (wordAt r 2)).bind fun w => rootRecord t.core (wordAt w 7) 64
  header ++ (desc.toList ++ done.toList).map fun p => (p, 64)

/-- Slot 0's own earlier accesses let it read and write for a launch record (R95, R393 row 11). -/
def hostFree (s : State) (t : Tid) (r : List W64) : Bool := (hostAccesses s t r).all fun x => recordFree s t x.1 x.2

/-- A launch record whose LCTX is refused (R380): the completion record is written directly, where the header can be read. -/
def hostCancelled (c : Cmd) (w : Option (List W64)) (s : State) : State :=
  match w with
  | none => s
  | some w => rootWrite c (wordAt w 7) [2, 0, 0, 0, 0, BitVec.ofNat 64 (hdrSize w % 2 ^ 40), 0, 2] s

/-- A launch record is served (R380): LCTX with the context in entry `i`, then LAUNCH with HSEQ; one whose header cannot be read is no
launch (R361). A full table or a package that is not up yet leaves the record for later (log 31). -/
def hostLaunch (n : Nat) (r : List W64) (i : Nat) (s : State) : State :=
  let h := hostDie n r
  let t := serviceSlot h
  let w := hostHeader s t (wordAt r 2)
  let ins : Instr := .launch 0 ⟨false, 0⟩ ⟨false, 0⟩ (BitVec.ofNat 32 (recHseq r)) Guard.none
  let c : Cmd := ⟨s.nextId, t, supervisorCtx n h.die, 0, ins, 0, wordAt r 2, w.getD [], 0, .known true, 0⟩
  if ¬ hostFree s t r then s
  else
    match hostContext s t r i with
    | .grant k h2 body _ =>
      if ¬ someEntry s h then hostServed n r (hostCancelled c w s)
      else if ¬ entryReady s h i then s
      else
        let x := handleOf h .ctx i (s.lease h i).gen
        let life := if bits (wordAt r 4) 0 32 = 0 then Config.maxLife else bits (wordAt r 4) 0 32
        let s' := createLease h i k life x h2 body s.fresh
        if w.isNone then hostServed n r s'
        else if ¬ launchReady s c ∨ launchWaits s t = true then s
        else
          let c := { c with a := x }
          match launchRefusal s' c with
          | some .busy => s
          | some .full => s
          | some _ => hostServed n r s'
          | none => hostServed n r (startGrid c s')
    | _ => hostServed n r (hostCancelled c w s)

/-- The host record of a kind whose DIE has a service core that runs, which is to act for it (R310, Table 15-9). -/
def recordOf (s : State) (n kind : Nat) : Option (List W64) :=
  (hostRecord s n).filter fun r => decide (hostKind r = kind) && serviceRuns s (hostDie n r)

/-- HOST_LAUNCH_RECORD (R380). -/
def execHostLaunchRecord (n i : Nat) (s : State) : Out :=
  .next (match recordOf s n 1 with
    | some r => hostLaunch n r i s
    | none => s)

/-- The grid that a cancel record names by its DONE address: the latest that runs. -/
def hostGrid (s : State) (n : Nat) (a : W64) : Option Grid :=
  (((s.pkg n).grids.filter fun e => decide (e.2.ended = none ∧ wordAt e.2.hdr 7 = a)).map (·.2)).getLast?

/-- An RNW of slot 0 to a lease is on its way (R125). -/
def renewalWaits (s : State) (t : Tid) (x : W64) : Bool :=
  s.leaseReqs.any fun r => decide (r.tid = t ∧ r.a = x) && (match r.ins with | .rnw _ _ _ _ => true | _ => false)

/-- RNW of life 0 by the service core of a die (R125). -/
def endContext (h : DieId) (x : W64) (s : State) : State :=
  match present s x with
  | .live home i l =>
    if l.heldBy (supervisorCtx h.node h.die) ∧ i ≠ 0 then
      s.modLease home i fun l => { l with x := s.taper home.node, since := s.taper home.node }
    else s
  | _ => s

/-- HOST_CANCEL_RECORD (R380): RNW of life 0 on the grid's CTX, behind an earlier RNW of that slot 0 to it (R393 row 31). -/
def execHostCancelRecord (n : Nat) (s : State) : Out :=
  .next (match recordOf s n 2 with
    | some r =>
      let h := hostDie n r
      (match hostGrid s n (wordAt r 2) with
       | some g => if renewalWaits s (serviceSlot h) g.ctx then s else hostServed n r (endContext h g.ctx s)
       | none => hostServed n r s)
    | none => s)

/-- A SWR of slot 0 is on its way (R96). -/
def writeWaits (s : State) (t : Tid) : Bool := s.regWrites.any fun w => decide (w.tid = t)

/-- PART of a partition record (R352): a refused value writes nothing and is counted in the firmware's telemetry. -/
def recordPart (h : DieId) (x : W64) (s : State) : State :=
  if valueOk s (serviceSlot h) 0x051 x then s.modDie h fun d => { d with part := BitVec.ofNat 64 (bits x 0 60) }
  else s.modPkg h.node fun p => { p with refusedParts := p.refusedParts + 1 }

/-- HOST_PARTITION_RECORD (R352, R380): SWR of PART and PVC on DIE, behind an earlier SWR of that slot 0 (R393 row 6). DESIGN
CHOICE: PVC is written though PART is refused (log 140). A record of an unknown kind is acknowledged and ignored (Table 15-9). -/
def execHostPartitionRecord (n : Nat) (s : State) : Out :=
  .next (match recordOf s n 3, hostRecord s n with
    | some r, _ =>
      let h := hostDie n r
      if writeWaits s (serviceSlot h) then s
      else hostServed n r ((recordPart h (wordAt r 2) s).modDie h fun d => { d with pvc := wordAt r 3 &&& 0xFFFF })
    | none, some r => if hostKind r = 0 ∨ 4 ≤ hostKind r then hostServed n r s else s
    | none, none => s)

/-- HACK_WRITE (R381, R382): a lower value is ignored; finished records leave the FIFO. -/
def execHackWrite (k : Nat) (s : State) : Out :=
  applyWrite (· = 0x080) k
    (fun w s => s.modPkg w.tid.core.node fun p =>
      if w.val.setWidth 32 < p.hack then p else { p with hack := w.val.setWidth 32 }.dropServed) s

/-- FIRMWARE_RESTART (R382, R383): the ring is empty again, and every record still held is copied anew; a HACK not yet
written is not. -/
def execFirmwareRestart (n : Nat) (s : State) : Out :=
  .next (if (s.pkg n).phase = 0 then s
    else
      let s := { s with regWrites := s.regWrites.filter fun w =>
        ¬ (w.reg = 0x080 ∧ w.tid.core.node = n ∧ w.tid.slot = 0) }
      let s := s.modPkg n fun p => { p with copied := 0 }
      let q := scratchAt (hostCore n) 0x7E804
      fillWords [q] (storeAt q (leBytes 0 4) (storeAt (scratchAt (hostCore n) 0x7E800) (leBytes 0 4) s)))

/-! ### Boot and bring-up (R382, R384, R385) -/

/-- The marker copy that counts: the valid one with the highest sequence number; whether it names slot B. -/
def Flash.marker (f : Flash) : Option Bool :=
  match f.mark0.1, f.mark1.1 with
  | true, true => some (if f.mark1.2.1 ≤ f.mark0.2.1 then f.mark0.2.2 else f.mark1.2.2)
  | true, false => some f.mark0.2.2
  | false, true => some f.mark1.2.2
  | false, false => none

/-- A firmware slot's signature is valid. -/
def Flash.valid (f : Flash) (b : Bool) : Bool := if b then f.validB else f.validA

/-- BOOT_SELECT (R384): the boot ROM's choice, or a halt with reason 2 or 1. -/
def execBootSelect (n : Nat) (s : State) : Out :=
  .next
    (let p := s.pkg n
     if p.booted ∨ p.phase ≠ 0 ∨ p.reason ≠ 0 then s
     else
       match p.flash.marker with
       | none => s.modPkg n fun p => { p with reason := 2 }
       | some b =>
         if p.flash.valid b then s.modPkg n fun p => { p with booted := true, slotB := b }
         else if p.flash.valid (!b) then s.modPkg n fun p => { p with booted := true, slotB := !b }
         else s.modPkg n fun p => { p with reason := 1 })

/-- BRINGUP_PHASE (R382, R385): the next phase; a failure in phase 1 halts with reason 4, of HBM training with reason 3. -/
def execBringupPhase (n : Nat) (ok : Bool) (s : State) : Out :=
  .next
    (let p := s.pkg n
     if ¬ p.booted ∨ p.reason ≠ 0 ∨ 4 ≤ p.phase then s
     else if ¬ ok ∧ p.phase = 1 then s.modPkg n fun p => { p with reason := 4 }
     else if ¬ ok ∧ p.phase = 2 then s.modPkg n fun p => { p with reason := 3 }
     else s.modPkg n fun p => { p with phase := p.phase + 1 })

/-- The marker copy that an update writes (R384): an invalid one first, else the one with the lower sequence number; true for
copy 1. -/
def Flash.older (f : Flash) : Bool := f.mark0.1 && (!f.mark1.1 || decide (f.mark1.2.1 ≤ f.mark0.2.1))

/-- The highest sequence number of a valid marker copy. -/
def Flash.seq (f : Flash) : Nat := max (if f.mark0.1 then f.mark0.2.1 else 0) (if f.mark1.1 then f.mark1.2.1 else 0)

/-- Write a marker copy. -/
def Flash.setMark (f : Flash) (i : Bool) (m : Bool × Nat × Bool) : Flash :=
  if i then { f with mark1 := m } else { f with mark0 := m }

/-- The firmware writes the inactive slot (R384, step 1): torn until it is done, and then checked. `slotB`: slot B runs. -/
def Flash.writeSlot (slotB done : Bool) (f : Flash) : Flash :=
  if slotB then { f with validA := done } else { f with validB := done }

/-- The firmware writes a marker copy (R384, steps 2 and 3): torn until it is done; then it follows the highest sequence number
and names the new slot, which is whole. -/
def Flash.writeMarker (slotB done : Bool) (f : Flash) : Flash :=
  if ¬ f.valid (!slotB) then f else f.setMark f.older (done, if done then f.seq + 1 else 0, !slotB)

/-- A step of a firmware update, which running firmware makes (R384). -/
def updateFlash (n : Nat) (g : Bool → Flash → Flash) (s : State) : State :=
  if ¬ coreRuns s (hostCore n) then s else s.modPkg n fun p => { p with flash := g p.slotB p.flash }

/-- PACKAGE_HALT (R382): the firmware's own decision (5), or a failed self-test of the fabric die in phase 1 (4). -/
def execPackageHalt (n why : Nat) (s : State) : Out :=
  .next
    (let p := s.pkg n
     if p.reason = 0 ∧ 1 ≤ p.phase ∧ (why = 5 ∨ (why = 4 ∧ p.phase = 1)) then s.modPkg n fun p => { p with reason := why }
     else s)

end Sys2Proof.Machine
end

