-- ==== Sys2Proof/Machine/Scalar.lean ====
section
/-!
DEFINITION. The scalar integer instructions: two registers (R76, R77), one register (R78), bit fields (R79), short and
long immediates (R80, R81), compares and predicates (R82 to R87).
-/

namespace Sys2Proof.Machine

/-! ### Forms -/

/-- Gd := f(a, b), within 4 cycles (R74, R76). -/
def alu2 (f : W64 → W64 → W64) (d : BitVec 4) (a b : GSrc) (g : Guard) (s : State) : Out :=
  .next (simple g [srcG a, srcG b] (destG d) (fun t => t.wG d (f (t.src a) (t.src b))) s)

/-- Gd := f(a, b) after 18 cycles: Gd goes empty (R74). -/
def alu2Long (f : W64 → W64 → W64) (d : BitVec 4) (a b : GSrc) (g : Guard) (s : State) : Out :=
  .next (gated 1 g false [srcG a, srcG b] (destG d)
    (fun s => retire 1 false
      (if d = 0 then s else issueResult (longG d) none (.g (f (s.me.src a) (s.me.src b))) none s)) s)

/-- Gd := f(a) (R78, R80). -/
def alu1 (f : W64 → W64) (d : BitVec 4) (a : GSrc) (g : Guard) (s : State) : Out :=
  .next (simple g [srcG a] (destG d) (fun t => t.wG d (f (t.src a))) s)

/-- Gd := f(old Gd, a): Gd is read as well as written (R79). -/
def aluRmw (f : W64 → W64 → W64) (d : BitVec 4) (a : GSrc) (g : Guard) (s : State) : Out :=
  .next (simple g [srcD d, srcG a] (destG d) (fun t => t.wG d (f (t.rG d) (t.src a))) s)

/-- Gd := f(old Gd) for a two-word instruction; `rd`: the old value is read (R81). -/
def aluLong (rd : Bool) (f : W64 → W64) (d : BitVec 4) (g : Guard) (s : State) : Out :=
  .next (gated 2 g false (if rd then [srcD d] else []) (destG d) (fun s => retire 2 false (s.modMe fun t => t.wG d (f (t.rG d)))) s)

/-- A source of a deferred predicate: its value if it is full now (R84). -/
def Thread.defSrc (t : Thread) (r : RegRef) : DefSrc := if t.full r then .val (t.scalar r) else .pend r

/-- A compare or predicate combiner (R49, R84): with every source full Qd is written; else Qd goes empty, the
instruction retires, and the last fill evaluates it. Only E = 1 sources are checked, and an empty Qd blocks. -/
def predicate (q : BitVec 4) (op : DefOp) (a b : Src) (bval : Option W64) (g : Guard) (s : State) : Out :=
  let srcs := if bval.isSome then [a] else [a, b]
  -- an empty source with E = 0 is not waited for
  let t := s.me
  let checked := srcs.filter (fun x => x.e || t.full x.ref)
  .next (gated 1 g false checked [.q q]
    (fun s =>
      retire 1 false (s.modMe fun t =>
        let x := t.defSrc a.ref
        let y := match bval with | some c => DefSrc.val c | none => t.defSrc b.ref
        match x, y with
        | .val x, .val y => t.wQ q (op.eval x y)
        | _, _ => { t.empty (.q q) with deferredQ := t.deferredQ ++ [⟨q, op, x, y⟩] })) s)

/-- A register compare (R82). -/
def compare (k : CmpOp) (q : BitVec 4) (a b : GSrc) (g : Guard) (s : State) : Out :=
  predicate q (.cmp k) (srcG a) (srcG b) none g s
/-- An immediate compare with the sign-extended pattern (R83). -/
def compareImm (k : CmpOp) (q : BitVec 4) (a : GSrc) (i : BitVec 8) (g : Guard) (s : State) : Out :=
  predicate q (.cmp k) (srcG a) (srcG a) (some (simm i)) g s
/-- A predicate combiner (R85). -/
def combine (k : QOp) (q a b : BitVec 4) (g : Guard) (s : State) : Out :=
  predicate q (.comb k) (srcQ a) (srcQ b) none g s

/-! ### Results (Tables 3-2, 3-4; R77, R79) -/

/-- The most negative 64-bit value. -/
def minInt : W64 := 0x8000000000000000#64

/-- MULH: bits [127:64] of the signed product. -/
def mulhRes (a b : W64) : W64 := BitVec.ofInt 64 (a.toInt * b.toInt / 2 ^ 64)
/-- MULHU: bits [127:64] of the unsigned product. -/
def mulhuRes (a b : W64) : W64 := BitVec.ofNat 64 (a.toNat * b.toNat / 2 ^ 64)
/-- DIV (R77). -/
def divRes (a b : W64) : W64 :=
  if b = 0 then BitVec.allOnes 64
  else if a = minInt ∧ b = BitVec.allOnes 64 then minInt
  else BitVec.ofInt 64 (a.toInt.tdiv b.toInt)
/-- REM (R77). -/
def remRes (a b : W64) : W64 :=
  if b = 0 then a
  else if a = minInt ∧ b = BitVec.allOnes 64 then 0
  else BitVec.ofInt 64 (a.toInt - b.toInt * a.toInt.tdiv b.toInt)
/-- DIVU (R77). -/
def divuRes (a b : W64) : W64 := if b = 0 then BitVec.allOnes 64 else BitVec.ofNat 64 (a.toNat / b.toNat)
/-- REMU (R77). -/
def remuRes (a b : W64) : W64 := if b = 0 then a else BitVec.ofNat 64 (a.toNat - b.toNat * (a.toNat / b.toNat))
/-- The smaller as signed values. -/
def minRes (a b : W64) : W64 := if a.slt b then a else b
/-- The larger as signed values. -/
def maxRes (a b : W64) : W64 := if a.slt b then b else a
/-- The smaller as unsigned values. -/
def minuRes (a b : W64) : W64 := if a.ult b then a else b
/-- The larger as unsigned values. -/
def maxuRes (a b : W64) : W64 := if a.ult b then b else a

/-- Number of 0 bits above the highest 1 bit among bits [n-1:0]. -/
def clzFrom (a : W64) : Nat → Nat
  | 0 => 0
  | n + 1 => if a.getLsbD n then 0 else clzFrom a n + 1
/-- Number of 0 bits below the lowest 1 bit among bits from `64 - n` on. -/
def ctzFrom (a : W64) : Nat → Nat
  | 0 => 0
  | n + 1 => if a.getLsbD (63 - n) then 0 else ctzFrom a n + 1
/-- Number of 1 bits among bits [n-1:0]. -/
def popFrom (a : W64) : Nat → Nat
  | 0 => 0
  | n + 1 => (if a.getLsbD n then 1 else 0) + popFrom a n
/-- Bits [n-1:0] in reverse order, as a number. -/
def brevFrom (a : W64) : Nat → Nat
  | 0 => 0
  | n + 1 => (if a.getLsbD n then 2 ^ (63 - n) else 0) + brevFrom a n

/-- CLZ (Table 3-4). -/
def clzRes (a : W64) : W64 := BitVec.ofNat 64 (clzFrom a 64)
/-- CTZ. -/
def ctzRes (a : W64) : W64 := BitVec.ofNat 64 (ctzFrom a 64)
/-- POPC. -/
def popcRes (a : W64) : W64 := BitVec.ofNat 64 (popFrom a 64)
/-- BREV: bit i moves to bit 63 − i. -/
def brevRes (a : W64) : W64 := BitVec.ofNat 64 (brevFrom a 64)
/-- BSWAP: byte i moves to byte 7 − i. -/
def bswapRes (a : W64) : W64 := BitVec.ofNat 64 (leNat (leBytes a.toNat 8).reverse)
/-- ABS; of the most negative number itself. -/
def absRes (a : W64) : W64 := if a.slt 0 then -a else a

/-- EXT (R79): `l` holds len − 1. -/
def extRes (p : BitVec 6) (l : BitVec 5) (a : W64) : W64 := sextLow (BitVec.ofNat 64 (bitField a p.toNat (l.toNat + 1))) (l.toNat + 1)
/-- EXTU. -/
def extuRes (p : BitVec 6) (l : BitVec 5) (a : W64) : W64 := BitVec.ofNat 64 (bitField a p.toNat (l.toNat + 1))
/-- INS: bits [pos+len−1:pos] of the old value replaced by a[len−1:0]. -/
def insRes (p : BitVec 6) (l : BitVec 5) (old a : W64) : W64 :=
  let m : W64 := BitVec.ofNat 64 ((2 ^ (l.toNat + 1) - 1) * 2 ^ p.toNat)
  (old &&& ~~~ m) ||| ((a <<< p.toNat) &&& m)

/-! ### Major 0x01 -/

/-- ADD (R76). -/
def execAdd (d : BitVec 4) (a b : GSrc) (g : Guard) (s : State) : Out := alu2 (· + ·) d a b g s
/-- SUB (R76). -/
def execSub (d : BitVec 4) (a b : GSrc) (g : Guard) (s : State) : Out := alu2 (· - ·) d a b g s
/-- MUL (R76). -/
def execMul (d : BitVec 4) (a b : GSrc) (g : Guard) (s : State) : Out := alu2 (· * ·) d a b g s
/-- MULH (R76). -/
def execMulh (d : BitVec 4) (a b : GSrc) (g : Guard) (s : State) : Out := alu2 mulhRes d a b g s
/-- MULHU (R76). -/
def execMulhu (d : BitVec 4) (a b : GSrc) (g : Guard) (s : State) : Out := alu2 mulhuRes d a b g s
/-- DIV (R77). -/
def execDiv (d : BitVec 4) (a b : GSrc) (g : Guard) (s : State) : Out := alu2Long divRes d a b g s
/-- DIVU (R77). -/
def execDivu (d : BitVec 4) (a b : GSrc) (g : Guard) (s : State) : Out := alu2Long divuRes d a b g s
/-- REM (R77). -/
def execRem (d : BitVec 4) (a b : GSrc) (g : Guard) (s : State) : Out := alu2Long remRes d a b g s
/-- REMU (R77). -/
def execRemu (d : BitVec 4) (a b : GSrc) (g : Guard) (s : State) : Out := alu2Long remuRes d a b g s
/-- AND (R76). -/
def execAnd (d : BitVec 4) (a b : GSrc) (g : Guard) (s : State) : Out := alu2 (· &&& ·) d a b g s
/-- OR (R76). -/
def execOr (d : BitVec 4) (a b : GSrc) (g : Guard) (s : State) : Out := alu2 (· ||| ·) d a b g s
/-- XOR (R76). -/
def execXor (d : BitVec 4) (a b : GSrc) (g : Guard) (s : State) : Out := alu2 (· ^^^ ·) d a b g s
/-- ANDN (R76). -/
def execAndn (d : BitVec 4) (a b : GSrc) (g : Guard) (s : State) : Out := alu2 (fun x y => x &&& ~~~ y) d a b g s
/-- ORN (R76). -/
def execOrn (d : BitVec 4) (a b : GSrc) (g : Guard) (s : State) : Out := alu2 (fun x y => x ||| ~~~ y) d a b g s
/-- SHL (R76). -/
def execShl (d : BitVec 4) (a b : GSrc) (g : Guard) (s : State) : Out := alu2 (fun x y => x <<< shamt y) d a b g s
/-- SHR (R76). -/
def execShr (d : BitVec 4) (a b : GSrc) (g : Guard) (s : State) : Out := alu2 (fun x y => x >>> shamt y) d a b g s
/-- SRA (R76). -/
def execSra (d : BitVec 4) (a b : GSrc) (g : Guard) (s : State) : Out := alu2 (fun x y => x.sshiftRight (shamt y)) d a b g s
/-- ROL (R76). -/
def execRol (d : BitVec 4) (a b : GSrc) (g : Guard) (s : State) : Out := alu2 (fun x y => x.rotateLeft (shamt y)) d a b g s
/-- ROR (R76). -/
def execRor (d : BitVec 4) (a b : GSrc) (g : Guard) (s : State) : Out := alu2 (fun x y => x.rotateRight (shamt y)) d a b g s
/-- MIN (R76). -/
def execMin (d : BitVec 4) (a b : GSrc) (g : Guard) (s : State) : Out := alu2 minRes d a b g s
/-- MAX (R76). -/
def execMax (d : BitVec 4) (a b : GSrc) (g : Guard) (s : State) : Out := alu2 maxRes d a b g s
/-- MINU (R76). -/
def execMinu (d : BitVec 4) (a b : GSrc) (g : Guard) (s : State) : Out := alu2 minuRes d a b g s
/-- MAXU (R76). -/
def execMaxu (d : BitVec 4) (a b : GSrc) (g : Guard) (s : State) : Out := alu2 maxuRes d a b g s
/-- LEA1 (R76). -/
def execLea1 (d : BitVec 4) (a b : GSrc) (g : Guard) (s : State) : Out := alu2 (fun x y => x + 2 * y) d a b g s
/-- LEA2 (R76). -/
def execLea2 (d : BitVec 4) (a b : GSrc) (g : Guard) (s : State) : Out := alu2 (fun x y => x + 4 * y) d a b g s
/-- LEA3 (R76). -/
def execLea3 (d : BitVec 4) (a b : GSrc) (g : Guard) (s : State) : Out := alu2 (fun x y => x + 8 * y) d a b g s

/-! ### Major 0x02 -/

/-- CLZ (R78). -/
def execClz (d : BitVec 4) (a : GSrc) (g : Guard) (s : State) : Out := alu1 clzRes d a g s
/-- CTZ (R78). -/
def execCtz (d : BitVec 4) (a : GSrc) (g : Guard) (s : State) : Out := alu1 ctzRes d a g s
/-- POPC (R78). -/
def execPopc (d : BitVec 4) (a : GSrc) (g : Guard) (s : State) : Out := alu1 popcRes d a g s
/-- BREV (R78). -/
def execBrev (d : BitVec 4) (a : GSrc) (g : Guard) (s : State) : Out := alu1 brevRes d a g s
/-- BSWAP (R78). -/
def execBswap (d : BitVec 4) (a : GSrc) (g : Guard) (s : State) : Out := alu1 bswapRes d a g s
/-- SEXTB (R78). -/
def execSextb (d : BitVec 4) (a : GSrc) (g : Guard) (s : State) : Out := alu1 (sextLow · 8) d a g s
/-- SEXTH (R78). -/
def execSexth (d : BitVec 4) (a : GSrc) (g : Guard) (s : State) : Out := alu1 (sextLow · 16) d a g s
/-- SEXTW (R78). -/
def execSextw (d : BitVec 4) (a : GSrc) (g : Guard) (s : State) : Out := alu1 (sextLow · 32) d a g s
/-- ZEXTB (R78). -/
def execZextb (d : BitVec 4) (a : GSrc) (g : Guard) (s : State) : Out := alu1 (· &&& 0xFF) d a g s
/-- ZEXTH (R78). -/
def execZexth (d : BitVec 4) (a : GSrc) (g : Guard) (s : State) : Out := alu1 (· &&& 0xFFFF) d a g s
/-- ZEXTW (R78). -/
def execZextw (d : BitVec 4) (a : GSrc) (g : Guard) (s : State) : Out := alu1 (· &&& 0xFFFFFFFF) d a g s
/-- ABS (R78). -/
def execAbs (d : BitVec 4) (a : GSrc) (g : Guard) (s : State) : Out := alu1 absRes d a g s
/-- NEG (R78). -/
def execNeg (d : BitVec 4) (a : GSrc) (g : Guard) (s : State) : Out := alu1 (- ·) d a g s
/-- NOT (R78). -/
def execNot (d : BitVec 4) (a : GSrc) (g : Guard) (s : State) : Out := alu1 (~~~ ·) d a g s

/-! ### Bit fields and immediates -/

/-- EXT (R79). -/
def execExt (d : BitVec 4) (a : GSrc) (p : BitVec 6) (l : BitVec 5) (g : Guard) (s : State) : Out := alu1 (extRes p l) d a g s
/-- EXTU (R79). -/
def execExtu (d : BitVec 4) (a : GSrc) (p : BitVec 6) (l : BitVec 5) (g : Guard) (s : State) : Out := alu1 (extuRes p l) d a g s
/-- INS (R79). -/
def execIns (d : BitVec 4) (a : GSrc) (p : BitVec 6) (l : BitVec 5) (g : Guard) (s : State) : Out := aluRmw (insRes p l) d a g s
/-- ADDI (R80). -/
def execAddi (d : BitVec 4) (a : GSrc) (i : BitVec 11) (g : Guard) (s : State) : Out := alu1 (· + simm i) d a g s
/-- ANDI (R80). -/
def execAndi (d : BitVec 4) (a : GSrc) (i : BitVec 11) (g : Guard) (s : State) : Out := alu1 (· &&& simm i) d a g s
/-- ORI (R80). -/
def execOri (d : BitVec 4) (a : GSrc) (i : BitVec 11) (g : Guard) (s : State) : Out := alu1 (· ||| simm i) d a g s
/-- XORI (R80). -/
def execXori (d : BitVec 4) (a : GSrc) (i : BitVec 11) (g : Guard) (s : State) : Out := alu1 (· ^^^ simm i) d a g s
/-- SHLI (R80). -/
def execShli (d : BitVec 4) (a : GSrc) (n : BitVec 6) (g : Guard) (s : State) : Out := alu1 (· <<< n.toNat) d a g s
/-- SHRI (R80). -/
def execShri (d : BitVec 4) (a : GSrc) (n : BitVec 6) (g : Guard) (s : State) : Out := alu1 (· >>> n.toNat) d a g s
/-- SRAI (R80). -/
def execSrai (d : BitVec 4) (a : GSrc) (n : BitVec 6) (g : Guard) (s : State) : Out := alu1 (fun x => x.sshiftRight n.toNat) d a g s
/-- MULI (R80). -/
def execMuli (d : BitVec 4) (a : GSrc) (i : BitVec 11) (g : Guard) (s : State) : Out := alu1 (· * simm i) d a g s
/-- LI (R81). -/
def execLi (d : BitVec 4) (g : Guard) (imm : BitVec 32) (s : State) : Out := aluLong false (fun _ => simm imm) d g s
/-- LIU (R81). -/
def execLiu (d : BitVec 4) (g : Guard) (imm : BitVec 32) (s : State) : Out := aluLong false (fun _ => uimm imm) d g s
/-- LIH (R81). -/
def execLih (d : BitVec 4) (g : Guard) (imm : BitVec 32) (s : State) : Out :=
  aluLong true (fun old => (uimm imm <<< 32) ||| (old &&& 0xFFFFFFFF)) d g s
/-- ADDL (R81). -/
def execAddl (d : BitVec 4) (g : Guard) (imm : BitVec 32) (s : State) : Out := aluLong true (· + simm imm) d g s

/-! ### Compares and predicates -/

/-- CMPEQ (R82). -/
def execCmpeq (q : BitVec 4) (a b : GSrc) (g : Guard) (s : State) : Out := compare .eq q a b g s
/-- CMPNE (R82). -/
def execCmpne (q : BitVec 4) (a b : GSrc) (g : Guard) (s : State) : Out := compare .ne q a b g s
/-- CMPLT (R82). -/
def execCmplt (q : BitVec 4) (a b : GSrc) (g : Guard) (s : State) : Out := compare .lt q a b g s
/-- CMPLE (R82). -/
def execCmple (q : BitVec 4) (a b : GSrc) (g : Guard) (s : State) : Out := compare .le q a b g s
/-- CMPLTU (R82). -/
def execCmpltu (q : BitVec 4) (a b : GSrc) (g : Guard) (s : State) : Out := compare .ltu q a b g s
/-- CMPLEU (R82). -/
def execCmpleu (q : BitVec 4) (a b : GSrc) (g : Guard) (s : State) : Out := compare .leu q a b g s
/-- TSTZ (R82). -/
def execTstz (q : BitVec 4) (a b : GSrc) (g : Guard) (s : State) : Out := compare .tz q a b g s
/-- TSTNZ (R82). -/
def execTstnz (q : BitVec 4) (a b : GSrc) (g : Guard) (s : State) : Out := compare .tnz q a b g s
/-- CMPEQI (R83). -/
def execCmpeqi (q : BitVec 4) (a : GSrc) (i : BitVec 8) (g : Guard) (s : State) : Out := compareImm .eq q a i g s
/-- CMPNEI (R83). -/
def execCmpnei (q : BitVec 4) (a : GSrc) (i : BitVec 8) (g : Guard) (s : State) : Out := compareImm .ne q a i g s
/-- CMPLTI (R83). -/
def execCmplti (q : BitVec 4) (a : GSrc) (i : BitVec 8) (g : Guard) (s : State) : Out := compareImm .lt q a i g s
/-- CMPLEI (R83). -/
def execCmplei (q : BitVec 4) (a : GSrc) (i : BitVec 8) (g : Guard) (s : State) : Out := compareImm .le q a i g s
/-- CMPLTUI (R83). -/
def execCmpltui (q : BitVec 4) (a : GSrc) (i : BitVec 8) (g : Guard) (s : State) : Out := compareImm .ltu q a i g s
/-- CMPLEUI (R83). -/
def execCmpleui (q : BitVec 4) (a : GSrc) (i : BitVec 8) (g : Guard) (s : State) : Out := compareImm .leu q a i g s
/-- CMPGTI (R83). -/
def execCmpgti (q : BitVec 4) (a : GSrc) (i : BitVec 8) (g : Guard) (s : State) : Out := compareImm .gt q a i g s
/-- CMPGTUI (R83). -/
def execCmpgtui (q : BitVec 4) (a : GSrc) (i : BitVec 8) (g : Guard) (s : State) : Out := compareImm .gtu q a i g s
/-- QAND (R85). -/
def execQand (q a b : BitVec 4) (g : Guard) (s : State) : Out := combine .and q a b g s
/-- QOR (R85). -/
def execQor (q a b : BitVec 4) (g : Guard) (s : State) : Out := combine .or q a b g s
/-- QXOR (R85). -/
def execQxor (q a b : BitVec 4) (g : Guard) (s : State) : Out := combine .xor q a b g s
/-- QANDN (R85). -/
def execQandn (q a b : BitVec 4) (g : Guard) (s : State) : Out := combine .andn q a b g s
/-- QMOVG (R85): not deferred. -/
def execQmovg (q : BitVec 4) (a : GSrc) (g : Guard) (s : State) : Out :=
  .next (simple g [srcG a] [.q q] (fun t => t.wQ q (t.src a ≠ 0)) s)

/-- The predicate word of GETQ (R86). -/
def getqRes (t : Thread) : W64 :=
  BitVec.ofNat 64 ((List.range 16).foldl
    (fun acc i =>
      let q := BitVec.ofNat 4 i
      if t.full (.q q) then acc + 2 ^ (16 + i) + (if t.rQ q then 2 ^ i else 0) else acc) 0)
/-- The predicate registers. -/
def allQ : List (BitVec 4) := (List.range 16).map (BitVec.ofNat 4)

/-- GETQ (R86): never blocks on a predicate; a poisoned one that it reads takes POISON (R313). -/
def execGetq (d : BitVec 4) (g : Guard) (s : State) : Out :=
  .next (gatedTrap 1 g false [] (destG d)
    (fun s =>
      match allQ.find? fun q => s.me.full (.q q) && s.me.bad (.q q) with
      | some q => trap (poisonRead (srcQ q)) s
      | none => retire 1 false (s.begin.modMe fun t => t.wG d (getqRes t))) s)
/-- SETQ (R86): waits until Q1 to Q15 are full. -/
def execSetq (a : GSrc) (g : Guard) (s : State) : Out :=
  .next (simple g [srcG a] ((List.range 15).map fun i => .q (BitVec.ofNat 4 (i + 1)))
    (fun t => (List.range 15).foldl (fun t' i => t'.wQ (BitVec.ofNat 4 (i + 1)) ((t.src a).getLsbD (i + 1))) t) s)
/-- SEL (R87). DESIGN CHOICE: its operand Qn stands after Gb in the order of the sources (log 150). -/
def execSel (d : BitVec 4) (a b : GSrc) (q : BitVec 4) (g : Guard) (s : State) : Out :=
  .next (simple g [srcG a, srcG b, srcQ q] (destG d) (fun t => t.wG d (if t.rQ q then t.src a else t.src b)) s)

end Sys2Proof.Machine
end

