-- ==== Sys2Proof/Machine/Dispatch.lean ====
section
/-!
DEFINITION. The meaning of every row of the table of operations and events: one arm per constructor, each a direct call
of that row's own meaning.
-/

namespace Sys2Proof.Machine

def exec (i : Instr) (s : State) : Host.Outcome State Fault Refusal :=
  match i with
  | .add d a b g => Sys2Proof.Machine.execAdd d a b g s
  | .sub d a b g => Sys2Proof.Machine.execSub d a b g s
  | .mul d a b g => Sys2Proof.Machine.execMul d a b g s
  | .mulh d a b g => Sys2Proof.Machine.execMulh d a b g s
  | .mulhu d a b g => Sys2Proof.Machine.execMulhu d a b g s
  | .div d a b g => Sys2Proof.Machine.execDiv d a b g s
  | .divu d a b g => Sys2Proof.Machine.execDivu d a b g s
  | .rem d a b g => Sys2Proof.Machine.execRem d a b g s
  | .remu d a b g => Sys2Proof.Machine.execRemu d a b g s
  | .and d a b g => Sys2Proof.Machine.execAnd d a b g s
  | .or d a b g => Sys2Proof.Machine.execOr d a b g s
  | .xor d a b g => Sys2Proof.Machine.execXor d a b g s
  | .andn d a b g => Sys2Proof.Machine.execAndn d a b g s
  | .orn d a b g => Sys2Proof.Machine.execOrn d a b g s
  | .shl d a b g => Sys2Proof.Machine.execShl d a b g s
  | .shr d a b g => Sys2Proof.Machine.execShr d a b g s
  | .sra d a b g => Sys2Proof.Machine.execSra d a b g s
  | .rol d a b g => Sys2Proof.Machine.execRol d a b g s
  | .ror d a b g => Sys2Proof.Machine.execRor d a b g s
  | .min d a b g => Sys2Proof.Machine.execMin d a b g s
  | .max d a b g => Sys2Proof.Machine.execMax d a b g s
  | .minu d a b g => Sys2Proof.Machine.execMinu d a b g s
  | .maxu d a b g => Sys2Proof.Machine.execMaxu d a b g s
  | .lea1 d a b g => Sys2Proof.Machine.execLea1 d a b g s
  | .lea2 d a b g => Sys2Proof.Machine.execLea2 d a b g s
  | .lea3 d a b g => Sys2Proof.Machine.execLea3 d a b g s
  | .clz d a g => Sys2Proof.Machine.execClz d a g s
  | .ctz d a g => Sys2Proof.Machine.execCtz d a g s
  | .popc d a g => Sys2Proof.Machine.execPopc d a g s
  | .brev d a g => Sys2Proof.Machine.execBrev d a g s
  | .bswap d a g => Sys2Proof.Machine.execBswap d a g s
  | .sextb d a g => Sys2Proof.Machine.execSextb d a g s
  | .sexth d a g => Sys2Proof.Machine.execSexth d a g s
  | .sextw d a g => Sys2Proof.Machine.execSextw d a g s
  | .zextb d a g => Sys2Proof.Machine.execZextb d a g s
  | .zexth d a g => Sys2Proof.Machine.execZexth d a g s
  | .zextw d a g => Sys2Proof.Machine.execZextw d a g s
  | .abs d a g => Sys2Proof.Machine.execAbs d a g s
  | .neg d a g => Sys2Proof.Machine.execNeg d a g s
  | .not d a g => Sys2Proof.Machine.execNot d a g s
  | .ext d a p l g => Sys2Proof.Machine.execExt d a p l g s
  | .extu d a p l g => Sys2Proof.Machine.execExtu d a p l g s
  | .ins d a p l g => Sys2Proof.Machine.execIns d a p l g s
  | .addi d a ix g => Sys2Proof.Machine.execAddi d a ix g s
  | .andi d a ix g => Sys2Proof.Machine.execAndi d a ix g s
  | .ori d a ix g => Sys2Proof.Machine.execOri d a ix g s
  | .xori d a ix g => Sys2Proof.Machine.execXori d a ix g s
  | .shli d a sl g => Sys2Proof.Machine.execShli d a sl g s
  | .shri d a sl g => Sys2Proof.Machine.execShri d a sl g s
  | .srai d a sl g => Sys2Proof.Machine.execSrai d a sl g s
  | .muli d a ix g => Sys2Proof.Machine.execMuli d a ix g s
  | .li d g imm => Sys2Proof.Machine.execLi d g imm s
  | .liu d g imm => Sys2Proof.Machine.execLiu d g imm s
  | .lih d g imm => Sys2Proof.Machine.execLih d g imm s
  | .addl d g imm => Sys2Proof.Machine.execAddl d g imm s
  | .cmpeq d a b g => Sys2Proof.Machine.execCmpeq d a b g s
  | .cmpne d a b g => Sys2Proof.Machine.execCmpne d a b g s
  | .cmplt d a b g => Sys2Proof.Machine.execCmplt d a b g s
  | .cmple d a b g => Sys2Proof.Machine.execCmple d a b g s
  | .cmpltu d a b g => Sys2Proof.Machine.execCmpltu d a b g s
  | .cmpleu d a b g => Sys2Proof.Machine.execCmpleu d a b g s
  | .tstz d a b g => Sys2Proof.Machine.execTstz d a b g s
  | .tstnz d a b g => Sys2Proof.Machine.execTstnz d a b g s
  | .cmpeqi d a ix g => Sys2Proof.Machine.execCmpeqi d a ix g s
  | .cmpnei d a ix g => Sys2Proof.Machine.execCmpnei d a ix g s
  | .cmplti d a ix g => Sys2Proof.Machine.execCmplti d a ix g s
  | .cmplei d a ix g => Sys2Proof.Machine.execCmplei d a ix g s
  | .cmpltui d a ix g => Sys2Proof.Machine.execCmpltui d a ix g s
  | .cmpleui d a ix g => Sys2Proof.Machine.execCmpleui d a ix g s
  | .cmpgti d a ix g => Sys2Proof.Machine.execCmpgti d a ix g s
  | .cmpgtui d a ix g => Sys2Proof.Machine.execCmpgtui d a ix g s
  | .qand d a b g => Sys2Proof.Machine.execQand d a b g s
  | .qor d a b g => Sys2Proof.Machine.execQor d a b g s
  | .qxor d a b g => Sys2Proof.Machine.execQxor d a b g s
  | .qandn d a b g => Sys2Proof.Machine.execQandn d a b g s
  | .qmovg d a g => Sys2Proof.Machine.execQmovg d a g s
  | .getq d g => Sys2Proof.Machine.execGetq d g s
  | .setq a g => Sys2Proof.Machine.execSetq a g s
  | .sel d a b q g => Sys2Proof.Machine.execSel d a b q g s
  | .br o g => Sys2Proof.Machine.execBr o g s
  | .call o g => Sys2Proof.Machine.execCall o g s
  | .jmp a g => Sys2Proof.Machine.execJmp a g s
  | .jcall d a g => Sys2Proof.Machine.execJcall d a g s
  | .ret a g => Sys2Proof.Machine.execRet a g s
  | .exit g => Sys2Proof.Machine.execExit g s
  | .trap ix g => Sys2Proof.Machine.execTrap ix g s
  | .rft g => Sys2Proof.Machine.execRft g s
  | .sys a b g => Sys2Proof.Machine.execSys a b g s
  | .brk g => Sys2Proof.Machine.execBrk g s
  | .tlbi a b g => Sys2Proof.Machine.execTlbi a b g s
  | .srd d n g => Sys2Proof.Machine.execSrd d n g s
  | .swr a n g => Sys2Proof.Machine.execSwr a n g s
  | .fork a o g => Sys2Proof.Machine.execFork a o g s
  | .jinit a g => Sys2Proof.Machine.execJinit a g s
  | .join a g => Sys2Proof.Machine.execJoin a g s
  | .waitf a b q g => Sys2Proof.Machine.execWaitf a b q g s
  | .waitm d a b q g => Sys2Proof.Machine.execWaitm d a b q g s
  | .waitt a b q g => Sys2Proof.Machine.execWaitt a b q g s
  | .waitid a b q g => Sys2Proof.Machine.execWaitid a b q g s
  | .bar j b q g => Sys2Proof.Machine.execBar j b q g s
  | .recvw d a b q g => Sys2Proof.Machine.execRecvw d a b q g s
  | .llock d a b q g => Sys2Proof.Machine.execLlock d a b q g s
  | .lrange d a b q g => Sys2Proof.Machine.execLrange d a b q g s
  | .lgroup d a b q g => Sys2Proof.Machine.execLgroup d a b q g s
  | .lpath d a b q g => Sys2Proof.Machine.execLpath d a b q g s
  | .lctx d a b q g => Sys2Proof.Machine.execLctx d a b q g s
  | .rnw d a b g => Sys2Proof.Machine.execRnw d a b g s
  | .life d a g => Sys2Proof.Machine.execLife d a g s
  | .linfo d a b g => Sys2Proof.Machine.execLinfo d a b g s
  | .gjoin j a g => Sys2Proof.Machine.execGjoin j a g s
  | .bind d a b g => Sys2Proof.Machine.execBind d a b g s
  | .ld d a z x o g => Sys2Proof.Machine.execLd d a z x o g s
  | .st d a z o g => Sys2Proof.Machine.execSt d a z o g s
  | .ldsw d a b q g => Sys2Proof.Machine.execLdsw d a b q g s
  | .ldsd d a b q g => Sys2Proof.Machine.execLdsd d a b q g s
  | .ldcw d a b q g => Sys2Proof.Machine.execLdcw d a b q g s
  | .ldcd d a b q g => Sys2Proof.Machine.execLdcd d a b q g s
  | .stfw a b g => Sys2Proof.Machine.execStfw a b g s
  | .stfd a b g => Sys2Proof.Machine.execStfd a b g s
  | .sete a g => Sys2Proof.Machine.execSete a g s
  | .setf a g => Sys2Proof.Machine.execSetf a g s
  | .aadd d a b z g => Sys2Proof.Machine.execAadd d a b z g s
  | .aand d a b z g => Sys2Proof.Machine.execAand d a b z g s
  | .aor d a b z g => Sys2Proof.Machine.execAor d a b z g s
  | .axor d a b z g => Sys2Proof.Machine.execAxor d a b z g s
  | .amin d a b z g => Sys2Proof.Machine.execAmin d a b z g s
  | .amax d a b z g => Sys2Proof.Machine.execAmax d a b z g s
  | .aminu d a b z g => Sys2Proof.Machine.execAminu d a b z g s
  | .amaxu d a b z g => Sys2Proof.Machine.execAmaxu d a b z g s
  | .axchg d a b z g => Sys2Proof.Machine.execAxchg d a b z g s
  | .acas d a b z g => Sys2Proof.Machine.execAcas d a b z g s
  | .redadd a b z g => Sys2Proof.Machine.execRedadd a b z g s
  | .redand a b z g => Sys2Proof.Machine.execRedand a b z g s
  | .redor a b z g => Sys2Proof.Machine.execRedor a b z g s
  | .redxor a b z g => Sys2Proof.Machine.execRedxor a b z g s
  | .redmin a b z g => Sys2Proof.Machine.execRedmin a b z g s
  | .redmax a b z g => Sys2Proof.Machine.execRedmax a b z g s
  | .redminu a b z g => Sys2Proof.Machine.execRedminu a b z g s
  | .redmaxu a b z g => Sys2Proof.Machine.execRedmaxu a b z g s
  | .stflw d a b g => Sys2Proof.Machine.execStflw d a b g s
  | .stfld d a b g => Sys2Proof.Machine.execStfld d a b g s
  | .fence sl g => Sys2Proof.Machine.execFence sl g s
  | .fencesc sl g => Sys2Proof.Machine.execFencesc sl g s
  | .rel a sl g => Sys2Proof.Machine.execRel a sl g s
  | .vadd v a b m e t => Sys2Proof.Machine.execVadd v a b m e t s
  | .vsub v a b m e t => Sys2Proof.Machine.execVsub v a b m e t s
  | .vmul v a b m e t => Sys2Proof.Machine.execVmul v a b m e t s
  | .vmin v a b m e t => Sys2Proof.Machine.execVmin v a b m e t s
  | .vmax v a b m e t => Sys2Proof.Machine.execVmax v a b m e t s
  | .vabs v a m e t => Sys2Proof.Machine.execVabs v a m e t s
  | .vneg v a m e t => Sys2Proof.Machine.execVneg v a m e t s
  | .vand v a b m e t => Sys2Proof.Machine.execVand v a b m e t s
  | .vor v a b m e t => Sys2Proof.Machine.execVor v a b m e t s
  | .vxor v a b m e t => Sys2Proof.Machine.execVxor v a b m e t s
  | .vandn v a b m e t => Sys2Proof.Machine.execVandn v a b m e t s
  | .vshl v a b m e => Sys2Proof.Machine.execVshl v a b m e s
  | .vshr v a b m e => Sys2Proof.Machine.execVshr v a b m e s
  | .vsra v a b m e => Sys2Proof.Machine.execVsra v a b m e s
  | .vmov v a m e t => Sys2Proof.Machine.execVmov v a m e t s
  | .vsel v a b m e t => Sys2Proof.Machine.execVsel v a b m e t s
  | .vcmpeq k a b m e t => Sys2Proof.Machine.execVcmpeq k a b m e t s
  | .vcmpne k a b m e t => Sys2Proof.Machine.execVcmpne k a b m e t s
  | .vcmplt k a b m e t => Sys2Proof.Machine.execVcmplt k a b m e t s
  | .vcmple k a b m e t => Sys2Proof.Machine.execVcmple k a b m e t s
  | .vfma v a b c m e t => Sys2Proof.Machine.execVfma v a b c m e t s
  | .vfms v a b c m e t => Sys2Proof.Machine.execVfms v a b c m e t s
  | .vadds v a b m e t => Sys2Proof.Machine.execVadds v a b m e t s
  | .vsubs v a b m e t => Sys2Proof.Machine.execVsubs v a b m e t s
  | .vmuls v a b m e t => Sys2Proof.Machine.execVmuls v a b m e t s
  | .vmins v a b m e t => Sys2Proof.Machine.execVmins v a b m e t s
  | .vmaxs v a b m e t => Sys2Proof.Machine.execVmaxs v a b m e t s
  | .vshls v a b m e => Sys2Proof.Machine.execVshls v a b m e s
  | .vshrs v a b m e => Sys2Proof.Machine.execVshrs v a b m e s
  | .vsras v a b m e => Sys2Proof.Machine.execVsras v a b m e s
  | .vcmpeqs k a b m e t => Sys2Proof.Machine.execVcmpeqs k a b m e t s
  | .vcmplts k a b m e t => Sys2Proof.Machine.execVcmplts k a b m e t s
  | .vbcast v b m e t => Sys2Proof.Machine.execVbcast v b m e t s
  | .vrcp v a m e t => Sys2Proof.Machine.execVrcp v a m e t s
  | .vrsq v a m e t => Sys2Proof.Machine.execVrsq v a m e t s
  | .vsqrt v a m e t => Sys2Proof.Machine.execVsqrt v a m e t s
  | .vexp2 v a m e t => Sys2Proof.Machine.execVexp2 v a m e t s
  | .vlog2 v a m e t => Sys2Proof.Machine.execVlog2 v a m e t s
  | .vcvt v a c m e t => Sys2Proof.Machine.execVcvt v a c m e t s
  | .vpack v a c e => Sys2Proof.Machine.execVpack v a c e s
  | .vunpk v a c e => Sys2Proof.Machine.execVunpk v a c e s
  | .vscale v a b m e t => Sys2Proof.Machine.execVscale v a b m e t s
  | .vred v a o m e t => Sys2Proof.Machine.execVred v a o m e t s
  | .vscan v a o m e t => Sys2Proof.Machine.execVscan v a o m e t s
  | .vperm v a b m e t => Sys2Proof.Machine.execVperm v a b m e t s
  | .vextr d a b e t => Sys2Proof.Machine.execVextr d a b e t s
  | .vins v a b m t => Sys2Proof.Machine.execVins v a b m t s
  | .vrot v a b m e t => Sys2Proof.Machine.execVrot v a b m e t s
  | .mand k a b e => Sys2Proof.Machine.execMand k a b e s
  | .mor k a b e => Sys2Proof.Machine.execMor k a b e s
  | .mxor k a b e => Sys2Proof.Machine.execMxor k a b e s
  | .mandn k a b e => Sys2Proof.Machine.execMandn k a b e s
  | .mnot k a e => Sys2Proof.Machine.execMnot k a e s
  | .mpopc d a e => Sys2Proof.Machine.execMpopc d a e s
  | .mfirst d a e => Sys2Proof.Machine.execMfirst d a e s
  | .mset k a => Sys2Proof.Machine.execMset k a s
  | .vld v a o m e => Sys2Proof.Machine.execVld v a o m e s
  | .vst v a o m e => Sys2Proof.Machine.execVst v a o m e s
  | .vldt v a b m e => Sys2Proof.Machine.execVldt v a b m e s
  | .vstt v a b m e => Sys2Proof.Machine.execVstt v a b m e s
  | .vldx v a b m e => Sys2Proof.Machine.execVldx v a b m e s
  | .vstx v a b m e => Sys2Proof.Machine.execVstx v a b m e s
  | .vstfl v a b m e => Sys2Proof.Machine.execVstfl v a b m e s
  | .mma d a b w g => Sys2Proof.Machine.execMma d a b w g s
  | .mwld d w g => Sys2Proof.Machine.execMwld d w g s
  | .mzero d w g => Sys2Proof.Machine.execMzero d w g s
  | .mdrain d a b w g => Sys2Proof.Machine.execMdrain d a b w g s
  | .magr d a b w g => Sys2Proof.Machine.execMagr d a b w g s
  | .mstat d w g => Sys2Proof.Machine.execMstat d w g s
  | .mtest d w g => Sys2Proof.Machine.execMtest d w g s
  | .cpy d a b w g => Sys2Proof.Machine.execCpy d a b w g s
  | .chain d a b w g => Sys2Proof.Machine.execChain d a b w g s
  | .cstat d w g => Sys2Proof.Machine.execCstat d w g s
  | .send d a b w g => Sys2Proof.Machine.execSend d a b w g s
  | .post d a b w g => Sys2Proof.Machine.execPost d a b w g s
  | .rring d a b w g => Sys2Proof.Machine.execRring d a b w g s
  | .rprobe d a b w g => Sys2Proof.Machine.execRprobe d a b w g s
  | .launch d a b w g => Sys2Proof.Machine.execLaunch d a b w g s
  | .lstat d a w g => Sys2Proof.Machine.execLstat d a w g s
  | .preempt d a w g => Sys2Proof.Machine.execPreempt d a w g s
  | .signal d a w g => Sys2Proof.Machine.execSignal d a w g s
  | .moduleReset n => Sys2Proof.Machine.execModuleReset n s
  | .tickBoundary n => Sys2Proof.Machine.execTickBoundary n s
  | .leaseLapse h ix => Sys2Proof.Machine.execLeaseLapse h ix s
  | .smokeEnd h ix => Sys2Proof.Machine.execSmokeEnd h ix s
  | .rangeZeroing h ix => Sys2Proof.Machine.execRangeZeroing h ix s
  | .leaseEntryError h ix => Sys2Proof.Machine.execLeaseEntryError h ix s
  | .emptyTimeout t => Sys2Proof.Machine.execEmptyTimeout t s
  | .resultFill t p => Sys2Proof.Machine.execResultFill t p s
  | .memoryAccessAccept k => Sys2Proof.Machine.execMemoryAccessAccept k s
  | .waitAccept t ix => Sys2Proof.Machine.execWaitAccept t ix s
  | .waitTimeout t => Sys2Proof.Machine.execWaitTimeout t s
  | .leaseRequestAnswer k ix b => Sys2Proof.Machine.execLeaseRequestAnswer k ix b s
  | .leaseOpAtHome k => Sys2Proof.Machine.execLeaseOpAtHome k s
  | .deferredDelivery t n => Sys2Proof.Machine.execDeferredDelivery t n s
  | .regionRestart t => Sys2Proof.Machine.execRegionRestart t s
  | .threadStop t => Sys2Proof.Machine.execThreadStop t s
  | .heldFaultRecordWrite c sl => Sys2Proof.Machine.execHeldFaultRecordWrite c sl s
  | .slotRelease t => Sys2Proof.Machine.execSlotRelease t s
  | .teamPlace c ix stk => Sys2Proof.Machine.execTeamPlace c ix stk s
  | .teamEnd c n => Sys2Proof.Machine.execTeamEnd c n s
  | .forkRecordStart c stk => Sys2Proof.Machine.execForkRecordStart c stk s
  | .joinOutcomeApply t => Sys2Proof.Machine.execJoinOutcomeApply t s
  | .translationWalk k old => Sys2Proof.Machine.execTranslationWalk k old s
  | .faultRingRetry k => Sys2Proof.Machine.execFaultRingRetry k s
  | .faultReply t => Sys2Proof.Machine.execFaultReply t s
  | .tlbiAck k c => Sys2Proof.Machine.execTlbiAck k c s
  | .fencescDrainEnd t => Sys2Proof.Machine.execFencescDrainEnd t s
  | .relDrainEnd t => Sys2Proof.Machine.execRelDrainEnd t s
  | .bankFailure c b => Sys2Proof.Machine.execBankFailure c b s
  | .bankRebuildDone c => Sys2Proof.Machine.execBankRebuildDone c s
  | .patrolScrubError u => Sys2Proof.Machine.execPatrolScrubError u s
  | .engineGuardResolve c q sl => Sys2Proof.Machine.execEngineGuardResolve c q sl s
  | .cpyStart c => Sys2Proof.Machine.execCpyStart c s
  | .cpyComplete j => Sys2Proof.Machine.execCpyComplete j s
  | .chainRecordStep c n => Sys2Proof.Machine.execChainRecordStep c n s
  | .cstatStart c => Sys2Proof.Machine.execCstatStart c s
  | .rringStart c ep => Sys2Proof.Machine.execRringStart c ep s
  | .postStart c ix => Sys2Proof.Machine.execPostStart c ix s
  | .sendStart c => Sys2Proof.Machine.execSendStart c s
  | .messageDecision j => Sys2Proof.Machine.execMessageDecision j s
  | .ringOfferRetry j => Sys2Proof.Machine.execRingOfferRetry j s
  | .ringFullTimeout j => Sys2Proof.Machine.execRingFullTimeout j s
  | .ringHeadStore h ep => Sys2Proof.Machine.execRingHeadStore h ep s
  | .tailUpdate j => Sys2Proof.Machine.execTailUpdate j s
  | .landingComplete j => Sys2Proof.Machine.execLandingComplete j s
  | .sendComplete j => Sys2Proof.Machine.execSendComplete j s
  | .rprobeStart c => Sys2Proof.Machine.execRprobeStart c s
  | .stflFlagRaise k => Sys2Proof.Machine.execStflFlagRaise k s
  | .vstflFlagRaise k => Sys2Proof.Machine.execVstflFlagRaise k s
  | .matrixContextScrub c => Sys2Proof.Machine.execMatrixContextScrub c s
  | .gangArrival c => Sys2Proof.Machine.execGangArrival c s
  | .gangBarrierTimeout c => Sys2Proof.Machine.execGangBarrierTimeout c s
  | .mmaStart c => Sys2Proof.Machine.execMmaStart c s
  | .mmaComplete c => Sys2Proof.Machine.execMmaComplete c s
  | .mwldStart c => Sys2Proof.Machine.execMwldStart c s
  | .mwldComplete c => Sys2Proof.Machine.execMwldComplete c s
  | .mzeroStart c => Sys2Proof.Machine.execMzeroStart c s
  | .mdrainStart c => Sys2Proof.Machine.execMdrainStart c s
  | .mdrainComplete c => Sys2Proof.Machine.execMdrainComplete c s
  | .magrStart c => Sys2Proof.Machine.execMagrStart c s
  | .mstatStart c => Sys2Proof.Machine.execMstatStart c s
  | .mtestStart c => Sys2Proof.Machine.execMtestStart c s
  | .mtestComplete c bad => Sys2Proof.Machine.execMtestComplete c bad s
  | .selfTest c bad => Sys2Proof.Machine.execSelfTest c bad s
  | .preemptStart c => Sys2Proof.Machine.execPreemptStart c s
  | .preemptDrainFallback t => Sys2Proof.Machine.execPreemptDrainFallback t s
  | .preemptComplete c n => Sys2Proof.Machine.execPreemptComplete c n s
  | .signalStart c => Sys2Proof.Machine.execSignalStart c s
  | .resumePlace c n => Sys2Proof.Machine.execResumePlace c n s
  | .resumeDeadline c n => Sys2Proof.Machine.execResumeDeadline c n s
  | .launchStart c => Sys2Proof.Machine.execLaunchStart c s
  | .launchAck r gid n => Sys2Proof.Machine.execLaunchAck r gid n s
  | .launchAckDeadline r gid => Sys2Proof.Machine.execLaunchAckDeadline r gid s
  | .rangeRequest r gid h n => Sys2Proof.Machine.execRangeRequest r gid h n s
  | .dealRecord r gid h => Sys2Proof.Machine.execDealRecord r gid h s
  | .staticDeal r gid slot => Sys2Proof.Machine.execStaticDeal r gid slot s
  | .blockClassReport n k => Sys2Proof.Machine.execBlockClassReport n k s
  | .gridEnd r gid => Sys2Proof.Machine.execGridEnd r gid s
  | .gridEntryFree r gid => Sys2Proof.Machine.execGridEntryFree r gid s
  | .lstatStart c => Sys2Proof.Machine.execLstatStart c s
  | .cancelNotice k => Sys2Proof.Machine.execCancelNotice k s
  | .loadExchange c => Sys2Proof.Machine.execLoadExchange c s
  | .sysRequestPortWrite k => Sys2Proof.Machine.execSysRequestPortWrite k s
  | .hostSubmission n off x => Sys2Proof.Machine.execHostSubmission n off x s
  | .hostMemoryAccess n off w => Sys2Proof.Machine.execHostMemoryAccess n off w s
  | .hostRecordCopy n => Sys2Proof.Machine.execHostRecordCopy n s
  | .hostLaunchRecord n ix => Sys2Proof.Machine.execHostLaunchRecord n ix s
  | .hostCancelRecord n => Sys2Proof.Machine.execHostCancelRecord n s
  | .hostPartitionRecord n => Sys2Proof.Machine.execHostPartitionRecord n s
  | .hackWrite k => Sys2Proof.Machine.execHackWrite k s
  | .firmwareRestart n => Sys2Proof.Machine.execFirmwareRestart n s
  | .bootSelect n => Sys2Proof.Machine.execBootSelect n s
  | .bringupPhase n ok => Sys2Proof.Machine.execBringupPhase n ok s
  | .packageHalt n why => Sys2Proof.Machine.execPackageHalt n why s
  | .linkRetry n sl ok => Sys2Proof.Machine.execLinkRetry n sl ok s
  | .wavelengthRetrainStart n sl w => Sys2Proof.Machine.execWavelengthRetrainStart n sl w s
  | .wavelengthRetrainEnd n sl w ok => Sys2Proof.Machine.execWavelengthRetrainEnd n sl w ok s
  | .parkedWake n sl => Sys2Proof.Machine.execParkedWake n sl s
  | .parkAgain n sl => Sys2Proof.Machine.execParkAgain n sl s
  | .scctlWrite k => Sys2Proof.Machine.execScctlWrite k s
  | .strandDeath n sl => Sys2Proof.Machine.execStrandDeath n sl s
  | .linkDeath n p => Sys2Proof.Machine.execLinkDeath n p s
  | .strandUp n sl p => Sys2Proof.Machine.execStrandUp n sl p s
  | .endToEndAck n p part rtt => Sys2Proof.Machine.execEndToEndAck n p part rtt s
  | .capAdmit k => Sys2Proof.Machine.execCapAdmit k s
  | .reconfigDrain ss => Sys2Proof.Machine.execReconfigDrain ss s
  | .reconfigDark n => Sys2Proof.Machine.execReconfigDark n s
  | .reconfigRelock ps => Sys2Proof.Machine.execReconfigRelock ps s
  | .partWrite k => Sys2Proof.Machine.execPartWrite k s
  | .seedWrite k => Sys2Proof.Machine.execSeedWrite k s
  | .agreementWrite k => Sys2Proof.Machine.execAgreementWrite k s
  | .flgAccess t => Sys2Proof.Machine.execFlgAccess t s
  | .registerWrite k => Sys2Proof.Machine.execRegisterWrite k s

end Sys2Proof.Machine
end

