-- ==== Sys2Proof/Machine/Schedule.lean ====
section
/-!
DEFINITION. Which step comes next (log 1): steps that are due at a tick boundary come first (R106), then the acceptances of the
boundary's cycle, timeouts behind them (R47, R140, log 39), then the schedule's further turns, and with an empty schedule the
machine's own order.
-/

namespace Sys2Proof.Machine

/-- A step of some agent. Every meaning is named here directly: no step needs a constructor of `Instr` to be built. -/
abbrev Act := State → Out

/-! ### Steps that are due -/

/-- A lease of a die that lapses, or whose smoke ends, at the boundary just passed (R109, R110). DESIGN CHOICE: of several that are
due at one boundary the lowest index goes first, die by die (log 130). -/
def dueLease (s : State) (h : DieId) : Option Act :=
  (s.die h).leases.findSome? fun e =>
    if lapseDue s h e.1 then some (execLeaseLapse h e.1)
    else if e.2.state = .smoke ∧ e.2.since + Config.smokeTicks ≤ s.taper h.node then some (execSmokeEnd h e.1)
    else none

/-- A link that dies now (R350). -/
def dueLink (s : State) : Option Act :=
  s.group.findSome? fun n =>
    (s.group.find? fun p => linkDown s n p && !(s.pkg n).deadLinks.contains p).map fun p => execLinkDeath n p

/-- The first step that nothing else comes before: what is due at the boundary just passed (R106), then the death of a link
(R350). -/
def dueEvent (s : State) : Option Act := (s.dies.findSome? fun e => dueLease s (dieOfKey e.1)).or (dueLink s)

/-- A thread's EMPTY_TIMEOUT is due (R47, R128): its step would change the state. -/
def emptyLate (s : State) (tid : Tid) : Bool :=
  let t := s.th tid
  let now := s.taper tid.core.node
  decide (t.life = .running) && !translationHeld s tid &&
  match t.hold, t.blocked, t.stillEmpty with
  | .gjoin since id, _, _ => t.etoReached since now && !leaseHeld s tid id
  | _, some b, some w => t.etoReached b.since now && !fabricHeld s tid w.ref
  | _, _, _ => false

/-- What a strand does at a tick boundary (R341, R342): a retraining that has had its time ends, one that is due starts, parked
wavelengths wake or park again. -/
def dueStrand (s : State) (n k : Nat) (x : Strand) : Option Act :=
  let ws := List.range 8
  match ws.find? (retrainLate s n x), ws.find? (retrainDue s n k) with
  | some w, _ => some (execWavelengthRetrainEnd n k w false)
  | none, some w => some (execWavelengthRetrainStart n k w)
  | none, none =>
    if wakeDue x then some (execParkedWake n k) else if parkDue x then some (execParkAgain n k) else none

/-- The first timeout, or other step that a bound in ticks forces, of a package (R47, R140, R269, R276, R323, R331, R341, R342,
R361, R362, R376). -/
def dueTimeout (s : State) (n : Nat) : Option Act :=
  let waits := s.waits.findSome? fun w => if w.node = n ∧ w.due s then some (execWaitTimeout w.tid) else none
  let empties := s.threads.findSome? fun e =>
    let tid := tidOfKey e.1
    if tid.core.node = n ∧ emptyLate s tid then some (execEmptyTimeout tid) else none
  let rings := s.msgs.findSome? fun m =>
    if m.cmd.tid.core.node ≠ n then none
    else if ringLate s m then some (execRingFullTimeout m.id)
    else if mayRetry s m ∧ m.refusedAt + 4 ≤ s.taper n then some (execRingOfferRetry m.id)
    else none
  let gangs := s.clusters.findSome? fun e =>
    if (clusterOfKey e.1).node = n ∧ gangLate s (clusterOfKey e.1) then some (execGangBarrierTimeout (clusterOfKey e.1)) else none
  let resumes := s.preempts.findSome? fun p =>
    if p.cluster.node = n ∧ p.resume ∧ p.deadline ≤ s.taper n then some (execResumeDeadline p.cluster p.team) else none
  let acks := (s.pkg n).grids.findSome? fun e =>
    if e.2.acking ∧ e.2.ackT ≤ s.taper n then some (execLaunchAckDeadline n e.1) else none
  let frees := (s.pkg n).grids.findSome? fun e => if e.2.freeDue (s.taper n) then some (execGridEntryFree n e.1) else none
  let drains := s.preempts.findSome? fun p =>
    if p.cluster.node = n then (p.draining.find? (fallbackDue s p)).map fun d => execPreemptDrainFallback d.1 else none
  let strands := (s.pkg n).strands.findSome? fun e => dueStrand s n e.1 e.2
  let loads := s.cores.findSome? fun e =>
    let c := coreOfKey e.1
    if c.node = n ∧ exchangeDue s c = true ∧ (passTo s c).isSome = true then some (execLoadExchange c) else none
  waits.or (empties.or (rings.or (gangs.or (resumes.or (acks.or (frees.or (drains.or (strands.or loads))))))))

/-- A base for fresh stacks of some threads: the lowest that fits, at the start of a window of their cores or behind a stack
(log 14). -/
def stackPick (s : State) (space : BitVec 16) (tids : List Tid) : Nat :=
  let starts := tids.flatMap fun t => (s.core t.core).spw.toList.map fun w => max 1024 (bits w 21 36 * 2 ^ 21)
  ((starts ++ (stackAreas s space).map fun x => x.1 + x.2).find? (stacksFit s space tids)).getD 0

/-- The top of a fresh stack for the fork record that a core would start. -/
def forkPick (s : State) (c : CoreId) : Nat :=
  match forkTask s c with
  | some (_, _, m, tid) => stackPick s m.space [tid] + 1024
  | none => 0

/-- A core that has a free user slot and can start its own newest fork record does so before anything else happens (R152,
R155). -/
def dueFork (s : State) : Option Act :=
  s.cores.findSome? fun e =>
    let c := coreOfKey e.1
    match forkTask s c with
    | some (o, _, m, tid) =>
      if o = c ∧ stacksFit s m.space [tid] (forkPick s c - 1024) then some (execForkRecordStart c (forkPick s c)) else none
    | none => none

/-- The lowest lease entry of a die that a service core can give out, among those listed and one more (R112). -/
def entryPick (s : State) (h : DieId) : Nat :=
  ((List.range ((s.die h).leases.length + s.waits.length + 2)).find? (entryReady s h)).getD Config.leaseEntries

/-- The space of the team that the head record of an inbox would place. -/
def headSpace (s : State) (c : CoreId) : BitVec 16 :=
  match present s (wordAt ((s.core c).inbox.headD []) 1) with
  | .live _ _ l => (match l.body with | .ctx _ space _ => space | _ => 0)
  | _ => 0

/-- The base of the stacks of the team that a core would place, and its spill areas from the top of each scratchpad down. -/
def teamPick (s : State) (c : CoreId) : TeamChoice :=
  ⟨stackPick s (headSpace s c) ((teamSlots s c (recTeam ((s.core c).inbox.headD []))).getD []),
   (List.range Config.cores).map fun k =>
     (((List.range 126).map fun i => 0x7D000 - 4096 * i).find? fun o => rangeFree s (scratchAt { c with core := k } o) 4096).getD 0⟩

/-- TEAM_PLACE with the machine's own choices. -/
def ownPlace (s : State) (c : CoreId) : Act := execTeamPlace c (entryPick s (dieOf c)) (teamPick s c)

/-- A step of a core changes what its inbox holds. -/
def movesInbox (s : State) (c : CoreId) (e : Act) : Bool :=
  match e s with
  | .next t => decide ((t.core c).inbox ≠ (s.core c).inbox ∨ (t.core c).placed ≠ (s.core c).placed)
  | _ => false

/-- A running core whose inbox begins with a block record that its slot 0 can serve does so at once (R134, R387, log 142). -/
def dueTeam (s : State) : Option Act :=
  s.cores.findSome? fun e =>
    let c := coreOfKey e.1
    match (s.core c).inbox with
    | r :: _ =>
      if recKind r = 0 ∧ (s.core c).halted = false ∧ movesInbox s c (ownPlace s c) = true then some (ownPlace s c) else none
    | [] => none

/-- Events that a tick boundary's own cycle may hold, ahead of its timeouts (R47, R140): acceptances at homes, and fills. -/
def inBoundaryCycle : Instr → Bool
  | .memoryAccessAccept _ | .waitAccept _ _ | .leaseOpAtHome _ | .leaseRequestAnswer _ _ _ | .resultFill _ _
  | .endToEndAck _ _ _ _ | .launchAck _ _ _ | .messageDecision _ | .gangArrival _ => true
  | _ => false

/-! ### The machine's own order -/

/-- A step changes the state. -/
def progress (s : State) (e : Act) : Bool :=
  match e s with
  | .next t => decide (t ≠ s)
  | _ => false

/-- Steps that end what an access in flight waits for. -/
def accSteps (a : Acc) : List Act :=
  [execTranslationWalk a.id true, execFaultRingRetry a.id, execCapAdmit a.id, execMemoryAccessAccept a.id, execSysRequestPortWrite a.id]

/-- The word behind an instruction is its thread's next, and the thread can issue it: results and answers that take more than
4 cycles come later (R6, R74). -/
def fillsLater (t : Thread) (word : Nat) : Bool :=
  decide (t.life = .running ∧ t.blocked = none ∧ t.hold = .none ∧ t.fetch = none ∧ t.block.isSome ∧
    (t.pc.toNat = word + 4 ∨ t.pc.toNat = word + 8) ∧ t.pc.toNat ≤ t.lastWord.toNat)

/-- Slot 0 takes the mask of its core's thread-fault area (R312): SETE on the pending word, then AXCHG.W of 0. It does so by
itself while no program of its own runs in it. DESIGN CHOICE: also from a unit that is poisoned (log 155). -/
def takeFaultMask (c : CoreId) (s : State) : Out :=
  let p := scratchAt c (s.core c).tfrb.toNat
  .next (if (s.th ⟨c, 0⟩).life = .free ∧ coreRuns s c = true ∧ s.peek p 4 ≠ 0 then
      storeAt p (leBytes 0 4) (s.setTag p false)
    else s)

/-- Steps of a thread. -/
def threadSteps (s : State) (tid : Tid) : List Act :=
  let t := s.th tid
  (t.pending.filter (fun p => !fillsLater t p.word)).map (fun p => execResultFill tid p.id) ++
  (t.answers.filter (fun a => !fillsLater t a.word)).map (fun a => execDeferredDelivery tid a.pid) ++
  [execJoinOutcomeApply tid, execFencescDrainEnd tid, execRelDrainEnd tid, execRegionRestart tid, execFlgAccess tid, execThreadStop tid,
   execSlotRelease tid, execFaultReply tid]

/-- Steps of a wait. -/
def waitSteps (s : State) (w : QWait) : List Act :=
  let i := match s.accs.find? (fun a => decide (a.agent = .lockKey w.seq)) with
    | some a => (match a.place with | some p => entryPick s p.home | none => 0)
    | none => 0
  [execWaitAccept w.tid i, execResultFill w.tid w.seq]

/-- The number of an HBM range at an offset that is mapped at 2^40 plus its place in the package's HBM. -/
def hbmPick (h : DieId) (o : Nat) : Nat := o / 4096 * 2 ^ 57 + 2 ^ 40 + h.die * 2 ^ 37 + o

/-- The first choice for a range that a service core can grant. -/
def basePick (s : State) (r : LeaseReq) : Nat :=
  match r.ins with
  | .lrange _ _ _ _ _ =>
    if bits r.a 40 2 = 0 then
      (((runStarts s (requestHome r)).map (hbmPick (requestHome r))).find? fun b => (rangeChoice s r b).isSome).getD 0
    else 64 * ((List.range (Config.bstackBytes / 64)).find? fun k => (rangeChoice s r (64 * k)).isSome).getD 0
  | _ => 0

/-- Steps of a lease request or instruction. -/
def leaseSteps (s : State) (r : LeaseReq) : List Act :=
  if isRequest r.ins then
    [execLeaseRequestAnswer r.id (entryPick s (requestHome r)) (basePick s r),
     execLeaseRequestAnswer r.id Config.leaseEntries 0]
  else [execLeaseOpAtHome r.id]

/-- Steps of a register write on its way. -/
def writeSteps (w : RegWrite) : List Act :=
  [execRegisterWrite w.id, execSeedWrite w.id, execAgreementWrite w.id, execPartWrite w.id, execScctlWrite w.id, execHackWrite w.id]

/-- Steps of a core. -/
def coreSteps (s : State) (c : CoreId) : List Act :=
  [EngineQueue.copy, .message, .matrix, .launch].flatMap (fun q =>
    (queueOf s c q).map fun x => execEngineGuardResolve c q x.tid.slot) ++
  [execMatrixContextScrub c, execGangArrival c, execMzeroStart c, execMdrainStart c, execMdrainComplete c, execMagrStart c, execMstatStart c,
   execBankRebuildDone c, ownPlace s c,
   execForkRecordStart c (forkPick s c), execLoadExchange c, takeFaultMask c] ++
  (s.core c).heldRecs.map (fun e => execHeldFaultRecordWrite c e.1) ++
  (s.core c).replies.map (fun e => execFaultReply ⟨c, e.1⟩)

/-- The lowest endpoint of a die that is not in use (R263). -/
def endpointPick (s : State) (h : DieId) : Nat := ((List.range Config.endpoints).find? (endpointFree s h)).getD 0

/-- Steps of a cluster. -/
def clusterSteps (s : State) (c : ClusterId) : List Act :=
  [execCpyStart c, execCstatStart c, execRringStart c (endpointPick s (dieOfCluster c)), execPostStart c (entryPick s (dieOfCluster c)),
   execSendStart c, execRprobeStart c, execLaunchStart c, execLstatStart c, execPreemptStart c, execSignalStart c, execMmaStart c, execMmaComplete c,
   execMwldStart c, execMwldComplete c, execMtestStart c, execMtestComplete c [], execSelfTest c []] ++
  (List.range 4).map (fun n => execChainRecordStep c n) ++
  ((s.cluster c).teams.map fun e => execTeamEnd c e.1) ++
  (s.preempts.filter fun p => decide (p.cluster = c)).flatMap fun p =>
    [execPreemptComplete c p.team, execResumePlace c p.team] ++ p.draining.map fun d => execPreemptDrainFallback d.1

/-- Steps of a message. -/
def msgSteps (m : Msg) : List Act :=
  [execCapAdmit m.id, execMessageDecision m.id, execRingHeadStore m.dest m.ep, execTailUpdate m.id, execLandingComplete m.id,
   execSendComplete m.id]

/-- Steps of a grid at its root. -/
def gridSteps (s : State) (r : Nat) (g : Grid) : List Act :=
  g.sentTo.map (fun n => execLaunchAck r g.gid n) ++
  ((List.range g.slots.length).map fun j => execStaticDeal r g.gid j) ++
  (g.inscope.flatMap fun n => (scopeDies g.hdr g.from_.die).flatMap fun d =>
    [execDealRecord r g.gid ⟨n, d⟩, execRangeRequest r g.gid ⟨n, d⟩ (min (hdrChunk g.hdr) (g.size - g.next))]) ++
  [execGridEnd r g.gid, execGridEntryFree r g.gid] ++
  (s.reports.filter fun x => decide (x.root = r ∧ x.gid = g.gid)).map fun x => execBlockClassReport x.node x.id

/-- Steps of a package. -/
def packageSteps (s : State) (n : Nat) : List Act :=
  let p := s.pkg n
  [execBootSelect n, execBringupPhase n true, execHostRecordCopy n, execHostLaunchRecord n (entryPick s ⟨n, bits (wordAt ((hostRecord s n).getD []) 0) 4 2⟩),
   execHostCancelRecord n, execHostPartitionRecord n] ++
  (p.grids.flatMap fun e => gridSteps s n e.2) ++
  p.strands.flatMap (fun e =>
    [execWavelengthRetrainEnd n e.1 0 true, execWavelengthRetrainEnd n e.1 1 true, execWavelengthRetrainEnd n e.1 2 true,
     execWavelengthRetrainEnd n e.1 3 true, execWavelengthRetrainEnd n e.1 4 true, execWavelengthRetrainEnd n e.1 5 true,
     execWavelengthRetrainEnd n e.1 6 true, execWavelengthRetrainEnd n e.1 7 true, execParkAgain n e.1]) ++
  p.caps.map fun e => execEndToEndAck n (e.1 / 256) (e.1 % 256) 100

/-- Steps of a die: zeroing of its lapsed ranges (R115). -/
def dieSteps (s : State) (h : DieId) : List Act :=
  ((s.die h).leases.filter fun e => match e.2.body with | .range _ _ _ z => !z | _ => false).map fun e =>
    execRangeZeroing h e.1

/-- An access on its way to its thread's own scratchpad, or that has not been translated: it takes few cycles (R6). -/
def nearAcc (a : Acc) : Bool :=
  match a.place with
  | some p => decide (p.node = a.tid.core.node ∧ p.die = a.tid.core.die ∧ p.region = .scratch a.tid.core.cluster a.tid.core.core)
  | none => true

/-- Steps of the accesses to other memories, in their order. -/
def farSteps (s : State) : List Act := (s.accs.filter fun a => !nearAcc a).flatMap accSteps

/-- Every other step that may be enabled. -/
def autoSteps (s : State) : List Act :=
  (s.accs.filter nearAcc).flatMap accSteps ++ s.waits.flatMap (waitSteps s) ++ s.leaseReqs.flatMap (leaseSteps s) ++
  s.regWrites.flatMap writeSteps ++ s.raises.flatMap (fun r => [execStflFlagRaise r.id, execVstflFlagRaise r.id]) ++
  s.tlbis.flatMap (fun r => r.waiting.map fun c => execTlbiAck r.id c) ++
  s.threads.flatMap (fun e => threadSteps s (tidOfKey e.1)) ++ s.jobs.map (fun j => execCpyComplete j.id) ++
  s.msgs.flatMap msgSteps ++ s.notices.map (fun x => execCancelNotice x.id) ++
  s.clusters.flatMap (fun e => clusterSteps s (clusterOfKey e.1)) ++ s.cores.flatMap (fun e => coreSteps s (coreOfKey e.1)) ++
  s.group.flatMap (packageSteps s) ++ s.dies.flatMap fun e => dieSteps s (dieOfKey e.1)

/-- A core that can issue: the first after the one that issued last. -/
def autoCore (s : State) : Option CoreId :=
  let cores := (s.threads.map fun e => (tidOfKey e.1).core).eraseDups
  let can := fun (c : CoreId) => match choose s c [] with | .nothing => false | _ => true
  ((cores.filter fun c => decide (coreKey s.cur.core < coreKey c)).find? can).or (cores.find? can)

/-- A tick of the machine's own order: the packages take turns. -/
def ownTick (s : State) : Out :=
  let n := s.group.getD (s.ownTicks % s.group.length) 0
  execTickBoundary n { s with ownCycles := 0, ownTicks := s.ownTicks + 1 }

/-- Core cycles for which an access to another memory stays on its way in the machine's own order, while a core can issue. -/
def farCycles : Nat := 32

/-- What the machine does with an empty schedule: a step that changes something, else a core's cycle by `issue`, and now and
then an access to another memory; a tick passes when nothing else can be done, and after as many core cycles as a tick
has. -/
def autoStep (issue : CoreId → Act) (s : State) : Out :=
  match (autoSteps s).find? (progress s) with
  | some e => e s
  | none =>
    let far := (farSteps s).find? (progress s)
    match autoCore s, far with
    | some c, far =>
      if s.ownCycles < Config.cyclesPerTick then
        match far with
        | some e => if s.ownCycles % farCycles = 31 then e { s with ownCycles := s.ownCycles + 1 }
          else issue c { s with ownCycles := s.ownCycles + 1 }
        | none => issue c { s with ownCycles := s.ownCycles + 1 }
      else ownTick s
    | none, some e => e s
    | none, none => ownTick s

end Sys2Proof.Machine
end

