-- ==== Sys2Proof/Machine/Upsets.lean ====
section
/-!
DEFINITION. What the machine meets from outside and of itself that is in no row of the instruction table: uncorrectable errors
of registers, tiles, bindings and posted receives (R313), host reads of the register region (R378), the steps of a firmware
update (R384), and the self-tests of bring-up (R385, R298).
-/

namespace Sys2Proof.Machine

/-- Mark a register poisoned (R313): its value and its full bit stay. G0, Q0 and M0 read as constants and hold nothing that could
fail (Table 2-1). -/
def Thread.spoil (t : Thread) : RegRef → Thread
  | .g r => if r = 0 then t else { t with g := t.g.set r.toNat { t.g[r.toNat]'r.isLt with bad := true } r.isLt }
  | .q r => if r = 0 then t else { t with q := t.q.set r.toNat { t.q[r.toNat]'r.isLt with bad := true } r.isLt }
  | .m r => if r = 0 then t else { t with m := t.m.set r.toNat { t.m[r.toNat]'r.isLt with bad := true } r.isLt }
  | .v r => if h : r.toNat < 26 then { t with v := t.v.set r.toNat { t.v[r.toNat] with bad := true } h } else t

/-- An element of a tile is lost (R313): it reads as the canonical NaN, with a count of 0, and NAN and SUSPECT are set. -/
def Slice.loseElement (tile k : Nat) (x : Slice) : Slice :=
  if k < 2048 ∧ tile < 4 then
    let paired := decide (x.cpair.map (·.val) = some (tile / 2))
    { x.modTile tile (fun y => { y with el := y.el.set k 0x7FC00000, nan := true, suspect := true }) with
      counts := if paired then x.counts.erase k else x.counts }
  else x

/-- A binding with an uncorrectable error ends, as the lapse of its range would end it (R313, R118). -/
def loseBinding (h : DieId) (i : Nat) (s : State) : State :=
  let lost := (s.die h).binds.filter fun b => decide (b.range = i)
  if lost = [] then s
  else lost.foldl (fun s b => pruneLock b.die b.key s) (s.modDie h fun d => { d with binds := d.binds.filter fun b => b.range ≠ i })

/-- The self-test of a cluster's engine in bring-up (R385, R298), while the engines are still off: the groups that fail are
fenced (R299). -/
def bringupTest (c : ClusterId) (bad : List Nat) (s : State) : State :=
  if (s.pkg c.node).phase = 1 ∧ (s.pkg c.node).reason = 0 then bad.foldl (fun s v => fenceOne c v s) s else s

/-- What one turn of the device does. -/
def device (d : Device) (s : State) : Out :=
  .next (match d with
    | .register t r => if (s.th t).life = .free then s else s.modTh t fun t => t.spoil r
    | .element c tile k => s.modSlice c (Slice.loseElement tile k)
    | .binding h i => loseBinding h i s
    | .receive h ep x =>
      if (s.endpoint h ep).live then
        modEndpoint h ep (fun e => { e with posted := e.posted.filter fun r => r.lease ≠ x }) s
      else s
    | .hostRegister n off => hostRegisterRead n off s
    | .flashSlot n done => updateFlash n (fun b => Flash.writeSlot b done) s
    | .flashMarker n done => updateFlash n (fun b => Flash.writeMarker b done) s
    | .bringupTest c bad => bringupTest c bad s)

end Sys2Proof.Machine
end

