-- ==== Sys2Proof/Machine/Step.lean ====
section
/-!
DEFINITION. One step of the machine, and the placing of an instruction where the next step runs it.
-/

namespace Sys2Proof.Machine

/-- Issue the word of the selected thread: ILLEGAL for a word that step 1 of R69 refuses, else its meaning. -/
def issueWord (tid : Tid) (s : State) : Out :=
  match fetchInstr (s.th tid) with
  | none => .next (illegalWord (select tid s))
  | some i => exec i (select tid s)

/-- The word of a slot has not issued: its thread has blocked, or is held at its word (R47, R48). -/
def stayed (tid : Tid) (s t : State) : Bool :=
  (t.th tid).blocked.isSome || decide ((t.th tid).hold ≠ .none ∧ (t.th tid).pc = (s.th tid).pc)

/-- A word that has not issued costs no cycle (R132): L is as before, and `again` is what has the cycle go on. -/
def freeCycle (tid : Tid) (again : State → State) (s : State) (o : Out) : Out :=
  match o with
  | .next t =>
    if stayed tid s t then .next (again (t.modCore tid.core fun k => { k with last := (s.core tid.core).last })) else .next t
  | o => o

/-- A core's cycle (R131, R132). -/
def coreCycle (c : CoreId) (late : List Nat) (again : State → State) (s : State) : Out :=
  if c.wf then
    match choose s c late with
    | .nothing => .next s
    | .upkeep tid => .next (upkeep tid s)
    | .word tid => freeCycle tid again s (issueWord tid s)
  else .fault .noPlace

/-- What the bounds of a tick force somewhere. -/
def dueAnywhere (s : State) : Option Act :=
  (s.group ++ (s.packages.map (·.1)).filter fun n => !s.group.contains n).findSome? (dueTimeout s)

/-- The turn starts a fork record itself, with a stack of its own choice (log 14). -/
def startsFork : Turn → Bool
  | .event (.forkRecordStart _ _) => true
  | _ => false

/-- The turn itself gives free slots to a team or a fork record, with choices of its own (log 14, log 142). -/
def fillsSlots : Turn → Bool
  | .event (.teamPlace _ _ _) | .event (.resumePlace _ _) | .event (.forkRecordStart _ _) => true
  | _ => false

/-- What slot 0 and the hardware do at once when slots are free: a fork record starts (R155), a team is placed (R387, log 142). -/
def dueSlots (s : State) : Option Act := (dueFork s).or (dueTeam s)

/-- What is due of that before a turn. -/
def dueBefore (t : Turn) (s : State) : Option Act :=
  (if startsFork t then none else dueFork s).or (if fillsSlots t then none else dueTeam s)

/-- A turn of the schedule. What a tick's bounds force comes first, unless the turn is an event of the boundary's own cycle
(R140, log 39), then a fork record that can start (R155) and a team that can be placed (R387). A tick boundary waits for a dark interval that is over (R346). -/
def takeTurn (t : Turn) (rest : List Turn) (s : State) : Out :=
  let s' := { s with sched := rest }
  let first : Bool := match t with
    | .event e => inBoundaryCycle e
    | _ => false
  match if first then none else (dueAnywhere s).or (dueBefore t s), t with
  | some e, _ => e s
  | none, .issue c late => coreCycle c late (fun u => { u with sched := .issue c late :: u.sched }) s'
  | none, .event e => exec e s'
  | none, .device d => device d s'

/-- One step: what is due at a boundary first, then the schedule's next turn, and with an empty schedule the machine's own
order (log 1). -/
def step (s : State) : Host.Outcome State Fault Refusal :=
  match dueEvent s with
  | some e => e s
  | none =>
    match s.sched with
    | t :: rest => takeTurn t rest s
    | [] =>
      match (dueAnywhere s).or (dueSlots s) with
      | some e => e s
      | none => autoStep (fun c => coreCycle c [] id) s

/-- The header of a block of `len` words with every other field 0 (Table 2-2). -/
def plainHeader (len : Nat) : W64 := BitVec.ofNat 64 (2 ^ 63 + len)

/-- Place an instruction as the next word of the current thread: a block that holds it alone, at offset 0 of the
scratchpad, is loaded and in the fetch buffer, and the thread is the one that issues next (log 3). -/
def State.withFetchWord (s : State) (nbits w : Nat) : State :=
  let x := w % 2 ^ nbits
  let w0 := BitVec.ofNat 32 x
  let w1 := BitVec.ofNat 32 (x / 2 ^ 32)
  let words := if isWide w0 then [w0, w1] else [w0]
  let h := plainHeader words.length
  let c := s.cur.core
  let s := s.poke (scratchAt c 0) (leBytes h.toNat 8 ++ leBytes w0.toNat 4 ++ leBytes w1.toNat 4)
  let s := s.modPkg c.node fun p => { p with phase := max p.phase 1 }
  let s := s.modCore c fun k => { k with last := BitVec.ofNat 4 s.cur.slot - 1, halted := false }
  let s := s.modMe fun t => { t with
    life := .running
    bh := 0
    pc := 8
    block := some ⟨h, words, false⟩
    fetch := none
    blocked := none
    hold := .none }
  { s with sched := .issue c [] :: s.sched }

end Sys2Proof.Machine
end

