-- ==== Sys2Proof/Safety.lean ====
section
/-!
DEFINITION. What a safe state and a safe step are, and the terms in which statements say what an instruction needs, what it
changes and what it leaves alone.
-/

namespace Sys2Proof.Machine

/-! ### The canonical form -/

/-- Numbers in strictly rising order. -/
def rising : List Nat → Bool
  | [] => true
  | [_] => true
  | j :: k :: m => decide (j < k) && rising (k :: m)

/-- Memory, the tags of empty words and the marks of poisoned units are in their canonical form. -/
abbrev State.canonical (s : State) : Prop := Memory.wf s.mem = true ∧ rising s.empties = true ∧ rising s.poisoned = true

/-- A step that stops neither with a fault nor with a refusal. -/
def State.runs (s : State) : Prop := ∃ t, step s = .next t

/-! ### What an instruction needs (R47, R48, R66, R69) -/

/-- The guard is true: its predicate is full, not poisoned, and has the sense that the guard asks for (R66). -/
abbrev Thread.passes (t : Thread) (g : Guard) : Prop :=
  t.full (.q g.q) = true ∧ t.bad (.q g.q) = false ∧ t.rQ g.q ≠ g.neg

/-- The guard is false: its predicate is full, not poisoned, and has the other sense (R66). -/
abbrev Thread.declines (t : Thread) (g : Guard) : Prop :=
  t.full (.q g.q) = true ∧ t.bad (.q g.q) = false ∧ t.rQ g.q = g.neg

/-- Registers that can be read at once: full and not poisoned (R47, R313). -/
abbrev Thread.readable (t : Thread) (rs : List RegRef) : Prop := ∀ r ∈ rs, t.full r = true ∧ t.bad r = false

/-- Registers that are full, as a destination must be (R48). -/
abbrev Thread.allFull (t : Thread) (rs : List RegRef) : Prop := ∀ r ∈ rs, t.full r = true

/-! ### What an instruction leaves alone -/

/-- A register holds the same value, full bit and poison mark. -/
def Thread.sameReg (x y : Thread) : RegRef → Prop
  | .g r => y.rG r = x.rG r ∧ y.mark (.g r) = x.mark (.g r)
  | .q r => y.rQ r = x.rQ r ∧ y.mark (.q r) = x.mark (.q r)
  | .m r => y.rM r = x.rM r ∧ y.mark (.m r) = x.mark (.m r)
  | .v r => y.vReg r = x.vReg r

/-- Every G, Q, M and V register but those named is unchanged. -/
def Thread.sameBut (rs : List RegRef) (x y : Thread) : Prop := ∀ r, r ∉ rs → Thread.sameReg x y r

/-- The state of a thread apart from its G, Q, M and V registers and what issue itself moves: PC, the checker's CRC, the
region's registers RPC, RSTC, PROG and LAVG with its checkpoint (R314), and what the thread waits for. -/
def Thread.sameRest (x y : Thread) : Prop :=
  y = { x with
    g := y.g, q := y.q, m := y.m, v := y.v, pc := y.pc, crc := y.crc, rhdr := y.rhdr, rword := y.rword,
    restarts := y.restarts, ckr := y.ckr, prog := y.prog, lavg := y.lavg, genCk := y.genCk, region := y.region,
    restarted := y.restarted, blocked := y.blocked, hold := y.hold }

/-- Only the issuing thread changes: every other thread, every core, slice, cluster, die and package, memory with its tags
and poison, and everything in flight is as before. -/
def OnlyThread (s t : State) : Prop :=
  t = { s with threads := t.threads } ∧ ∀ k, k ≠ tidKey s.cur → t.threads.look k = s.threads.look k

/-- Every byte of memory, every full/empty tag and every poison mark is as before. -/
def SameMemory (s t : State) : Prop :=
  (∀ k, t.byteAt k = s.byteAt k) ∧ t.empties = s.empties ∧ t.poisoned = s.poisoned

/-- An instruction of `n` words has retired and changed, of the machine, the registers named of its own thread at most: its
PC has passed it, and the thread waits for nothing. -/
def Retires (n : Nat) (rs : List RegRef) (s t : State) : Prop :=
  OnlyThread s t ∧ SameMemory s t ∧ Thread.sameBut rs s.me t.me ∧ Thread.sameRest s.me t.me ∧
    t.me.pc = s.me.pc + BitVec.ofNat 19 (4 * n) ∧ t.me.hold = .none ∧ t.me.blocked = none

end Sys2Proof.Machine
end

