-- ==== Sys2Proof/Certificates/Slice0/Obligations.lean ====
section
/-!
DEFINITION. The statements about the machine: what each instruction and each step of the hardware does, what it leaves
alone, and what holds of every step. Each statement's docstring names the rules of spec/ that it formalises.
-/

open Sys2Proof Sys2Proof.Machine

namespace Sys2Proof.Claims

/-- The name that the next instruction takes is not in use by the issuing thread: what is in flight was named before it. -/
abbrev FreshName (s : State) : Prop := (∀ p ∈ s.me.pending, p.id ≠ s.nextId) ∧ ∀ w ∈ s.waits, w.seq ≠ s.nextId

/-! ### Scalar instructions -/

/-- A scalar instruction whose result is ready at once: guard, registers read, destination, result (Tables 3-2, 3-4 to 3-6;
R79, R87), and words. -/
def scalarForm (t : Thread) : Instr → Option (Guard × List RegRef × BitVec 4 × W64 × Nat)
  | .add d a b g => some (g, [.g a.r, .g b.r], d, t.rG a.r + t.rG b.r, 1)
  | .sub d a b g => some (g, [.g a.r, .g b.r], d, t.rG a.r - t.rG b.r, 1)
  | .mul d a b g => some (g, [.g a.r, .g b.r], d, t.rG a.r * t.rG b.r, 1)
  | .mulh d a b g =>
    some (g, [.g a.r, .g b.r], d, BitVec.ofInt 64 ((t.rG a.r).toInt * (t.rG b.r).toInt / 2 ^ 64), 1)
  | .mulhu d a b g =>
    some (g, [.g a.r, .g b.r], d, BitVec.ofNat 64 ((t.rG a.r).toNat * (t.rG b.r).toNat / 2 ^ 64), 1)
  | .and d a b g => some (g, [.g a.r, .g b.r], d, t.rG a.r &&& t.rG b.r, 1)
  | .or d a b g => some (g, [.g a.r, .g b.r], d, t.rG a.r ||| t.rG b.r, 1)
  | .xor d a b g => some (g, [.g a.r, .g b.r], d, t.rG a.r ^^^ t.rG b.r, 1)
  | .andn d a b g => some (g, [.g a.r, .g b.r], d, t.rG a.r &&& ~~~ t.rG b.r, 1)
  | .orn d a b g => some (g, [.g a.r, .g b.r], d, t.rG a.r ||| ~~~ t.rG b.r, 1)
  | .shl d a b g => some (g, [.g a.r, .g b.r], d, t.rG a.r <<< ((t.rG b.r).toNat % 64), 1)
  | .shr d a b g => some (g, [.g a.r, .g b.r], d, t.rG a.r >>> ((t.rG b.r).toNat % 64), 1)
  | .sra d a b g => some (g, [.g a.r, .g b.r], d, (t.rG a.r).sshiftRight ((t.rG b.r).toNat % 64), 1)
  | .rol d a b g => some (g, [.g a.r, .g b.r], d, (t.rG a.r).rotateLeft ((t.rG b.r).toNat % 64), 1)
  | .ror d a b g => some (g, [.g a.r, .g b.r], d, (t.rG a.r).rotateRight ((t.rG b.r).toNat % 64), 1)
  | .min d a b g => some (g, [.g a.r, .g b.r], d, if (t.rG a.r).slt (t.rG b.r) then t.rG a.r else t.rG b.r, 1)
  | .max d a b g => some (g, [.g a.r, .g b.r], d, if (t.rG a.r).slt (t.rG b.r) then t.rG b.r else t.rG a.r, 1)
  | .minu d a b g => some (g, [.g a.r, .g b.r], d, if (t.rG a.r).ult (t.rG b.r) then t.rG a.r else t.rG b.r, 1)
  | .maxu d a b g => some (g, [.g a.r, .g b.r], d, if (t.rG a.r).ult (t.rG b.r) then t.rG b.r else t.rG a.r, 1)
  | .lea1 d a b g => some (g, [.g a.r, .g b.r], d, t.rG a.r + 2 * t.rG b.r, 1)
  | .lea2 d a b g => some (g, [.g a.r, .g b.r], d, t.rG a.r + 4 * t.rG b.r, 1)
  | .lea3 d a b g => some (g, [.g a.r, .g b.r], d, t.rG a.r + 8 * t.rG b.r, 1)
  | .clz d a g => some (g, [.g a.r], d, clzRes (t.rG a.r), 1)
  | .ctz d a g => some (g, [.g a.r], d, ctzRes (t.rG a.r), 1)
  | .popc d a g => some (g, [.g a.r], d, popcRes (t.rG a.r), 1)
  | .brev d a g => some (g, [.g a.r], d, brevRes (t.rG a.r), 1)
  | .bswap d a g => some (g, [.g a.r], d, bswapRes (t.rG a.r), 1)
  | .sextb d a g => some (g, [.g a.r], d, ((t.rG a.r).setWidth 8).signExtend 64, 1)
  | .sexth d a g => some (g, [.g a.r], d, ((t.rG a.r).setWidth 16).signExtend 64, 1)
  | .sextw d a g => some (g, [.g a.r], d, ((t.rG a.r).setWidth 32).signExtend 64, 1)
  | .zextb d a g => some (g, [.g a.r], d, ((t.rG a.r).setWidth 8).setWidth 64, 1)
  | .zexth d a g => some (g, [.g a.r], d, ((t.rG a.r).setWidth 16).setWidth 64, 1)
  | .zextw d a g => some (g, [.g a.r], d, ((t.rG a.r).setWidth 32).setWidth 64, 1)
  | .abs d a g => some (g, [.g a.r], d, if (t.rG a.r).slt 0 then - t.rG a.r else t.rG a.r, 1)
  | .neg d a g => some (g, [.g a.r], d, - t.rG a.r, 1)
  | .not d a g => some (g, [.g a.r], d, ~~~ t.rG a.r, 1)
  | .ext d a p l g => some (g, [.g a.r], d, extRes p l (t.rG a.r), 1)
  | .extu d a p l g =>
    some (g, [.g a.r], d, BitVec.ofNat 64 ((t.rG a.r).toNat / 2 ^ p.toNat % 2 ^ (l.toNat + 1)), 1)
  | .ins d a p l g => some (g, [.g d, .g a.r], d, insRes p l (t.rG d) (t.rG a.r), 1)
  | .addi d a i g => some (g, [.g a.r], d, t.rG a.r + i.signExtend 64, 1)
  | .andi d a i g => some (g, [.g a.r], d, t.rG a.r &&& i.signExtend 64, 1)
  | .ori d a i g => some (g, [.g a.r], d, t.rG a.r ||| i.signExtend 64, 1)
  | .xori d a i g => some (g, [.g a.r], d, t.rG a.r ^^^ i.signExtend 64, 1)
  | .shli d a n g => some (g, [.g a.r], d, t.rG a.r <<< n.toNat, 1)
  | .shri d a n g => some (g, [.g a.r], d, t.rG a.r >>> n.toNat, 1)
  | .srai d a n g => some (g, [.g a.r], d, (t.rG a.r).sshiftRight n.toNat, 1)
  | .muli d a i g => some (g, [.g a.r], d, t.rG a.r * i.signExtend 64, 1)
  | .li d g imm => some (g, [], d, imm.signExtend 64, 2)
  | .liu d g imm => some (g, [], d, imm.setWidth 64, 2)
  | .lih d g imm => some (g, [.g d], d, (imm.setWidth 64 <<< 32) ||| (t.rG d &&& 0xFFFFFFFF), 2)
  | .addl d g imm => some (g, [.g d], d, t.rG d + imm.signExtend 64, 2)
  | .sel d a b q g => some (g, [.g a.r, .g b.r, .q q], d, if t.rQ q then t.rG a.r else t.rG b.r, 1)
  | _ => none

/-- A division: guard, registers read, destination and result (R77). -/
def divisionForm (t : Thread) : Instr → Option (Guard × GSrc × GSrc × BitVec 4 × W64)
  | .div d a b g => some (g, a, b, d,
      if t.rG b.r = 0 then BitVec.ofInt 64 (-1)
      else if (t.rG a.r).toInt = -2 ^ 63 ∧ (t.rG b.r).toInt = -1 then BitVec.ofInt 64 (-2 ^ 63)
      else BitVec.ofInt 64 ((t.rG a.r).toInt.tdiv (t.rG b.r).toInt))
  | .rem d a b g => some (g, a, b, d,
      if t.rG b.r = 0 then t.rG a.r
      else if (t.rG a.r).toInt = -2 ^ 63 ∧ (t.rG b.r).toInt = -1 then 0
      else BitVec.ofInt 64 ((t.rG a.r).toInt - (t.rG b.r).toInt * (t.rG a.r).toInt.tdiv (t.rG b.r).toInt))
  | .divu d a b g => some (g, a, b, d,
      if t.rG b.r = 0 then 0xFFFFFFFFFFFFFFFF else BitVec.ofNat 64 ((t.rG a.r).toNat / (t.rG b.r).toNat))
  | .remu d a b g => some (g, a, b, d,
      if t.rG b.r = 0 then t.rG a.r
      else BitVec.ofNat 64 ((t.rG a.r).toNat - (t.rG b.r).toNat * ((t.rG a.r).toNat / (t.rG b.r).toNat)))
  | _ => none

/-- A compare or predicate combiner: guard, registers read, destination and result (Tables 3-7 to 3-9). -/
def predicateForm (t : Thread) : Instr → Option (Guard × List RegRef × BitVec 4 × Bool)
  | .cmpeq d a b g => some (g, [.g a.r, .g b.r], d, t.rG a.r = t.rG b.r)
  | .cmpne d a b g => some (g, [.g a.r, .g b.r], d, t.rG a.r ≠ t.rG b.r)
  | .cmplt d a b g => some (g, [.g a.r, .g b.r], d, (t.rG a.r).slt (t.rG b.r))
  | .cmple d a b g => some (g, [.g a.r, .g b.r], d, (t.rG a.r).sle (t.rG b.r))
  | .cmpltu d a b g => some (g, [.g a.r, .g b.r], d, (t.rG a.r).ult (t.rG b.r))
  | .cmpleu d a b g => some (g, [.g a.r, .g b.r], d, (t.rG a.r).ule (t.rG b.r))
  | .tstz d a b g => some (g, [.g a.r, .g b.r], d, t.rG a.r &&& t.rG b.r = 0)
  | .tstnz d a b g => some (g, [.g a.r, .g b.r], d, t.rG a.r &&& t.rG b.r ≠ 0)
  | .cmpeqi d a i g => some (g, [.g a.r], d, t.rG a.r = i.signExtend 64)
  | .cmpnei d a i g => some (g, [.g a.r], d, t.rG a.r ≠ i.signExtend 64)
  | .cmplti d a i g => some (g, [.g a.r], d, (t.rG a.r).slt (i.signExtend 64))
  | .cmplei d a i g => some (g, [.g a.r], d, (t.rG a.r).sle (i.signExtend 64))
  | .cmpltui d a i g => some (g, [.g a.r], d, (t.rG a.r).ult (i.signExtend 64))
  | .cmpleui d a i g => some (g, [.g a.r], d, (t.rG a.r).ule (i.signExtend 64))
  | .cmpgti d a i g => some (g, [.g a.r], d, BitVec.slt (i.signExtend 64) (t.rG a.r))
  | .cmpgtui d a i g => some (g, [.g a.r], d, BitVec.ult (i.signExtend 64) (t.rG a.r))
  | .qand d a b g => some (g, [.q a, .q b], d, t.rQ a && t.rQ b)
  | .qor d a b g => some (g, [.q a, .q b], d, t.rQ a || t.rQ b)
  | .qxor d a b g => some (g, [.q a, .q b], d, t.rQ a ^^ t.rQ b)
  | .qandn d a b g => some (g, [.q a, .q b], d, t.rQ a && !t.rQ b)
  | .qmovg d a g => some (g, [.g a.r], d, t.rG a.r ≠ 0)
  | _ => none

end Sys2Proof.Claims

open Sys2Proof.Claims

/-- Every scalar instruction whose result is ready at once writes the value of its table to Gd (a write to G0 is discarded),
retires, and changes nothing else of the machine. -/
def Obligations.ScalarResults : Prop :=
  ∀ (i : Instr) (s : State) (g : Guard) (rs : List RegRef) (d : BitVec 4) (v : W64) (n : Nat),
    scalarForm s.me i = some (g, rs, d, v, n) → s.me.passes g → s.me.readable rs → s.me.full (.g d) = true →
    ∃ t, exec i s = .next t ∧ Retires n [.g d] s t ∧
      t.me.rG d = (if d = 0 then 0 else v) ∧ t.me.full (.g d) = true ∧ t.me.bad (.g d) = false

/-- R78. The counts and reversals of Table 3-4: CLZ, CTZ, POPC, BREV and BSWAP by the bits of their operand. -/
def Sys2Proof.Claims.BitCounts : Prop :=
  ∀ a : W64,
    (∀ i : Nat, i < 64 → (64 - (clzRes a).toNat ≤ i → a.getLsbD i = false)) ∧
    (a ≠ 0 → (clzRes a).toNat < 64 ∧ a.getLsbD (63 - (clzRes a).toNat) = true) ∧ (a = 0 → clzRes a = 64) ∧
    (∀ i : Nat, i < (ctzRes a).toNat → a.getLsbD i = false) ∧
    (a ≠ 0 → (ctzRes a).toNat < 64 ∧ a.getLsbD (ctzRes a).toNat = true) ∧ (a = 0 → ctzRes a = 64) ∧
    (popcRes a).toNat = ((List.range 64).filter fun i => a.getLsbD i).length ∧
    (∀ i : Nat, i < 64 → (brevRes a).getLsbD (63 - i) = a.getLsbD i) ∧
    (∀ i : Nat, i < 64 → (bswapRes a).getLsbD (8 * (7 - i / 8) + i % 8) = a.getLsbD i)

/-- The bit fields of R79: EXT and EXTU take bits [pos+len−1:pos], extended from bit len − 1 or by zeros; INS replaces those
bits of the old Gd by the low bits of its source. -/
def Sys2Proof.Claims.BitFields : Prop :=
  ∀ (p : BitVec 6) (l : BitVec 5) (a old : W64), p.toNat + l.toNat + 1 ≤ 64 → ∀ i : Nat, i < 64 →
    (extuRes p l a).getLsbD i = (decide (i ≤ l.toNat) && a.getLsbD (p.toNat + i)) ∧
    (extRes p l a).getLsbD i = a.getLsbD (p.toNat + min i l.toNat) ∧
    (insRes p l old a).getLsbD i =
      (if p.toNat ≤ i ∧ i ≤ p.toNat + l.toNat then a.getLsbD (i - p.toNat) else old.getLsbD i)

/-- DIV, DIVU, REM and REMU never trap: with a full Gd other than G0 they mark Gd empty and retire, and the result that
R77 gives then fills Gd by RESULT_FILL. -/
def Sys2Proof.Claims.Division : Prop :=
  ∀ (i : Instr) (s : State) (g : Guard) (a b : GSrc) (d : BitVec 4) (v : W64),
    divisionForm s.me i = some (g, a, b, d, v) → d ≠ 0 → s.me.passes g → s.me.readable [.g a.r, .g b.r] →
    s.me.full (.g d) = true → FreshName s →
    ∃ t u, exec i s = .next t ∧ t.me.full (.g d) = false ∧ t.me.pc = s.me.pc + 4 ∧ SameMemory s t ∧
      exec (.resultFill s.cur s.nextId) t = .next u ∧ u.me.full (.g d) = true ∧ u.me.rG d = v

/-- A division that names G0 retires without a result (Table 2-1, R48). -/
def Sys2Proof.Claims.DivisionToG0 : Prop :=
  ∀ (i : Instr) (s : State) (g : Guard) (a b : GSrc) (v : W64),
    divisionForm s.me i = some (g, a, b, 0, v) → s.me.passes g → s.me.readable [.g a.r, .g b.r] →
    ∃ t, exec i s = .next t ∧ Retires 1 [] s t

/-- A compare or combiner whose sources are full writes its predicate at once (R82 to R85; Q0 stays true), retires, and
changes nothing else of the machine. -/
def Sys2Proof.Claims.PredicateResults : Prop :=
  ∀ (i : Instr) (s : State) (g : Guard) (rs : List RegRef) (d : BitVec 4) (v : Bool),
    predicateForm s.me i = some (g, rs, d, v) → s.me.passes g → s.me.readable rs → s.me.full (.q d) = true →
    ∃ t, exec i s = .next t ∧ Retires 1 [.q d] s t ∧
      t.me.rQ d = (if d = 0 then true else v) ∧ t.me.full (.q d) = true ∧ t.me.bad (.q d) = false

/-- R86. GETQ copies the value and the full bit of every predicate and never blocks on one. SETQ writes Q1 to Q15 from
bits [15:1] of its source when they are all full, and otherwise blocks, changing no register. -/
def Obligations.PredicateWord : Prop :=
  (∀ (d : BitVec 4) (g : Guard) (s : State), s.me.passes g → s.me.full (.g d) = true →
    ∃ t, exec (.getq d g) s = .next t ∧ Retires 1 [.g d] s t ∧
      ∀ i : Nat, i < 64 → (t.me.rG d).getLsbD i =
        (if d = 0 then false
         else if i < 16 then s.me.full (.q (BitVec.ofNat 4 i)) && s.me.rQ (BitVec.ofNat 4 i)
         else if i < 32 then s.me.full (.q (BitVec.ofNat 4 (i - 16))) else false)) ∧
  (∀ (a : GSrc) (g : Guard) (s : State), s.me.passes g → s.me.readable [.g a.r] →
    ((∀ q, s.me.full (.q q) = true) →
      ∃ t, exec (.setq a g) s = .next t ∧
        (∀ q : BitVec 4, t.me.rQ q = if q = 0 then true else (s.me.rG a.r).getLsbD q.toNat) ∧
        (∀ q : BitVec 4, t.me.full (.q q) = true) ∧ (∀ r, t.me.rG r = s.me.rG r) ∧ SameMemory s t ∧ OnlyThread s t) ∧
    ((∃ q, s.me.full (.q q) = false) →
      ∃ t, exec (.setq a g) s = .next t ∧ t.me.blocked.isSome ∧ Thread.sameBut [] s.me t.me ∧ t.me.pc = s.me.pc))


namespace Sys2Proof.Claims

/-! ### Guards, operands and traps -/

/-- The guard of an instruction that a thread executes itself, and the instruction's words (R66, Table 1-5). -/
def guardForm : Instr → Option (Guard × Nat)
  | .add _ _ _ g | .sub _ _ _ g | .mul _ _ _ g | .mulh _ _ _ g | .mulhu _ _ _ g | .div _ _ _ g | .divu _ _ _ g
  | .rem _ _ _ g | .remu _ _ _ g | .and _ _ _ g | .or _ _ _ g | .xor _ _ _ g | .andn _ _ _ g | .orn _ _ _ g
  | .shl _ _ _ g | .shr _ _ _ g | .sra _ _ _ g | .rol _ _ _ g | .ror _ _ _ g | .min _ _ _ g | .max _ _ _ g
  | .minu _ _ _ g | .maxu _ _ _ g | .lea1 _ _ _ g | .lea2 _ _ _ g | .lea3 _ _ _ g | .clz _ _ g | .ctz _ _ g
  | .popc _ _ g | .brev _ _ g | .bswap _ _ g | .sextb _ _ g | .sexth _ _ g | .sextw _ _ g | .zextb _ _ g
  | .zexth _ _ g | .zextw _ _ g | .abs _ _ g | .neg _ _ g | .not _ _ g | .ext _ _ _ _ g | .extu _ _ _ _ g
  | .ins _ _ _ _ g | .addi _ _ _ g | .andi _ _ _ g | .ori _ _ _ g | .xori _ _ _ g | .shli _ _ _ g | .shri _ _ _ g
  | .srai _ _ _ g | .muli _ _ _ g | .cmpeq _ _ _ g | .cmpne _ _ _ g | .cmplt _ _ _ g | .cmple _ _ _ g
  | .cmpltu _ _ _ g | .cmpleu _ _ _ g | .tstz _ _ _ g | .tstnz _ _ _ g | .cmpeqi _ _ _ g | .cmpnei _ _ _ g
  | .cmplti _ _ _ g | .cmplei _ _ _ g | .cmpltui _ _ _ g | .cmpleui _ _ _ g | .cmpgti _ _ _ g | .cmpgtui _ _ _ g
  | .qand _ _ _ g | .qor _ _ _ g | .qxor _ _ _ g | .qandn _ _ _ g | .qmovg _ _ g | .getq _ g | .setq _ g
  | .sel _ _ _ _ g | .br _ g | .call _ g | .jmp _ g | .jcall _ _ g | .ret _ g | .exit g | .trap _ g | .rft g
  | .sys _ _ g | .brk g | .tlbi _ _ g | .srd _ _ g | .swr _ _ g | .fork _ _ g | .jinit _ g | .join _ g
  | .waitf _ _ _ g | .waitm _ _ _ _ g | .waitt _ _ _ g | .waitid _ _ _ g | .bar _ _ _ g | .recvw _ _ _ _ g
  | .llock _ _ _ _ g | .lrange _ _ _ _ g | .lgroup _ _ _ _ g | .lpath _ _ _ _ g | .lctx _ _ _ _ g | .rnw _ _ _ g
  | .life _ _ g | .linfo _ _ _ g | .gjoin _ _ g | .bind _ _ _ g | .ld _ _ _ _ _ g | .st _ _ _ _ g | .ldsw _ _ _ _ g
  | .ldsd _ _ _ _ g | .ldcw _ _ _ _ g | .ldcd _ _ _ _ g | .stfw _ _ g | .stfd _ _ g | .sete _ g | .setf _ g
  | .aadd _ _ _ _ g | .aand _ _ _ _ g | .aor _ _ _ _ g | .axor _ _ _ _ g | .amin _ _ _ _ g | .amax _ _ _ _ g
  | .aminu _ _ _ _ g | .amaxu _ _ _ _ g | .axchg _ _ _ _ g | .acas _ _ _ _ g | .redadd _ _ _ g | .redand _ _ _ g
  | .redor _ _ _ g | .redxor _ _ _ g | .redmin _ _ _ g | .redmax _ _ _ g | .redminu _ _ _ g | .redmaxu _ _ _ g
  | .stflw _ _ _ g | .stfld _ _ _ g | .fence _ g | .fencesc _ g | .rel _ _ g => some (g, 1)
  | .li _ g _ | .liu _ g _ | .lih _ g _ | .addl _ g _ => some (g, 2)
  | _ => none

/-- The scalar ALU instructions of two sources (Table 3-2): destination, sources and guard. -/
def twoSource : Instr → Option (BitVec 4 × GSrc × GSrc × Guard)
  | .add d a b g | .sub d a b g | .mul d a b g | .mulh d a b g | .mulhu d a b g | .and d a b g | .or d a b g
  | .xor d a b g | .andn d a b g | .orn d a b g | .shl d a b g | .shr d a b g | .sra d a b g | .rol d a b g
  | .ror d a b g | .min d a b g | .max d a b g | .minu d a b g | .maxu d a b g | .lea1 d a b g | .lea2 d a b g
  | .lea3 d a b g => some (d, a, b, g)
  | _ => none

/-- A trap of the issuing thread reaches its handler: no handler runs, and the block at TVB can be fetched (R54, R61). -/
abbrev CanTrap (s : State) (b : Block) : Prop :=
  s.me.inHandler = false ∧ fetchAt s s.cur.core (s.me.tvb.setWidth 64) .trapEntry = .block b

/-- The thread apart from what a trap saves and moves: its registers, FLG, and RPC, RSTC and PROG with the region's checkpoint
are among what stays (R97); that a restarted region's first word has yet to issue is over (Table 13-7). -/
def sameInTrap (x y : Thread) : Prop :=
  y = { x with
    tcause := y.tcause, tpc := y.tpc, tinfo := y.tinfo, inHandler := y.inHandler, deferred := y.deferred, bh := y.bh
    pc := y.pc, block := y.block, fetch := y.fetch, crc := y.crc, blocked := y.blocked, hold := y.hold
    joinHeld := y.joinHeld, restarted := y.restarted }

/-- The issuing thread has taken a trap (R97): TCAUSE, TPC and TINFO0 to TINFO3 are saved, TSTAT.IN is set, DEF is clear, the
thread stands at the first word of the block `b` at TVB, and nothing else of the machine has changed. -/
def Trapped (f : FaultInfo) (tpc : W64) (b : Block) (s t : State) : Prop :=
  OnlyThread s t ∧ SameMemory s t ∧ sameInTrap s.me t.me ∧
    t.me.tcause = BitVec.ofNat 64 f.cause.code ∧ t.me.tpc = tpc ∧
    t.me.tinfo = #v[f.t0, f.t1, f.t2, s.me.bh.setWidth 64] ∧ t.me.inHandler = true ∧ t.me.deferred = false ∧
    t.me.bh = s.me.tvb ∧ t.me.pc = s.me.tvb + 8 ∧ t.me.block = some b ∧ t.me.fetch = none

/-- The issuing thread has left the ready set to wait for registers, changing nothing else (R47, R48). -/
def Blocks (regs : List Await) (s t : State) : Prop :=
  OnlyThread s t ∧ SameMemory s t ∧
    t.me = { s.me with blocked := t.me.blocked } ∧
    t.me.blocked = some ⟨(s.me.blocked.map (·.since)).getD (s.taper s.cur.core.node), regs⟩

/-- The instructions that only slot 0 may execute (R209, R260) or whose register only slot 0 may write (R70). -/
def supervisorForm : Instr → Option Guard
  | .tlbi _ _ g => some g
  | .chain _ _ _ _ _ => some Guard.none
  | .swr _ n g => if SysReg.supervisor n then some g else none
  | _ => none

/-- A trap that an instruction takes before it has any effect, with its TPC: BRK, TRAP and SYS, PRIVILEGE, and of a two-source
ALU instruction EMPTY or POISON of its first source (R47, R69, R97 to R100, R313). -/
def raised (s : State) (i : Instr) : Option (FaultInfo × W64) :=
  let t := s.me
  let pc : W64 := t.pc.setWidth 64
  let open_ := decide ((t.advance 1).mismatch = false)
  match i with
  | .brk g => if t.passes g ∧ open_ then some (⟨.brk, 0, 0, 0⟩, pc) else none
  | .trap n g => if t.passes g ∧ open_ then some (⟨.trap, n.signExtend 64, 0, 0⟩, BitVec.ofNat 64 t.nh) else none
  | .sys a b g =>
    if t.passes g ∧ open_ ∧ t.full (.g a.r) = true ∧ t.bad (.g a.r) = false ∧ t.full (.g b.r) = true ∧ t.bad (.g b.r) = false then
      some (⟨.sys, t.rG a.r, t.rG b.r, 0⟩, BitVec.ofNat 64 t.nh)
    else none
  | _ =>
    match supervisorForm i, twoSource i with
    | some g, _ => if t.passes g ∧ s.cur.slot ≠ 0 then some (⟨.privilege, t.curWord.setWidth 64, 0, 0⟩, pc) else none
    | none, some (_, a, b, g) =>
      if t.passes g ∧ t.full (.g a.r) = false ∧ a.e = true then some (⟨.empty, BitVec.ofNat 64 (16 + a.r.toNat), 0, 0⟩, pc)
      else if t.passes g ∧ t.full (.g a.r) = true ∧ t.bad (.g a.r) = true ∧ t.full (.g b.r) = true then
        some (⟨.poison, BitVec.ofNat 64 ((if a.e then 16 else 0) + a.r.toNat), 0, 1⟩, pc)
      else none
    | none, none => none

/-! ### Transfers -/

/-- The issuing thread stands at the first word of a block; registers but those named are as before. -/
def Entered (target : W64) (b : Block) (rs : List RegRef) (s t : State) : Prop :=
  OnlyThread s t ∧ SameMemory s t ∧ Thread.sameBut rs s.me t.me ∧
    t.me = { s.me with
      g := t.me.g, q := t.me.q, m := t.me.m, v := t.me.v, bh := t.me.bh, pc := t.me.pc, block := t.me.block, fetch := none
      crc := t.me.crc, blocked := none, hold := .none, rhdr := t.me.rhdr, rword := t.me.rword, restarts := t.me.restarts
      ckr := t.me.ckr, prog := t.me.prog, genCk := t.me.genCk, region := t.me.region, restarted := t.me.restarted } ∧
    t.me.bh = target.setWidth 19 ∧ t.me.pc = target.setWidth 19 + 8 ∧ t.me.block = some b

/-- BR and CALL: guard, target, transfer kind (Table 2-3) and link register (R88). -/
def displacementForm (t : Thread) : Instr → Option (Guard × W64 × Nat × BitVec 4)
  | .br o g => some (g, t.bh.setWidth 64 + 8 * o.signExtend 64, 1, 0)
  | .call o g => some (g, t.bh.setWidth 64 + 8 * o.signExtend 64, 2, 15)
  | _ => none

/-- JMP, JCALL and RET: guard, target register, transfer kind and link register (R89). -/
def registerForm : Instr → Option (Guard × GSrc × Nat × BitVec 4)
  | .jmp a g => some (g, a, 3, 0)
  | .jcall d a g => some (g, a, 4, d)
  | .ret a g => some (g, a, 5, 0)
  | _ => none

/-- The issuing thread has ended (R90): it issues nothing more, its waits are withdrawn, its registers and what it has in
flight stay. -/
def Ended (s t : State) : Prop :=
  t = { s with threads := t.threads, waits := t.waits, accs := t.accs } ∧
    (∀ k, k ≠ tidKey s.cur → t.threads.look k = s.threads.look k) ∧ SameMemory s t ∧
    t.waits = s.waits.filter (fun w => w.tid ≠ s.cur) ∧
    t.accs = s.accs.filter (fun a => a.tid ≠ s.cur ∨ a.op ≠ .key) ∧
    Thread.sameBut [] s.me t.me ∧ t.me.life = .ended ∧ t.me.pending = s.me.pending ∧ t.me.pjoin = none

/-- TPC lies on no word of the block whose header TINFO3 names (R101). -/
abbrev OffBlock (s : State) : Prop :=
  (s.me.tinfo[3].setWidth 19).toNat + 8 ≤ Config.scratchBytes →
    ∀ w, w < hdrLen (BitVec.ofNat 64 (s.peek (scratchAt s.cur.core (s.me.tinfo[3].setWidth 19).toNat) 8)) →
      s.me.tpc.toNat ≠ (s.me.tinfo[3].setWidth 19).toNat + 8 + 4 * w

end Sys2Proof.Claims

/-- R66 for the instructions that a thread executes itself: with a false guard an instruction has no effect and raises no
trap, whatever else it needs; a transfer that is not taken goes on to the word behind it. -/
def Obligations.FalseGuard : Prop :=
  ∀ (i : Instr) (g : Guard) (n : Nat) (s : State), guardForm i = some (g, n) → s.me.declines g →
    ∃ t, exec i s = .next t ∧ Retires n [] s t

/-- R47, R48 and R66 for the ALU instructions of two sources: an empty guard blocks; an empty source with E = 1 traps with
EMPTY naming the first such field, whatever else is empty; other empty sources and an empty destination block, in that
order. -/
def Sys2Proof.Claims.EmptyOperands : Prop :=
  ∀ (i : Instr) (d : BitVec 4) (a b : GSrc) (g : Guard) (s : State), twoSource i = some (d, a, b, g) →
    (s.me.full (.q g.q) = false →
      ∃ t, exec i s = .next t ∧ Blocks [⟨.q g.q, g.q.toNat, .guard⟩] s t) ∧
    (s.me.passes g → a.e = true → s.me.full (.g a.r) = false → ∀ blk, CanTrap s blk →
      ∃ t, exec i s = .next t ∧ Trapped ⟨.empty, BitVec.ofNat 64 (16 + a.r.toNat), 0, 0⟩ (s.me.pc.setWidth 64) blk s t) ∧
    (s.me.passes g → (a.e = true → s.me.full (.g a.r) = true) → b.e = true → s.me.full (.g b.r) = false →
      ∀ blk, CanTrap s blk →
      ∃ t, exec i s = .next t ∧ Trapped ⟨.empty, BitVec.ofNat 64 (16 + b.r.toNat), 0, 0⟩ (s.me.pc.setWidth 64) blk s t) ∧
    (s.me.passes g → a.e = false → b.e = false → s.me.full (.g a.r) = false → s.me.full (.g b.r) = false →
      s.me.full (.g d) = false →
      ∃ t, exec i s = .next t ∧
        Blocks [⟨.g a.r, a.r.toNat, .source⟩, ⟨.g b.r, b.r.toNat, .source⟩, ⟨.g d, d.toNat, .dest⟩] s t) ∧
    (s.me.passes g → s.me.readable [.g a.r, .g b.r] → s.me.full (.g d) = false →
      ∃ t, exec i s = .next t ∧ Blocks [⟨.g d, d.toNat, .dest⟩] s t) ∧
    (s.me.passes g → (s.me.full (.g a.r) = true → s.me.bad (.g a.r) = false) →
      (s.me.full (.g b.r) = true → s.me.bad (.g b.r) = false) → (s.me.full (.g a.r) = false → a.e = false) →
      (s.me.full (.g b.r) = false → b.e = false) → s.me.full (.g a.r) = false ∨ s.me.full (.g b.r) = false →
      ∃ t, exec i s = .next t ∧ Blocks
        ((if s.me.full (.g a.r) then [] else [⟨.g a.r, a.r.toNat, .source⟩]) ++
          (if s.me.full (.g b.r) then [] else [⟨.g b.r, b.r.toNat, .source⟩]) ++
          (if s.me.full (.g d) then [] else [⟨.g d, d.toNat, .dest⟩])) s t)

/-- R313 for the ALU instructions of two sources: reading a poisoned source raises POISON, which names the field of the first
that is poisoned. -/
def Sys2Proof.Claims.PoisonedSource : Prop :=
  ∀ (i : Instr) (d : BitVec 4) (a b : GSrc) (g : Guard) (s : State) (blk : Block), twoSource i = some (d, a, b, g) →
    s.me.passes g → s.me.full (.g a.r) = true → s.me.full (.g b.r) = true → CanTrap s blk →
    (s.me.bad (.g a.r) = true →
      ∃ t, exec i s = .next t ∧
        Trapped ⟨.poison, BitVec.ofNat 64 ((if a.e then 16 else 0) + a.r.toNat), 0, 1⟩ (s.me.pc.setWidth 64) blk s t) ∧
    (s.me.bad (.g a.r) = false → s.me.bad (.g b.r) = true →
      ∃ t, exec i s = .next t ∧
        Trapped ⟨.poison, BitVec.ofNat 64 ((if b.e then 16 else 0) + b.r.toNat), 0, 1⟩ (s.me.pc.setWidth 64) blk s t)

/-- R69, R70, R209 and R260: in a user slot TLBI, CHAIN and a write of a supervisor's register trap with PRIVILEGE, which
names the word, before any operand is looked at. -/
def Sys2Proof.Claims.Privilege : Prop :=
  ∀ (i : Instr) (g : Guard) (s : State) (blk : Block), supervisorForm i = some g → s.me.passes g → s.cur.slot ≠ 0 →
    CanTrap s blk →
    ∃ t, exec i s = .next t ∧ Trapped ⟨.privilege, s.me.curWord.setWidth 64, 0, 0⟩ (s.me.pc.setWidth 64) blk s t

/-- R98 to R100: TRAP, BRK and SYS take their trap: the cause, TPC and TINFO that each defines, at the handler's block. The
word of R98 is TRAP #7. -/
def Obligations.TrapInstructions : Prop :=
  decode 0x580000E0 0 = .ok (.trap 7 ⟨false, 0⟩) ∧
  ∀ (s : State) (blk : Block), CanTrap s blk → (s.me.advance 1).mismatch = false →
    (∀ (i : BitVec 11) (g : Guard), s.me.passes g →
      ∃ t, exec (.trap i g) s = .next t ∧ Trapped ⟨.trap, i.signExtend 64, 0, 0⟩ (BitVec.ofNat 64 s.me.nh) blk s t) ∧
    (∀ g : Guard, s.me.passes g →
      ∃ t, exec (.brk g) s = .next t ∧ Trapped ⟨.brk, 0, 0, 0⟩ (s.me.pc.setWidth 64) blk s t) ∧
    (∀ (a b : GSrc) (g : Guard), s.me.passes g → s.me.readable [.g a.r, .g b.r] →
      ∃ t, exec (.sys a b g) s = .next t ∧
        Trapped ⟨.sys, s.me.rG a.r, s.me.rG b.r, 0⟩ (BitVec.ofNat 64 s.me.nh) blk s t)

/-- R61, R98 to R100, R310 and R313: a trap (BRK, TRAP and SYS, PRIVILEGE, and EMPTY or POISON of a two-source instruction) while
a handler runs, or one whose handler header lies at or above XB or fails R54, enters no handler: the thread stops with its
registers as they were, and the fault waits for its record, with event 2 for a POISON of a handler and else 0; slot 0 halts its
core. -/
def Sys2Proof.Claims.DoubleEntry : Prop :=
  ∀ (i : Instr) (f : FaultInfo) (tpc : W64) (s : State), raised s i = some (f, tpc) →
    (s.me.inHandler = true ∨ fetchAt s s.cur.core (s.me.tvb.setWidth 64) .trapEntry = .overlay ∨
      ∃ h, fetchAt s s.cur.core (s.me.tvb.setWidth 64) .trapEntry = .bad h) →
    ∃ t, exec i s = .next t ∧ SameMemory s t ∧ Thread.sameBut [] s.me t.me ∧ t.me.life = .stopped ∧
      (∃ counts, t.me.stop =
        some ⟨if s.me.inHandler = true ∧ f.cause = .poison then 2 else 0, f, tpc, s.me.bh.setWidth 64, counts⟩) ∧
      t.me.tcause = s.me.tcause ∧ t.me.tpc = s.me.tpc ∧ t.me.tinfo = s.me.tinfo ∧ t.me.inHandler = s.me.inHandler ∧
      t.me.pc = s.me.pc ∧ t.me.bh = s.me.bh ∧
      (∀ k, k ≠ tidKey s.cur → t.threads.look k = s.threads.look k) ∧
      (t.core s.cur.core).halted = (decide (s.cur.slot = 0) || (s.core s.cur.core).halted)

/-- R88: BR and CALL go to the header at BH + 8 × sext(disp21), which is fetched; CALL writes NH to G15 first. That the link of
a block which ends at the top of the scratchpad is 0x8_0000 is the model's choice (log 95). -/
def Sys2Proof.Claims.DisplacementTransfers : Prop :=
  ∀ (i : Instr) (g : Guard) (target : W64) (kind : Nat) (d : BitVec 4) (s : State) (b : Block),
    displacementForm s.me i = some (g, target, kind, d) → s.me.passes g → s.me.full (.g d) = true →
    (s.me.advance 1).mismatch = false → s.me.pjoin = none → fetchAt s s.cur.core target (.transfer kind) = .block b →
    ∃ t, exec i s = .next t ∧ Entered target b [.g d] s t ∧ (d ≠ 0 → t.me.rG d = BitVec.ofNat 64 s.me.nh)

/-- R59 and R89: JMP, JCALL and RET go to the header that Ga names; JCALL reads Ga before it writes NH to Gd. A target of 0
ends the thread, and one that is no multiple of 8 traps with ALIGN; neither writes the link. The link of a block at the top of
the scratchpad is the model's choice (log 95). -/
def Sys2Proof.Claims.RegisterTransfers : Prop :=
  ∀ (i : Instr) (g : Guard) (a : GSrc) (kind : Nat) (d : BitVec 4) (s : State) (b : Block),
    registerForm i = some (g, a, kind, d) → s.me.passes g → s.me.readable [.g a.r] → s.me.full (.g d) = true →
    (s.me.advance 1).mismatch = false → s.me.pjoin = none →
    (s.me.rG a.r ≠ 0 → (s.me.rG a.r).toNat % 8 = 0 → fetchAt s s.cur.core (s.me.rG a.r) (.transfer kind) = .block b →
      ∃ t, exec i s = .next t ∧ Entered (s.me.rG a.r) b [.g d] s t ∧ (d ≠ 0 → t.me.rG d = BitVec.ofNat 64 s.me.nh)) ∧
    (s.me.rG a.r = 0 → ∃ t, exec i s = .next t ∧ Ended s t) ∧
    ((s.me.rG a.r).toNat % 8 ≠ 0 → CanTrap s b →
      ∃ t, exec i s = .next t ∧ Trapped ⟨.align, s.me.rG a.r, 0, 0⟩ (s.me.pc.setWidth 64) b s t)

/-- R90: EXIT ends the thread; its accesses already issued go on. -/
def Sys2Proof.Claims.ThreadExit : Prop :=
  ∀ (g : Guard) (s : State), s.me.passes g → (s.me.advance 1).mismatch = false → s.me.pjoin = none →
    ∃ t, exec (.exit g) s = .next t ∧ Ended s t

/-- R101 and R308: RFT clears TSTAT.IN and TSTAT.DEF. When TCAUSE is not 0 and TPC lies on a word of the block that TINFO3
names, the thread resumes at that word, with the block fetched afresh and not compared. Otherwise, with TCAUSE 0 or with TPC on
no word of that block, TPC is the header of a block, which is entered at its first word; 0 ends the thread, and an address that
is no multiple of 8 traps with ALIGN. With no handler running RFT is ILLEGAL. -/
def Obligations.HandlerReturn : Prop :=
  (∀ (g : Guard) (s : State) (b : Block) (w : Nat), s.me.passes g → (s.me.advance 1).mismatch = false →
    s.me.pjoin = none → s.me.inHandler = true → s.me.tcause &&& 0xFF ≠ 0 →
    (s.me.tinfo[3].setWidth 19).toNat + 8 ≤ Config.scratchBytes →
    s.me.tpc.toNat = (s.me.tinfo[3].setWidth 19).toNat + 8 + 4 * w →
    w < hdrLen (BitVec.ofNat 64 (s.peek (scratchAt s.cur.core (s.me.tinfo[3].setWidth 19).toNat) 8)) →
    fetchAt s s.cur.core ((s.me.tinfo[3].setWidth 19).setWidth 64) (.resume w false) = .block b →
    ∃ t, exec (.rft g) s = .next t ∧ OnlyThread s t ∧ SameMemory s t ∧ Thread.sameBut [] s.me t.me ∧
      t.me.inHandler = false ∧ t.me.deferred = false ∧ t.me.bh = s.me.tinfo[3].setWidth 19 ∧
      t.me.pc = s.me.tinfo[3].setWidth 19 + BitVec.ofNat 19 (8 + 4 * w) ∧ t.me.block = some { b with compare := false } ∧
      t.me.tcause = s.me.tcause ∧ t.me.tpc = s.me.tpc ∧ t.me.tinfo = s.me.tinfo ∧ t.me.flg = s.me.flg) ∧
  (∀ (g : Guard) (s : State) (b : Block), s.me.passes g → (s.me.advance 1).mismatch = false →
    s.me.pjoin = none → s.me.inHandler = true → s.me.tcause &&& 0xFF = 0 ∨ OffBlock s →
    (s.me.tpc ≠ 0 → s.me.tpc.toNat % 8 = 0 → fetchAt s s.cur.core s.me.tpc (.transfer 6) = .block b →
      ∃ t, exec (.rft g) s = .next t ∧ OnlyThread s t ∧ SameMemory s t ∧ Thread.sameBut [] s.me t.me ∧
        t.me.inHandler = false ∧ t.me.deferred = false ∧ t.me.bh = s.me.tpc.setWidth 19 ∧
        t.me.pc = s.me.tpc.setWidth 19 + 8 ∧ t.me.block = some b ∧ t.me.tcause = s.me.tcause ∧ t.me.tpc = s.me.tpc ∧
        t.me.tinfo = s.me.tinfo ∧ t.me.flg = s.me.flg) ∧
    (s.me.tpc = 0 → ∃ t, exec (.rft g) s = .next t ∧ Ended s t) ∧
    (s.me.tpc.toNat % 8 ≠ 0 → fetchAt s s.cur.core (s.me.tvb.setWidth 64) .trapEntry = .block b →
      ∃ t, exec (.rft g) s = .next t ∧ Trapped ⟨.align, s.me.tpc, 0, 0⟩ (s.me.pc.setWidth 64) b s t)) ∧
  (∀ (g : Guard) (s : State) (b : Block), s.me.passes g → (s.me.advance 1).mismatch = false →
    s.me.inHandler = false → CanTrap s b →
    ∃ t, exec (.rft g) s = .next t ∧
      Trapped ⟨.illegal, s.me.curWord.setWidth 64, 0, 0⟩ (s.me.pc.setWidth 64) b s t)

/-! ### System registers -/

namespace Sys2Proof.Claims

/-- A thread but for its G, Q, M and V registers, what issue moves, and the list of its answers to come. -/
def sameIssued (x y : Thread) : Prop := Thread.sameRest { x with pending := y.pending } y

/-- An instruction of one word has retired; what it does is in flight. Its thread changes in the registers named and in
its list of answers to come at most; other threads and memory are as before. -/
def Sends (rs : List RegRef) (s t : State) : Prop :=
  (∀ k, k ≠ tidKey s.cur → t.threads.look k = s.threads.look k) ∧ SameMemory s t ∧ Thread.sameBut rs s.me t.me ∧
    sameIssued s.me t.me ∧ t.me.pc = s.me.pc + 4 ∧ t.me.blocked = none ∧ t.cur = s.cur

/-- The last of the thread's answers to come is that of instruction `id`: the register it fills, how many answers it needs,
and the value so far. The register is empty. -/
def AwaitsLast (id : Nat) (dst : Option RegRef) (left : Nat) (val : PVal) (s t : State) : Prop :=
  (∃ p, t.me.pending = s.me.pending ++ [p] ∧ p.id = id ∧ p.word = s.me.pc.toNat ∧ p.dst = dst ∧ p.also = none ∧
    p.left = left ∧ p.val = val ∧ p.refused = [] ∧ p.flags = none ∧ p.void = false) ∧
  ∀ r, dst = some r → t.me.full r = false

/-- The access that the issuing thread adds to those in flight, as the answer of the instruction of the next name. -/
def newAccess (s : State) (op : AccOp) (ea : W64) (len : Nat) : Acc :=
  ⟨s.nextId + 1, s.cur, s.me.ctxh, s.me.space, .thread s.nextId 0, s.me.pc.toNat, op, ea, len,
    startTrans s.cur.core op ea, false, false, (s.core s.cur.core).xb, inWindow (s.core s.cur.core) ea, false, s.nextId + 1⟩

/-- What a read of a system register of a thread gives: near, or at the register's unit; `sel` is the strand and wavelength that
SCSEL named as the read issued (R343). -/
def readRegister (s : State) (tid : Tid) (sel : BitVec 13) (n : Nat) : W64 := (nearReg s tid n).getD (farReg s tid sel n)

/-- The bits that a write of a register of thread or core scope, or of PVC, changes (Table 2-8); the others are reserved
and read as 0. -/
def writtenBits : Nat → Option W64
  | 0x010 => some 0xFFFFF
  | 0x011 | 0x012 | 0x067 => some 0x7FFFF
  | 0x013 => some 0xFF
  | 0x014 | 0x015 | 0x016 | 0x017 | 0x018 | 0x020 | 0x021 | 0x022 | 0x023 | 0x065 => some 0xFFFFFFFFFFFFFFFF
  | 0x019 => some 0x3FFFFFF
  | 0x01A => some 0xFFFFFFFF
  | 0x050 | 0x074 => some 0xFFFF
  | 0x060 => some 0x7FFFF00000003
  | 0x070 => some 0x1FFF
  | _ => none

/-- A register write has taken effect: it is no longer on its way, and its thread is no longer held for it. -/
def WriteDone (w : RegWrite) (s t : State) : Prop :=
  t.regWrites = s.regWrites.filter (fun v => v.id ≠ w.id) ∧ SameMemory s t ∧
    ((s.th w.tid).hold = .regWrite w.id → (t.th w.tid).hold = .none)

end Sys2Proof.Claims

/-- R96, R70 and R104: SRD of a register of thread or core scope writes Gd at once; SRD of TAPER or of another register of a wider
scope empties Gd (but G0, which holds no result) and asks the register's unit, which answers with the value at acceptance. SRD of
FLG waits for earlier flags (R169). That a read of TAPER is accepted at its unit, as those of the other registers of die scope
are, is the reading of log 46. -/
def Sys2Proof.Claims.SystemReads : Prop :=
  ∀ (d : BitVec 4) (n : BitVec 11) (g : Guard) (s : State), s.me.passes g → s.me.full (.g d) = true →
    (n = 0x01B → s.me.flagsPending = true →
      ∃ t, exec (.srd d n g) s = .next t ∧ OnlyThread s t ∧ SameMemory s t ∧
        t.me = { s.me with hold := .flg, blocked := none }) ∧
    (∀ x, nearReg s s.cur n.toNat = some x → (n = 0x01B → s.me.flagsPending = false) →
      ∃ t, exec (.srd d n g) s = .next t ∧ Retires 1 [.g d] s t ∧ t.me.rG d = (if d = 0 then 0 else x)) ∧
    (nearReg s s.cur n.toNat = none →
      ∃ t, exec (.srd d n g) s = .next t ∧ Sends [.g d] s t ∧
        t.accs = s.accs ++ [newAccess s (.sysreg n.toNat s.me.scsel) 0 0] ∧
        AwaitsLast s.nextId (if d = 0 then none else some (.g d)) 1 (.g 0) s t)

/-- R70 and R96: SWR of FLG takes effect at once, after the thread's earlier SWRs, for which it is held; of another register it
sends the write on its way, and the thread is held for it but for the registers of slice, strand and package scope. A value
outside the register's limits is ILLEGAL. -/
def Sys2Proof.Claims.SystemWrites : Prop :=
  ∀ (a : GSrc) (n : BitVec 11) (g : Guard) (s : State), s.me.passes g → s.me.readable [.g a.r] →
    (SysReg.supervisor n = true → s.cur.slot = 0) → (n = 0x01B → s.me.flagsPending = false) →
    (n = 0x01B → ∀ w, (s.regWrites.filter fun w => w.tid = s.cur).getLast? = some w →
      ∃ t, exec (.swr a n g) s = .next t ∧ OnlyThread s t ∧ SameMemory s t ∧
        t.me = { s.me with hold := .regWrite w.id, blocked := none }) ∧
    (valueOk s s.cur n.toNat (s.me.rG a.r) = false → ∀ b, CanTrap s b →
      ∃ t, exec (.swr a n g) s = .next t ∧ Trapped ⟨.illegal, s.me.curWord.setWidth 64, 0, 0⟩ (s.me.pc.setWidth 64) b s t) ∧
    (n = 0x01B → (∀ w ∈ s.regWrites, w.tid ≠ s.cur) →
      ∃ t, exec (.swr a n g) s = .next t ∧ OnlyThread s t ∧ SameMemory s t ∧ Thread.sameBut [] s.me t.me ∧
        Thread.sameRest { s.me with flg := (s.me.rG a.r).setWidth 6 } t.me ∧ t.me.pc = s.me.pc + 4) ∧
    (n ≠ 0x01B → valueOk s s.cur n.toNat (s.me.rG a.r) = true →
      ∃ t, exec (.swr a n g) s = .next t ∧ Sends [] s t ∧ t.me.pending = s.me.pending ∧
        t.regWrites = s.regWrites ++ [⟨s.nextId, s.cur, n.toNat, s.me.rG a.r, s.me.scsel⟩] ∧
        t.me.hold = if n.toNat ∈ [0x040, 0x041, 0x071, 0x074, 0x080] then .none else .regWrite s.nextId)

/-- R45, R70 and R96: a write of a register of thread or core scope, or of PVC, takes effect: the register then reads as
the value written with its reserved bits 0, and every other register reads as before. -/
def Sys2Proof.Claims.RegisterWriteEffect : Prop :=
  ∀ (k : Nat) (w : RegWrite) (s : State) (m : W64), findWrite s k = some w → writtenBits w.reg = some m →
    ∃ t, exec (.registerWrite k) s = .next t ∧ WriteDone w s t ∧
      (∀ sel, readRegister t w.tid sel w.reg = w.val &&& m ∧
        ∀ n, n ≠ w.reg → readRegister t w.tid sel n = readRegister s w.tid sel n) ∧
      (∀ j, j ≠ tidKey w.tid → t.threads.look j = s.threads.look j)

/-- R166, R288, R342, R343, R352, R385, R383 and R169: the writes of SEED, AGT, AGK, PART, SCCTL and HACK take effect, and a
held access to FLG issues. A PART that has meanwhile come outside the limits of R352 writes nothing, and its SWR traps with
ILLEGAL; the second look at the limits is the model's choice (log 111). -/
def Sys2Proof.Claims.WiderWriteEffects : Prop :=
  (∀ (k : Nat) (w : RegWrite) (s : State), findWrite s k = some w → w.reg = 0x01C →
    ∃ t, exec (.seedWrite k) s = .next t ∧ WriteDone w s t ∧ (t.th w.tid).seed = w.val.setWidth 32 ∧
      (t.th w.tid).gen = genSeeds (w.val.setWidth 32)) ∧
  (∀ (k : Nat) (w : RegWrite) (s : State), findWrite s k = some w → w.reg = 0x040 ∨ w.reg = 0x041 →
    ∃ t, exec (.agreementWrite k) s = .next t ∧ WriteDone w s t ∧
      ∀ sel, readRegister t w.tid sel w.reg = w.val &&& 0xFFFFFFFF) ∧
  (∀ (k : Nat) (w : RegWrite) (s : State), findWrite s k = some w → w.reg = 0x051 →
    (valueOk s w.tid 0x051 w.val = true →
      ∃ t, exec (.partWrite k) s = .next t ∧ WriteDone w s t ∧
        ∀ sel, readRegister t w.tid sel 0x051 = w.val &&& 0xFFFFFFFFFFFFFFF) ∧
    (valueOk s w.tid 0x051 w.val = false → (s.th w.tid).hold = .regWrite k → (s.th w.tid).inHandler = false →
      (∃ b, fetchAt s w.tid.core ((s.th w.tid).tvb.setWidth 64) .trapEntry = .block b) →
      ∃ t, exec (.partWrite k) s = .next t ∧ SameMemory s t ∧ t.dies = s.dies ∧
        t.regWrites = s.regWrites.filter (fun v => v.id ≠ w.id) ∧ (t.th w.tid).tcause = 1 ∧
        (t.th w.tid).tpc = (s.th w.tid).pc.setWidth 64 - 4 ∧ (t.th w.tid).inHandler = true ∧
        (t.th w.tid).bh = (s.th w.tid).tvb)) ∧
  (∀ (k : Nat) (w : RegWrite) (s : State), findWrite s k = some w → w.reg = 0x071 →
    ∃ t, exec (.scctlWrite k) s = .next t ∧ WriteDone w s t ∧
      (t.strand w.tid.core.node (scStrand w.sel)).park = w.val.setWidth 3 ∧
      (t.strand w.tid.core.node (scStrand w.sel)).wake = (w.val >>> 8).setWidth 8 ∧
      (t.strand w.tid.core.node (scStrand w.sel)).retired = (s.strand w.tid.core.node (scStrand w.sel)).retired) ∧
  (∀ (k : Nat) (w : RegWrite) (s : State), findWrite s k = some w → w.reg = 0x080 →
    ∃ t, exec (.hackWrite k) s = .next t ∧ WriteDone w s t ∧
      (if w.val.setWidth 32 < (s.pkg w.tid.core.node).hack then
        (t.pkg w.tid.core.node).hack = (s.pkg w.tid.core.node).hack ∧ (t.pkg w.tid.core.node).fifo = (s.pkg w.tid.core.node).fifo
       else
        (t.pkg w.tid.core.node).hack = w.val.setWidth 32 ∧
        (t.pkg w.tid.core.node).fifo = (s.pkg w.tid.core.node).fifo.filter
          (fun r => (w.val.setWidth 32).toNat < recHseq r))) ∧
  (∀ (tid : Tid) (s : State), (s.th tid).hold = .flg → (s.th tid).flagsPending = false →
    ∃ t, exec (.flgAccess tid) s = .next t ∧ t = { s with threads := t.threads } ∧
      (∀ j, j ≠ tidKey tid → t.threads.look j = s.threads.look j) ∧ t.th tid = { s.th tid with hold := .none })

/-! ### Scalar memory instructions -/

namespace Sys2Proof.Claims

/-- A scalar memory instruction of one answer (R93, R212 to R214): guard, registers read, destination, what its access does
at the home, its address, its bytes, and whether it writes a tag. -/
def accessForm (t : Thread) : Instr → Option (Guard × List RegRef × BitVec 4 × AccOp × W64 × Nat × Bool)
  | .ld d a z x o g =>
    some (g, [.g a.r], d, .load x, t.rG a.r + o.signExtend 64 * BitVec.ofNat 64 z.bytes, z.bytes, false)
  | .st d a z o g =>
    some (g, [.g d.r, .g a.r], 0, .store (leBytes (t.rG d.r).toNat z.bytes),
      t.rG a.r + o.signExtend 64 * BitVec.ofNat 64 z.bytes, z.bytes, false)
  | .stfw a b g => some (g, [.g a.r, .g b.r], 0, .stf (leBytes (t.rG b.r).toNat 4), t.rG a.r, 4, true)
  | .stfd a b g => some (g, [.g a.r, .g b.r], 0, .stf (leBytes (t.rG b.r).toNat 8), t.rG a.r, 8, true)
  | .sete a g => some (g, [.g a.r], 0, .sete, t.rG a.r, 4, true)
  | .setf a g => some (g, [.g a.r], 0, .setf, t.rG a.r, 4, true)
  | .aadd d a b z g => some (g, [.g a.r, .g b.r], d, .atom .add (t.rG b.r) 0, t.rG a.r, if z then 8 else 4, false)
  | .aand d a b z g => some (g, [.g a.r, .g b.r], d, .atom .and (t.rG b.r) 0, t.rG a.r, if z then 8 else 4, false)
  | .aor d a b z g => some (g, [.g a.r, .g b.r], d, .atom .or (t.rG b.r) 0, t.rG a.r, if z then 8 else 4, false)
  | .axor d a b z g => some (g, [.g a.r, .g b.r], d, .atom .xor (t.rG b.r) 0, t.rG a.r, if z then 8 else 4, false)
  | .amin d a b z g => some (g, [.g a.r, .g b.r], d, .atom .min (t.rG b.r) 0, t.rG a.r, if z then 8 else 4, false)
  | .amax d a b z g => some (g, [.g a.r, .g b.r], d, .atom .max (t.rG b.r) 0, t.rG a.r, if z then 8 else 4, false)
  | .aminu d a b z g => some (g, [.g a.r, .g b.r], d, .atom .minu (t.rG b.r) 0, t.rG a.r, if z then 8 else 4, false)
  | .amaxu d a b z g => some (g, [.g a.r, .g b.r], d, .atom .maxu (t.rG b.r) 0, t.rG a.r, if z then 8 else 4, false)
  | .axchg d a b z g => some (g, [.g a.r, .g b.r], d, .atom .xchg (t.rG b.r) 0, t.rG a.r, if z then 8 else 4, false)
  | .acas d a b z g =>
    some (g, [.g d, .g a.r, .g b.r], d, .atom .cas (t.rG b.r) (t.rG d), t.rG a.r, if z then 8 else 4, false)
  | .redadd a b z g => some (g, [.g a.r, .g b.r], 0, .red .add (t.rG b.r), t.rG a.r, if z then 8 else 4, false)
  | .redand a b z g => some (g, [.g a.r, .g b.r], 0, .red .and (t.rG b.r), t.rG a.r, if z then 8 else 4, false)
  | .redor a b z g => some (g, [.g a.r, .g b.r], 0, .red .or (t.rG b.r), t.rG a.r, if z then 8 else 4, false)
  | .redxor a b z g => some (g, [.g a.r, .g b.r], 0, .red .xor (t.rG b.r), t.rG a.r, if z then 8 else 4, false)
  | .redmin a b z g => some (g, [.g a.r, .g b.r], 0, .red .min (t.rG b.r), t.rG a.r, if z then 8 else 4, false)
  | .redmax a b z g => some (g, [.g a.r, .g b.r], 0, .red .max (t.rG b.r), t.rG a.r, if z then 8 else 4, false)
  | .redminu a b z g => some (g, [.g a.r, .g b.r], 0, .red .minu (t.rG b.r), t.rG a.r, if z then 8 else 4, false)
  | .redmaxu a b z g => some (g, [.g a.r, .g b.r], 0, .red .maxu (t.rG b.r), t.rG a.r, if z then 8 else 4, false)
  | _ => none

/-- An access that only reads. -/
def loads : AccOp → Bool
  | .load _ => true
  | _ => false

/-- The unit of a thread's access arrives at its home in the thread's own package and is not refused. -/
abbrev Arrives (s : State) (k : Nat) (a : Acc) (pid : Nat) (p : Phys) : Prop :=
  s.acc? k = some a ∧ a.agent = .thread pid 0 ∧ a.place = some p ∧ p.node = a.tid.core.node ∧ mayAccept s a p = true ∧
    mustPromote s a p = false ∧ a.refusal p (settleAcc a s) = none

/-- An instruction that fills no register and needs one more answer. -/
abbrev NeedsAnswer (s : State) (tid : Tid) (pid : Nat) : Prop :=
  ∃ q, (s.th tid).pend? pid = some q ∧ q.left = 1 ∧ q.refused = [] ∧ q.dst = none ∧ q.also = none ∧ q.val = .g 0

/-- An instruction that fills Gd, other than G0, and needs one more answer. -/
abbrev NeedsValue (s : State) (tid : Tid) (pid : Nat) (d : BitVec 4) : Prop :=
  d ≠ 0 ∧ (∃ q, (s.th tid).pend? pid = some q ∧ q.left = 1 ∧ q.refused = [] ∧ q.dst = some (.g d) ∧ q.also = none ∧
    q.val = .g 0) ∧ ∀ w ∈ s.waits, w.tid = tid → w.seq ≠ pid

/-- No deferred predicate of the thread is to be written to Qn. -/
abbrev NotDeferred (s : State) (tid : Tid) (q : BitVec 4) : Prop := ∀ e ∈ (s.th tid).deferredQ, e.q ≠ q

/-- The source that ACCESS names for a tagged access that reaches no scratchpad: 2 for an address of nothing, 4 for an agent's
words, 5 elsewhere (log 19). -/
def TaggedSource (c : CoreId) (ea : W64) (src : W64) : Prop :=
  (classify c ea = .nothing ∧ src = 2) ∨
  (∃ p k j, classify c ea = .place p ∧ p.region = .agent k j ∧ src = 4) ∨
  ((classify c ea = .virt ∨ ∃ p, classify c ea = .place p ∧ ((∃ k, p.region = .bstack k) ∨ p.region = .hbm)) ∧ src = 5)

/-- Bytes outside the `n` of a place are unchanged. -/
def OnlyBytes (p : Phys) (n : Nat) (s t : State) : Prop := ∀ k, k < p.key ∨ p.key + n ≤ k → t.byteAt k = s.byteAt k

end Sys2Proof.Claims

/-- R93, R212 to R214 and R92: LD, ST, STFW, STFD, SETE, SETF, the atomics and the reductions, on an aligned address that
their checks at issue allow, empty their destination, put one access in flight and retire. -/
def Sys2Proof.Claims.MemoryIssue : Prop :=
  ∀ (i : Instr) (s : State) (g : Guard) (rs : List RegRef) (d : BitVec 4) (op : AccOp) (ea : W64) (n : Nat) (tag : Bool),
    accessForm s.me i = some (g, rs, d, op, ea, n, tag) → s.me.passes g → s.me.readable rs → s.me.full (.g d) = true →
    ea.toNat % n = 0 → (loads op = false → ownXB s ea = false) → (tag = true → ∃ p, taggedPlace s.cur.core ea = .ok p) →
    ∃ t, exec i s = .next t ∧ Sends [.g d] s t ∧ t.me.hold = .none ∧
      t = { s with threads := t.threads, accs := s.accs ++ [newAccess s op ea n], nextId := s.nextId + 2 } ∧
      AwaitsLast s.nextId (if d = 0 then none else some (.g d)) 1 (.g 0) s t

/-- R272: STFL, with an aligned address and a flag address of a cluster window, puts its store in flight and needs two
answers, the second that of the flag. -/
def Sys2Proof.Claims.FlaggedStoreIssue : Prop :=
  ∀ (i : Instr) (d a b : GSrc) (g : Guard) (n : Nat) (s : State),
    (i = .stflw d a b g ∧ n = 4) ∨ (i = .stfld d a b g ∧ n = 8) → s.me.passes g →
    s.me.readable [.g d.r, .g a.r, .g b.r] → (s.me.rG a.r).toNat % n = 0 → flagAddrFault (s.me.rG d.r) = none →
    ownXB s (s.me.rG a.r) = false →
    ∃ t, exec i s = .next t ∧ Sends [] s t ∧ t.me.hold = .none ∧
      t.accs = s.accs ++ [newAccess s (.stfl (leBytes (s.me.rG b.r).toNat n)) (s.me.rG a.r) n] ∧
      AwaitsLast s.nextId none 2 (.flag (s.me.rG d.r) 64 s.cur.core.node .awaited) s t

/-- R92, R63, R94 and R142: at issue a scalar memory instruction raises ALIGN for an address that is no multiple of its
size; a store of a user slot below the own XB (source 3), and a tagged access outside scratchpad, raise ACCESS (a tagged one to
no memory source 2, to an agent's words source 4, elsewhere 5: log 19), with the address in TINFO0. -/
def Sys2Proof.Claims.MemoryIssueTraps : Prop :=
  ∀ (i : Instr) (s : State) (g : Guard) (rs : List RegRef) (d : BitVec 4) (op : AccOp) (ea : W64) (n : Nat) (tag : Bool)
    (b : Block),
    accessForm s.me i = some (g, rs, d, op, ea, n, tag) → s.me.passes g → s.me.readable rs → s.me.full (.g d) = true →
    CanTrap s b →
    (ea.toNat % n ≠ 0 →
      ∃ t, exec i s = .next t ∧ Trapped ⟨.align, ea, 0, 0⟩ (s.me.pc.setWidth 64) b s t) ∧
    (ea.toNat % n = 0 → tag = true → ∀ src, TaggedSource s.cur.core ea src →
      ∃ t, exec i s = .next t ∧ Trapped ⟨.access, ea, 0, src⟩ (s.me.pc.setWidth 64) b s t) ∧
    (ea.toNat % n = 0 → loads op = false → ownXB s ea = true → (tag = true → ∃ p, taggedPlace s.cur.core ea = .ok p) →
      ∃ t, exec i s = .next t ∧ Trapped ⟨.access, ea, 0, 3⟩ (s.me.pc.setWidth 64) b s t)

/-- R93 and R213: an accepted LD or atomic fills Gd, the LD with its bytes, extended as its form says, the atomic with the
old value; an LD changes no memory, and an atomic its own bytes only, to the value of its operation. -/
def Sys2Proof.Claims.LoadAcceptance : Prop :=
  ∀ (k : Nat) (a : Acc) (pid : Nat) (p : Phys) (d : BitVec 4) (s : State), Arrives s k a pid p →
    NeedsValue s a.tid pid d →
    (∀ sx, a.op = .load sx →
      ∃ t u, exec (.memoryAccessAccept k) s = .next t ∧ SameMemory s t ∧ exec (.resultFill a.tid pid) t = .next u ∧
        SameMemory s u ∧ (u.th a.tid).full (.g d) = true ∧ (u.th a.tid).rG d = extendLoad sx a.len (s.peek p a.len)) ∧
    (∀ o v e, a.op = .atom o v e →
      ∃ t u, exec (.memoryAccessAccept k) s = .next t ∧ OnlyBytes p a.len s t ∧
        t.peek p a.len = o.eval a.len (s.peek p a.len) (v.toNat % 2 ^ (8 * a.len)) (e.toNat % 2 ^ (8 * a.len)) %
          2 ^ (8 * a.len) ∧
        t.empties = s.empties ∧ t.poisoned = s.poisoned ∧ exec (.resultFill a.tid pid) t = .next u ∧ SameMemory t u ∧
        (u.th a.tid).full (.g d) = true ∧ (u.th a.tid).rG d = BitVec.ofNat 64 (s.peek p a.len))

/-- R93, R212 and R214: an accepted ST or reduction changes its own bytes only, to the register's low bytes or to the value
of its operation; SETE empties its word's tag, SETF with no waiter fills it, and neither changes a byte; STFW and STFD with
no waiter change their bytes and fill their words; the instruction then needs no further answer. -/
def Sys2Proof.Claims.StoreAcceptance : Prop :=
  ∀ (k : Nat) (a : Acc) (pid : Nat) (p : Phys) (s : State), Arrives s k a pid p → NeedsAnswer s a.tid pid →
    (∃ c j, p.region = .scratch c j ∨ p.region = .bstack c ∨ p.region = .hbm) →
    (∀ x n, a.op = .store (leBytes x n) →
      ∃ t, exec (.memoryAccessAccept k) s = .next t ∧ OnlyBytes p n s t ∧ t.peek p n = x % 2 ^ (8 * n) ∧
        t.empties = s.empties ∧ (t.th a.tid).pend? pid = none) ∧
    (∀ o v, a.op = .red o v →
      ∃ t, exec (.memoryAccessAccept k) s = .next t ∧ OnlyBytes p a.len s t ∧ t.empties = s.empties ∧
        t.peek p a.len = o.eval a.len (s.peek p a.len) (v.toNat % 2 ^ (8 * a.len)) 0 % 2 ^ (8 * a.len) ∧
        t.poisoned = s.poisoned ∧ (t.th a.tid).pend? pid = none) ∧
    (a.op = .sete →
      ∃ t, exec (.memoryAccessAccept k) s = .next t ∧ (∀ j, t.byteAt j = s.byteAt j) ∧ t.isFull p = false ∧
        (∀ q : Phys, q.key / 4 ≠ p.key / 4 → t.isFull q = s.isFull q) ∧ (t.th a.tid).pend? pid = none) ∧
    (a.op = .setf → s.waits = [] →
      ∃ t, exec (.memoryAccessAccept k) s = .next t ∧ (∀ j, t.byteAt j = s.byteAt j) ∧ t.isFull p = true ∧
        (∀ q : Phys, q.key / 4 ≠ p.key / 4 → t.isFull q = s.isFull q) ∧ (t.th a.tid).pend? pid = none) ∧
    (∀ x n, a.op = .stf (leBytes x n) → n = 4 ∨ n = 8 → p.off % n = 0 → s.waits = [] →
      ∃ t, exec (.memoryAccessAccept k) s = .next t ∧ OnlyBytes p n s t ∧ t.peek p n = x % 2 ^ (8 * n) ∧
        t.isFull p = true ∧ (n = 8 → t.isFull (p.plus 4) = true) ∧
        (∀ q : Phys, q.key / 4 ≠ p.key / 4 → (n = 8 → q.key / 4 ≠ p.key / 4 + 1) → t.isFull q = s.isFull q) ∧
        (t.th a.tid).pend? pid = none)

/-- R143: a word that becomes full serves the waits queued on it in order of acceptance: an LDSW takes its value and leaves it
full, an LDCW takes its value and empties it, so that a second LDCW stays queued. -/
def Sys2Proof.Claims.WaiterService : Prop :=
  ∀ (k : Nat) (a : Acc) (pid : Nat) (p : Phys) (w : QWait) (d : BitVec 4) (s : State), Arrives s k a pid p →
    NeedsAnswer s a.tid pid → a.op = .setf → w.isQueued = true → w.place = some p → NotDeferred s w.tid w.q →
    (w.kind = .ldsw d → s.waits = [w] →
      ∃ t, exec (.memoryAccessAccept k) s = .next t ∧ (∀ j, t.byteAt j = s.byteAt j) ∧ t.waits = [] ∧ t.isFull p = true ∧
        (t.th w.tid).hold = .none ∧ (t.th w.tid).full (.g d) = true ∧
        (t.th w.tid).rG d = (if d = 0 then 0 else BitVec.ofNat 64 (s.peek p 4)) ∧ (t.th w.tid).full (.q w.q) = true ∧
        (t.th w.tid).rQ w.q = true) ∧
    (w.kind = .ldcw d → ∀ w₂ d₂, s.waits = [w] ∨
        (s.waits = [w, w₂] ∧ w₂.isQueued = true ∧ w₂.place = some p ∧ w₂.kind = .ldcw d₂ ∧ w₂.seq ≠ w.seq) →
      ∃ t, exec (.memoryAccessAccept k) s = .next t ∧ (∀ j, t.byteAt j = s.byteAt j) ∧ t.waits = s.waits.drop 1 ∧
        t.isFull p = false ∧ (t.th w.tid).hold = .none ∧ (t.th w.tid).full (.g d) = true ∧
        (t.th w.tid).rG d = (if d = 0 then 0 else BitVec.ofNat 64 (s.peek p 4)) ∧ (t.th w.tid).full (.q w.q) = true ∧
        (t.th w.tid).rQ w.q = true)

/-- R96 and R218: an accepted read of a register of a wider scope fills Gd with the register as it then stands; a refused
access, whose home answers with a cause, changes no memory and reports that cause to its thread (R308). -/
def Sys2Proof.Claims.RegisterReadAndRefusal : Prop :=
  (∀ (k : Nat) (a : Acc) (pid n : Nat) (sel : BitVec 13) (d : BitVec 4) (s : State), s.acc? k = some a →
    a.agent = .thread pid 0 → a.op = .sysreg n sel → (n = 0 → taperBefore s a = false) → NeedsValue s a.tid pid d →
    ∃ t u, exec (.memoryAccessAccept k) s = .next t ∧ exec (.resultFill a.tid pid) t = .next u ∧ SameMemory s u ∧
      (u.th a.tid).full (.g d) = true ∧ (u.th a.tid).rG d = farReg s a.tid sel n) ∧
  (∀ (k : Nat) (a : Acc) (pid : Nat) (p : Phys) (f : FaultInfo) (q : Pending) (s : State), s.acc? k = some a →
    a.agent = .thread pid 0 → a.place = some p → p.node = a.tid.core.node → mayAccept s a p = true →
    mustPromote s a p = false → a.op ≠ .join → (∀ n sel, a.op ≠ .sysreg n sel) → (∀ ws, a.op ≠ .port ws) →
    a.refusal p (settleAcc a s) = some f →
    (s.th a.tid).pend? pid = some q → q.left = 1 → q.refused = [] → q.vector = false → q.void = false → (∃ x, q.val = .g x) →
    ∃ t, exec (.memoryAccessAccept k) s = .next t ∧ SameMemory s t ∧
      (t.th a.tid).answers = (s.th a.tid).answers ++ [⟨f, q.word, q.region, pid, q.load, false⟩] ∧
      (∀ j, j ≠ tidKey a.tid → t.threads.look j = s.threads.look j))

/-! ### Fences and TLBI -/

/-- R233 to R236: FENCE orders nothing when the scope is THR or no earlier access is in flight, else it is recorded;
FENCESC.THR completes at once, FENCESC of another scope holds its thread until its earlier accesses homed there are
accepted or refused, though a refusal may still be on its way to the thread (log 44). -/
def Sys2Proof.Claims.Fences : Prop :=
  (∀ (sc : Scope) (g : Guard) (s : State), s.me.passes g →
    ∃ t, exec (.fence sc g) s = .next t ∧ Sends [] s t ∧ t.me.pending = s.me.pending ∧ t.me.hold = .none ∧
      t.accs = s.accs ∧
      t.fences = if sc = .thread ∨ (earlier s s.cur s.nextId = [] ∧ flagsOut s s.cur s.nextId = []) then s.fences
        else s.fences ++ [⟨s.cur, s.nextId, sc⟩]) ∧
  (∀ (sc : Scope) (g : Guard) (s : State), s.me.passes g →
    ∃ t, exec (.fencesc sc g) s = .next t ∧ OnlyThread s t ∧ Sends [] s t ∧ t.me.pending = s.me.pending ∧
      t.me.hold = if sc = .thread then .none else .fencesc sc) ∧
  (∀ (tid : Tid) (sc : Scope) (s : State), (s.th tid).hold = .fencesc sc → drained s tid s.nextId sc = true →
    ∃ t, exec (.fencescDrainEnd tid) s = .next t ∧ t = { s with threads := t.threads } ∧
      (∀ j, j ≠ tidKey tid → t.threads.look j = s.threads.look j) ∧ t.th tid = { s.th tid with hold := .none })

/-- R209: the agents within the reach of a TLBI: 0 the issuing core's, 1 those of its die, 2 of its package, 3 of every package of the
connected group that is the own or is reached over a live PATH. -/
def Sys2Proof.Claims.InvalidationReach : Prop :=
  ∀ (s : State) (tid : Tid) (c : CoreId),
    (c ∈ tlbiReach s tid 0 ↔ c = tid.core) ∧
    (c ∈ tlbiReach s tid 1 ↔ c.node = tid.core.node ∧ c.die = tid.core.die ∧ c.cluster < 44 ∧ c.core < 8) ∧
    (c ∈ tlbiReach s tid 2 ↔ c.node = tid.core.node ∧ c.die < 4 ∧ c.cluster < 44 ∧ c.core < 8) ∧
    (c ∈ tlbiReach s tid 3 ↔ c.node ∈ s.group ∧ (c.node = tid.core.node ∨ pathLive s tid.core.node (s.th tid).ctxh c.node = true) ∧
      c.die < 4 ∧ c.cluster < 44 ∧ c.core < 8)

/-- R209: TLBI in slot 0 removes the selected leaves from every cache of a core and of a cluster within its reach and holds its
thread until every agent has acknowledged; units of engines that used a removed leaf are translated again, but for those on their
way to another package, which it awaits with the accesses of threads. An agent acknowledges when none of these is still
unsettled. With the last acknowledgement the leaves that were fetched meanwhile go too, and the thread is ready, unless an access
on its way was translated with a leaf that the tables no longer hold. That the leaves go at once and each agent answers later is
log 51; the second removal, and that reach 0 leaves the leaf in the cluster's cache for its other cores alone, are log 125. KIND 3 is ILLEGAL. -/
def Sys2Proof.Claims.TranslationInvalidation : Prop :=
  (∀ (a b : GSrc) (g : Guard) (s : State), s.me.passes g → s.cur.slot = 0 → s.me.readable [.g a.r, .g b.r] →
    (bits (s.me.rG b.r) 16 2 ≠ 3 →
      ∃ t, exec (.tlbi a b g) s = .next t ∧ Sends [] s t ∧ t.me.pending = s.me.pending ∧ t.me.hold = .tlbi s.nextId ∧
        (∀ c, c ∈ tlbiReach s s.cur (bits (s.me.rG b.r) 18 2) → coreOfKey (coreKey c) = c → ∀ e ∈ (t.core c).cache,
          e.selected (bits (s.me.rG b.r) 16 2) (BitVec.ofNat 16 (bits (s.me.rG b.r) 0 16)) (s.me.rG a.r) = false) ∧
        (∀ k, bits (s.me.rG b.r) 18 2 ≠ 0 → coreIn k 0 ∈ tlbiReach s s.cur (bits (s.me.rG b.r) 18 2) →
          clusterOfKey (clusterKey k) = k → ∀ e ∈ (t.cluster k).cache,
          e.selected (bits (s.me.rG b.r) 16 2) (BitVec.ofNat 16 (bits (s.me.rG b.r) 0 16)) (s.me.rG a.r) = false) ∧
        (bits (s.me.rG b.r) 18 2 = 0 → ∀ e ∈ (t.cluster (clusterOf s.cur.core)).cache,
          e.selected (bits (s.me.rG b.r) 16 2) (BitVec.ofNat 16 (bits (s.me.rG b.r) 0 16)) (s.me.rG a.r) = true →
          s.cur.core.core ∈ e.barred) ∧
        ∃ ids, t.tlbis = s.tlbis ++ [⟨s.nextId, s.cur, tlbiReach s s.cur (bits (s.me.rG b.r) 18 2), ids,
            tlbiReach s s.cur (bits (s.me.rG b.r) 18 2), bits (s.me.rG b.r) 16 2, BitVec.ofNat 16 (bits (s.me.rG b.r) 0 16),
            s.me.rG a.r, bits (s.me.rG b.r) 18 2⟩] ∧
          ∀ y ∈ s.accs, y.tid.core ∈ tlbiReach s s.cur (bits (s.me.rG b.r) 18 2) →
            y.selected (bits (s.me.rG b.r) 16 2) (BitVec.ofNat 16 (bits (s.me.rG b.r) 0 16)) (s.me.rG a.r) = true →
            if y.ofThread = true ∨ y.sent = true then y ∈ t.accs ∧ y.id ∈ ids else { y with trans := .need } ∈ t.accs) ∧
    (bits (s.me.rG b.r) 16 2 = 3 → ∀ blk, CanTrap s blk →
      ∃ t, exec (.tlbi a b g) s = .next t ∧ Trapped ⟨.illegal, s.me.rG b.r, 0, 0⟩ (s.me.pc.setWidth 64) blk s t)) ∧
  (∀ (k : Nat) (c : CoreId) (r : TlbiReq) (s : State), s.tlbis.find? (fun r => r.id = k) = some r → c ∈ r.waiting →
    (∀ a ∈ s.accs, a.tid.core = c → a.id ∈ r.accs → a.accepted = true) →
    ∃ t, exec (.tlbiAck k c) s = .next t ∧ SameMemory s t ∧
      (if r.waiting.all (fun x => x = c) then
        (∀ d ∈ r.cores, coreOfKey (coreKey d) = d → ∀ e ∈ (t.core d).cache, e.selected r.kind r.space r.va = false) ∧
        (∀ d, r.reach ≠ 0 → coreIn d 0 ∈ r.cores → clusterOfKey (clusterKey d) = d →
          ∀ e ∈ (t.cluster d).cache, e.selected r.kind r.space r.va = false) ∧
        (∀ d ∈ r.cores, r.reach = 0 → ∀ e ∈ (t.cluster (clusterOf d)).cache, e.selected r.kind r.space r.va = true →
          d.core ∈ e.barred) ∧
        (if s.accs.any (fun x => (x.ofThread || x.sent) && r.stale s x) then
          t.tlbis = s.tlbis ∧ (t.th r.tid).hold = (s.th r.tid).hold
         else
          t.tlbis = s.tlbis.filter (fun x => x.id ≠ k) ∧ ((s.th r.tid).hold = .tlbi k → (t.th r.tid).hold = .none))
       else
        t.tlbis.find? (fun r => r.id = k) = some { r with waiting := r.waiting.filter (· ≠ c) } ∧
          t = { s with tlbis := t.tlbis }))

/-! ### Waits -/

namespace Sys2Proof.Claims

/-- The waits but LLOCK (Table 5-3): guard, registers read, the G register written, the predicate, what is waited for, the
word's address, the timeout, and the alignment of a word (0: not a wait on a word). -/
def waitForm (t : Thread) :
    Instr → Option (Guard × List RegRef × Option (BitVec 4) × BitVec 4 × WaitKind × W64 × Nat × Nat)
  | .waitf a b q g => some (g, [.g a.r, .g b.r], none, q, .full, t.rG a.r, (t.rG b.r).toNat % 2 ^ 32, 4)
  | .waitm d a b q g =>
    some (g, [.g d.r, .g a.r, .g b.r], none, q, .matches_ ((t.rG d.r).setWidth 32), t.rG a.r, (t.rG b.r).toNat % 2 ^ 32, 4)
  | .waitt a b q g => some (g, [.g a.r, .g b.r], none, q, .taper (t.rG a.r), 0, (t.rG b.r).toNat % 2 ^ 32, 0)
  | .waitid a b q g => some (g, [.g a.r, .g b.r], none, q, .jobs (t.rG a.r), 0, (t.rG b.r).toNat % 2 ^ 32, 0)
  | .bar j b q g => some (g, [.g b.r], none, q, .bar (t.j[j.toNat]'j.isLt), 0, (t.rG b.r).toNat % 2 ^ 32, 0)
  | .recvw d a b q g =>
    some (g, [.g d, .g a.r, .g b.r], some d, q, .ring ((t.rG d).setWidth 32) d, t.rG a.r, (t.rG b.r).toNat % 2 ^ 32, 4)
  | .ldsw d a b q g => some (g, [.g a.r, .g b.r], some d, q, .ldsw d, t.rG a.r, (t.rG b.r).toNat % 2 ^ 32, 4)
  | .ldsd d a b q g => some (g, [.g a.r, .g b.r], some d, q, .ldsd d, t.rG a.r, (t.rG b.r).toNat % 2 ^ 32, 8)
  | .ldcw d a b q g => some (g, [.g a.r, .g b.r], some d, q, .ldcw d, t.rG a.r, (t.rG b.r).toNat % 2 ^ 32, 4)
  | .ldcd d a b q g => some (g, [.g a.r, .g b.r], some d, q, .ldcd d, t.rG a.r, (t.rG b.r).toNat % 2 ^ 32, 8)
  | _ => none

/-- The registers that a wait writes. -/
def waitRegs (d : Option (BitVec 4)) (q : BitVec 4) : List RegRef :=
  match d with
  | some d => [.g d, .q q]
  | none => [.q q]

/-- A wait that its thread has just issued. -/
def newWait (s : State) (kind : WaitKind) (addr : W64) (q : BitVec 4) (tmo : Nat) : QWait :=
  ⟨s.nextId, s.cur, s.me.ctxh, s.me.pc.toNat, kind, addr, q, tmo, .sent, none, none⟩

/-- The condition of a wait on a word, by Table 5-3: the word, the doubleword, the tags of its two words; with the value
that Gd takes. -/
def wordSucceeds : WaitKind → Nat → Nat → Bool → Bool → Option W64
  | .full, _, _, f, _ => if f then some 0 else none
  | .matches_ v, x, _, f, _ => if f ∧ BitVec.ofNat 64 x = v.setWidth 64 then some 0 else none
  | .ring old _, x, _, f, _ => if f ∧ BitVec.ofNat 64 x ≠ old.setWidth 64 then some (BitVec.ofNat 64 x) else none
  | .ldsw _, x, _, f, _ | .ldcw _, x, _, f, _ => if f then some (BitVec.ofNat 64 x) else none
  | .ldsd _, _, y, f, f2 | .ldcd _, _, y, f, f2 => if f ∧ f2 then some (BitVec.ofNat 64 y) else none
  | _, _, _, _, _ => none

/-- The words whose tags a successful wait empties. -/
def wordsTaken : WaitKind → Nat
  | .ldcw _ => 1
  | .ldcd _ => 2
  | _ => 0

/-- A wait on a word. -/
def onWord : WaitKind → Bool
  | .full | .matches_ _ | .ring _ _ | .ldsw _ | .ldsd _ | .ldcw _ | .ldcd _ => true
  | _ => false

/-- A wait has ended: it is withdrawn, its thread is no longer held, Qn is full with the result and Gd, if the wait writes
one, with its value (none: as before). No byte of memory and no other thread has changed. -/
def WaitEnds (w : QWait) (ok : Bool) (x : Option W64) (s t : State) : Prop :=
  t.waits = s.waits.filter (fun v => v.seq ≠ w.seq) ∧ (t.th w.tid).hold = .none ∧
    (w.q ≠ 0 → (t.th w.tid).full (.q w.q) = true ∧ (t.th w.tid).rQ w.q = ok) ∧
    (∀ d, w.gd = some d → d ≠ 0 →
      (t.th w.tid).full (.g d) = true ∧ (t.th w.tid).rG d = x.getD ((s.th w.tid).rG d)) ∧
    (∀ j, j ≠ tidKey w.tid → t.threads.look j = s.threads.look j) ∧ ∀ k, t.byteAt k = s.byteAt k

/-- The wait of a thread that is on its way to its deciding place. -/
abbrev SentWait (s : State) (tid : Tid) (w : QWait) : Prop :=
  s.waits.find? (fun w => decide (w.tid = tid) && decide (w.stage = .sent)) = some w ∧ w.tid = tid ∧ NotDeferred s tid w.q

/-- The value of Gd when a wait of a kind times out: 0, but RECVW's keeps its value. -/
def lateValue : WaitKind → Option W64
  | .ring _ _ => none
  | _ => some 0

end Sys2Proof.Claims

/-- R139, R140 and Table 5-3: a wait on a suitable place empties its registers, goes on its way to its deciding place, and
holds its thread. LLOCK sends its key on its way as well (R146). -/
def Obligations.WaitIssue : Prop :=
  (∀ (i : Instr) (s : State) (g : Guard) (rs : List RegRef) (d : Option (BitVec 4)) (q : BitVec 4) (kind : WaitKind)
    (addr : W64) (tmo n : Nat),
    waitForm s.me i = some (g, rs, d, q, kind, addr, tmo, n) → s.me.passes g → s.me.readable rs →
    s.me.allFull (waitRegs d q) → (n ≠ 0 → addr.toNat % n = 0 ∧ ∃ p, taggedPlace s.cur.core addr = .ok p) →
    ∃ t, exec i s = .next t ∧ Sends (waitRegs d q) s t ∧ t.me.pending = s.me.pending ∧ t.me.hold = .wait ∧
      t = { s with threads := t.threads, waits := s.waits ++ [newWait s kind addr q tmo], nextId := s.nextId + 1 } ∧
      ∀ r ∈ waitRegs d q, r ≠ .g 0 → r ≠ .q 0 → t.me.full r = false) ∧
  (∀ (d : BitVec 4) (a b : GSrc) (q : BitVec 4) (g : Guard) (s : State), s.me.passes g → s.me.readable [.g a.r, .g b.r] →
    s.me.allFull [.g d, .q q] → (s.me.rG a.r).toNat % 64 = 0 → classify s.cur.core (s.me.rG a.r) ≠ .nothing →
    ∃ t, exec (.llock d a b q g) s = .next t ∧ Sends [.g d, .q q] s t ∧ t.me.pending = s.me.pending ∧ t.me.hold = .wait ∧
      t.waits = s.waits ++ [newWait s (.lock ((s.me.rG b.r).toNat % 2 ^ 32) d) (s.me.rG a.r) q ((s.me.rG b.r).toNat / 2 ^ 32)] ∧
      t.accs = s.accs ++ [⟨s.nextId + 1, s.cur, s.me.ctxh, s.me.space, .lockKey s.nextId, s.me.pc.toNat, .key, s.me.rG a.r, 64,
        startTrans s.cur.core .key (s.me.rG a.r), false, false, (s.core s.cur.core).xb,
        inWindow (s.core s.cur.core) (s.me.rG a.r), false, s.nextId + 1⟩] ∧
      ∀ r ∈ [RegRef.g d, .q q], r ≠ .g 0 → r ≠ .q 0 → t.me.full r = false)

/-- R140 to R143: a wait on a word that its home does not refuse succeeds when its condition holds at acceptance and no wait
queued before it takes the word first, emptying the words that LDCW and LDCD take; with a timeout of 0 it ends at once with
Qn 0; else it queues from the present taper. An older WAITM on the word, whose value it has meanwhile come to hold, succeeds
before the LDCW that arrives. -/
def Sys2Proof.Claims.WordWaitAcceptance : Prop :=
  ∀ (tid : Tid) (i : Nat) (w : QWait) (p : Phys) (s : State), SentWait s tid w → onWord w.kind = true →
    w.place = some p → wordMayAccept s w p = true →
    homeRefusal s tid w.ctx p w.addr (if w.double then 8 else 4) (.load false) = none →
    (∀ v d m, s.waits = [v, w] → v.kind = .matches_ m → v.isQueued = true → v.place = some p → v.seq ≠ w.seq → v.tid ≠ tid →
      NotDeferred s v.tid v.q → w.kind = .ldcw d → s.isFull p = true → s.peek p 4 = m.toNat →
      ∃ t, exec (.waitAccept tid i) s = .next t ∧ t.waits = [] ∧ t.isFull p = false ∧ (t.th v.tid).hold = .none ∧
        (t.th v.tid).rQ v.q = true ∧ (t.th tid).hold = .none ∧ (t.th tid).rQ w.q = true ∧
        (t.th tid).rG d = (if d = 0 then 0 else m.setWidth 64)) ∧
    ((∀ v ∈ s.waits, v.isQueued = true → ∀ y, v.place = some y →
        wordSucceeds v.kind (s.peek y 4) (s.peek y 8) (s.isFull y) (s.isFull (y.plus 4)) = none) →
    (∀ x, wordSucceeds w.kind (s.peek p 4) (s.peek p 8) (s.isFull p) (s.isFull (p.plus 4)) = some x →
      ∃ t, exec (.waitAccept tid i) s = .next t ∧ WaitEnds w true (some x) s t ∧ t.poisoned = s.poisoned ∧
        (1 ≤ wordsTaken w.kind → t.isFull p = false) ∧ (wordsTaken w.kind = 2 → t.isFull (p.plus 4) = false) ∧
        (wordsTaken w.kind = 0 → t.empties = s.empties)) ∧
    (wordSucceeds w.kind (s.peek p 4) (s.peek p 8) (s.isFull p) (s.isFull (p.plus 4)) = none → w.t = 0 →
      ∃ t, exec (.waitAccept tid i) s = .next t ∧ WaitEnds w false (lateValue w.kind) s t ∧ SameMemory s t) ∧
    (wordSucceeds w.kind (s.peek p 4) (s.peek p 8) (s.isFull p) (s.isFull (p.plus 4)) = none → w.t ≠ 0 →
      ∃ t, exec (.waitAccept tid i) s = .next t ∧ t = { s with waits := t.waits } ∧
        t.waits = s.waits.filter (fun v => v.seq ≠ w.seq) ++ [{ w with stage := .queued (s.taper p.node) }]))

/-- R144 and R145: WAITT succeeds when the taper has reached its value, WAITID when CDONE has; a barrier with all members
arrived is won by every waiter of its phase, each of which then waits for the accesses of all of them; otherwise each waits, or ends at once when its timeout is 0, as a barrier's
arrival does that does not complete its phase. -/
def Sys2Proof.Claims.OtherWaitAcceptance : Prop :=
  ∀ (tid : Tid) (i : Nat) (w : QWait) (s : State), SentWait s tid w →
    (∀ a ok, ((w.kind = .taper a ∧ ok = decide (a.toNat ≤ s.taper tid.core.node)) ∨
        (w.kind = .jobs a ∧ ok = decide (a.toNat ≤ (s.th tid).cdone))) → ok = true ∨ w.t = 0 →
      ∃ t, exec (.waitAccept tid i) s = .next t ∧ WaitEnds w ok (some 0) s t ∧ SameMemory s t) ∧
    (∀ a, (w.kind = .taper a ∧ s.taper tid.core.node < a.toNat) ∨ (w.kind = .jobs a ∧ (s.th tid).cdone < a.toNat) →
      w.t ≠ 0 →
      ∃ t, exec (.waitAccept tid i) s = .next t ∧ t = { s with waits := t.waits } ∧
        t.waits = s.waits.filter (fun v => v.seq ≠ w.seq) ++ [{ w with stage := .queued (s.taper tid.core.node) }]) ∧
    (∀ x h j l n ts team, w.kind = .bar x → x ≠ 0 → pathRefusal s tid w.ctx x = none → wayOpen s (hHome x).node tid.core.node = true →
      handleHeld s tid.core.node x = false → present s x = .live h j l → l.body = .group n ts team →
      ((barQueue s x).length + 1 = n →
        ∃ t, exec (.waitAccept tid i) s = .next t ∧ t = { s with waits := t.waits } ∧
          t.waits = s.waits.map fun v =>
            if v.seq = w.seq ∨ ∃ u ∈ barQueue s x, u.seq = v.seq then
              { v with stage := .won ((barQueue s x ++ [w]).map fun u => (u.tid, u.seq)) (groupScope ts) }
            else v) ∧
      ((barQueue s x).length + 1 ≠ n → w.t = 0 →
        ∃ t, exec (.waitAccept tid i) s = .next t ∧ WaitEnds w false (some 0) s t ∧ SameMemory s t) ∧
      ((barQueue s x).length + 1 ≠ n → w.t ≠ 0 →
        ∃ t, exec (.waitAccept tid i) s = .next t ∧ t = { s with waits := t.waits } ∧
          t.waits = s.waits.filter (fun v => v.seq ≠ w.seq) ++ [{ w with stage := .queued (s.taper h.node) }]))

/-- R146, R112 and R117: LLOCK on a lock that no thread holds or waits for is granted: a LOCK lease begins in the entry
that the home reserves, Gd takes its handle and Qn is 1. A thread that holds the lock already gets refusal 3. That an LLOCK
waits behind an earlier FENCE as a write of its key would is the model's choice (log 103). -/
def Sys2Proof.Claims.LockAcceptance : Prop :=
  ∀ (tid : Tid) (i life : Nat) (d : BitVec 4) (w : QWait) (a : Acc) (p : Phys) (s : State), SentWait s tid w →
    w.kind = .lock life d → s.accs.find? (fun a => a.agent = .lockKey w.seq) = some a → a.trans = .done p →
    a.reaches s = true → wayOpen s p.node tid.core.node = true → translatedBefore s tid w.seq = true → fencesAllow s tid w.seq p false = true → isSystem s p = false → granuleCheck s w.ctx p w.addr = none →
    (lockAt s p.home p.key = none → (s.die p.home).locks.length < Config.lockEntries → someEntry s p.home = true →
      entryReady s p.home i = true → lockQueue s p.home p.key = [] →
      ∃ t, exec (.waitAccept tid i) s = .next t ∧
        WaitEnds w true (some (handleOf p.home .lock i (s.lease p.home i).gen)) s t ∧ SameMemory s t ∧
        t.lease p.home i = ⟨.live, .lock, (s.lease p.home i).gen, s.taper p.node + min life Config.maxLife, s.taper p.node,
          w.ctx, 0, .lock w.addr p.key tid false, false⟩ ∧
        lockAt t p.home p.key = some ⟨p.key, w.addr, some i, none, 0⟩) ∧
    (∀ k, lockAt s p.home p.key = some k → holdsLock s p.home k tid = true →
      ∃ t, exec (.waitAccept tid i) s = .next t ∧ WaitEnds w false (some 3) s t ∧ SameMemory s t)

/-- R140, R145 and R346: at its boundary a queued wait ends with Qn 0; a barrier that is won ends with Qn 1 once every arrival's
earlier accesses homed in the phase's scope have drained. What is decided in another package is answered once the circuits of its
way are not being changed, and waits for that at its home; where no way is left, its thread takes LAPSED with source 4 (the model's
choice: log 145). -/
def Sys2Proof.Claims.WaitEndings : Prop :=
  (∀ (tid : Tid) (w : QWait) (s : State),
    s.waits.find? (fun w => decide (w.tid = tid) && w.due s) = some w → w.key = none →
    (wayOpen s w.node w.tid.core.node = true → NotDeferred s tid w.q →
      ∃ t, exec (.waitTimeout tid) s = .next t ∧ WaitEnds w false (lateValue w.kind) s t ∧ SameMemory s t) ∧
    (answerHeld s w.node w.tid.core.node = true →
      ∃ t, exec (.waitTimeout tid) s = .next t ∧ t = { s with waits := t.waits } ∧
        t.waits = s.waits.map fun v => if v.seq = w.seq then { v with stage := .answered false (lateValue w.kind) none, resv := none, key := none } else v)) ∧
  (∀ (tid : Tid) (w : QWait) (ds : List (Tid × Nat)) (sc : Scope) (s : State),
    s.waits.find? (fun v => decide (v.tid = tid) && decide (v.seq = w.seq)) = some w → w.gd = none →
    wayOpen s w.node w.tid.core.node = true → w.stage = .won ds sc → (∀ d ∈ ds, drained s d.1 d.2 sc = true) → NotDeferred s tid w.q →
    ∃ t, exec (.resultFill tid w.seq) s = .next t ∧ WaitEnds w true none s t ∧ SameMemory s t) ∧
  (∀ (tid : Tid) (w : QWait) (ok : Bool) (x : Option W64) (s : State),
    s.waits.find? (fun v => decide (v.tid = tid) && decide (v.seq = w.seq)) = some w → w.stage = .answered ok x none →
    (wayOpen s w.node w.tid.core.node = true → NotDeferred s tid w.q →
      ∃ t, exec (.resultFill tid w.seq) s = .next t ∧ WaitEnds w ok x s t ∧ SameMemory s t) ∧
    (wayLost s w.node w.tid.core.node = true →
      ∃ t, exec (.resultFill tid w.seq) s = .next t ∧ SameMemory s t ∧ t.waits = s.waits.filter (fun v => v.seq ≠ w.seq) ∧
        (t.th w.tid).answers = (s.th w.tid).answers ++ [⟨⟨.lapsed, 0, 0, 4⟩, w.word, (s.th w.tid).region, w.seq, false, false⟩]))

/-! ### Leases -/

namespace Sys2Proof.Claims

/-- A lease request or a lease instruction that fills registers (Tables 4-4 and 4-9): guard, registers read, Gd, Qn, and
the operands. -/
def leaseForm (t : Thread) : Instr → Option (Guard × List RegRef × BitVec 4 × Option (BitVec 4) × W64 × W64)
  | .lrange d a b q g | .lgroup d a b q g | .lpath d a b q g | .lctx d a b q g =>
    some (g, [.g a.r, .g b.r], d, some q, t.rG a.r, t.rG b.r)
  | .rnw d a b g | .linfo d a b g | .bind d a b g => some (g, [.g a.r, .g b.r], d, none, t.rG a.r, t.rG b.r)
  | .life d a g => some (g, [.g a.r], d, none, t.rG a.r, 0)
  | _ => none

/-- The request of the issuing thread's instruction. -/
def newRequest (s : State) (i : Instr) (a b : W64) : LeaseReq := ⟨s.nextId, s.cur, s.me.ctxh, i, a, b, s.me.pc.toNat, none⟩

/-- The request is an LCTX with an aligned address, whose descriptor is read as a load of the issuing context. -/
def readsDescriptor (a : W64) : Instr → Bool
  | .lctx _ _ _ _ _ => decide (a.toNat % 64 = 0)
  | _ => false

/-- The load of an LCTX's descriptor. -/
def descriptorLoad (s : State) (a : W64) : Acc :=
  ⟨s.nextId + 1, s.cur, s.me.ctxh, s.me.space, .descriptor s.nextId, s.me.pc.toNat, .load false, a, 64,
    startTrans s.cur.core (.load false) a, false, false, (s.core s.cur.core).xb, inWindow (s.core s.cur.core) a, false,
    s.nextId + 1⟩

/-- The answer of a request has come: RESULT_FILL fills Gd with `x` and Qn with `ok`. -/
def AnswersHandle (tid : Tid) (id : Nat) (x : W64) (ok : Bool) (s t : State) : Prop :=
  ∀ (p : Pending) (d q : BitVec 4), (s.th tid).pend? id = some p → p.left = 1 → p.refused = [] → p.dst = some (.g d) →
    p.also = some (.q q) → d ≠ 0 → q ≠ 0 → NotDeferred s tid q → (∀ w ∈ s.waits, w.tid = tid → w.seq ≠ id) →
    ∃ u, exec (.resultFill tid id) t = .next u ∧ SameMemory t u ∧ (u.th tid).full (.g d) = true ∧ (u.th tid).rG d = x ∧
      (u.th tid).full (.q q) = true ∧ (u.th tid).rQ q = ok

/-- The answer of a lease instruction has come: RESULT_FILL fills Gd with `x`. -/
def AnswersValue (tid : Tid) (id : Nat) (x : W64) (s t : State) : Prop :=
  ∀ (p : Pending) (d : BitVec 4), (s.th tid).pend? id = some p → p.left = 1 → p.refused = [] → p.dst = some (.g d) →
    p.also = none → d ≠ 0 → (∀ w ∈ s.waits, w.tid = tid → w.seq ≠ id) →
    ∃ u, exec (.resultFill tid id) t = .next u ∧ SameMemory t u ∧ (u.th tid).full (.g d) = true ∧ (u.th tid).rG d = x

/-- A request of one of the four request instructions is at the service core of its die, which runs (R382). -/
abbrev Requested (s : State) (k : Nat) (r : LeaseReq) : Prop :=
  s.leaseReqs.find? (fun r => decide (r.id = k) && isRequest r.ins) = some r ∧ serviceRuns s (requestHome r) = true

/-- A lease instruction is at its home with a handle that finds a live lease there. -/
abbrev AtHome (s : State) (k : Nat) (r : LeaseReq) (h : DieId) (i : Nat) (l : Lease) : Prop :=
  s.leaseReqs.find? (fun r => decide (r.id = k) && !isRequest r.ins) = some r ∧
    (isRenewal r.ins = true → ∀ x ∈ s.leaseReqs, x.id < k → x.tid = r.tid → x.a = r.a → isRenewal x.ins = false) ∧
    stillHeld s r = true ∧ pathRefusal (dropReq k s) r.tid r.ctx r.a = none ∧ handleHeld s r.tid.core.node r.a = false ∧ present (dropReq k s) r.a = .live h i l

end Sys2Proof.Claims

/-- R122, R123 and R125 to R129: a lease request or instruction empties its registers and goes on its way; the descriptor of an
LCTX is read as a load of the issuing context, an access in flight (log 47); GJOIN and REL hold their thread for the answer. -/
def Obligations.LeaseIssue : Prop :=
  (∀ (i : Instr) (s : State) (g : Guard) (rs : List RegRef) (d : BitVec 4) (q : Option (BitVec 4)) (a b : W64),
    leaseForm s.me i = some (g, rs, d, q, a, b) → s.me.passes g → s.me.readable rs → s.me.allFull (waitRegs (some d) (q.getD 0)) →
    ∃ t p, exec i s = .next t ∧ Sends (waitRegs (some d) (q.getD 0)) s t ∧ t.me.hold = .none ∧
      t = { s with
        threads := t.threads
        leaseReqs := s.leaseReqs ++ [newRequest s i a b]
        accs := if readsDescriptor a i = true then s.accs ++ [descriptorLoad s a] else s.accs
        nextId := if readsDescriptor a i = true then s.nextId + 2 else s.nextId + 1 } ∧
      t.me.pending = s.me.pending ++ [p] ∧ p.id = s.nextId ∧ p.word = s.me.pc.toNat ∧ p.left = 1 ∧ p.refused = [] ∧
      p.dst = (if d = 0 then none else some (.g d)) ∧ p.also = q.map .q ∧
      (d ≠ 0 → t.me.full (.g d) = false) ∧ (∀ x, q = some x → x ≠ 0 → t.me.full (.q x) = false)) ∧
  (∀ (j : BitVec 2) (a : GSrc) (g : Guard) (s : State), s.me.passes g → s.me.readable [.g a.r] →
    ∃ t, exec (.gjoin j a g) s = .next t ∧ Sends [] s t ∧ t.me.pending = s.me.pending ∧
      t.me.hold = .gjoin (s.taper s.cur.core.node) s.nextId ∧
      t = { s with threads := t.threads, leaseReqs := s.leaseReqs ++ [newRequest s (.gjoin j a g) (s.me.rG a.r) 0], nextId := s.nextId + 1 }) ∧
  (∀ (a : GSrc) (sc : Scope) (g : Guard) (s : State), s.me.passes g → s.me.readable [.g a.r] →
    ∃ t, exec (.rel a sc g) s = .next t ∧ Sends [] s t ∧ t.me.pending = s.me.pending ∧
      t.me.hold = .rel (s.me.rG a.r) sc false ∧
      t = { s with threads := t.threads, leaseReqs := s.leaseReqs ++ [newRequest s (.rel a sc g) (s.me.rG a.r) 0], nextId := s.nextId + 1 })

/-- R123, R112 and Table 4-3: a request that is granted makes a live lease in a free entry, with its kind, its body, its
holder and X = taper + min(life, 2^32 − 1), and answers with its handle and Qn 1; a new range reads as zero. -/
def Sys2Proof.Claims.LeaseGrant : Prop :=
  ∀ (k i b n m : Nat) (r : LeaseReq) (kind : LKind) (h2 : W64) (body : LBody) (s : State), Requested s k r →
    decideRequest s r i b = .grant kind h2 body (n, m) → someEntry s (requestHome r) = true →
    entryReady s (requestHome r) i = true →
    ((∀ d x y q g, r.ins ≠ .lrange d x y q g) ∨ bits r.a 40 2 ≠ 0 ∨
      (mappedRun s r.tid (hbmVa b) (roundUp (bits r.a 0 37) 4096) (bits r.a 42 2)).isSome = true) →
    ∃ t, exec (.leaseRequestAnswer k i b) s = .next t ∧
      t.lease (requestHome r) i = ⟨.live, kind, (s.lease (requestHome r) i).gen,
        s.taper (requestHome r).node + min (bits r.b 0 32) Config.maxLife, s.taper (requestHome r).node,
        if kind = .ctx then handleOf (requestHome r) kind i (s.lease (requestHome r) i).gen else r.ctx, h2, body, false⟩ ∧
      (∀ j, j ≠ i → t.lease (requestHome r) j = s.lease (requestHome r) j) ∧
      (∀ j, n ≤ j → j < n + m → t.byteAt j = 0) ∧ (∀ j, j < n ∨ n + m ≤ j → t.byteAt j = s.byteAt j) ∧
      t.leaseReqs = s.leaseReqs.filter (fun r => r.id ≠ k) ∧
      AnswersHandle r.tid k (handleOf (requestHome r) kind i (s.lease (requestHome r) i).gen) true s t

/-- R122 and Table 4-7: LGROUP is refused with 3 for a bad count and with 2 when the group table is full, LPATH with 3 for
its own node or reserved bits and with 4 for a node outside the group; LRANGE with 3 for a malformed word and with 2 where no run
of free memory is long enough, or none is left for the tables that would map it; LCTX with 3 for a bad descriptor; a refusal answers with its code and Qn 0, and so does a request
that finds no entry, with 1. Table 4-7 gives no precedence: that code 1 comes after the others is the model's choice (log 97),
and so is what the service core finds to be no room (log 21). -/
def Sys2Proof.Claims.LeaseRefusals : Prop :=
  (∀ (s : State) (r : LeaseReq) (i b : Nat) (d : BitVec 4) (x y : GSrc) (q : BitVec 4) (g : Guard),
    (r.ins = .lgroup d x y q g →
      (r.a.toNat % 2 ^ 24 = 0 ∨ 2 ^ 24 ≤ r.a.toNat → decideRequest s r i b = .refuse 3) ∧
      (r.a.toNat % 2 ^ 24 ≠ 0 → r.a.toNat < 2 ^ 24 → Config.groupEntries ≤ groupsUsed s (dieOf r.tid.core) →
        decideRequest s r i b = .refuse 2) ∧
      (r.a.toNat % 2 ^ 24 ≠ 0 → r.a.toNat < 2 ^ 24 → groupsUsed s (dieOf r.tid.core) < Config.groupEntries →
        decideRequest s r i b = .grant .group 0 (.group r.a.toNat [] false) (0, 0))) ∧
    (r.ins = .lpath d x y q g →
      (2 ^ 16 ≤ r.a.toNat ∨ r.a.toNat % 2 ^ 16 = r.tid.core.node → decideRequest s r i b = .refuse 3) ∧
      (r.a.toNat < 2 ^ 16 → r.a.toNat ≠ r.tid.core.node → r.a.toNat ∉ s.group → decideRequest s r i b = .refuse 4) ∧
      (r.a.toNat < 2 ^ 16 → r.a.toNat ≠ r.tid.core.node → r.a.toNat ∈ s.group →
        decideRequest s r i b = .grant .path 0 (.path r.a.toNat) (0, 0))) ∧
    (r.ins = .lrange d x y q g → badRange r.a = true → decideRequest s r i b = .refuse 3) ∧
    (r.ins = .lrange d x y q g → badRange r.a = false → i = Config.leaseEntries → noRoom s r = true →
      decideRequest s r i b = .refuse 2) ∧
    (r.ins = .lctx d x y q g →
      (r.a.toNat % 64 ≠ 0 → decideRequest s r i b = .refuse 3) ∧
      (∀ ws, r.a.toNat % 64 = 0 → r.desc = some ws → badDescriptor ws = true → decideRequest s r i b = .refuse 3) ∧
      (∀ ws, r.a.toNat % 64 = 0 → r.desc = some ws → badDescriptor ws = false →
        decideRequest s r i b = .grant .ctx r.ctx
          (.ctx r.a ((wordAt ws 0).setWidth 16) ((wordAt ws 1).setWidth 19)) (0, 0)))) ∧
  (∀ (k i b c : Nat) (r : LeaseReq) (s : State), Requested s k r → decideRequest s r i b = .refuse c →
    ∃ t, exec (.leaseRequestAnswer k i b) s = .next t ∧ SameMemory s t ∧ t.dies = s.dies ∧
      t.leaseReqs = s.leaseReqs.filter (fun r => r.id ≠ k) ∧ AnswersHandle r.tid k (BitVec.ofNat 64 c) false s t) ∧
  (∀ (k i b : Nat) (r : LeaseReq) (kind : LKind) (h2 : W64) (body : LBody) (c : Nat × Nat) (s : State), Requested s k r →
    decideRequest s r i b = .grant kind h2 body c → someEntry s (requestHome r) = false →
    ∃ t, exec (.leaseRequestAnswer k i b) s = .next t ∧ SameMemory s t ∧ t.dies = s.dies ∧
      AnswersHandle r.tid k 1 false s t) ∧
  (∀ (k i b n m : Nat) (r : LeaseReq) (kind : LKind) (h2 : W64) (body : LBody) (u : State) (s : State), Requested s k r →
    decideRequest s r i b = .grant kind h2 body (n, m) → someEntry s (requestHome r) = true →
    entryReady s (requestHome r) i = true →
    u = grantRequest r (requestHome r) i kind h2 body (clearRange n m s) → mapGranted s r b u = .error .full →
    ∃ t, exec (.leaseRequestAnswer k i b) s = .next t ∧ SameMemory s t ∧ t.dies = s.dies ∧
      AnswersHandle r.tid k 2 false s t)

/-- R127: the items of LINFO, kind by kind (Table 4-9). -/
def Sys2Proof.Claims.LeaseItems : Prop :=
  ∀ (s : State) (h : DieId) (l : Lease),
    linfoItem s h l 0 = BitVec.ofNat 64 l.x ∧ linfoItem s h l 4 = BitVec.ofNat 64 (s.taper h.node) ∧
    (∀ n, 5 ≤ n → linfoItem s h l n = 0) ∧
    (∀ base n x y, l.body = .range base n x y →
      linfoItem s h l 1 = base ∧ linfoItem s h l 2 = BitVec.ofNat 64 n ∧ linfoItem s h l 3 = l.holder) ∧
    (∀ key p o x, l.body = .lock key p o x → linfoItem s h l 1 = key ∧ linfoItem s h l 2 = 0 ∧
      bits (linfoItem s h l 3) 0 16 = bits (coreId o.core) 0 16 ∧ bits (linfoItem s h l 3) 16 4 = o.slot % 16 ∧
      bits (linfoItem s h l 3) 20 44 = 0) ∧
    (∀ n ts x, l.body = .group n ts x → linfoItem s h l 1 = BitVec.ofNat 64 n ∧
      linfoItem s h l 2 = BitVec.ofNat 64 ts.length ∧ linfoItem s h l 3 = l.holder) ∧
    (∀ n, l.body = .path n → linfoItem s h l 1 = BitVec.ofNat 64 n ∧ linfoItem s h l 2 = 0 ∧ linfoItem s h l 3 = l.holder) ∧
    (∀ d x y, l.body = .ctx d x y → linfoItem s h l 1 = d ∧ linfoItem s h l 2 = 0 ∧ linfoItem s h l 3 = l.holder2) ∧
    (∀ ep, l.body = .recv ep → linfoItem s h l 1 = 0 ∧ linfoItem s h l 2 = 0 ∧ linfoItem s h l 3 = l.holder)

/-- R118, R125 to R129, R236 and R313: at the home RNW sets X from the taper, but not of a lease whose entry an error has struck, and
answers with the life it set; LIFE answers with the
remaining life of a lease of the own package, LINFO with the item asked for; GJOIN adds its thread to the group, puts the
handle into its slot, and lets the thread go on; BIND records the binding and answers 0; REL's first check refuses a detached hold with LAPSED,
whoever presents it, and another thread's with UNHELD, and else fixes the scope at which it drains. -/
def Obligations.LeaseOperations : Prop :=
  ∀ (k i : Nat) (r : LeaseReq) (h : DieId) (l : Lease) (s : State), AtHome s k r h i l →
    (∀ d a b g, r.ins = .rnw d a b g → i ≠ 0 → (if l.kind = .lock then l.ownedBy r.tid = true else l.heldBy r.ctx = true) →
      ∃ t, exec (.leaseOpAtHome k) s = .next t ∧ SameMemory s t ∧
        t.lease h i = (if l.spoiled then l
          else { l with x := s.taper h.node + min r.b.toNat Config.maxLife, since := s.taper h.node }) ∧
        (∀ j, j ≠ i → t.lease h j = s.lease h j) ∧
        AnswersValue r.tid r.id (BitVec.ofNat 64 (min r.b.toNat Config.maxLife)) s t) ∧
    (∀ d a g, r.ins = .life d a g → l.heldBy r.ctx = true → h.node = r.tid.core.node →
      ∃ t, exec (.leaseOpAtHome k) s = .next t ∧ SameMemory s t ∧ t.dies = s.dies ∧
        AnswersValue r.tid r.id (BitVec.ofNat 64 (l.x - s.taper h.node)) s t) ∧
    (∀ d a b g, r.ins = .linfo d a b g → l.heldBy r.ctx = true →
      ∃ t, exec (.leaseOpAtHome k) s = .next t ∧ SameMemory s t ∧ t.dies = s.dies ∧
        AnswersValue r.tid r.id (linfoItem (dropReq k s) h l (r.b.toNat % 16)) s t) ∧
    (∀ j a g since n ts team, r.ins = .gjoin j a g → (s.th r.tid).hold = .gjoin since r.id → l.body = .group n ts team →
      l.holder = r.ctx → r.tid ∉ ts → ts.length ≠ n →
      ∃ t, exec (.leaseOpAtHome k) s = .next t ∧ SameMemory s t ∧
        t.lease h i = { l with body := .group n (ts ++ [r.tid]) team } ∧ (t.th r.tid).rJ j = r.a ∧
        (t.th r.tid).hold = .none ∧ (∀ x, x ≠ j → (t.th r.tid).rJ x = (s.th r.tid).rJ x)) ∧
    (∀ d a b g hb ib lb key p, r.ins = .bind d a b g → pathRefusal (dropReq k s) r.tid r.ctx r.b = none →
      handleHeld s r.tid.core.node r.b = false →
      present (dropReq k s) r.b = .live hb ib lb → l.kind = .range → lb.body = .lock key p r.tid false → l.holder = r.ctx →
      h.node = hb.node → (∀ x ∈ (s.die h).binds, x.range ≠ i) → (s.die h).binds.length < Config.bindEntries →
      ∃ t, exec (.leaseOpAtHome k) s = .next t ∧ SameMemory s t ∧
        (t.die h).binds = (s.die h).binds ++ [⟨i, hb, p⟩] ∧ AnswersValue r.tid r.id 0 s t) ∧
    (∀ a sc g sc' key p, r.ins = .rel a sc g → (s.th r.tid).hold = .rel r.a sc' false → l.body = .lock key p r.tid false →
      lockQueue s h p = [] →
      ∃ t, exec (.leaseOpAtHome k) s = .next t ∧ SameMemory s t ∧ t.dies = s.dies ∧
        t.th r.tid = { s.th r.tid with hold := .rel r.a sc true }) ∧
    (∀ a sc g sc' key p o det, r.ins = .rel a sc g → (s.th r.tid).hold = .rel r.a sc' false → l.body = .lock key p o det →
      det = true ∨ o ≠ r.tid →
      ∃ t, exec (.leaseOpAtHome k) s = .next t ∧ SameMemory s t ∧ t.dies = s.dies ∧
        (t.th r.tid).answers = (s.th r.tid).answers ++
          [⟨⟨if det then .lapsed else .unheld, r.a, 0, 0⟩, r.word, (s.th r.tid).region, r.id, false, false⟩])

/-- R125 and R236: a handle that is stale or lapsed at its home is the cause of the instruction that presents it, and
changes no lease; REL's drain ends, and its thread goes on, when the earlier accesses homed in its scope have drained and
the hold is still live, and not while the route to the key's home is being changed (R346). -/
def Sys2Proof.Claims.LeaseHandles : Prop :=
  (∀ (k : Nat) (r : LeaseReq) (c : Cause) (s : State),
    s.leaseReqs.find? (fun r => decide (r.id = k) && !isRequest r.ins) = some r →
    (isRenewal r.ins = true → ∀ x ∈ s.leaseReqs, x.id < k → x.tid = r.tid → x.a = r.a → isRenewal x.ins = false) →
    pathRefusal (dropReq k s) r.tid r.ctx r.a = none → handleHeld s r.tid.core.node r.a = false →
    ((present (dropReq k s) r.a = .stale ∧ c = .stale) ∨ (present (dropReq k s) r.a = .lapsed ∧ c = .lapsed)) →
    (∃ d a b g, r.ins = .rnw d a b g ∨ r.ins = .life d a g ∨ r.ins = .linfo d a b g) →
    ∀ q, (s.th r.tid).pend? r.id = some q → q.left = 1 → q.refused = [] → q.vector = false → q.void = false →
    ∃ t, exec (.leaseOpAtHome k) s = .next t ∧ SameMemory s t ∧ t.dies = s.dies ∧
      (t.th r.tid).answers = (s.th r.tid).answers ++ [⟨⟨c, r.a, 0, 0⟩, q.word, q.region, r.id, q.load, false⟩]) ∧
  (∀ (tid : Tid) (x : W64) (sc : Scope) (h : DieId) (i : Nat) (l : Lease) (s : State), (s.th tid).hold = .rel x sc true →
    drained s tid s.nextId sc = true → answered s tid = true → handleWaits s tid (s.th tid).ctxh x = false →
    present s x = .live h i l →
    ∃ t, exec (.relDrainEnd tid) s = .next t ∧ t = { s with threads := t.threads } ∧
      (∀ j, j ≠ tidKey tid → t.threads.look j = s.threads.look j) ∧ t.th tid = { s.th tid with hold := .none })

/-- R109, R110, R113, R115, R130 and R313: a lease lapses at the boundary at which the taper reaches X and is in smoke with
its generation; at the 64th boundary after that its entry is free with the next generation; the bytes of a lapsed range
are zeroed and its words full; an error in an entry makes its lease lapse at the next boundary.
Entry 0, the supervisor context's, never lapses (R375). -/
def Sys2Proof.Claims.LeaseLapse : Prop :=
  (∀ (h : DieId) (s : State), exec (.leaseLapse h 0) s = .next s) ∧
  (∀ (h : DieId) (i : Nat) (s : State), i ≠ 0 → (s.lease h i).state = .live → (s.lease h i).x ≤ s.taper h.node →
    (s.lease h i).since < s.taper h.node → (∀ w ∈ s.waits, w.resv ≠ some i) →
    ∃ t, exec (.leaseLapse h i) s = .next t ∧ SameMemory s t ∧ (t.lease h i).state = .smoke ∧
      (t.lease h i).since = s.taper h.node ∧ (t.lease h i).gen = (s.lease h i).gen ∧
      (t.lease h i).kind = (s.lease h i).kind) ∧
  (∀ (h : DieId) (i : Nat) (s : State), (s.lease h i).state = .smoke → (s.lease h i).since + 64 ≤ s.taper h.node →
    ∃ t, exec (.smokeEnd h i) s = .next t ∧ t = { s with dies := t.dies } ∧
      t.lease h i = { s.lease h i with
        state := .free
        gen := if (s.lease h i).gen + 1 < 65536 then (s.lease h i).gen + 1 else 1 } ∧
      (∀ j, j ≠ i → t.lease h j = s.lease h j)) ∧
  (∀ (h : DieId) (i size phys : Nat) (base : W64) (s : State), (s.lease h i).body = .range base size phys false →
    (s.lease h i).state ≠ .live →
    ∃ t, exec (.rangeZeroing h i) s = .next t ∧ (∀ k, phys ≤ k → k < phys + size → t.byteAt k = 0) ∧
      (∀ k, k < phys ∨ phys + size ≤ k → t.byteAt k = s.byteAt k) ∧
      (∀ k ∈ t.empties, k < phys ∨ phys + size ≤ k) ∧ t.lease h i = { s.lease h i with body := .range base size phys true }) ∧
  (∀ (h : DieId) (i : Nat) (s : State), (s.lease h i).state = .live → i ≠ 0 →
    ∃ t, exec (.leaseEntryError h i) s = .next t ∧ t = { s with dies := t.dies } ∧
      t.lease h i = { s.lease h i with x := min (s.lease h i).x (s.taper h.node + 1), spoiled := true })

/-! ### Fork and join -/

namespace Sys2Proof.Claims

/-- The instruction has taken no trap and none is due: what a join leaves of its thread but its pending join. -/
def sameJoined (x y : Thread) : Prop := sameIssued { x with pjoin := y.pjoin } y

/-- The bytes of a join record (Table 5-6) with COUNT 1. -/
def joinRecord (cont : Nat) (live : BitVec 16) (vals : List W64) : List Byte :=
  leBytes 1 4 ++ leBytes cont 4 ++ leBytes live.toNat 8 ++ vals.flatMap fun v => leBytes v.toNat 8

end Sys2Proof.Claims

/-- R148 to R151 and R153: JINIT, its checks passed and the registers of its LIVE field full, stores a join record of COUNT
1; FORK, whose record's home accepts, raises COUNT by 1 and pushes a record with the live values, newest first; with 16 records
in the deque the oldest of them then has a place in its team's spill area that none of the team's records has, and its words stand
there (R151); JOIN sends its decrement and is pending. -/
def Sys2Proof.Claims.ForkAndJoin : Prop :=
  (∀ (a : GSrc) (g : Guard) (cont h : W64) (s : State), s.me.passes g → s.me.readable [.g a.r] →
    jinitChecks a s = .ok (cont, h) → s.me.readable ((liveRegs (hdrLive h)).map .g) → ownXB s (s.me.rG a.r) = false →
    ∃ t, exec (.jinit a g) s = .next t ∧ Sends [] s t ∧ t.me.hold = .none ∧
      t.accs = s.accs ++
        [newAccess s (.store (joinRecord (cont.toNat % 2 ^ 19) (hdrLive h) (liveVals s.me (hdrLive h)))) (s.me.rG a.r) 64] ∧
      AwaitsLast s.nextId none 1 (.g 0) s t) ∧
  (∀ (a : GSrc) (o : BitVec 16) (g : Guard) (tg h : W64) (p : Phys) (s : State), s.me.passes g → s.me.readable [.g a.r] →
    forkChecks a o s = .ok ((tg, p), h) → s.me.readable ((liveRegs (hdrLive h)).map .g) → updateFree s s.cur p = true →
    forkRoom (s.core s.cur.core) = true → homeRefusal s s.cur s.me.ctxh p (s.me.rG a.r) 4 .join = none →
    s.peek p 4 < 2 ^ 32 - 1 →
    ∃ t, exec (.fork a o g) s = .next t ∧
      ((s.core s.cur.core).forks.length < 16 →
        OnlyBytes p 4 s t ∧ t.peek p 4 = s.peek p 4 + 1 ∧ t.empties = s.empties ∧
        (t.core s.cur.core).forks = ⟨tg.toNat, hdrLive h, s.me.teamNo.toNat, s.me.rG a.r, liveVals s.me (hdrLive h), s.cur,
          s.nextId, none⟩ :: (s.core s.cur.core).forks) ∧
      (∀ old, (s.core s.cur.core).forks[15]? = some old → s.waits = [] →
        ∃ spot, (∀ x ∈ (s.core s.cur.core).forks, x.teamNo = old.teamNo → x.spot ≠ some spot) ∧
          (t.core s.cur.core).forks = ⟨tg.toNat, hdrLive h, s.me.teamNo.toNat, s.me.rG a.r, liveVals s.me (hdrLive h), s.cur,
            s.nextId, none⟩ :: (s.core s.cur.core).forks.set 15 { old with spot := some spot } ∧
          ∀ q, spillPlace s s.cur.core old.teamNo spot = some q → old.vals.length = 6 → t.peekWords q 8 = old.words) ∧
      (∀ k, k ≠ tidKey s.cur → t.threads.look k = s.threads.look k) ∧ Thread.sameBut [] s.me t.me ∧
      Thread.sameRest s.me t.me ∧ t.me.pc = s.me.pc + 4 ∧ t.me.hold = .none) ∧
  (∀ (a : GSrc) (g : Guard) (p : Phys) (s : State), s.me.passes g → s.me.readable [.g a.r] → s.me.pjoin = none →
    joinPlace s.cur.core (s.me.rG a.r) = .ok p → ownXB s (s.me.rG a.r) = false →
    ∃ t, exec (.join a g) s = .next t ∧ (∀ k, k ≠ tidKey s.cur → t.threads.look k = s.threads.look k) ∧ SameMemory s t ∧
      Thread.sameBut [] s.me t.me ∧ sameJoined s.me t.me ∧ t.me.pc = s.me.pc + 4 ∧ t.me.pjoin = some .asked ∧
      t.me.hold = .none ∧ t.accs = s.accs ++ [newAccess s .join (s.me.rG a.r) 64] ∧ AwaitsLast s.nextId none 1 (.g 0) s t)

/-- R148 to R150 and R153: FORK and JINIT trap with the cause that their checks give, JINIT in a block without RECONV with
ILLEGAL; a full fork deque is DEQUE 1 (log 114 for a HEADER's TINFO1 and TINFO2); JOIN while a join is pending is ILLEGAL, also where the pending one was carried into a
handler (log 35). -/
def Sys2Proof.Claims.ForkTraps : Prop :=
  ∀ (a : GSrc) (o : BitVec 16) (g : Guard) (s : State) (b : Block), s.me.passes g → s.me.readable [.g a.r] → CanTrap s b →
    (s.me.reconv = 0 →
      ∃ t, exec (.jinit a g) s = .next t ∧ Trapped ⟨.illegal, s.me.curWord.setWidth 64, 0, 0⟩ (s.me.pc.setWidth 64) b s t) ∧
    (∀ f, jinitChecks a s = .error f →
      ∃ t, exec (.jinit a g) s = .next t ∧ Trapped f (s.me.pc.setWidth 64) b s t) ∧
    (∀ f, forkChecks a o s = .error f →
      ∃ t, exec (.fork a o g) s = .next t ∧ Trapped f (s.me.pc.setWidth 64) b s t) ∧
    (∀ tg p h, forkChecks a o s = .ok ((tg, p), h) → s.me.readable ((liveRegs (hdrLive h)).map .g) →
      updateFree s s.cur p = true → forkRoom (s.core s.cur.core) = false →
      ∃ t, exec (.fork a o g) s = .next t ∧ Trapped ⟨.deque, s.me.rG a.r, 0, 1⟩ (s.me.pc.setWidth 64) b s t) ∧
    (s.me.pjoin ≠ none →
      ∃ t, exec (.join a g) s = .next t ∧ Trapped ⟨.illegal, s.me.curWord.setWidth 64, 0, 0⟩ (s.me.pc.setWidth 64) b s t)

/-- R153 and R154: an accepted JOIN lowers COUNT by 1; from 1 its thread's outcome is to continue with the record's values,
from more to retire. At the block's end a thread that retires ends, and one that continues starts the block that the
record names, with its live registers loaded, once these are full, for which it blocks (log 141). -/
def Sys2Proof.Claims.JoinOutcome : Prop :=
  (∀ (k pid : Nat) (a : Acc) (p : Phys) (s : State), Arrives s k a pid p → a.op = .join → NeedsAnswer s a.tid pid →
    (s.th a.tid).pjoin = some .asked → 0 < s.peek p 4 →
    ∃ t, exec (.memoryAccessAccept k) s = .next t ∧ OnlyBytes p 4 s t ∧ t.peek p 4 = s.peek p 4 - 1 ∧
      t.empties = s.empties ∧
      (t.th a.tid).pjoin = some (if s.peek p 4 = 1 then
          .continue_ (s.peek p 8 / 2 ^ 32 % 2 ^ 19) (BitVec.ofNat 16 (s.peek (p.plus 8) 2)) (s.peekWords (p.plus 16) 6)
        else .retire)) ∧
  (∀ (tid : Tid) (s : State), (s.th tid).hold = .blockEnd → (s.th tid).pjoin = some .retire → (s.th tid).joinHeld = false →
    ∃ t, exec (.joinOutcomeApply tid) s = .next t ∧ SameMemory s t ∧ (t.th tid).life = .ended ∧ (t.th tid).pjoin = none ∧
      (t.th tid).hold = .none ∧ (∀ j, j ≠ tidKey tid → t.threads.look j = s.threads.look j)) ∧
  (∀ (tid : Tid) (cont : Nat) (live : BitVec 16) (vals : List W64) (b : Block) (s : State), (s.th tid).hold = .blockEnd →
    (s.th tid).pjoin = some (.continue_ cont live vals) → (s.th tid).joinHeld = false → vals.length = 6 →
    (liveRegs live).length ≤ 6 → live.getLsbD 0 = false →
    (∀ r : BitVec 4, live.getLsbD r.toNat = true → (s.th tid).full (.g r) = true) →
    fetchAt s tid.core (BitVec.ofNat 64 cont) (.transfer 7) = .block b →
    ∃ t, exec (.joinOutcomeApply tid) s = .next t ∧ SameMemory s t ∧ (t.th tid).pjoin = none ∧ (t.th tid).hold = .none ∧
      (t.th tid).bh = BitVec.ofNat 19 cont ∧ (t.th tid).pc = BitVec.ofNat 19 cont + 8 ∧ (t.th tid).block = some b ∧
      (∀ e ∈ (liveRegs live).zip vals, (t.th tid).rG e.1 = e.2 ∧ (t.th tid).full (.g e.1) = true) ∧
      (∀ r : BitVec 4, live.getLsbD r.toNat = false → Thread.sameReg (s.th tid) (t.th tid) (.g r)) ∧
      (∀ j, j ≠ tidKey tid → t.threads.look j = s.threads.look j)) ∧
  (∀ (tid : Tid) (cont : Nat) (live : BitVec 16) (vals : List W64) (r : BitVec 4) (s : State), (s.th tid).hold = .blockEnd →
    (s.th tid).pjoin = some (.continue_ cont live vals) → (s.th tid).joinHeld = false → live.getLsbD r.toNat = true →
    (s.th tid).full (.g r) = false →
    ∃ t b, exec (.joinOutcomeApply tid) s = .next t ∧ t = { s with threads := t.threads } ∧
      (∀ j, j ≠ tidKey tid → t.threads.look j = s.threads.look j) ∧
      t.th tid = { s.th tid with hold := .none, blocked := some b } ∧
      b.since = ((s.th tid).blocked.map (·.since)).getD (s.taper tid.core.node) ∧
      ∀ q : BitVec 4, (∃ w ∈ b.regs, w.ref = .g q) ↔ live.getLsbD q.toNat = true ∧ (s.th tid).full (.g q) = false)

/-! ### What a thread sees of its accesses -/

/-- R308, R310 and R50: the oldest fault reported reaches its thread: while a handler runs it is held; else the thread takes
the trap with TPC the producing word and RES the word that it would have issued next, TSTAT.DEF is set, and the producer's
register is full again with its old value; a thread that has ended stops with event 1. -/
def Sys2Proof.Claims.DeferredDelivery : Prop :=
  ∀ (tid : Tid) (a : Answer) (s : State), deliverable s tid = true → nextFirst s tid a.word = false → a.held = false →
    (s.th tid).pjoin ≠ some (.refused a.pid) →
    ((s.th tid).life = .ended → (s.th tid).abandoned = false → (s.th tid).answers.head? = some a → tid.slot ≠ 0 →
      ∃ t, exec (.deferredDelivery tid a.pid) s = .next t ∧ SameMemory s t ∧ (t.th tid).life = .stopped ∧
        ∃ counts, (t.th tid).stop = some ⟨1, a.fault, BitVec.ofNat 64 a.word, (s.th tid).bh.setWidth 64, counts⟩) ∧
    ((s.th tid).life = .running → (s.th tid).inHandler = true → (s.th tid).answers.find? (fun a => !a.held) = some a →
      ∃ t, exec (.deferredDelivery tid a.pid) s = .next t ∧ t = { s with threads := t.threads } ∧
        (∀ j, j ≠ tidKey tid → t.threads.look j = s.threads.look j) ∧
        t.th tid = { s.th tid with answers := (s.th tid).answers.map fun b => if b.pid = a.pid then { b with held := true } else b }) ∧
    (∀ b p, (s.th tid).life = .running → (s.th tid).answers.head? = some a → (s.th tid).inHandler = false → a.fault.cause ≠ .poison → (s.th tid).hold = .none → (s.th tid).fetch = none →
      (s.th tid).deferredQ = [] → (s.th tid).pend? a.pid = some p →
      fetchAt s tid.core ((s.th tid).tvb.setWidth 64) .trapEntry = .block b →
      ∃ t, exec (.deferredDelivery tid a.pid) s = .next t ∧ SameMemory s t ∧
        (∀ j, j ≠ tidKey tid → t.threads.look j = s.threads.look j) ∧
        (t.th tid).inHandler = true ∧ (t.th tid).deferred = true ∧ (t.th tid).res = (s.th tid).pc ∧
        (t.th tid).tcause = BitVec.ofNat 64 a.fault.cause.code ∧ (t.th tid).tpc = BitVec.ofNat 64 a.word ∧
        (t.th tid).tinfo = #v[a.fault.t0, a.fault.t1, a.fault.t2, (s.th tid).bh.setWidth 64] ∧
        (t.th tid).bh = (s.th tid).tvb ∧ (t.th tid).pc = (s.th tid).tvb + 8 ∧ (t.th tid).block = some b ∧
        (t.th tid).answers = (s.th tid).answers.filter (fun b => b.pid ≠ a.pid) ∧ (t.th tid).pend? a.pid = none ∧
        (∀ r, p.dst = some (.g r) → (t.th tid).full (.g r) = true ∧ (t.th tid).rG r = (s.th tid).rG r))

/-- R47 and R128: an implicit block that reaches its bound traps with EMPTY_TIMEOUT, whose TINFO0 names the first register still
empty, at the blocked word, or at the last word of a block that ends with a join whose registers are empty (log 141); so does GJOIN, whose TINFO0 names no register. While the thread waits for a service core's reply it
is not subject to the bound (R204); nor is it while the register's access, or its GJOIN, waits at the fabric die (R346, R348). -/
def Sys2Proof.Claims.EmptyTimeout : Prop :=
  (∀ (tid : Tid) (s : State), translationHeld s tid = true → exec (.emptyTimeout tid) s = .next s) ∧
  (∀ (tid : Tid) (since id : Nat) (blk : Block) (s : State), (s.th tid).life = .running → (s.th tid).hold = .gjoin since id →
    translationHeld s tid = false → leaseHeld s tid id = false →
    since + max 1 (s.th tid).eto.toNat ≤ s.taper tid.core.node → (s.th tid).inHandler = false →
    fetchAt s tid.core ((s.th tid).tvb.setWidth 64) .trapEntry = .block blk →
    ∃ t, exec (.emptyTimeout tid) s = .next t ∧ t = { s with threads := t.threads } ∧
      (∀ j, j ≠ tidKey tid → t.threads.look j = s.threads.look j) ∧ Thread.sameBut [] (s.th tid) (t.th tid) ∧
      (t.th tid).tcause = 4 ∧ (t.th tid).tpc = (s.th tid).pc.setWidth 64 - 4 ∧
      (t.th tid).tinfo = #v[0xC00, 0, 0, (s.th tid).bh.setWidth 64] ∧ (t.th tid).inHandler = true ∧ (t.th tid).hold = .none) ∧
  (∀ (tid : Tid) (b : Blocked) (w : Await) (blk : Block) (s : State), (s.th tid).life = .running → (s.th tid).hold = .none →
    (s.th tid).blocked = some b → (s.th tid).stillEmpty = some w → translationHeld s tid = false → fabricHeld s tid w.ref = false →
    b.since + max 1 (s.th tid).eto.toNat ≤ s.taper tid.core.node → (s.th tid).inHandler = false →
    fetchAt s tid.core ((s.th tid).tvb.setWidth 64) .trapEntry = .block blk →
    ∃ t, exec (.emptyTimeout tid) s = .next t ∧ t = { s with threads := t.threads } ∧
      (∀ j, j ≠ tidKey tid → t.threads.look j = s.threads.look j) ∧ Thread.sameBut [] (s.th tid) (t.th tid) ∧
      (t.th tid).tcause = 4 ∧
      (t.th tid).tpc = (if (s.th tid).atEnd then BitVec.ofNat 64 ((s.th tid).bh.toNat + 4 + 4 * (s.th tid).blockLen)
        else (s.th tid).pc.setWidth 64) ∧
      (t.th tid).tinfo = #v[BitVec.ofNat 64 (w.field + 2 ^ 8 * w.ref.cls + 2 ^ 10 * w.role.code), 0, 0, (s.th tid).bh.setWidth 64] ∧
      (t.th tid).inHandler = true ∧ (t.th tid).deferred = false ∧ (t.th tid).blocked = none ∧
      (t.th tid).pc = (s.th tid).tvb + 8) ∧
  (∀ (tid : Tid) (b : Blocked) (w : Await) (s : State), (s.th tid).hold = .none → (s.th tid).blocked = some b →
    (s.th tid).stillEmpty = some w → fabricHeld s tid w.ref = true → exec (.emptyTimeout tid) s = .next s) ∧
  (∀ (tid : Tid) (since id : Nat) (s : State), (s.th tid).hold = .gjoin since id → leaseHeld s tid id = true →
    exec (.emptyTimeout tid) s = .next s)

/-- R316, R56: a restarted region goes on after its tick boundary at its first word, whose block is fetched afresh. -/
def Sys2Proof.Claims.RegionRestart : Prop :=
  ∀ (tid : Tid) (n w : Nat) (cmp : Bool) (f : Fetch) (b : Block) (s : State), (s.th tid).hold = .tick n →
    n ≤ s.taper tid.core.node → (s.th tid).restarted = true → (s.th tid).fetch = some f → f.via = .resume w cmp →
    fetchAt s tid.core f.target f.via = .block b →
    ∃ t, exec (.regionRestart tid) s = .next t ∧ t = { s with threads := t.threads } ∧
      (∀ j, j ≠ tidKey tid → t.threads.look j = s.threads.look j) ∧ Thread.sameBut [] (s.th tid) (t.th tid) ∧
      (t.th tid).bh = f.target.setWidth 19 ∧ (t.th tid).pc = f.target.setWidth 19 + BitVec.ofNat 19 (8 + 4 * w) ∧
      (t.th tid).block = some { b with compare := b.compare && cmp } ∧ (t.th tid).hold = .none ∧ (t.th tid).fetch = none

namespace Sys2Proof.Claims

/-- A thread-fault record of a core's area, and its slot's bit in the pending mask (R311), for a slot of the core. -/
def RecordWritten (tid : Tid) (ws : List W64) (s t : State) : Prop :=
  t.peekWords (scratchAt tid.core ((s.core tid.core).tfrb.toNat + 64 * tid.slot)) 8 = ws ∧
    t.peek (scratchAt tid.core (s.core tid.core).tfrb.toNat) 4 =
      s.peek (scratchAt tid.core (s.core tid.core).tfrb.toNat) 4 ||| 2 ^ tid.slot

end Sys2Proof.Claims

/-- R310, R311, R312, R367 and R90: a stopped thread whose accesses are all settled frees its slot, and its record is written
and its bit set, or held while the bit is still set or older records of the slot are held; a team thread's record is reported to
its grid's root; held records are written one by one, oldest first, once the bit is clear; an ended thread whose accesses are all
settled frees its slot. -/
def Sys2Proof.Claims.ThreadRecords : Prop :=
  (∀ (tid : Tid) (i : StopInfo) (s : State), (s.th tid).life = .stopped → (s.th tid).stop = some i → 0 < tid.slot →
    tid.slot < 16 → quiet s tid = true → s.waits = [] →
    ∃ t, exec (.threadStop tid) s = .next t ∧ t.th tid = Thread.resetAt tid ∧
      t.reports = (if i.counts then s.reports ++ [⟨s.nextId, bits (s.th tid).gridf 32 16, bits (s.th tid).gridf 0 24,
        tid.core.node, 4, 1, faultEntry tid (faultRecord tid (s.th tid) i)⟩] else s.reports) ∧
      (recordPending s tid = false → (s.core tid.core).heldRecs.look tid.slot = none →
        RecordWritten tid (faultRecord tid (s.th tid) i) s t) ∧
      (recordPending s tid = true ∨ (s.core tid.core).heldRecs.look tid.slot ≠ none → SameMemory s t ∧
        (t.core tid.core).heldRecs.look tid.slot =
          some (((s.core tid.core).heldRecs.look tid.slot).getD [] ++ [faultRecord tid (s.th tid) i]))) ∧
  (∀ (c : CoreId) (k : Nat) (ws : List W64) (rest : List (List W64)) (s : State),
    (s.core c).heldRecs.look k = some (ws :: rest) → 0 < k → k < 16 →
    ws.length = 8 → recordPending s ⟨c, k⟩ = false → s.waits = [] →
    ∃ t, exec (.heldFaultRecordWrite c k) s = .next t ∧ RecordWritten ⟨c, k⟩ ws s t ∧
      (t.core c).heldRecs.look k = (if rest = [] then none else some rest) ∧ t.threads = s.threads) ∧
  (∀ (tid : Tid) (s : State), (s.th tid).life = .ended → quiet s tid = true → (s.th tid).answers = [] →
    ∃ t, exec (.slotRelease tid) s = .next t ∧ SameMemory s t ∧ t.th tid = Thread.resetAt tid ∧
      (∀ j, j ≠ tidKey tid → t.threads.look j = s.threads.look j))

/-- R272, R273, R234 and R95: a due flag raise whose turn it is adds 1 to the flag doubleword, sets it full, changes no other
byte, and is the last answer of its STFL or VSTFL; a refused one changes no memory, and its fault, with TINFO2[24], is that of the
instruction. That the raise is ordered as an access of its instruction is the model's choice (log 102). -/
def Sys2Proof.Claims.FlagRaises : Prop :=
  ∀ (k : Nat) (r : FlagRaise) (p : Phys) (s : State),
    s.raises.find? (fun x => decide (x.id = k) && x.vector == r.vector) = some r →
    taggedPlace { r.tid.core with node := r.node } r.flag = .ok p → raiseTurn s r p = true →
    (∀ f q, homeRefusalXB s r.tid r.xb r.ctx p r.flag 8 (.stf []) = some f → (s.th r.tid).pend? r.pid = some q → q.left = 1 →
      q.refused = [] → q.void = false → (∃ fa l n, q.val = .flag fa l n .posted) →
      ∃ t, exec (if r.vector then .vstflFlagRaise k else .stflFlagRaise k) s = .next t ∧ SameMemory s t ∧
        t.raises = s.raises.filter (fun x => x.id ≠ r.id) ∧
        (t.th r.tid).answers = (s.th r.tid).answers ++
          [⟨{ f with t2 := f.t2 ||| BitVec.ofNat 64 (2 ^ 24) }, q.word, q.region, r.pid, q.load, false⟩]) ∧
    (homeRefusalXB s r.tid r.xb r.ctx p r.flag 8 (.stf []) = none → s.waits = [] →
    ∃ t, exec (if r.vector then .vstflFlagRaise k else .stflFlagRaise k) s = .next t ∧ OnlyBytes p 8 s t ∧
      t.peek p 8 = (s.peek p 8 + 1) % 2 ^ 64 ∧ t.isFull p = true ∧ t.isFull (p.plus 4) = true ∧
      t.raises = s.raises.filter (fun x => x.id ≠ r.id) ∧
      ∀ q, (s.th r.tid).pend? r.pid = some q → q.left = 1 → q.refused = [] → q.dst = none → q.also = none →
        (t.th r.tid).pend? r.pid = none)

/-! ### Translation -/

namespace Sys2Proof.Claims

/-- What ends the walk of an access in a fault (Table 7-9): CAUSE, LEVEL, ENTRY, EDIE and EADDR. A leaf without a permission that the
access needs does so with CAUSE 1 (R204). -/
def walkFault (s : State) (a : Acc) : Option (Nat × Nat × W64 × Nat × Nat) :=
  match walk s a.tid.core a.space a.sub a.ea with
  | .fault cause level e die off => some ⟨cause, level, e, die, off⟩
  | .leaf e die off =>
    if (a.op.reads = true → e.getLsbD 2 = true) ∧ (a.op.writes = true → e.getLsbD 3 = true) then none
    else some ⟨1, if a.sub then 5 else 4, e, die, off⟩

end Sys2Proof.Claims

/-- R199, R200, R202, R204, R205 and R206: a walk that ends in a leaf which permits the access gives the leaf's place and fills
both caches, which then hold the leaf; a cached leaf that permits the access gives the place; one without the permission is
confirmed by a walk; a walk that ends otherwise posts a fault record, or keeps it while the ring is full, and for slot 0 refuses
the access with ACCESS; a kept record is posted once the ring has room. A walk ends otherwise also at a leaf without the permission:
CAUSE 1, at the leaf's own level. A leaf found in the cluster's cache does not fill the core's (log 101), and one without the
permission is a fault also for the metadata of its frame (log 133): both are the model's choice. -/
def Sys2Proof.Claims.TranslationSteps : Prop :=
  (∀ (k : Nat) (a : Acc) (e : W64) (die off : Nat) (s : State), s.acc? k = some a → a.trans = .need →
    (a.ofThread = true ∨ a.isKey = true → translatedBefore s a.tid a.id = true) → (a.ofThread = false → a.agent.work = none) →
    classify a.tid.core a.ea = .virt → 3 ≤ (s.pkg a.tid.core.node).phase → walk s a.tid.core a.space a.sub a.ea = .leaf e die off → permits e a.op = true →
    inMetadata e a.ea = false →
    ∃ t, exec (.translationWalk k false) s = .next t ∧ SameMemory s t ∧ t.threads = s.threads ∧
      (t.acc? k).map (·.trans) = some (.done (leafPlace a.sub e a.ea)) ∧ cached t a.tid.core a.space a.sub a.ea = some e ∧
      ⟨a.space, a.sub, pageOf a.sub a.ea, e, []⟩ ∈ (t.core a.tid.core).cache ∧
      ⟨a.space, a.sub, pageOf a.sub a.ea, e, []⟩ ∈ (t.cluster (clusterOf a.tid.core)).cache) ∧
  (∀ (k : Nat) (a : Acc) (e : W64) (s : State), s.acc? k = some a → a.trans = .need →
    (a.ofThread = true ∨ a.isKey = true → translatedBefore s a.tid a.id = true) → (a.ofThread = false → a.agent.work = none) →
    classify a.tid.core a.ea = .virt → 3 ≤ (s.pkg a.tid.core.node).phase → cached s a.tid.core a.space a.sub a.ea = some e →
    (permits e a.op = true → inMetadata e a.ea = false →
      ∃ t, exec (.translationWalk k true) s = .next t ∧ t = { s with accs := t.accs, nextId := t.nextId } ∧
        (t.acc? k).map (·.trans) = some (.done (leafPlace a.sub e a.ea))) ∧
    (permits e a.op = false → exec (.translationWalk k true) s = exec (.translationWalk k false) s)) ∧
  (∀ (k : Nat) (a : Acc) (cause level die off pid lane : Nat) (e : W64) (q : Pending) (s : State), s.acc? k = some a →
    a.trans = .need → a.agent = .thread pid lane → a.op ≠ .join → translatedBefore s a.tid a.id = true → a.ofThread = true →
    classify a.tid.core a.ea = .virt → 3 ≤ (s.pkg a.tid.core.node).phase →
    walkFault s a = some ⟨cause, level, e, die, off⟩ → a.tid.slot = 0 →
    (s.th a.tid).pend? pid = some q → q.left = 1 → q.refused = [] → q.vector = false → q.void = false → (∃ v, q.val = .g v) →
    ∃ t, exec (.translationWalk k false) s = .next t ∧ SameMemory s t ∧
      (t.th a.tid).answers = (s.th a.tid).answers ++ [⟨⟨.access, a.ea, 0, 1⟩, q.word, q.region, pid, q.load, false⟩]) ∧
  (∀ (k : Nat) (a : Acc) (cause level die off : Nat) (e : W64) (u : State) (s : State), s.acc? k = some a → a.trans = .need →
    (a.ofThread = true ∨ a.isKey = true → translatedBefore s a.tid a.id = true) → (a.ofThread = false → a.agent.work = none) →
    classify a.tid.core a.ea = .virt → 3 ≤ (s.pkg a.tid.core.node).phase → walkFault s a = some ⟨cause, level, e, die, off⟩ → a.tid.slot ≠ 0 →
    ∃ t, exec (.translationWalk k false) s = .next t ∧
      (postFault a.tid.core (faultRec a cause level e die off) s = some u →
        (t.acc? k).map (·.trans) = some .faulted ∧ t.mem = u.mem) ∧
      (postFault a.tid.core (faultRec a cause level e die off) s = none →
        SameMemory s t ∧ (t.acc? k).map (·.trans) = some (.ringFull (faultRec a cause level e die off)))) ∧
  (∀ (k : Nat) (a : Acc) (ws : List W64) (u : State) (s : State), s.acc? k = some a → a.trans = .ringFull ws →
    postFault a.tid.core ws s = some u →
    ∃ t, exec (.faultRingRetry k) s = .next t ∧ (t.acc? k).map (·.trans) = some .faulted ∧ t.mem = u.mem) ∧
  (∀ (c : CoreId) (ws : List W64) (s : State), s.waits = [] →
    s.peek (scratchAt (serviceOf s c) 0x7FFC4) 4 < 63 →
    (s.peek (scratchAt (serviceOf s c) 0x7FFC4) 4 + 1) % 63 ≠ s.peek (scratchAt (serviceOf s c) 0x7FFC0) 4 → ws.length = 8 →
    ∃ t, postFault c ws s = some t ∧
      t.peekWords (scratchAt (serviceOf s c) (0x7F000 + 64 * s.peek (scratchAt (serviceOf s c) 0x7FFC4) 4)) 8 = ws ∧
      t.peek (scratchAt (serviceOf s c) 0x7FFC4) 4 = (s.peek (scratchAt (serviceOf s c) 0x7FFC4) 4 + 1) % 63 ∧
      t.isFull (scratchAt (serviceOf s c) 0x7FFC4) = true)

/-- R207: a reply word that slot 0 stores is kept for the oldest access of its slot whose fault awaits one (which of several it
answers is the reading of log 63), and discarded where there is none; applied, it lets that access be translated again, or
refuses it with ACCESS 1 or with POISON. -/
def Sys2Proof.Claims.FaultReplies : Prop :=
  (∀ (k pid x : Nat) (a : Acc) (p : Phys) (y c : Nat) (s : State), Arrives s k a pid p → NeedsAnswer s a.tid pid →
    a.op = .store (leBytes x 8) → p.region = .agent y c → p.off / 8 < 16 →
    (faultPending s ⟨p.node, p.die, y, c⟩ (p.off / 8) = none →
      ∃ t, exec (.memoryAccessAccept k) s = .next t ∧ SameMemory s t ∧ t.cores = s.cores ∧ (t.th a.tid).pend? pid = none) ∧
    (∀ b, faultPending s ⟨p.node, p.die, y, c⟩ (p.off / 8) = some b → b.id ≠ k →
      (s.core ⟨p.node, p.die, y, c⟩).replies.look (p.off / 8) = none →
      ∃ t, exec (.memoryAccessAccept k) s = .next t ∧ SameMemory s t ∧ (t.th a.tid).pend? pid = none ∧
        (t.core ⟨p.node, p.die, y, c⟩).replies.look (p.off / 8) = some (b.id, BitVec.ofNat 64 x))) ∧
  (∀ (tid : Tid) (k : Nat) (x : W64) (a : Acc) (s : State), (s.core tid.core).replies.look tid.slot = some (k, x) →
    s.accs.find? (fun a => decide (a.id = k ∧ a.trans = .faulted)) = some a →
    (x.toNat % 4 ≠ 1 → x.toNat % 4 ≠ 2 →
      ∃ t, exec (.faultReply tid) s = .next t ∧ SameMemory s t ∧ t.threads = s.threads ∧
        (t.core tid.core).replies.look tid.slot = none ∧ (t.acc? k).map (·.trans) = some .again) ∧
    (∀ pid lane q f, (x.toNat % 4 = 1 ∧ f = ⟨.access, a.ea, 0, 1⟩) ∨ (x.toNat % 4 = 2 ∧ f = ⟨.poison, a.ea, 0, 0⟩) →
      a.agent = .thread pid lane → a.op ≠ .join → (s.th a.tid).pend? pid = some q → q.left = 1 → q.refused = [] →
      q.vector = false → q.void = false → (∃ v, q.val = .g v) →
      ∃ t, exec (.faultReply tid) s = .next t ∧ SameMemory s t ∧ (t.core tid.core).replies.look tid.slot = none ∧
        (t.th a.tid).answers = (s.th a.tid).answers ++ [⟨f, q.word, q.region, pid, q.load, false⟩]))

/-- R193, R196 and R208: a failed data bank of a scratchpad is marked, and rebuilt into the spare bank while that is free; after
the rebuild the spare is in use and the bank is no longer failed; a bank that fails beside another poisons every row, which stays
poisoned whatever is stored while both are failed (log 126); an uncorrectable unit is poisoned, and with a unit of a table page the
page. That this page is exactly the 4 KiB which holds the unit, where a table has several pages, is the model's choice (log 105). -/
def Sys2Proof.Claims.MemoryRepair : Prop :=
  (∀ (c : CoreId) (b : Nat) (s : State), b < 18 → (s.core c).badBanks = [] → (s.core c).rebuilding = none →
    ∃ t, exec (.bankFailure c b) s = .next t ∧ t = { s with cores := t.cores } ∧
      t.core c = { s.core c with badBanks := [b], rebuilding := if (s.core c).spareUsed = true then none else some b }) ∧
  (∀ (c : CoreId) (b i : Nat) (s : State), b < 18 → (s.core c).badBanks ≠ [] → b ∉ (s.core c).badBanks → i < 0x2000 →
    ∃ t, exec (.bankFailure c b) s = .next t ∧ t = { s with cores := t.cores, poisoned := t.poisoned } ∧
      b ∈ (t.core c).badBanks ∧ (∀ d ∈ (s.core c).badBanks, d ∈ (t.core c).badBanks) ∧
      t.isPoisoned (scratchAt c (64 * i)) = true ∧
      (t.setPoison (scratchAt c (64 * i)) false).isPoisoned (scratchAt c (64 * i)) = true) ∧
  (∀ (c : CoreId) (b : Nat) (s : State), (s.core c).rebuilding = some b →
    ∃ t, exec (.bankRebuildDone c) s = .next t ∧ t = { s with cores := t.cores } ∧
      t.core c = { s.core c with badBanks := eraseNat (s.core c).badBanks b, rebuilding := none, spareUsed := true }) ∧
  (∀ (u : Nat) (p : Phys) (s : State), repairUnit u = some p → inTablePage s p = false →
    ∃ t, exec (.patrolScrubError u) s = .next t ∧ t = { s with poisoned := t.poisoned } ∧ t.isPoisoned p = true ∧
      ∀ q : Phys, q.key / 64 ≠ p.key / 64 → t.isPoisoned q = s.isPoisoned q) ∧
  (∀ (u : Nat) (p q : Phys) (s : State), repairUnit u = some p → inTablePage s p = true →
    ∃ t, exec (.patrolScrubError u) s = .next t ∧ t = { s with poisoned := t.poisoned } ∧
      t.isPoisoned q = (decide (q.key / 4096 = p.key / 4096) || s.isPoisoned q))

/-! ### Teams -/

namespace Sys2Proof.Claims

/-- The state of a thread of a team at its start (Table 5-2). -/
def TeamStart (r : List W64) (blk no stk k : Nat) (group : W64) (tvb : BitVec 19) (space : BitVec 16) (t : Thread) : Prop :=
  t.life = .running ∧ t.rG 1 = BitVec.ofNat 64 blk ∧ t.rG 2 = BitVec.ofNat 64 k ∧ t.rG 3 = wordAt r 4 ∧
    t.rG 4 = BitVec.ofNat 64 (recTeam r) ∧ t.rG 5 = BitVec.ofNat 64 (recGsize r) ∧
    t.rG 14 = BitVec.ofNat 64 (stk + 1024 * k + 1024) ∧ t.rhdr = BitVec.ofNat 19 (recEntry r) ∧ t.rword = 0 ∧
    t.seed = startSeed (BitVec.ofNat 64 blk) (BitVec.ofNat 64 k) ∧ t.gen = genSeeds t.seed ∧ t.ccnt = 1 ∧ t.cdone = 0 ∧
    (∀ m : BitVec 2, t.rM m = BitVec.allOnes 64) ∧ (∀ v : BitVec 5, v.toNat < 26 → t.rV v = Lanes.zero) ∧
    (∀ i : BitVec 4, i ∉ ([1, 2, 3, 4, 5, 14] : List (BitVec 4)) → t.rG i = 0) ∧ (∀ q : BitVec 4, q ≠ 0 → t.rQ q = false) ∧
    (∀ r : RegRef, t.full r = true) ∧ t.j = #v[group, 0, 0, 0] ∧ t.tvb = tvb ∧ t.space = space ∧
    t.ctxh = wordAt r 1 ∧ t.gridf = recGridf r ∧ t.teamNo = BitVec.ofNat 7 no ∧ t.inHandler = false ∧
    t.bh = BitVec.ofNat 19 (recEntry r) ∧ t.pc = BitVec.ofNat 19 (recEntry r) + 8 ∧
    t.fetch = some ⟨BitVec.ofNat 64 (recEntry r), .transfer 7, 0⟩

end Sys2Proof.Claims

/-- The record's blocks that are not yet placed are reported to its root in a class, and it leaves the inbox (R365). -/
def RecordDropped (c : CoreId) (r : List W64) (rest : List (List W64)) (cls : Nat) (s t : State) : Prop :=
  SameMemory s t ∧ t.threads = s.threads ∧ (t.core c).inbox = rest ∧ (t.core c).placed = 0 ∧
    ((s.core c).placed < recCount r →
      t.reports = s.reports ++ [⟨s.nextId, bits (recGridf r) 32 16, bits (recGridf r) 0 24, c.node, cls,
        recCount r - (s.core c).placed, []⟩])

/-- R134 to R137, R44 and R365: slot 0 serves the head of its inbox: when slots, a team entry and a lease entry are free it
starts the team, its threads in the slots that R134 gives, each in the state of Table 5-2 and Table 2-1, with a GROUP lease that
lists them; a record whose words are out of range is dropped as FAULTED (an ENTRY off its
multiple of 8 too: log 115), one whose CTX is not live as CANCELLED, and the head
record of a halted core as LOST. SPILL is the address of an area in each core's scratchpad (R151). Where the stack sub-pages and
spill areas lie is the service core's choice (log 14). -/
def Sys2Proof.Claims.TeamPlacement : Prop :=
  ∀ (c : CoreId) (i stk : Nat) (sp : List Nat) (r : List W64) (rest : List (List W64)) (s : State), (s.core c).inbox = r :: rest →
    recKind r = 0 →
    ((s.core c).halted = true → ∃ t, exec (.teamPlace c i ⟨stk, sp⟩) s = .next t ∧ RecordDropped c r rest 2 s t) ∧
    ((s.core c).halted = false → coreRuns s c = true → servesInbox s c = true →
    (badRecord r = true → ∃ t, exec (.teamPlace c i ⟨stk, sp⟩) s = .next t ∧ RecordDropped c r rest 1 s t) ∧
    (badRecord r = false → present s (wordAt r 1) = .lapsed ∨ present s (wordAt r 1) = .stale →
      ∃ t, exec (.teamPlace c i ⟨stk, sp⟩) s = .next t ∧ RecordDropped c r rest 3 s t) ∧
    (∀ h k l d space tvb tids no, badRecord r = false → present s (wordAt r 1) = .live h k l → l.body = .ctx d space tvb →
      teamSlots s c (recTeam r) = some tids → freeTeam s (clusterOf c) = some no → entryReady s (dieOf c) i = true →
      stacksFit s space tids stk = true → spillsFit s c sp = true → (tids.map tidKey).Nodup →
      ∃ t, exec (.teamPlace c i ⟨stk, sp⟩) s = .next t ∧ SameMemory s t ∧
        (∀ n x, tids[n]? = some x → TeamStart r ((wordAt r 2).toNat + (s.core c).placed) no stk n
          (handleOf (dieOf c) .group i (s.lease (dieOf c) i).gen) tvb space (t.th x) ∧
          (t.th x).spill = windowAddr (scratchAt { c with core := x.core.core } (sp.getD x.core.core 0x80000))) ∧
        (∀ j, j ∉ tids.map tidKey → t.threads.look j = s.threads.look j) ∧
        (t.lease (dieOf c) i).state = .live ∧ (t.lease (dieOf c) i).body = .group (recTeam r) tids true ∧
        ((t.cluster (clusterOf c)).teams.look no).map (fun m => (m.state, m.members)) = some (.running, tids) ∧
        (if (s.core c).placed + 1 = recCount r then (t.core c).inbox = rest ∧ (t.core c).placed = 0
         else (t.core c).inbox = r :: rest ∧ (t.core c).placed = (s.core c).placed + 1)))

/-- R151, R152, R138 and R310: a free slot starts its core's newest fork record, else the oldest of the next core that has one, but
not the last of a core that has a slot free for it, once the forking thread's earlier accesses have drained, with the record's live values and a fresh stack sub-page, and joins the team; a team whose threads have all ended,
with no fork record left, is gone and its group is let go; a team with a thread on a halted core is lost. That the lowest free slot
starts the record is the model's choice (log 98), where its stack lies the service core's (log 14). -/
def Sys2Proof.Claims.ForkStartAndTeamEnd : Prop :=
  (∀ (c o : CoreId) (stk k : Nat) (rest : List Nat) (r : ForkRec) (m : Team) (s : State), freeSlots s c = k :: rest →
    nextFork s c = some (o, r) → drained s r.by_ r.seq .cluster = true →
    (s.cluster (clusterOf c)).teams.look r.teamNo = some m → m.state = .running → r.live.getLsbD 0 = false →
    r.live.getLsbD 14 = false → 1024 ≤ stk → stacksFit s m.space [⟨c, k⟩] (stk - 1024) = true →
    ∃ t, exec (.forkRecordStart c stk) s = .next t ∧ SameMemory s t ∧
      (t.th ⟨c, k⟩).life = .running ∧ (t.th ⟨c, k⟩).rG 14 = BitVec.ofNat 64 stk ∧
      (t.th ⟨c, k⟩).seed = startSeed ((t.th ⟨c, k⟩).rG 1) ((t.th ⟨c, k⟩).rG 2) ∧
      (t.th ⟨c, k⟩).rhdr = BitVec.ofNat 19 r.target ∧ (t.th ⟨c, k⟩).spill = m.spills.get 0 c.core ∧
      (∀ e ∈ (liveRegs r.live).zip r.vals, (t.th ⟨c, k⟩).rG e.1 = e.2) ∧ (t.th ⟨c, k⟩).ctxh = m.ctx ∧
      (t.th ⟨c, k⟩).tvb = m.tvb ∧ (t.th ⟨c, k⟩).space = m.space ∧ (t.th ⟨c, k⟩).gridf = m.gridf ∧
      (t.th ⟨c, k⟩).bh = BitVec.ofNat 19 r.target ∧ (t.th ⟨c, k⟩).pc = BitVec.ofNat 19 r.target + 8 ∧
      (t.th ⟨c, k⟩).fetch = some ⟨BitVec.ofNat 64 r.target, .transfer 7, 0⟩ ∧
      (∀ j, j ≠ tidKey ⟨c, k⟩ → t.threads.look j = s.threads.look j) ∧
      ((t.cluster (clusterOf c)).teams.look r.teamNo).map (·.members) = some (m.members ++ [⟨c, k⟩]) ∧
      ∀ x ∈ (t.core o).forks, ¬ (x.seq = r.seq ∧ x.by_ = r.by_)) ∧
  (∀ (c : ClusterId) (n : Nat) (m : Team) (cls : Nat) (s : State), (s.cluster c).teams.look n = some m → m.state = .running →
    (m.members = [] ∧ teamForks s c n = false ∧ cls = if m.faulted then 1 else 0) ∨
      ((m.members ≠ [] ∨ teamForks s c n = true) ∧ teamLost s m = true ∧ cls = 2) →
    ∃ t, exec (.teamEnd c n) s = .next t ∧ SameMemory s t ∧ t.threads = s.threads ∧
      (t.cluster c).teams.look n = none ∧
      t.reports = s.reports ++ [⟨s.nextId, bits m.gridf 32 16, bits m.gridf 0 24, c.node, cls, 1, []⟩] ∧
      (∀ h i l, present s m.group = .live h i l → (t.lease h i).x = s.taper h.node)) ∧
  (∀ (c : CoreId) (r : ForkRec) (rs : List ForkRec) (s : State), (s.core c).forks.filter (forkRuns s (clusterOf c)) = r :: rs →
    nextFork s c = some (c, r)) ∧
  (∀ (c o : CoreId) (r : ForkRec) (s : State), o = { c with core := (c.core + 1) % 8 } →
    (s.core c).forks.filter (forkRuns s (clusterOf c)) = [] →
    ((s.core o).forks.filter (forkRuns s (clusterOf c))).getLast? = some r →
    ((s.core o).forks.filter (forkRuns s (clusterOf c))).length ≠ 1 ∨ freeSlots s o = [] → nextFork s c = some (o, r))

/-! ### Vector instructions -/

namespace Sys2Proof.Claims

/-- The flags that the active lanes set (R171). -/
def laneFlags (m : W64) (f : Nat → W32 × Fl) : Fl :=
  (List.range 64).foldl (fun b i => b ||| if m.getLsbD i then (f i).2 else 0) 0

/-- Lane `i` of a vector register of a thread. -/
def lane (t : Thread) (v : BitVec 5) (i : Nat) : W32 := (t.rV v).toList.getD i 0

/-- VFMA and VFMS need more than 4 cycles when their sources are three distinct registers of V0 to V15 (Table 6-4). -/
def fusedSlow (a b c : BitVec 5) : Bool :=
  decide (a ≠ b ∧ b ≠ c ∧ a ≠ c ∧ a.toNat < 16 ∧ b.toNat < 16 ∧ c.toNat < 16)

/-- VFMA and VFMS on a lane (R177). -/
def fusedLane (neg : Bool) (ty : VType) : W32 → W32 → W32 → W32 × Fl :=
  lane3 ty (fun p q r => (if neg then -(p * q) else p * q) + r) (fun f => f.fma neg)

/-- A vector ALU instruction that writes within 4 cycles (Tables 6-5 and 6-6): registers read, destination, active lanes,
and what an active lane becomes, with its flags. -/
def vectorForm (t : Thread) : Instr → Option (List RegRef × BitVec 5 × W64 × (Nat → W32 × Fl))
  | .vadd v a b m _ ty => some ([.v a, .v b, .m m], v, t.rM m, fun i => addLane ty (lane t a i) (lane t b i))
  | .vsub v a b m _ ty => some ([.v a, .v b, .m m], v, t.rM m, fun i => subLane ty (lane t a i) (lane t b i))
  | .vmul v a b m _ ty => some ([.v a, .v b, .m m], v, t.rM m, fun i => mulLane ty (lane t a i) (lane t b i))
  | .vmin v a b m _ ty => some ([.v a, .v b, .m m], v, t.rM m, fun i => minLane ty (lane t a i) (lane t b i))
  | .vmax v a b m _ ty => some ([.v a, .v b, .m m], v, t.rM m, fun i => maxLane ty (lane t a i) (lane t b i))
  | .vabs v a m _ ty => some ([.v a, .m m], v, t.rM m, fun i =>
      (if ty = .i32 then (if (lane t a i).slt 0 then - lane t a i else lane t a i) else lane t a i &&& ~~~ signBits ty, 0))
  | .vneg v a m _ ty => some ([.v a, .m m], v, t.rM m, fun i =>
      (if ty = .i32 then - lane t a i else lane t a i ^^^ signBits ty, 0))
  | .vand v a b m _ _ => some ([.v a, .v b, .m m], v, t.rM m, fun i => (lane t a i &&& lane t b i, 0))
  | .vor v a b m _ _ => some ([.v a, .v b, .m m], v, t.rM m, fun i => (lane t a i ||| lane t b i, 0))
  | .vxor v a b m _ _ => some ([.v a, .v b, .m m], v, t.rM m, fun i => (lane t a i ^^^ lane t b i, 0))
  | .vandn v a b m _ _ => some ([.v a, .v b, .m m], v, t.rM m, fun i => (lane t a i &&& ~~~ lane t b i, 0))
  | .vshl v a b m _ => some ([.v a, .v b, .m m], v, t.rM m, fun i => (lane t a i <<< ((lane t b i).toNat % 32), 0))
  | .vshr v a b m _ => some ([.v a, .v b, .m m], v, t.rM m, fun i => (lane t a i >>> ((lane t b i).toNat % 32), 0))
  | .vsra v a b m _ =>
    some ([.v a, .v b, .m m], v, t.rM m, fun i => ((lane t a i).sshiftRight ((lane t b i).toNat % 32), 0))
  | .vmov v a m _ _ => some ([.v a, .m m], v, t.rM m, fun i => (lane t a i, 0))
  | .vsel v a b m _ _ => some ([.v a, .v b, .m m], v, BitVec.allOnes 64, fun i =>
      (if (t.rM m).getLsbD i then lane t a i else lane t b i, 0))
  | .vadds v a b m _ ty => some ([.v a, .g b.r, .m m], v, t.rM m, fun i => addLane ty (lane t a i) (scalarLane ty (t.rG b.r)))
  | .vsubs v a b m _ ty => some ([.v a, .g b.r, .m m], v, t.rM m, fun i => subLane ty (lane t a i) (scalarLane ty (t.rG b.r)))
  | .vmuls v a b m _ ty => some ([.v a, .g b.r, .m m], v, t.rM m, fun i => mulLane ty (lane t a i) (scalarLane ty (t.rG b.r)))
  | .vmins v a b m _ ty => some ([.v a, .g b.r, .m m], v, t.rM m, fun i => minLane ty (lane t a i) (scalarLane ty (t.rG b.r)))
  | .vmaxs v a b m _ ty => some ([.v a, .g b.r, .m m], v, t.rM m, fun i => maxLane ty (lane t a i) (scalarLane ty (t.rG b.r)))
  | .vshls v a b m _ => some ([.v a, .g b.r, .m m], v, t.rM m, fun i => (lane t a i <<< ((t.rG b.r).toNat % 32), 0))
  | .vshrs v a b m _ => some ([.v a, .g b.r, .m m], v, t.rM m, fun i => (lane t a i >>> ((t.rG b.r).toNat % 32), 0))
  | .vsras v a b m _ =>
    some ([.v a, .g b.r, .m m], v, t.rM m, fun i => ((lane t a i).sshiftRight ((t.rG b.r).toNat % 32), 0))
  | .vbcast v b m _ ty => some ([.g b.r, .m m], v, t.rM m, fun _ => (scalarLane ty (t.rG b.r), 0))
  | .vfma v a b c m _ ty => if fusedSlow a b c then none
    else some ([.v a, .v b, .v c, .m m], v, t.rM m, fun i => fusedLane false ty (lane t a i) (lane t b i) (lane t c i))
  | .vfms v a b c m _ ty => if fusedSlow a b c then none
    else some ([.v a, .v b, .v c, .m m], v, t.rM m, fun i => fusedLane true ty (lane t a i) (lane t b i) (lane t c i))
  | _ => none

/-- Every lane in order: an active one new, an inactive one as in the old register, with the flags of the active ones. -/
def byLane (t : Thread) (v : BitVec 5) (m : W64) (f : Nat → W32 × Fl) : (Nat → W32) × Fl :=
  (fun i => if m.getLsbD i then (f i).1 else lane t v i, laneFlags m f)

/-- The special function of a lane (R179). -/
def specialLane (k : Special) (ty : VType) (x : W32) : W32 × Fl := lane2 ty (fun a _ => a) (fun f a _ => f.special k a) x x

/-- A vector instruction whose result takes more than 4 cycles (Table 6-4): registers read, destination, the lanes of its
result with its flags, and the generator states it leaves (R165). -/
def slowForm (t : Thread) : Instr → Option (List RegRef × BitVec 5 × (Nat → W32) × Fl × Vector W32 64)
  | .vfma v a b c m _ ty => if fusedSlow a b c then
      let r := byLane t v (t.rM m) fun i => fusedLane false ty (lane t a i) (lane t b i) (lane t c i)
      some ([.v a, .v b, .v c, .m m], v, r.1, r.2, t.gen) else none
  | .vfms v a b c m _ ty => if fusedSlow a b c then
      let r := byLane t v (t.rM m) fun i => fusedLane true ty (lane t a i) (lane t b i) (lane t c i)
      some ([.v a, .v b, .v c, .m m], v, r.1, r.2, t.gen) else none
  | .vrcp v a m _ ty => let r := byLane t v (t.rM m) fun i => specialLane .rcp ty (lane t a i)
    some ([.v a, .m m], v, r.1, r.2, t.gen)
  | .vrsq v a m _ ty => let r := byLane t v (t.rM m) fun i => specialLane .rsq ty (lane t a i)
    some ([.v a, .m m], v, r.1, r.2, t.gen)
  | .vsqrt v a m _ ty => let r := byLane t v (t.rM m) fun i => specialLane .sqrt ty (lane t a i)
    some ([.v a, .m m], v, r.1, r.2, t.gen)
  | .vexp2 v a m _ ty => let r := byLane t v (t.rM m) fun i => specialLane .exp2 ty (lane t a i)
    some ([.v a, .m m], v, r.1, r.2, t.gen)
  | .vlog2 v a m _ ty => let r := byLane t v (t.rM m) fun i => specialLane .log2 ty (lane t a i)
    some ([.v a, .m m], v, r.1, r.2, t.gen)
  | .vcvt v a c m _ ty =>
    let r := byLane t v (t.rM m) (cvtLane ty (vcvtSource c) (c.toNat % 8) (t.rV a) t.genAt)
    some ([.v a, .m m], v, r.1, r.2,
      if c.toNat % 8 = 4 ∧ (isPair ty ∨ ¬ isPair (vcvtSource c)) then cvtGen ty (vcvtSource c) (t.rM m) t.gen else t.gen)
  | .vpack v a c _ =>
    let qs := packBlocks (c.toNat % 8) (c.toNat / 8) (t.rV a) t.genAt
    some ([.v a], v, fun i => (packLanes (c.toNat % 8) qs).toList.getD i 0, qs.foldl (fun b q => b ||| q.fl) 0,
      if c.toNat / 8 = 2 then t.gen.map genStep else t.gen)
  | .vunpk v a c _ =>
    let w := (packFmt c.toNat).width
    let n := codeString 32 ((List.range (2 * w)).map fun j => (lane t a j).toNat)
    let top := (lane t a 63).toNat
    let f := fun k => unpackElem c.toNat (n / 2 ^ (w * k) % 2 ^ w) (top / 2 ^ (8 * (k / 32)) % 2 ^ 8)
      (top / 2 ^ (16 + 8 * (k / 32)) % 2 ^ 8)
    some ([.v a], v, fun i => BitVec.ofNat 32 (f i).1, (List.range 64).foldl (fun b i => b ||| (f i).2) 0, t.gen)
  | .vscale v a b m _ ty =>
    let r := byLane t v (t.rM m) fun i =>
      lane2 ty (fun a _ => a) (fun f a n => f.scale a (signedOf (if isPair ty then 16 else 32) n)) (lane t a i) (lane t b i)
    some ([.v a, .v b, .m m], v, r.1, r.2, t.gen)
  | .vperm v a b m _ _ => let r := byLane t v (t.rM m) fun i => (lane t a ((lane t b i).toNat % 64), 0)
    some ([.v a, .v b, .m m], v, r.1, 0, t.gen)
  | .vrot v a b m _ _ => let r := byLane t v (t.rM m) fun i => (lane t a ((i + (t.rG b.r).toNat) % 64), 0)
    some ([.v a, .g b.r, .m m], v, r.1, 0, t.gen)
  | _ => none

/-- The elements of VRED and VSCAN of I32 by their operation (R184). -/
def intOp (o : BitVec 5) (x y : W32) : W32 :=
  match o.toNat with
  | 0 => x + y
  | 1 => if y.slt x then y else x
  | 2 => if x.slt y then y else x
  | 3 => x &&& y
  | 4 => x ||| y
  | _ => x ^^^ y

/-- Their identities (R184). -/
def intIdentity (o : BitVec 5) : W32 :=
  match o.toNat with
  | 1 => 0x7FFFFFFF
  | 2 => 0x80000000
  | 3 => 0xFFFFFFFF
  | _ => 0

/-- A vector instruction with a late result: its registers are empty until RESULT_FILL writes the result, with the flags;
LV takes the result as well (R51, R169). -/
def LateVector (i : Instr) (s : State) (v : BitVec 5) (r : Nat → W32) (fl : Fl) (gen : Vector W32 64) : Prop :=
  ∃ t u, exec i s = .next t ∧ (∀ k, k ≠ tidKey s.cur → t.threads.look k = s.threads.look k) ∧ SameMemory s t ∧
    t.me.full (.v v) = false ∧ t.me.full (.v 24) = false ∧ t.me.pc = s.me.pc + 4 ∧ t.me.gen = gen ∧
    exec (.resultFill s.cur s.nextId) t = .next u ∧ SameMemory s u ∧ Thread.sameBut [.v v, .v 24] s.me u.me ∧
    (∀ i, i < 64 → lane u.me v i = r i ∧ lane u.me 24 i = r i) ∧ u.me.full (.v v) = true ∧ u.me.full (.v 24) = true ∧
    u.me.flg = s.me.flg ||| fl

/-- A mask instruction (R188): registers read, destination and result. -/
def maskForm (t : Thread) : Instr → Option (List RegRef × BitVec 2 × W64)
  | .mand k a b _ => some ([.m a, .m b], k, t.rM a &&& t.rM b)
  | .mor k a b _ => some ([.m a, .m b], k, t.rM a ||| t.rM b)
  | .mxor k a b _ => some ([.m a, .m b], k, t.rM a ^^^ t.rM b)
  | .mandn k a b _ => some ([.m a, .m b], k, t.rM a &&& ~~~ t.rM b)
  | .mnot k a _ => some ([.m a], k, ~~~ t.rM a)
  | .mset k a => some ([.g a.r], k, t.rG a.r)
  | _ => none

/-- A vector compare (R176): registers read, destination, active lanes, and a lane's comparison with its flags. -/
def compareForm (t : Thread) : Instr → Option (List RegRef × BitVec 2 × W64 × (Nat → Bool × Fl))
  | .vcmpeq k a b m _ ty => some ([.v a, .v b, .m m], k, t.rM m, fun i => cmpLane ty .eq (lane t a i) (lane t b i))
  | .vcmpne k a b m _ ty => some ([.v a, .v b, .m m], k, t.rM m, fun i => cmpLane ty .ne (lane t a i) (lane t b i))
  | .vcmplt k a b m _ ty => some ([.v a, .v b, .m m], k, t.rM m, fun i => cmpLane ty .lt (lane t a i) (lane t b i))
  | .vcmple k a b m _ ty => some ([.v a, .v b, .m m], k, t.rM m, fun i => cmpLane ty .le (lane t a i) (lane t b i))
  | .vcmpeqs k a b m _ ty =>
    some ([.v a, .g b.r, .m m], k, t.rM m, fun i => cmpLane ty .eq (lane t a i) (scalarLane ty (t.rG b.r)))
  | .vcmplts k a b m _ ty =>
    some ([.v a, .g b.r, .m m], k, t.rM m, fun i => cmpLane ty .lt (lane t a i) (scalarLane ty (t.rG b.r)))
  | _ => none

end Sys2Proof.Claims

/-- R169 to R178, R51: a vector ALU instruction that writes within 4 cycles gives each active lane its result and leaves
each inactive lane, writes LV the same, adds the active lanes' flags to FLG, and changes nothing else. -/
def Obligations.VectorResults : Prop :=
  ∀ (i : Instr) (s : State) (rs : List RegRef) (v : BitVec 5) (m : W64) (f : Nat → W32 × Fl),
    vectorForm s.me i = some (rs, v, m, f) → v.toNat < 26 → s.me.readable rs → s.me.allFull [.v v, .v 24] →
    ∃ t, exec i s = .next t ∧ OnlyThread s t ∧ SameMemory s t ∧ Thread.sameBut [.v v, .v 24] s.me t.me ∧
      Thread.sameRest { s.me with flg := s.me.flg ||| laneFlags m f } t.me ∧ t.me.pc = s.me.pc + 4 ∧ t.me.hold = .none ∧
      (∀ i, i < 64 → lane t.me v i = (if m.getLsbD i then (f i).1 else lane s.me v i) ∧ lane t.me 24 i = lane t.me v i) ∧
      t.me.full (.v v) = true ∧ t.me.full (.v 24) = true

/-- R175 to R178 on I32 lanes: sums, differences and products wrap, minimum, maximum and comparisons are signed, and no
flag is set. -/
def Sys2Proof.Claims.IntegerLanes : Prop :=
  ∀ a b c : W32, addLane .i32 a b = (a + b, 0) ∧ subLane .i32 a b = (a - b, 0) ∧ mulLane .i32 a b = (a * b, 0) ∧
    minLane .i32 a b = (if b.slt a then b else a, 0) ∧ maxLane .i32 a b = (if a.slt b then b else a, 0) ∧
    fusedLane false .i32 a b c = (a * b + c, 0) ∧ fusedLane true .i32 a b c = (c - a * b, 0) ∧
    cmpLane .i32 .eq a b = (decide (a = b), 0) ∧ cmpLane .i32 .ne a b = (decide (a ≠ b), 0) ∧
    cmpLane .i32 .lt a b = (a.slt b, 0) ∧ cmpLane .i32 .le a b = (a.sle b, 0)

/-- R167, R168 and R175 for the FP32 sum: a NaN operand gives the canonical NaN, infinities of opposite sign give it with
INV, and two finite operands whose exact sum is 0 give a zero without flags. -/
def Sys2Proof.Claims.FloatSums : Prop :=
  (∀ a b : W32, (a.toNat % 2 ^ 31 > 0x7F800000 ∨ b.toNat % 2 ^ 31 > 0x7F800000) → (addLane .f32 a b).1 = 0x7FC00000) ∧
  (addLane .f32 0x7F800000 0xFF800000 = (0x7FC00000, 1)) ∧
  (∀ a : W32, a.toNat % 2 ^ 31 < 0x7F800000 → a.toNat % 2 ^ 31 ≠ 0 → addLane .f32 a (a ^^^ 0x80000000) = (0, 0))

/-- R173, R177, R179 to R183 and R186: the vector instructions whose results take more than 4 cycles, with the results that
their rules give (log 116 for the mask bit of a narrowed element that rounds stochastically). -/
def Sys2Proof.Claims.LateVectorResults : Prop :=
  ∀ (i : Instr) (s : State) (rs : List RegRef) (v : BitVec 5) (r : Nat → W32) (fl : Fl) (gen : Vector W32 64),
    slowForm s.me i = some (rs, v, r, fl, gen) → v.toNat < 26 → s.me.readable rs → s.me.allFull [.v v, .v 24] →
    FreshName s → LateVector i s v r fl gen

/-- R180: what VCVT makes of a lane. A BF16 element that is no NaN widens to the FP32 with its bits above and zeros below; into pairs,
lanes 32 to 63 are 0 and lane j below takes its elements from lanes 2j and 2j + 1, an FP32 that is no NaN giving with RTZ the BF16 of its
high bits; an integer of at most 24 bits passes to FP32 and back unchanged, with no flag, in every mode; to I32 a NaN gives 0 and INV
alone, and a value outside the range the nearer bound, with SAT and NX; integral FP32 values and infinities stay. -/
def Sys2Proof.Claims.ConvertedLanes : Prop :=
  (∀ (k : Nat) (a : Lanes) (gen : Nat → W32) (i : Nat), i < 64 →
    (∀ x : BitVec 16, x = (laneAt a (32 * (k % 2) + i / 2) >>> (16 * (i % 2))).setWidth 16 → x &&& 0x7FFF#16 ≤ 0x7F80#16 →
      cvtLane .f32 .bf16 k a gen i = (x.setWidth 32 <<< 16, 0)) ∧
    (32 ≤ i → ∀ ty, isPair ty = true → cvtLane ty .f32 k a gen i = (0, 0)) ∧
    (i < 32 → k = 1 → laneAt a (2 * i) &&& 0x7FFFFFFF#32 ≤ 0x7F800000#32 → laneAt a (2 * i + 1) &&& 0x7FFFFFFF#32 ≤ 0x7F800000#32 →
      (cvtLane .bf16 .f32 k a gen i).1 = (laneAt a (2 * i) >>> 16) ||| (laneAt a (2 * i + 1) &&& 0xFFFF0000#32)) ∧
    ((laneAt a i).toInt.natAbs ≤ 2 ^ 24 → ∀ (k' : Nat) (b : Lanes) (gen' : Nat → W32), laneAt b i = (cvtLane .f32 .i32 k a gen i).1 →
      (cvtLane .f32 .i32 k a gen i).2 = 0 ∧ cvtLane .i32 .f32 k' b gen' i = (laneAt a i, 0)) ∧
    (0x7F800000#32 < laneAt a i &&& 0x7FFFFFFF#32 → cvtLane .i32 .f32 k a gen i = (0, flINV)) ∧
    (0x4F000000#32 ≤ laneAt a i → laneAt a i ≤ 0x7F800000#32 → cvtLane .i32 .f32 k a gen i = (0x7FFFFFFF#32, flSAT ||| flNX)) ∧
    (0xCF000001#32 ≤ laneAt a i → laneAt a i ≤ 0xFF800000#32 → cvtLane .i32 .f32 k a gen i = (0x80000000#32, flSAT ||| flNX)) ∧
    (0x4B000000#32 ≤ laneAt a i &&& 0x7FFFFFFF#32 → laneAt a i &&& 0x7FFFFFFF#32 ≤ 0x7F800000#32 →
      cvtLane .f32 .f32 k a gen i = (laneAt a i, 0)))

namespace Sys2Proof.Claims

/-- The value at a node of level `n` of the tree of R184, whose leaves are `e 0` to `e (2 ^ n - 1)`, with the flags of its operations. -/
def treeValue (op : Nat → Nat → Nat × Fl) : Nat → (Nat → Nat) → Nat × Fl
  | 0, e => (e 0, 0)
  | n + 1, e =>
    let x := treeValue op n e
    let y := treeValue op n fun k => e (2 ^ n + k)
    ((op x.1 y.1).1, x.2 ||| y.2 ||| (op x.1 y.1).2)

end Sys2Proof.Claims

/-- R184: the elements are combined by the fixed tree, in which a node has the values of its two halves, in order, whatever the
operation; 7 levels reduce the 64 elements of I32 and F32 as well as the 128 of a pair type to the one result. -/
def Sys2Proof.Claims.ReductionTree : Prop :=
  ∀ (op : Nat → Nat → Nat × Fl) (n : Nat) (es : List Nat), n ≤ 7 → es.length = 2 ^ n →
    redTree op 7 (es.map fun x => (x, 0)) = [treeValue op n fun k => es.getD k 0]

/-- R184 and R185 on I32: VRED puts the operation over the active lanes into lane 0 and 0 into the others; VSCAN puts into
each active lane the operation over the active lanes up to it, and leaves the inactive lanes. -/
def Sys2Proof.Claims.IntegerReductions : Prop :=
  ∀ (v a o : BitVec 5) (m : BitVec 2) (e : Bool) (s : State), v.toNat < 26 → o.toNat < 6 → s.me.readable [.v a, .m m] →
    s.me.allFull [.v v, .v 24] → FreshName s →
    LateVector (.vred v a o m e .i32) s v
      (fun i => if i = 0 then
        ((List.range 64).filter fun j => (s.me.rM m).getLsbD j).foldl (fun x j => intOp o x (lane s.me a j)) (intIdentity o) else 0)
      0 s.me.gen ∧
    LateVector (.vscan v a o m e .i32) s v
      (fun i => if (s.me.rM m).getLsbD i then
        ((List.range (i + 1)).filter fun j => (s.me.rM m).getLsbD j).foldl (fun x j => intOp o x (lane s.me a j)) (intIdentity o)
        else lane s.me v i)
      0 s.me.gen

/-- R184 and R185 for every type: VRED reduces the elements by the tree of R184, VSCAN gives the prefixes of R185, each with
the flags of its operations. -/
def Sys2Proof.Claims.ReductionsByTree : Prop :=
  ∀ (v a o : BitVec 5) (m : BitVec 2) (e : Bool) (ty : VType) (s : State), v.toNat < 26 → s.me.readable [.v a, .m m] →
    s.me.allFull [.v v, .v 24] → FreshName s →
    (let r := (redTree (redOp ty o.toNat) 7 ((redElems ty (s.me.rM m) (s.me.rV a)).map fun y =>
        (if y.2 then y.1 else redIdentity ty o.toNat, 0))).headD (0, 0)
      ∃ fl, LateVector (.vred v a o m e ty) s v (fun i => (lanesOf ty [r.1]).toList.getD i 0) fl s.me.gen ∧
        (ty ≠ .i32 → fl = r.2)) ∧
    (let es := (redElems ty (s.me.rM m) (s.me.rV a)).zip ((List.range (elemCount ty)).map (elemAt ty (s.me.rV v)))
      let r := scanFrom (redOp ty o.toNat) (redIdentity ty o.toNat) 0 (es.map fun y => (y.1.1, y.1.2, y.2))
      ∃ fl, LateVector (.vscan v a o m e ty) s v (fun i => (lanesOf ty r.1).toList.getD i 0) fl s.me.gen ∧
        (ty ≠ .i32 → fl = r.2))

/-- R187: VINS replaces the lane, or the half of a lane, that Gb names, when that lane is active; VEXTR fills Gd with the
element that Gb names, an I32 sign-extended, and does not change LV. -/
def Sys2Proof.Claims.LaneInsertAndExtract : Prop :=
  (∀ (v : BitVec 5) (a b : GSrc) (m : BitVec 2) (ty : VType) (s : State), v.toNat < 26 →
    s.me.readable [.v v, .g a.r, .g b.r, .m m] → s.me.full (.v 24) = true → FreshName s →
    (isPair ty = false →
      LateVector (.vins v a b m ty) s v
        (fun i => if i = (s.me.rG b.r).toNat % 64 ∧ (s.me.rM m).getLsbD i then (s.me.rG a.r).setWidth 32 else lane s.me v i)
        0 s.me.gen) ∧
    (isPair ty = true →
      LateVector (.vins v a b m ty) s v
        (fun i => if i = (s.me.rG b.r).toNat % 128 / 2 ∧ (s.me.rM m).getLsbD i then
            (if (s.me.rG b.r).toNat % 2 = 0 then (lane s.me v i &&& 0xFFFF0000) ||| ((s.me.rG a.r).setWidth 16).setWidth 32
             else (lane s.me v i &&& 0xFFFF) ||| (((s.me.rG a.r).setWidth 16).setWidth 32 <<< 16))
          else lane s.me v i)
        0 s.me.gen)) ∧
  (∀ (d : BitVec 4) (a : BitVec 5) (b : GSrc) (e : Bool) (ty : VType) (s : State), s.me.readable [.v a, .g b.r] →
    s.me.full (.g d) = true → FreshName s →
    (d = 0 → ∃ t, exec (.vextr d a b e ty) s = .next t ∧ Retires 1 [] s t) ∧
    (d ≠ 0 → ∃ t u, exec (.vextr d a b e ty) s = .next t ∧ Sends [.g d] s t ∧ t.me.full (.g d) = false ∧
      exec (.resultFill s.cur s.nextId) t = .next u ∧ SameMemory s u ∧ u.me.full (.g d) = true ∧
      (ty = .i32 → u.me.rG d = (lane s.me a ((s.me.rG b.r).toNat % 64)).signExtend 64) ∧
      (ty = .f32 → u.me.rG d = (lane s.me a ((s.me.rG b.r).toNat % 64)).setWidth 64) ∧
      (isPair ty = true → u.me.rG d =
        BitVec.ofNat 64 ((lane s.me a ((s.me.rG b.r).toNat % 128 / 2)).toNat / 2 ^ (16 * ((s.me.rG b.r).toNat % 2)) % 2 ^ 16))))

/-- R176 and R188: a mask instruction writes its mask at once (M0 stays all ones), MPOPC counts the 1 bits and MFIRST gives
the lowest of them, 64 if there is none; a vector compare writes a 1 for each active lane whose comparison holds, and adds
the active lanes' flags to FLG. -/
def Obligations.MaskResults : Prop :=
  (∀ (i : Instr) (s : State) (rs : List RegRef) (k : BitVec 2) (x : W64), maskForm s.me i = some (rs, k, x) →
    s.me.readable rs → s.me.full (.m k) = true →
    ∃ t, exec i s = .next t ∧ Retires 1 [.m k] s t ∧ t.me.full (.m k) = true ∧
      t.me.rM k = if k = 0 then BitVec.allOnes 64 else x) ∧
  (∀ (d : BitVec 4) (a : BitVec 2) (e : Bool) (s : State), s.me.readable [.m a] → s.me.full (.g d) = true →
    (∃ t, exec (.mpopc d a e) s = .next t ∧ Retires 1 [.g d] s t ∧
      (d ≠ 0 → (t.me.rG d).toNat = ((List.range 64).filter fun j => (s.me.rM a).getLsbD j).length)) ∧
    (∃ t, exec (.mfirst d a e) s = .next t ∧ Retires 1 [.g d] s t ∧
      (d ≠ 0 → (t.me.rG d).toNat = (((List.range 64).find? fun j => (s.me.rM a).getLsbD j).getD 64)))) ∧
  (∀ (i : Instr) (s : State) (rs : List RegRef) (k : BitVec 2) (m : W64) (f : Nat → Bool × Fl),
    compareForm s.me i = some (rs, k, m, f) → s.me.readable rs → s.me.full (.m k) = true →
    ∃ t, exec i s = .next t ∧ OnlyThread s t ∧ SameMemory s t ∧ Thread.sameBut [.m k] s.me t.me ∧ t.me.pc = s.me.pc + 4 ∧
      Thread.sameRest { s.me with
        flg := s.me.flg ||| (List.range 64).foldl (fun b i => b ||| if m.getLsbD i then (f i).2 else 0) 0 } t.me ∧
      t.me.hold = .none ∧ (k ≠ 0 → ∀ i, i < 64 → (t.me.rM k).getLsbD i = (m.getLsbD i && (f i).1)))

/-! ### Vector memory instructions -/

namespace Sys2Proof.Claims

/-- The active lanes of a mask with their addresses. -/
def lanesAt (m : W64) (f : Nat → W64) : List LaneAddr :=
  ((List.range 64).filter fun i => m.getLsbD i).map fun i => (i, f i)

/-- A vector memory instruction (R215, R216): registers read, whether it loads, vector register, lanes with their addresses,
whether they lie side by side, and the first address. -/
def vectorAccess (t : Thread) : Instr → Option (List RegRef × Bool × BitVec 5 × List LaneAddr × Bool × W64)
  | .vld v a o m _ =>
    let ea := t.rG a.r + o.signExtend 64 * 256
    some ([.g a.r, .m m], true, v, lanesAt (t.rM m) fun i => ea + 4 * BitVec.ofNat 64 i, true, ea)
  | .vst v a o m _ =>
    let ea := t.rG a.r + o.signExtend 64 * 256
    some ([.v v, .g a.r, .m m], false, v, lanesAt (t.rM m) fun i => ea + 4 * BitVec.ofNat 64 i, true, ea)
  | .vldt v a b m _ =>
    some ([.g a.r, .g b.r, .m m], true, v, lanesAt (t.rM m) fun i => t.rG a.r + BitVec.ofNat 64 i * t.rG b.r, false, 0)
  | .vstt v a b m _ =>
    some ([.v v, .g a.r, .g b.r, .m m], false, v, lanesAt (t.rM m) fun i => t.rG a.r + BitVec.ofNat 64 i * t.rG b.r, false, 0)
  | .vldx v a b m _ =>
    some ([.g a.r, .v b, .m m], true, v, lanesAt (t.rM m) fun i => t.rG a.r + (lane t b i).signExtend 64, false, 0)
  | .vstx v a b m _ =>
    some ([.v v, .g a.r, .v b, .m m], false, v, lanesAt (t.rM m) fun i => t.rG a.r + (lane t b i).signExtend 64, false, 0)
  | _ => none

/-- The units of an access: lanes side by side by the 64-byte units that hold them, other lanes one by one (R210, R216). -/
def unitLists (side : Bool) (ls : List LaneAddr) : List (List LaneAddr) := if side then unitsOf ls else ls.map fun l => [l]

/-- The access of one unit, as the `n`-th of an instruction; `data`: the register stored. -/
def unitAccess (s : State) (data : Option Lanes) (n : Nat) (u : List LaneAddr) : Acc :=
  let l := u.headD (0, 0)
  ⟨s.nextId + 1 + n, s.cur, s.me.ctxh, s.me.space, .thread s.nextId l.1, s.me.pc.toNat, unitOp data l.2 u, l.2,
    (u.tail.foldl (fun n k => max n (k.2 - l.2).toNat) 0) + 4, startTrans s.cur.core (unitOp data l.2 u) l.2, false, false,
    (s.core s.cur.core).xb, inWindow (s.core s.cur.core) l.2, false, s.nextId + 1 + n⟩

/-- The units of an access are in flight. -/
def UnitsPosted (data : Option Lanes) (us : List (List LaneAddr)) (s t : State) : Prop :=
  t.accs = s.accs ++ us.mapIdx fun n u => unitAccess s data n u

/-- The last of the thread's answers to come is that of a vector access. -/
def AwaitsVector (id left : Nat) (dst also : Option RegRef) (s t : State) : Prop :=
  ∃ p, t.me.pending = s.me.pending ++ [p] ∧ p.id = id ∧ p.left = left ∧ p.dst = dst ∧ p.also = also ∧ p.vector = true ∧
    p.word = s.me.pc.toNat ∧ p.refused = []

end Sys2Proof.Claims

/-- R215 to R217, R51 and R210: with every address a multiple of 4 and no lane refused at issue, a vector load empties its
register and LL and puts the units of its active lanes in flight; a vector store puts its units in flight with the register's
lanes; a store of 16 lanes to the own request port is one access (R377). -/
def Sys2Proof.Claims.VectorMemoryIssue : Prop :=
  ∀ (i : Instr) (s : State) (rs : List RegRef) (load : Bool) (v : BitVec 5) (ls : List LaneAddr) (side : Bool) (ea : W64),
    vectorAccess s.me i = some (rs, load, v, ls, side, ea) → v.toNat < 26 → s.me.readable rs →
    (if side then ea.toNat % 4 = 0 else ∀ l ∈ ls, l.2.toNat % 4 = 0) →
    issueRefusal s (if side then some ea else none) (!load) ls = none →
    (load = true → s.me.allFull [.v v, .v 25] →
      ∃ t, exec i s = .next t ∧ Sends [.v v, .v 25] s t ∧ t.me.hold = .none ∧ UnitsPosted none (unitLists side ls) s t ∧
        AwaitsVector s.nextId (unitLists side ls).length (some (.v v)) (if v = 25 then none else some (.v 25)) s t ∧
        t.me.full (.v v) = false ∧ t.me.full (.v 25) = false) ∧
    (load = false → (side = true → isPort s.cur.core ea = false) →
      ∃ t, exec i s = .next t ∧ Sends [] s t ∧ t.me.hold = .none ∧ UnitsPosted (some (s.me.rV v)) (unitLists side ls) s t ∧
        (if ls = [] then t.me.pending = s.me.pending
         else AwaitsVector s.nextId (unitLists side ls).length none none s t)) ∧
    (∀ a o m e, i = .vst v a o m e → isPort s.cur.core ea = true → s.me.rM m = 0xFFFF →
      ∃ t, exec i s = .next t ∧ Sends [] s t ∧
        t.accs = s.accs ++ [newAccess s (.port ((List.range 16).map (lane s.me v))) ea 64])

namespace Sys2Proof.Claims

/-- A lane of a contiguous access that starts at `ea` lies past the end of the scratchpad or B-stack which `ea` names (R215). -/
def LanePast (c : CoreId) (ea x : W64) : Prop :=
  ∃ p k, classify c ea = .place p ∧ (((∃ j, p.region = .scratch k j) ∧ 0x80000 < p.off + (x - ea).toNat + 4) ∨
    (p.region = .bstack k ∧ 0x400000 < p.off + (x - ea).toNat + 4))

/-- The source of the ACCESS that a lane's address takes at issue: 2 past the end of its memory, 3 for a store below the own XB. -/
def LaneSource (s : State) (side load : Bool) (ea x : W64) (src : Nat) : Prop :=
  (side = true ∧ LanePast s.cur.core ea x ∧ src = 2) ∨
  (¬ (side = true ∧ LanePast s.cur.core ea x) ∧ load = false ∧ ownXB s x = true ∧ src = 3)

/-- A vector memory instruction, VSTFL among them, with the flag address that must be one of a cluster window. -/
def vectorAccessFlag (t : Thread) : Instr → Option (List RegRef × Bool × BitVec 5 × List LaneAddr × Bool × W64 × Option W64)
  | .vstfl v a b m _ => some ([.v v, .g a.r, .g b.r, .m m], false, v,
      lanesAt (t.rM m) fun i => t.rG a.r + 4 * BitVec.ofNat 64 i, true, t.rG a.r, some (t.rG b.r))
  | i => (vectorAccess t i).map fun x => (x.1, x.2.1, x.2.2.1, x.2.2.2.1, x.2.2.2.2.1, x.2.2.2.2.2, none)

end Sys2Proof.Claims

/-- R215, R216, R217 and R273: at issue a vector memory instruction raises ALIGN for a first address that is no multiple of 4,
whatever the mask, or, strided or indexed, for the lowest address of an active lane that is none; then VSTFL's flag address is looked
at; then the lowest active lane that lies past the end of its memory (source 2) or stores below the own XB of a user slot (source 3)
raises ACCESS, with its address in TINFO0, and its lane and the mark of a vector access in TINFO2. -/
def Sys2Proof.Claims.VectorIssueTraps : Prop :=
  ∀ (i : Instr) (s : State) (rs : List RegRef) (load : Bool) (v : BitVec 5) (ls : List LaneAddr) (side : Bool) (ea : W64)
    (fa : Option W64) (b : Block), vectorAccessFlag s.me i = some (rs, load, v, ls, side, ea, fa) → v.toNat < 26 → s.me.readable rs →
    (load = true → s.me.allFull [.v v, .v 25]) → CanTrap s b →
    (side = true → ea.toNat % 4 ≠ 0 →
      ∃ t, exec i s = .next t ∧ Trapped ⟨.align, ea, 0, 0⟩ (s.me.pc.setWidth 64) b s t) ∧
    (side = false → ∀ l ∈ ls, l.2.toNat % 4 ≠ 0 → (∀ k ∈ ls, k.2.toNat % 4 ≠ 0 → l.2.toNat ≤ k.2.toNat) →
      ∃ t, exec i s = .next t ∧ Trapped ⟨.align, l.2, 0, 0⟩ (s.me.pc.setWidth 64) b s t) ∧
    ((if side then ea.toNat % 4 = 0 else ∀ l ∈ ls, l.2.toNat % 4 = 0) →
      (∀ x f, fa = some x → flagAddrFault x = some f →
        ∃ t, exec i s = .next t ∧ Trapped f (s.me.pc.setWidth 64) b s t) ∧
      ((∀ x, fa = some x → flagAddrFault x = none) → ∀ l src, l ∈ ls → LaneSource s side load ea l.2 src →
        (∀ k n, k ∈ ls → k.1 < l.1 → ¬ LaneSource s side load ea k.2 n) →
        ∃ t, exec i s = .next t ∧
          Trapped ⟨.access, l.2, 0, BitVec.ofNat 64 (src + l.1 * 2 ^ 16 + 2 ^ 23)⟩ (s.me.pc.setWidth 64) b s t))

/-- R273: VSTFL puts the units of its active lanes in flight and needs one answer more, that of the flag, which is raised at
once when no lane is active. -/
def Sys2Proof.Claims.FlaggedVectorStore : Prop :=
  ∀ (v : BitVec 5) (a b : GSrc) (m : BitVec 2) (e : Bool) (s : State), s.me.readable [.v v, .g a.r, .g b.r, .m m] →
    (s.me.rG a.r).toNat % 4 = 0 → flagAddrFault (s.me.rG b.r) = none →
    issueRefusal s (some (s.me.rG a.r)) true (lanesAt (s.me.rM m) fun i => s.me.rG a.r + 4 * BitVec.ofNat 64 i) = none →
    ∃ t, exec (.vstfl v a b m e) s = .next t ∧ Sends [] s t ∧ t.me.hold = .none ∧
      UnitsPosted (some (s.me.rV v)) (unitsOf (lanesAt (s.me.rM m) fun i => s.me.rG a.r + 4 * BitVec.ofNat 64 i)) s t ∧
      AwaitsVector s.nextId ((unitsOf (lanesAt (s.me.rM m) fun i => s.me.rG a.r + 4 * BitVec.ofNat 64 i)).length + 1)
        none none s t ∧
      t.raises = s.raises ++ (if s.me.rM m = 0 then
        [⟨s.nextId + 1, s.cur, s.me.ctxh, s.me.pc.toNat, s.nextId, s.cur.core.node, s.me.rG b.r, true,
          (s.core s.cur.core).xb⟩] else [])

/-- R210: the units of an access are its lanes in order, cut where the 64-byte unit changes, and nowhere else: neighbouring units lie
in different 64-byte units. -/
def Sys2Proof.Claims.UnitsOfLanes : Prop :=
  ∀ ls : List LaneAddr, (unitsOf ls).flatten = ls ∧
    (∀ u ∈ unitsOf ls, u ≠ [] ∧ ∀ x ∈ u, ∀ y ∈ u, x.2.toNat / 64 = y.2.toNat / 64) ∧
    (∀ n u v, (unitsOf ls)[n]? = some u → (unitsOf ls)[n + 1]? = some v → ∀ x ∈ u, ∀ y ∈ v, x.2.toNat / 64 ≠ y.2.toNat / 64)

/-- R51, R215 and R217: a unit of a vector load adds the words of its lanes to those that the load has gathered; with the last
unit they go into the register's lanes and into LL's, and the others stay as they are (so do LL's own where LL is the
destination: log 60); a unit of a vector store changes the bytes of its lanes only, each to its lane's word. -/
def Sys2Proof.Claims.VectorAcceptance : Prop :=
  ∀ (k pid ln : Nat) (a : Acc) (p : Phys) (q : Pending) (s : State), s.acc? k = some a → a.agent = .thread pid ln →
    a.place = some p → p.node = a.tid.core.node → mayAccept s a p = true → a.refusal p (settleAcc a s) = none →
    (s.th a.tid).pend? pid = some q → q.refused = [] →
    (∀ ls xs, a.op = .vload ls → q.val = .lanes xs → 1 < q.left →
      ∃ t, exec (.memoryAccessAccept k) s = .next t ∧ SameMemory s t ∧
        (t.th a.tid).pend? pid = some { q with
          left := q.left - 1
          val := .lanes (xs ++ ls.map fun l => (l.1, BitVec.ofNat 32 (s.peek (p.plus l.2) 4))) }) ∧
    (∀ ls xs v, a.op = .vload ls → q.left = 1 → q.dst = some (.v v) → q.val = .lanes xs →
      (v.toNat < 25 ∧ q.also = some (.v 25)) ∨ (v = 25 ∧ q.also = none) → (∀ w ∈ s.waits, w.tid = a.tid → w.seq ≠ pid) →
      ∃ t u, exec (.memoryAccessAccept k) s = .next t ∧ SameMemory s t ∧ exec (.resultFill a.tid pid) t = .next u ∧
        SameMemory s u ∧ (u.th a.tid).full (.v v) = true ∧ (u.th a.tid).full (.v 25) = true ∧
        ∀ i, i < 64 →
          (match (xs ++ ls.map fun l => (l.1, BitVec.ofNat 32 (s.peek (p.plus l.2) 4))).find? fun l => l.1 = i with
           | some l => lane (u.th a.tid) v i = l.2 ∧ lane (u.th a.tid) 25 i = l.2
           | none => lane (u.th a.tid) v i = lane (s.th a.tid) v i ∧ lane (u.th a.tid) 25 i = lane (s.th a.tid) 25 i)) ∧
    (∀ ls, a.op = .vstore ls → q.left = 1 → q.dst = none → q.also = none → q.val = .g 0 →
      ∃ t, exec (.memoryAccessAccept k) s = .next t ∧ t.empties = s.empties ∧
        (∀ j, (∀ l ∈ ls, j < p.key + l.2.1 ∨ p.key + l.2.1 + 4 ≤ j) → t.byteAt j = s.byteAt j) ∧
        (∀ l ∈ ls, (∀ x ∈ ls, x ≠ l → x.2.1 + 4 ≤ l.2.1 ∨ l.2.1 + 4 ≤ x.2.1) →
          t.peek (p.plus l.2.1) 4 = l.2.2.toNat) ∧
        (t.th a.tid).pend? pid = none)

/-! ### Engine commands -/

namespace Sys2Proof.Claims

/-- What an engine command needs and names at issue (Tables 10-3, 11-3 and 15-1). -/
structure Engine where
  queue : EngineQueue
  /-- Slot 0 only (R260). -/
  priv : Bool
  /-- It takes a job ID (R250). -/
  job : Bool
  d : BitVec 4
  srcs : List GSrc
  guard : Guard
  a : W64
  b : W64
  recs : List RecordRef
  /-- A trap of its own (R289). -/
  fault : Option FaultInfo

/-- The engine commands. -/
def engineForm (s : State) : Instr → Option Engine
  | .cpy d a b _ g =>
    some ⟨.copy, false, true, d, [a, b], g, s.me.rG a.r, s.me.rG b.r, [(s.me.rG a.r, 64), (s.me.rG b.r, 64)], none⟩
  | .chain d a b _ g => some ⟨.copy, true, false, d, [a, b], g, s.me.rG a.r, s.me.rG b.r, [], none⟩
  | .cstat d _ g => some ⟨.copy, false, false, d, [], g, 0, 0, [], none⟩
  | .send d a b _ g => some ⟨.message, false, true, d, [a, b], g, s.me.rG a.r, s.me.rG b.r, [(s.me.rG a.r, 64)], none⟩
  | .post d a b _ g => some ⟨.message, false, false, d, [a, b], g, s.me.rG a.r, s.me.rG b.r, [(s.me.rG a.r, 128)], none⟩
  | .rring d a b _ g | .rprobe d a b _ g => some ⟨.message, false, false, d, [a, b], g, s.me.rG a.r, s.me.rG b.r, [], none⟩
  | .launch d a b _ g => some ⟨.launch, false, false, d, [a, b], g, s.me.rG a.r, s.me.rG b.r, [(s.me.rG b.r, 128)], none⟩
  | .lstat d a _ g => some ⟨.launch, false, false, d, [a], g, s.me.rG a.r, 0, [], none⟩
  | .preempt d a _ g | .signal d a _ g =>
    some ⟨.launch, false, false, d, [a], g, s.me.rG a.r, 0, [(s.me.rG a.r, 64)], none⟩
  | .mma d a b w g =>
    some ⟨.matrix, false, false, d, [a, b], g, s.me.rG a.r, s.me.rG b.r, [],
      mxTrap w (fun t => mxAddress s.cur.core (t.rG a.r) (t.rG b.r) (wfield w 0 6) 64) s⟩
  | .mdrain d a b w g =>
    some ⟨.matrix, false, false, d, [a, b], g, s.me.rG a.r, s.me.rG b.r, [],
      mxTrap w (fun t => mxAddress s.cur.core (t.rG a.r) (t.rG b.r) (wfield w 0 6) (32 * outBytes (wfield w 10 3))) s⟩
  | .magr d a b w g =>
    some ⟨.matrix, false, false, d, [a, b], g, s.me.rG a.r, s.me.rG b.r, [], mxTrap w (fun _ => none) s⟩
  | .mwld d w g | .mzero d w g | .mstat d w g | .mtest d w g =>
    some ⟨.matrix, false, false, d, [], g, 0, 0, [], mxTrap w (fun _ => none) s⟩
  | _ => none

/-- Every cluster but one is as before. -/
def OtherClusters (c : ClusterId) (s t : State) : Prop := ∀ k, k ≠ clusterKey c → t.clusters.look k = s.clusters.look k

/-- A token has come (R249): the register of the command's thread that awaits it is full and holds the token. -/
def Answered (c : Cmd) (x : W64) (s t : State) : Prop :=
  ∀ (p : Pending) (d : BitVec 4), (s.th c.tid).pend? c.id = some p → p.dst = some (.g d) → p.also = none → d ≠ 0 →
    (t.th c.tid).full (.g d) = true ∧ (t.th c.tid).rG d = x ∧ (t.th c.tid).pend? c.id = none

/-- A command has left its queue; the others are there in their order (their guards may have come, R66). -/
def Left (q : EngineQueue) (c : Cmd) (s t : State) : Prop :=
  (queueOf t c.tid.core q).map (·.id) = ((queueOf s c.tid.core q).filter fun x => decide (x.id ≠ c.id)).map (·.id)

/-- A command has left its queue and its token has come; memory is as before. -/
def Served (q : EngineQueue) (c : Cmd) (x : W64) (s t : State) : Prop := Left q c s t ∧ Answered c x s t ∧ SameMemory s t

/-- An access of an engine for a command, in flight under a name. -/
def engineAccess (s : State) (c : Cmd) (id : Nat) (agent : Agent) (op : AccOp) (ea : W64) (len : Nat) : Acc :=
  ⟨id, c.tid, c.ctx, c.space, agent, c.word, op, ea, len, startTrans c.tid.core op ea, false, false,
    (s.core c.tid.core).xb, inWindow (s.core c.tid.core) ea, false, id⟩

/-- The reads of a source by an engine: its units, each whole and named by its first element, in element order. -/
def readsOf (s : State) (c : Cmd) (agent : Nat → Agent) (src : List W64) (id : Nat) : List Acc :=
  (srcReads src).mapIdx fun n u => engineAccess s c (id + n) (agent u.2) .engRead u.1 64

/-- The writes of zeros to the units of a destination, in the order of their first elements, by the job `j`. -/
def zeroWrites (s : State) (c : Cmd) (j : Nat) (dst : List W64) (id : Nat) : List Acc :=
  (destUnits dst (layBytes dst)).mapIdx fun n u =>
    engineAccess s c (id + n) (.copyWrite j n) (.engWrite ((unitBytes dst (layBytes dst) u).map fun b => (b.1, 0))) u 64

end Sys2Proof.Claims

/-- R66, R246, R247 and R255: an engine command whose operands and records can be read and whose queue has room empties its
token register, takes its job ID, and is the newest of its queue with the operands, the records and the guard as they are;
a false guard does not stop it. Its own trap, and a record address that is misaligned or not scratchpad, come first. -/
def Obligations.EngineIssue : Prop :=
  ∀ (i : Instr) (e : Engine) (s : State), engineForm s i = some e → (e.priv = true → s.cur.slot = 0) →
    s.me.readable (e.srcs.map fun x => .g x.r) → s.me.full (.g e.d) = true →
    (e.fault = none → recordTrap s.cur.core e.recs = none → recordWait s e.recs = none → recordRefusal s e.recs = none →
      queueRoom s s.cur e.queue = true → (s.me.full (.q e.guard.q) = true → s.me.bad (.q e.guard.q) = false) →
      ∃ t, exec i s = .next t ∧
        t = { s with threads := t.threads, cores := t.cores, clusters := t.clusters, nextId := s.nextId + 1 } ∧
        (∀ k, k ≠ tidKey s.cur → t.threads.look k = s.threads.look k) ∧ Thread.sameBut [.g e.d] s.me t.me ∧
        Thread.sameRest { s.me with pending := t.me.pending, ccnt := t.me.ccnt } t.me ∧ t.me.pc = s.me.pc + 8 ∧
        t.me.hold = .none ∧ t.me.blocked = none ∧ t.me.ccnt = (if e.job then s.me.ccnt + 1 else s.me.ccnt) ∧
        AwaitsLast s.nextId (if e.d = 0 then none else some (.g e.d)) 1 (.g 0) s t ∧
        queueOf t s.cur.core e.queue = queueOf s s.cur.core e.queue ++
          [⟨s.nextId, s.cur, s.me.ctxh, s.me.space, i, e.a, e.b, recordWords s e.recs, if e.job then s.me.ccnt else 0,
            if s.me.full (.q e.guard.q) then .known (s.me.rQ e.guard.q != e.guard.neg) else .pend e.guard.q e.guard.neg,
            s.me.pc.toNat⟩]) ∧
    (∀ f b, (e.fault.or (recordTrap s.cur.core e.recs)) = some f → CanTrap s b →
      ∃ t, exec i s = .next t ∧ Trapped f (s.me.pc.setWidth 64) b s t)

/-- R246, R248, R255, R258 and R262: a CPY that starts with malformed records answers so; else its source's units are read, and for a
source of zeros its writes are issued. CSTAT answers the item asked for (an idle channel's record: log 119). The oldest command of a channel whose guard is false leaves
its queue with DISCARDED. A job whose every unit is accepted raises its flag, and answers its job ID, by which CDONE rises;
one that a refusal cut answers the refusal. -/
def Sys2Proof.Claims.CopyUnit : Prop :=
  (∀ (c : ClusterId) (x : Cmd) (d : BitVec 4) (a b : GSrc) (w : W32) (g : Guard) (s : State), nextCopy s c = some x →
    clusterOf x.tid.core = c → x.ins = .cpy d a b w g →
    (copyOk (x.recw.take 8) (x.recw.drop 8) = false →
      ∃ t, exec (.cpyStart c) s = .next t ∧ Served .copy x 0xFF00F0A000000000 s t) ∧
    (copyOk (x.recw.take 8) (x.recw.drop 8) = true → layZero (x.recw.take 8) = false →
      ∃ t, exec (.cpyStart c) s = .next t ∧ Left .copy x s t ∧ OtherClusters c s t ∧
        t = { s with
          clusters := t.clusters
          nextId := s.nextId + 1 + (srcReads (x.recw.take 8)).length
          accs := s.accs ++ readsOf s x (.copyRead s.nextId) (x.recw.take 8) (s.nextId + 1)
          jobs := s.jobs ++ [⟨s.nextId, x, none, x.recw.take 8, x.recw.drop 8, [], 0, 0, 0, none, none⟩] }) ∧
    (copyOk (x.recw.take 8) (x.recw.drop 8) = true → layZero (x.recw.take 8) = true → (∀ y ∈ s.jobs, y.id ≠ s.nextId) →
      ∃ t n, exec (.cpyStart c) s = .next t ∧ Left .copy x s t ∧ OtherClusters c s t ∧
        n = (destUnits (x.recw.drop 8) (layBytes (x.recw.drop 8))).length ∧
        t = { s with
          clusters := t.clusters
          nextId := s.nextId + 1 + n
          accs := s.accs ++ zeroWrites s x s.nextId (x.recw.drop 8) (s.nextId + 1)
          jobs := s.jobs ++ [⟨s.nextId, x, none, x.recw.take 8, x.recw.drop 8, [], n, 0, 0, none, none⟩] })) ∧
  (∀ (c : ClusterId) (x : Cmd) (d : BitVec 4) (w : W32) (g : Guard) (s : State), nextCopy s c = some x →
    clusterOf x.tid.core = c → x.ins = .cstat d w g →
    ∃ t, exec (.cstatStart c) s = .next t ∧ Left .copy x s t ∧ SameMemory s t ∧
      (w.toNat % 16 = 0 → Answered x (BitVec.ofNat 64 (32 - (queueOf t x.tid.core .copy).length)) s t) ∧
      (w.toNat % 16 = 1 → Answered x (BitVec.ofNat 64 ((s.th x.tid).ccnt - 1 - (s.th x.tid).cdone - (s.th x.tid).jobsDone.length)) s t) ∧
      (∀ n, n < 4 → w.toNat % 16 = n + 2 →
        Answered x (((s.cluster c).chain n).at_ ||| BitVec.ofNat 64 ((s.cluster c).chain n).state) s t) ∧
      (6 ≤ w.toNat % 16 → Answered x 0 s t)) ∧
  (∀ (c : CoreId) (q : EngineQueue) (sl : Nat) (x : Cmd) (s : State), channelHead s ⟨c, sl⟩ q = some x →
    x.tid = ⟨c, sl⟩ → x.guard = .known false → jobTurn s x = true →
    ∃ t, exec (.engineGuardResolve c q sl) s = .next t ∧ Served q x 0xFF00F01000000000 s t) ∧
  (∀ (j : Nat) (x : Job) (s : State), s.job? j = some x → x.id = j → x.chain = none → jobSettled s x = true →
    (x.refused = none → layFlag x.dst = false →
      ∃ t, exec (.cpyComplete j) s = .next t ∧ SameMemory s t ∧ Answered x.cmd (BitVec.ofNat 64 x.cmd.job) s t ∧
        t.jobs = s.jobs.filter (fun y => y.id ≠ j) ∧
        (x.cmd.job = (s.th x.cmd.tid).cdone + 1 → (s.th x.cmd.tid).jobsDone = [] → (t.th x.cmd.tid).cdone = x.cmd.job)) ∧
    (∀ p, x.refused = none → layFlag x.dst = true → (wordAt x.dst 6).toNat % 8 = 0 →
      classify x.cmd.tid.core (wordAt x.dst 6) = .place p → p.isScratch = true →
      homeRefusal (dropJob j (dropAccs (·.ofJob j) s)) x.cmd.tid x.cmd.ctx p (wordAt x.dst 6) 8 .raise = none →
      ∃ t, exec (.cpyComplete j) s = .next t ∧ OnlyBytes p 8 s t ∧ t.peek p 8 = (s.peek p 8 + 1) % 2 ^ 64 ∧
        Answered x.cmd (BitVec.ofNat 64 x.cmd.job) s t) ∧
    (∀ f, x.refused = some f → layFlag x.dst = false →
      ∃ t, exec (.cpyComplete j) s = .next t ∧ SameMemory s t ∧
        Answered x.cmd (if x.accepted = 0 then failOf f else failToken .partial_ (statusOf f).code x.accepted) s t))

/-- R246 and R260: CHAIN starts its channel at the address given, or again at the address it holds, and a running channel looks
at its record again; a channel that is idle or asked wrongly answers 3. A running channel whose turn it is in the unit's
round-robin and that finds a record not handed over parks; one handed over has its transfer's reads issued, and its NEXT kept. A
channel whose transfer is settled writes STATUS and BYTES to word 15 of its record and goes on to that NEXT, or is idle (log 119). -/
def Sys2Proof.Claims.ChainChannels : Prop :=
  (∀ (c : ClusterId) (x : Cmd) (d : BitVec 4) (a b : GSrc) (w : W32) (g : Guard) (ch : Chain) (s : State),
    nextCopy s c = some x → clusterOf x.tid.core = c → x.ins = .chain d a b w g → (s.cluster c).chain (bits x.b 0 2) = ch →
    ∃ t, exec (.cpyStart c) s = .next t ∧ Left .copy x s t ∧ SameMemory s t ∧
      (ch.state = 1 → x.a = 0 → Answered x 2 s t ∧ (t.cluster c).chain (bits x.b 0 2) = { ch with kick := true }) ∧
      (ch.state = 1 → x.a ≠ 0 → Answered x 3 s t ∧ (t.cluster c).chain (bits x.b 0 2) = ch) ∧
      (ch.state ≠ 1 → x.a ≠ 0 → Answered x 0 s t ∧ (t.cluster c).chain (bits x.b 0 2) = { ch with state := 1, at_ := x.a, kick := false, tid := x.tid, job := none }) ∧
      (ch.state = 2 → x.a = 0 → Answered x 1 s t ∧ (t.cluster c).chain (bits x.b 0 2) = { ch with state := 1, kick := false, tid := x.tid, job := none }) ∧
      (ch.state = 0 → x.a = 0 → Answered x 3 s t ∧ (t.cluster c).chain (bits x.b 0 2) = ch)) ∧
  (∀ (c : ClusterId) (n : Nat) (ch : Chain) (p : Phys) (s : State), n < 4 → (s.cluster c).chain n = ch → ch.state = 1 →
    chainPlace ch.tid ch.at_ = some p →
    (ch.job = none → copyPick s c = some (.chain n) →
      homeRefusal s ch.tid (s.th ch.tid).ctxh (p.plus 0) ch.at_ 64 .engRead = none →
      homeRefusal s ch.tid (s.th ch.tid).ctxh (p.plus 64) (ch.at_ + 64) 64 .engRead = none →
      (s.peek (p.plus 120) 1 % 2 = 0 →
        ∃ t, exec (.chainRecordStep c n) s = .next t ∧ t = { s with clusters := t.clusters } ∧
          (t.cluster c).chain n = (if ch.kick then { ch with kick := false } else { ch with state := 2 })) ∧
      (∀ src dst, s.peek (p.plus 120) 8 = 1 → s.peekWords p 8 = src → s.peekWords (p.plus 64) 8 = dst →
        layBad false true src = false → layBad true true dst = false → layElems src = layElems dst →
        layEsize src = layEsize dst → layZero src = false →
        ∃ t, exec (.chainRecordStep c n) s = .next t ∧
          t = { s with
            clusters := t.clusters
            nextId := s.nextId + 1 + (srcReads src).length
            accs := s.accs ++ readsOf s (chainCmd s ch.tid) (.copyRead s.nextId) src (s.nextId + 1)
            jobs := s.jobs ++ [⟨s.nextId, chainCmd s ch.tid, some (c, n), src, dst, [], 0, 0, 0, none, none⟩] } ∧
          (t.cluster c).chain n = { ch with job := some s.nextId, next := wordAt src 7 })) ∧
    (∀ j x, ch.job = some j → s.job? j = some x → x.id = j → jobSettled s x = true → x.refused = none →
      layFlag x.dst = false →
      (∀ ls, homeRefusal (dropJob j (dropAccs (·.ofJob j) s)) ch.tid (s.th ch.tid).ctxh (p.plus 64) (ch.at_ + 64) 64
        (.engWrite ls) = none) →
      ∃ t, exec (.chainRecordStep c n) s = .next t ∧ OnlyBytes (p.plus 120) 8 s t ∧
        t.peek (p.plus 120) 8 = x.accepted % 2 ^ 36 * 2 ^ 16 ∧ t.jobs = s.jobs.filter (fun y => y.id ≠ j) ∧
        (t.cluster c).chain n = { ch with
          state := if ch.next = 0 then 0 else 1
          at_ := if ch.next = 0 then ch.at_ else ch.next
          job := none }))

/-! ### Messages -/

namespace Sys2Proof.Claims

/-- A message that has ended: it is no longer in progress, one that it held back is offered or has come to its fabric die, and its
sender's token has come, unless the death of its link had filled that before. -/
def Ends (m : Msg) (x : W64) (s t : State) : Prop :=
  (∃ f : Msg → Msg, t.msgs = (s.msgs.filter fun y => decide (y.id ≠ m.id)).map f ∧
    ∀ y, f y = y ∨ (∃ n, y.arrived = 0 ∧ f y = { y with arrived := n }) ∨
      ∃ again, y.phase = .waiting again ∧ f y = y.offer (s.taper y.cmd.tid.core.node)) ∧
    (m.dead = false → Answered m.cmd x s t) ∧ (m.dead = true → t.threads = s.threads) ∧ SameMemory s t

/-- A refused message is offered again; to another package it first goes to its fabric die. -/
def offeredAgain (m : Msg) : Msg :=
  { m with phase := if m.dest.node = m.cmd.tid.core.node then .offered true else .waiting true }

/-- The message of a name has passed to another phase, and the others are as they were. -/
def MsgPasses (j : Nat) (m : Msg) (f : Msg → Msg) (t s : State) : Prop :=
  t.msg? j = some (f m) ∧ ∀ i, i ≠ j → t.msg? i = s.msg? i

/-- The message of a name has passed to another phase; any message may have come to its fabric die thereby. -/
def MsgOffered (j : Nat) (m : Msg) (t s : State) : Prop :=
  (∃ n, t.msg? j = some { m with arrived := n }) ∧
    ∀ i, i ≠ j → t.msg? i = s.msg? i ∨ ∃ n x, s.msg? i = some x ∧ x.arrived = 0 ∧ t.msg? i = some { x with arrived := n }

end Sys2Proof.Claims

/-- R196, R263, R265, R266, R268, R270 and R396: RRING answers MALFORMED for a size outside 2 to 4,096 entries or a base that is no multiple
of 64, and else makes its endpoint live with HEAD and TAIL 0 and answers its word (that the first generation of a number is 1 is
the model's choice, log 6); POST answers MALFORMED or NO_ENDPOINT, and else posts its receive under a RECV lease and answers the
handle (a bad DONE address is MALFORMED: log 55); SEND offers its message, unless an earlier one of its core holds it back or it is
to leave the package, or answers MALFORMED, LAPSED for want of a path or PATH for a dead link (log 104 for the bits of the endpoint
word that hold no field, log 108 for when it is offered); RPROBE answers 0 for an empty ring and the first message's place and size when that one matches, and POISON where
HEAD and TAIL or a header lie in a poisoned unit (R196, R396). RRING's write of HEAD and TAIL is checked as any write, and reports its
refusal; that it is the last check is log 143. -/
def Sys2Proof.Claims.MessageCommands : Prop :=
  (∀ (c : ClusterId) (ep : Nat) (x : Cmd) (d : BitVec 4) (a b : GSrc) (w : W32) (g : Guard) (s : State),
    nextMessage s c = some x → clusterOf x.tid.core = c → x.ins = .rring d a b w g → ep < Config.endpoints →
    endpointFree s (dieOfCluster c) ep = true →
    (x.b.toNat < 2 ∨ 4096 < x.b.toNat ∨ x.a.toNat % 64 ≠ 0 →
      ∃ t, exec (.rringStart c ep) s = .next t ∧ Served .message x 0xFF00F0A000000000 s t) ∧
    (∀ p i, 2 ≤ x.b.toNat → x.b.toNat ≤ 4096 → x.a.toNat % 64 = 0 → ringPlace x.tid.core x.a x.b.toNat = some p →
      ringLease s x.ctx p x.a x.b.toNat = .ok i →
      (∀ f, ringWordRefusal s x.tid x.ctx (p.plus (64 * x.b.toNat)) (leBytes 0 8) = some f →
        ∃ t, exec (.rringStart c ep) s = .next t ∧ Served .message x (failOf f) s t) ∧
      (ringWordRefusal s x.tid x.ctx (p.plus (64 * x.b.toNat)) (leBytes 0 8) = none →
      ∃ t gen, exec (.rringStart c ep) s = .next t ∧ Left .message x s t ∧
        gen = (match (s.die (dieOfCluster c)).endpoints.look ep with | none => 1 | some e => (e.gen + 1) % 256) ∧
        Answered x (endpointWord (dieOfCluster c) ep gen) s t ∧
        t.endpoint (dieOfCluster c) ep = ⟨true, gen, 0, x.ctx, i, x.a, x.b.toNat, 0, [], (p.plus (64 * x.b.toNat)).key, false, x.tid⟩ ∧
        OnlyBytes (p.plus (64 * x.b.toNat)) 8 s t ∧ t.peek (p.plus (64 * x.b.toNat)) 8 = 0))) ∧
  (∀ (c : ClusterId) (i : Nat) (x : Cmd) (d : BitVec 4) (a b : GSrc) (w : W32) (g : Guard) (s : State),
    nextMessage s c = some x → clusterOf x.tid.core = c → x.ins = .post d a b w g →
    (badDescriptorPost x = true → ∃ t, exec (.postStart c i) s = .next t ∧ Served .message x 0xFF00F0A000000000 s t) ∧
    (badDescriptorPost x = false → ownEndpoint s (dieOfCluster c) x.ctx (bits (wordAt x.recw 2) 0 8) = false →
      ∃ t, exec (.postStart c i) s = .next t ∧ Served .message x 0xFF00F0C000000000 s t) ∧
    (badDescriptorPost x = false → ownEndpoint s (dieOfCluster c) x.ctx (bits (wordAt x.recw 2) 0 8) = true →
      postedCount (s.die (dieOfCluster c)) < Config.postedReceives → someEntry s (dieOfCluster c) = true →
      entryReady s (dieOfCluster c) i = true →
      ∃ t hd, exec (.postStart c i) s = .next t ∧ hd = handleOf (dieOfCluster c) .recv i (s.lease (dieOfCluster c) i).gen ∧
        Served .message x hd s t ∧
        t.lease (dieOfCluster c) i = ⟨.live, .recv, (s.lease (dieOfCluster c) i).gen,
          s.taper c.node + min (bits x.b 0 32) Config.maxLife, s.taper c.node, x.ctx, 0, .recv (bits (wordAt x.recw 2) 0 8), false⟩ ∧
        (t.endpoint (dieOfCluster c) (bits (wordAt x.recw 2) 0 8)).posted =
          (s.endpoint (dieOfCluster c) (bits (wordAt x.recw 2) 0 8)).posted ++
            [⟨hd, wordAt x.recw 0, wordAt x.recw 1, wordAt x.recw 3, x.recw.drop 8, x.tid, x.ctx, x.space⟩])) ∧
  (∀ (c : ClusterId) (x : Cmd) (d : BitVec 4) (a b : GSrc) (w : W32) (g : Guard) (s : State), nextMessage s c = some x →
    clusterOf x.tid.core = c → x.ins = .send d a b w g →
    (layBad false false x.recw = true ∨ 2 ^ 24 < layBytes x.recw →
      ∃ t, exec (.sendStart c) s = .next t ∧ Served .message x 0xFF00F0A000000000 s t) ∧
    (layBad false false x.recw = false → layBytes x.recw ≤ 2 ^ 24 → bits x.b 44 4 = 0 → bits x.b 40 2 = 0 →
      bits x.b 48 16 ≠ c.node → pathLive s c.node x.ctx (bits x.b 48 16) = false →
      ∃ t, exec (.sendStart c) s = .next t ∧ Served .message x 0xFF00F03000000000 s t) ∧
    (layBad false false x.recw = false → layBytes x.recw ≤ 2 ^ 24 → bits x.b 44 4 = 0 → bits x.b 40 2 = 0 →
      (bits x.b 48 16 = c.node ∨ pathLive s c.node x.ctx (bits x.b 48 16) = true) →
      (s.pkg c.node).deadLinks.contains (bits x.b 48 16) = true →
      ∃ t, exec (.sendStart c) s = .next t ∧ Served .message x 0xFF00F07000000000 s t) ∧
    (layBad false false x.recw = false → layBytes x.recw ≤ 2 ^ 24 → bits x.b 44 4 = 0 → bits x.b 40 2 = 0 →
      (bits x.b 48 16 = c.node ∨ pathLive s c.node x.ctx (bits x.b 48 16) = true) →
      (s.pkg c.node).deadLinks.contains (bits x.b 48 16) = false →
      ∃ t m l, exec (.sendStart c) s = .next t ∧ Left .message x s t ∧ SameMemory s t ∧ t.msgs = l ++ [m] ∧
        l.map (·.id) = s.msgs.map (·.id) ∧ m.accepted = 0 ∧ m.dead = false ∧
        m.id = s.nextId ∧ m.cmd = x ∧ m.key = sourceKey x.tid.core w ∧ m.dest = ⟨bits x.b 48 16, bits x.b 42 2⟩ ∧
        m.ep = bits x.b 32 8 ∧ m.gen = bits x.b 24 8 ∧ m.tmo = bits x.b 0 24 ∧ m.src = x.recw ∧
        (if bits x.b 48 16 = c.node ∧ heldBack s m = false then m.phase = .offered false ∧ m.firstOffer = s.taper c.node
         else m.phase = .waiting false))) ∧
  (∀ (c : ClusterId) (x : Cmd) (d : BitVec 4) (a b : GSrc) (w : W32) (g : Guard) (e : Endpoint) (s : State),
    nextMessage s c = some x → clusterOf x.tid.core = c → x.ins = .rprobe d a b w g →
    s.endpoint (dieOfCluster c) (w.toNat % 256) = e →
    (e.live = false ∨ e.ctx ≠ x.ctx → ∃ t, exec (.rprobeStart c) s = .next t ∧ Served .message x 0xFF00F0C000000000 s t) ∧
    (∀ p q, e.live = true → e.ctx = x.ctx → 2 ≤ e.n → p = physOfKey e.head → q.key + 64 * e.n = p.key →
      q = { p with off := p.off - 64 * e.n } →
      (s.isPoisoned p = true → ∃ t, exec (.rprobeStart c) s = .next t ∧ Served .message x 0xFF00F06000000000 s t) ∧
      (s.isPoisoned p = false → s.peek p 4 % e.n = s.peek (p.plus 4) 4 % e.n →
        ∃ t, exec (.rprobeStart c) s = .next t ∧ Served .message x 0 s t) ∧
      (s.isPoisoned p = false → s.peek p 4 % e.n ≠ s.peek (p.plus 4) 4 % e.n →
        s.isPoisoned (q.plus (64 * (s.peek p 4 % e.n))) = true →
        ∃ t, exec (.rprobeStart c) s = .next t ∧ Served .message x 0xFF00F06000000000 s t) ∧
      (s.isPoisoned p = false → s.peek p 4 % e.n ≠ s.peek (p.plus 4) 4 % e.n →
        s.isPoisoned (q.plus (64 * (s.peek p 4 % e.n))) = false →
        (BitVec.ofNat 64 (s.peek (q.plus (64 * (s.peek p 4 % e.n))) 8) ^^^ x.a) &&& x.b &&& 0xFFFFFFE0FFFFFFFF#64 = 0 →
        ∃ t, exec (.rprobeStart c) s = .next t ∧
          Served .message x
            (BitVec.ofNat 64 (s.peek (q.plus (64 * (s.peek p 4 % e.n) + 8)) 8 % 2 ^ 36 +
              s.peek p 4 % e.n % 2 ^ 16 * 2 ^ 36 + 2 ^ 62)) s t)))

/-- R119, R264, R266 and R269: an offered message is answered NO_ENDPOINT when its endpoint is not live under its generation;
else the oldest receive that takes its key lands it, without one the ring takes it at RESV, under the thread that made the endpoint
(log 58), and without room it is refused. A refused message is offered again, at a store to HEAD too (to another package, once its
fabric die has accepted it), until TMO ticks after its first offer; then it is answered RING_FULL. One that is to go to a ring whose HEAD is poisoned is answered
POISON (R196, log 143). -/
def Sys2Proof.Claims.MessageDecision : Prop :=
  (∀ (j : Nat) (m : Msg) (e : Endpoint) (again : Bool) (s : State), s.msg? j = some m → m.id = j → m.phase = .offered again →
    s.endpoint m.dest m.ep = e →
    (e.live = false ∨ e.gen ≠ m.gen →
      ∃ t, exec (.messageDecision j) s = .next t ∧ Ends m 0xFF00F0C000000000 (dropAccs (·.ofMsg j) s) t) ∧
    (∀ r, e.live = true → e.gen = m.gen → inTime s m = true → e.posted.find? (·.takes s m.key) = some r →
      ∃ t m', exec (.messageDecision j) s = .next t ∧ SameMemory s t ∧ t.msg? j = some m' ∧ m'.phase = .landing ∧
        m'.posted = some r ∧ m'.cmd = m.cmd ∧ m'.src = m.src ∧
        t.endpoint m.dest m.ep = { e with posted := e.posted.filter fun x => decide (x.lease ≠ r.lease) } ∧
        (layZero m.src = false → m.got = [] → ∃ n, s.nextId ≤ n ∧ ∀ a ∈ readsOf s m.cmd (.msgRead j) m.src n, a ∈ t.accs)) ∧
    (e.live = true → e.gen = m.gen → inTime s m = true → e.posted.find? (·.takes s m.key) = none →
      (ringPoisoned s e = true →
        ∃ t, exec (.messageDecision j) s = .next t ∧ Ends m 0xFF00F06000000000 (dropAccs (·.ofMsg j) s) t) ∧
      (ringPoisoned s e = false → ringRoom s e < m.entries →
        ∃ t, exec (.messageDecision j) s = .next t ∧ t = { s with msgs := t.msgs } ∧
          MsgPasses j m (fun m => { m with phase := .refused, refusedAt := s.taper m.cmd.tid.core.node }) t s) ∧
      (ringPoisoned s e = false → m.entries ≤ ringRoom s e →
        ∃ t m', exec (.messageDecision j) s = .next t ∧ SameMemory s t ∧ t.msg? j = some m' ∧ m'.phase = .ringing e.resv ∧
          m'.ring = some ⟨e.base, e.n, e.tid, e.ctx⟩ ∧ m'.posted = m.posted ∧
          t.endpoint m.dest m.ep = { e with resv := (e.resv + m.entries) % e.n }))) ∧
  (∀ (j : Nat) (m : Msg) (s : State), s.msg? j = some m → m.id = j →
    (m.phase = .refused → s.taper m.cmd.tid.core.node < m.firstOffer + m.tmo →
      ∃ t, exec (.ringOfferRetry j) s = .next t ∧ t = { s with msgs := t.msgs, nextId := t.nextId } ∧
        MsgOffered j (offeredAgain m) t s) ∧
    (m.phase = .refused ∨ m.phase = .waiting true → m.firstOffer + m.tmo ≤ s.taper m.cmd.tid.core.node →
      ∃ t, exec (.ringFullTimeout j) s = .next t ∧ Ends m 0xFF00F08000000000 (dropAccs (·.ofMsg j) s) t)) ∧
  (∀ (h : DieId) (ep : Nat) (s : State), (s.endpoint h ep).headMoved = true →
    ∃ t, exec (.ringHeadStore h ep) s = .next t ∧ t = { s with dies := t.dies, msgs := t.msgs, nextId := t.nextId } ∧
      t.endpoint h ep = { s.endpoint h ep with headMoved := false } ∧ t.msgs.length = s.msgs.length ∧
      ∀ (i : Nat) (m : Msg), s.msgs[i]? = some m →
        ∃ n, t.msgs[i]? = some { (if m.dest = h ∧ m.ep = ep ∧ m.phase = .refused ∧
          s.taper m.cmd.tid.core.node < m.firstOffer + m.tmo then offeredAgain m else m) with arrived := n })

/-- R254, R264, R267 and R268: a ring message whose payload and header are written moves TAIL past its entries, after the
messages decided before it, also after a refused write of its entries (log 57); a landed message, all of it settled, writes its
completion record of the key, the bytes and the status, and raises its flag; and the sender's token then reports the job, or what
refused the message or cut it, with the bytes accepted, or TRUNCATED, whatever comes of its flag (log 56), or the flag's fault.
That the record of a message cut short of a shorter DEST says PARTIAL is log 120. A refused write of TAIL leaves it, and is then what
the token reports (log 143). The token of a far sender waits while the circuits of its way are being changed (R346). -/
def Obligations.MessageEnds : Prop :=
  (∀ (j entry : Nat) (m : Msg) (e : Endpoint) (p : Phys) (s : State), s.msg? j = some m → m.id = j →
    m.phase = .ringing entry → m.headerOut = true → s.accs.any (·.ofMsg j) = false →
    (∀ x ∈ s.msgs, x.dest = m.dest → x.ep = m.ep → x.gen = m.gen → x.order < m.order → ∀ n, x.phase ≠ .ringing n) →
    s.endpoint m.dest m.ep = e → e.live = true → e.gen = m.gen → p = physOfKey e.head →
    (∀ f, ringWordRefusal s e.tid e.ctx (p.plus 4) (leBytes ((s.peek (p.plus 4) 4 + m.entries) % e.n) 4) = some f →
      ∃ t, exec (.tailUpdate j) s = .next t ∧ SameMemory s t ∧
        MsgPasses j m (fun m => { m with phase := .settled, refused := m.refused.or (some f) }) t s) ∧
    (ringWordRefusal s e.tid e.ctx (p.plus 4) (leBytes ((s.peek (p.plus 4) 4 + m.entries) % e.n) 4) = none →
    ∃ t, exec (.tailUpdate j) s = .next t ∧ OnlyBytes (p.plus 4) 4 s t ∧
      (0 < e.n → e.n ≤ 4096 → t.peek (p.plus 4) 4 = (s.peek (p.plus 4) 4 + m.entries) % e.n) ∧
      (s.waits = [] → t.isFull (p.plus 4) = true) ∧ MsgPasses j m (fun m => { m with phase := .settled }) t s)) ∧
  (∀ (j : Nat) (m : Msg) (r : Posted) (s : State), s.msg? j = some m → m.id = j → m.phase = .landing → m.posted = some r →
    m.payloadDone s = true →
    (r.done = 0 → layFlag r.dest = false →
      ∃ t, exec (.landingComplete j) s = .next t ∧ SameMemory s t ∧
        MsgPasses j m (fun m => { m with phase := .settled, flagFault := none }) t s) ∧
    (∀ p, r.done ≠ 0 → layFlag r.dest = false → donePlace r.tid.core r.done = some p →
      (∀ ls, homeRefusal (dropAccs (·.ofMsg j) s) r.tid r.ctx p r.done 16 (.engWrite ls) = none) →
      ∃ t, exec (.landingComplete j) s = .next t ∧ OnlyBytes p 16 s t ∧
        t.peekWords p 2 = [m.key, BitVec.ofNat 64 (m.accepted % 2 ^ 36 +
          (if m.cut.isSome ∨ m.refused.isSome then 2 else if layBytes r.dest < layBytes m.src then 13 else 0) * 2 ^ 36)] ∧
        MsgPasses j m (fun m => { m with phase := .settled, flagFault := none }) t s) ∧
    (∀ p, r.done = 0 → layFlag r.dest = true → (wordAt r.dest 6).toNat % 8 = 0 →
      classify r.tid.core (wordAt r.dest 6) = .place p → p.isScratch = true →
      homeRefusal (dropAccs (·.ofMsg j) s) r.tid r.ctx p (wordAt r.dest 6) 8 .raise = none →
      ∃ t, exec (.landingComplete j) s = .next t ∧ OnlyBytes p 8 s t ∧ t.peek p 8 = (s.peek p 8 + 1) % 2 ^ 64 ∧
        MsgPasses j m (fun m => { m with phase := .settled, flagFault := none }) t s) ∧
    (∀ p q, r.done ≠ 0 → donePlace r.tid.core r.done = some p → layFlag r.dest = true → (wordAt r.dest 6).toNat % 8 = 0 →
      classify r.tid.core (wordAt r.dest 6) = .place q → q.isScratch = true → q.key + 8 ≤ p.key ∨ p.key + 16 ≤ q.key →
      (∀ ls, homeRefusal (dropAccs (·.ofMsg j) s) r.tid r.ctx p r.done 16 (.engWrite ls) = none) →
      homeRefusal (writeDone m r (dropAccs (·.ofMsg j) s)) r.tid r.ctx q (wordAt r.dest 6) 8 .raise = none →
      ∃ t, exec (.landingComplete j) s = .next t ∧
        t.peekWords p 2 = [m.key, BitVec.ofNat 64 (m.accepted % 2 ^ 36 +
          (if m.cut.isSome ∨ m.refused.isSome then 2 else if layBytes r.dest < layBytes m.src then 13 else 0) * 2 ^ 36)] ∧
        t.peek q 8 = (s.peek q 8 + 1) % 2 ^ 64 ∧
        (∀ k, (k < p.key ∨ p.key + 16 ≤ k) → (k < q.key ∨ q.key + 8 ≤ k) → t.byteAt k = s.byteAt k) ∧
        MsgPasses j m (fun m => { m with phase := .settled, flagFault := none }) t s)) ∧
  (∀ (j : Nat) (m : Msg) (s : State), s.msg? j = some m → m.id = j → m.phase = .settled →
    (answerHeld s m.dest.node m.cmd.tid.core.node = true → exec (.sendComplete j) s = .next s) ∧
    (answerHeld s m.dest.node m.cmd.tid.core.node = false →
    ∃ t x, exec (.sendComplete j) s = .next t ∧ Ends m x (dropAccs (·.ofMsg j) s) t ∧
      (m.refused = none → m.cut = none → layBytes m.src ≤ m.accepted → m.flagFault = none →
        x = BitVec.ofNat 64 m.cmd.job) ∧
      (m.refused = none → m.cut = none → m.accepted < layBytes m.src → x = failToken .truncated 0 m.accepted) ∧
      (∀ st, m.refused = none → m.cut = none → layBytes m.src ≤ m.accepted → m.flagFault = some st → x = failToken st 0 0) ∧
      (∀ f, m.refused = some f ∨ (m.refused = none ∧ ∃ k, m.cut = some (k, f)) →
        x = if m.accepted = 0 then failOf f else failToken .partial_ (statusOf f).code m.accepted)))

/-! ### The matrix engine -/

namespace Sys2Proof.Claims

/-- The gang of a command's name in a cluster has started with the members' commands. -/
def GangStarted (g : Gang) (xs : List Cmd) (s : State) : Prop :=
  g.id = s.nextId ∧ g.cmds = xs ∧ g.rows = 0 ∧ g.got = [] ∧ g.refused = [] ∧ g.shut = false ∧ g.settled = 0

/-- Each member's token has come, and memory is as before. -/
def AllAnswered (xs : List Cmd) (v : W64) (s t : State) : Prop := (∀ x ∈ xs, Answered x v s t) ∧ SameMemory s t

/-- The commands belong to the cores of a cluster, core 0 first. -/
abbrev OnCores (c : ClusterId) (xs : List Cmd) : Prop := ∀ (i : Nat) (x : Cmd), xs[i]? = some x → x.tid.core = coreIn c i

/-- The slices of other clusters are as before. -/
def OtherSlices (c : CoreId) (s t : State) : Prop := ∀ k, k ≠ coreKey c → t.slices.look k = s.slices.look k

end Sys2Proof.Claims

/-- R276, R290, R291 and R296: a gang command arrives at its cluster's barrier, where its failure, by disagreement or at its
boundary, answers every member GANG; a closed barrier starts the gang on all slices: MMA exchanges the banks if asked and
reads row 0, MWLD reads its first unit on each slice (one unit at a time is the model's choice, log 68), and MTEST runs. MMA with a
bank that it may not use is MALFORMED. -/
def Obligations.MatrixGangs : Prop :=
  (∀ (c : CoreId) (x : Cmd) (s : State), mxHead s c = some x → x.gang = true → mustScrub s c x = false →
    mxReady s c x = true → (s.cluster (clusterOf c)).arrived.contains c.core = false →
    (s.cluster (clusterOf c)).arrived.length + 1 < 8 →
    ∃ t, exec (.gangArrival c) s = .next t ∧ t = { s with clusters := t.clusters } ∧
      t.cluster (clusterOf c) = { s.cluster (clusterOf c) with
        arrived := (s.cluster (clusterOf c)).arrived ++ [c.core]
        arriveT := if (s.cluster (clusterOf c)).arrived = [] then s.taper c.node else (s.cluster (clusterOf c)).arriveT }) ∧
  (∀ (c : CoreId) (x : Cmd) (xs : List Cmd) (s : State), mxHead s c = some x → x.gang = true → mustScrub s c x = false →
    mxReady s c x = true → (s.cluster (clusterOf c)).arrived.contains c.core = false →
    (s.cluster (clusterOf c)).arrived.length + 1 = 8 →
    ((s.cluster (clusterOf c)).arrived ++ [c.core]).filterMap
      (fun i => (s.core (coreIn (clusterOf c) i)).matrixQ.head?) = xs →
    (gangAgrees xs = true → ∃ t, exec (.gangArrival c) s = .next t ∧ t = { s with clusters := t.clusters } ∧
      (t.cluster (clusterOf c)).arrived = (s.cluster (clusterOf c)).arrived ++ [c.core]) ∧
    (gangAgrees xs = false → ∃ t, exec (.gangArrival c) s = .next t ∧ AllAnswered xs 0xFF00F09000000000 s t ∧
      (t.cluster (clusterOf c)).arrived = [])) ∧
  (∀ (c : ClusterId) (s : State), gangLate s c = true →
    ∃ t, exec (.gangBarrierTimeout c) s = .next t ∧ AllAnswered (gangCmds s c) 0xFF00F09000000000 s t ∧
      (t.cluster c).arrived = []) ∧
  (∀ (c : ClusterId) (xs : List Cmd) (x : Cmd) (s : State), gangReady s c 0 = some xs → OnCores c xs → xs.head? = some x →
    ((s.cluster c).mma.any fun g => !g.shut) = false →
    (fmtServed s c.node (x.wf 10 3) = false ∨ (∃ i, i < 8 ∧ mmaBad (s.slice (coreIn c i)) x = true) →
      ∃ t, exec (.mmaStart c) s = .next t ∧ AllAnswered xs 0xFF00F0A000000000 s t ∧ (t.cluster c).arrived = []) ∧
    (fmtServed s c.node (x.wf 10 3) = true → (∀ i, i < 8 → mmaBad (s.slice (coreIn c i)) x = false) →
      ∃ t g, exec (.mmaStart c) s = .next t ∧ SameMemory s t ∧ t.threads = s.threads ∧ GangStarted g xs s ∧
        (t.cluster c).mma = (s.cluster c).mma ++ [g] ∧ (t.cluster c).arrived = [] ∧
        t.accs = s.accs ++ xs.mapIdx (fun i y => engineAccess s y (s.nextId + 1 + i) (.mxRow c i 0) .engRead y.a 64) ∧
        ∀ i, i < 8 →
          (x.wf 9 1 = 1 → (t.slice (coreIn c i)).active = (s.slice (coreIn c i)).shadow ∧
            (t.slice (coreIn c i)).shadow = (s.slice (coreIn c i)).active) ∧
          (x.wf 9 1 = 0 → (t.slice (coreIn c i)).active = (s.slice (coreIn c i)).active ∧
            (t.slice (coreIn c i)).shadow = (s.slice (coreIn c i)).shadow))) ∧
  (∀ (c : ClusterId) (xs : List Cmd) (s : State), gangReady s c 1 = some xs → OnCores c xs →
    (xs.all fun x => fmtServed s c.node (x.wf 8 3)) = true →
    ∃ t g, exec (.mwldStart c) s = .next t ∧ SameMemory s t ∧ t.threads = s.threads ∧ GangStarted g xs s ∧
      (t.cluster c).mwld = (s.cluster c).mwld ++ [g] ∧ (t.cluster c).arrived = [] ∧
      t.accs = s.accs ++ xs.mapIdx (fun i y => engineAccess s y (s.nextId + 1 + i) (.mxUnit c i (s.nextId * 256)) .engRead
        (windowAddr (mwldPlace c (y.wf 0 5) i 0)) 64)) ∧
  (∀ (c : ClusterId) (xs : List Cmd) (s : State), gangReady s c 6 = some xs →
    ∃ t g, exec (.mtestStart c) s = .next t ∧ SameMemory s t ∧ t.threads = s.threads ∧ GangStarted g xs s ∧
      (t.cluster c).mtest = some g ∧ (t.cluster c).arrived = [])

/-- R290, R291, R296, R298 and R299: an MMA whose last row has entered answers 1, or its refusal with the rows that entered;
an MWLD whose units are all read fills every shadow bank and answers 1, or leaves them invalid; a test of every group that
finds none bad answers 0; a due test that finds one bad fences it, and the lowest spare takes its place (log 121), the groups being tested in their order
(log 122). -/
def Obligations.MatrixCompletions : Prop :=
  (∀ (c : ClusterId) (g : Gang) (gs : List Gang) (s : State), (s.cluster c).mma = g :: gs → g.shut = true →
    (s.cluster c).testFails = [] →
    ∃ t, exec (.mmaComplete c) s = .next t ∧ (t.cluster c).mma = gs ∧
      (g.refused = [] → AllAnswered g.cmds 1 s t) ∧
      (∀ i st l, g.refused = (i, st) :: l →
        AllAnswered g.cmds (if g.rows = 0 then failToken st 0 0 else failToken .partial_ st.code g.rows) s t)) ∧
  (∀ (c : ClusterId) (g : Gang) (gs : List Gang) (s : State), (s.cluster c).mwld = g :: gs → g.settled = 8 * 224 →
    ∃ t, exec (.mwldComplete c) s = .next t ∧ (t.cluster c).mwld = gs ∧
      (g.refused = [] → AllAnswered g.cmds 1 s t ∧ ∀ i, i < 8 →
        (t.slice (coreIn c i)).shadow = ⟨true, g.cmd.wf 8 3, g.cmd.wf 0 5,
          (g.got.filter fun e => decide (e.1 / 256 = i)).flatMap (·.2)⟩) ∧
      (∀ k st l, g.refused = (k, st) :: l → AllAnswered g.cmds (failToken st 0 0) s t ∧ ∀ i, i < 8 →
        (t.slice (coreIn c i)).shadow = { (s.slice (coreIn c i)).shadow with valid := false })) ∧
  (∀ (c : ClusterId) (g : Gang) (s : State), (s.cluster c).mtest = some g → (s.cluster c).testFails = [] →
    (s.cluster c).mxFailed = false →
    ∃ t, exec (.mtestComplete c []) s = .next t ∧ AllAnswered g.cmds 0 s t ∧ (t.cluster c).mtest = none ∧
      ∀ i, i < 8 → (t.slice (coreIn c i)).tests = (s.slice (coreIn c i)).tests + (s.slice (coreIn c i)).groupMap.length ∧
        (t.slice (coreIn c i)).groupMap = (s.slice (coreIn c i)).groupMap) ∧
  (∀ (c : ClusterId) (bad : Option (Nat × Nat)) (s : State), 0 < (s.cluster c).testsDue → (s.cluster c).mxFailed = false →
    (s.cluster c).testFails = [] → (s.cluster c).mma = [] →
    (∀ i g, bad = some (i, g) → i < 8 ∧ g < 10 ∧
      g = (s.slice (coreIn c i)).groupMap.getD (s.slice (coreIn c i)).nextTest 0 ∧
      (s.slice (coreIn c i)).spare.isSome = true) →
    ∃ t, exec (.selfTest c (match bad with | none => [] | some x => [x.1 + 8 * x.2])) s = .next t ∧ SameMemory s t ∧
      t.threads = s.threads ∧ (t.cluster c).testsDue = (s.cluster c).testsDue - 1 ∧ (t.cluster c).mxFailed = false ∧
      ∀ i, i < 8 → (t.slice (coreIn c i)).tests = (s.slice (coreIn c i)).tests + 1 ∧
        (t.slice (coreIn c i)).nextTest = ((s.slice (coreIn c i)).nextTest + 1) % 8 ∧
        ((∀ g, bad ≠ some (i, g)) → (t.slice (coreIn c i)).groupMap = (s.slice (coreIn c i)).groupMap ∧
          (t.slice (coreIn c i)).fenced = (s.slice (coreIn c i)).fenced) ∧
        (∀ g p, bad = some (i, g) → (s.slice (coreIn c i)).spare = some p →
          (t.slice (coreIn c i)).groupMap = (s.slice (coreIn c i)).groupMap.map (fun q => if q = g then p else q) ∧
          g ∈ (t.slice (coreIn c i)).fenced))

/-- R284, R286, R292 to R295 and R301, logs 68, 110 and 124: MZERO zeroes the tiles of its mask and leaves the others, and answers 1; MAGR sets AGT
and AGK and answers 1; MSTAT answers the item asked for; MDRAIN takes its rows and writes the first unit, and at the end
answers its counts, which AGZ, AGE and AGO then hold. A slice is scrubbed before it
serves another context, whose command still finds it scrubbed though the record of the last context is as it was. -/
def Obligations.SliceCommands : Prop :=
  (∀ (c : CoreId) (x : Cmd) (s : State), mxNext s c 2 = some x → x.tid.core = c →
    (x.wf 4 1 = 1 → x.wf 0 4 ≠ 3 → x.wf 0 4 ≠ 12 →
      ∃ t, exec (.mzeroStart c) s = .next t ∧ Served .matrix x 0xFF00F0A000000000 s t ∧ (t.slice c).tiles = (s.slice c).tiles) ∧
    ((x.wf 4 1 = 0 ∨ x.wf 0 4 = 3 ∨ x.wf 0 4 = 12) →
      ∃ t, exec (.mzeroStart c) s = .next t ∧ Served .matrix x 1 s t ∧ OtherSlices c s t ∧
        (∀ i, i < 4 → (t.slice c).tile i = if x.wf 0 4 / 2 ^ i % 2 = 1 then Tile.reset else (s.slice c).tile i) ∧
        (x.wf 4 1 = 1 → (t.slice c).cpair = some (if x.wf 0 4 = 3 then 0 else 1) ∧ (t.slice c).counts = []) ∧
        (x.wf 4 1 = 0 → (t.slice c).counts = (s.slice c).counts) ∧ (t.slice c).active = (s.slice c).active ∧
        (t.slice c).shadow = (s.slice c).shadow ∧ (t.slice c).agt = (s.slice c).agt ∧ (t.slice c).agk = (s.slice c).agk)) ∧
  (∀ (c : CoreId) (x : Cmd) (s : State), mxNext s c 4 = some x → x.tid.core = c →
    ∃ t, exec (.magrStart c) s = .next t ∧ Served .matrix x 1 s t ∧ OtherSlices c s t ∧
      t.slice c = { s.slice c with agt := x.a.setWidth 32, agk := x.b.setWidth 32, lastCtx := some x.ctx, scrubFor := none }) ∧
  (∀ (c : CoreId) (x : Cmd) (s : State), mxNext s c 5 = some x → x.tid.core = c →
    ∃ t v, exec (.mstatStart c) s = .next t ∧ Served .matrix x v s t ∧
      t.slice c = { s.slice c with lastCtx := some x.ctx, scrubFor := none } ∧
      (x.wf 0 4 = 0 → v = (s.slice c).agt.setWidth 64) ∧ (x.wf 0 4 = 1 → v = (s.slice c).agk.setWidth 64) ∧
      (x.wf 0 4 = 2 → v = BitVec.ofNat 64 (s.slice c).agz) ∧ (x.wf 0 4 = 3 → v = BitVec.ofNat 64 (s.slice c).age) ∧
      (x.wf 0 4 = 4 → v = BitVec.ofNat 64 (s.slice c).ago) ∧
      (x.wf 0 4 = 5 → v.toNat < 2 ^ 32 ∧ ∀ i, i < 4 →
        v.getLsbD (8 * i) = ((s.slice c).tile i).nan ∧ v.getLsbD (8 * i + 1) = ((s.slice c).tile i).inf ∧
        v.getLsbD (8 * i + 2) = ((s.slice c).tile i).csat ∧ v.getLsbD (8 * i + 3) = ((s.slice c).tile i).suspect ∧
        bits v (8 * i + 4) 4 = 0) ∧
      (x.wf 0 4 = 6 → (s.slice c).active.fmt < 8 → (s.slice c).shadow.fmt < 8 → (s.slice c).active.img < 32 →
        (s.slice c).shadow.img < 32 →
        v.getLsbD 0 = (s.slice c).activeIx ∧ v.getLsbD 1 = (s.slice c).active.valid ∧
        v.getLsbD 2 = (s.slice c).shadow.valid ∧ bits v 4 3 = (s.slice c).active.fmt ∧
        bits v 8 3 = (s.slice c).shadow.fmt ∧ v.getLsbD 12 = (s.slice c).cpair.isSome ∧
        v.getLsbD 13 = decide ((s.slice c).cpair = some 1) ∧ bits v 16 5 = (s.slice c).active.img ∧
        bits v 24 5 = (s.slice c).shadow.img ∧
        v &&& 0x1F1F3777 = v) ∧
      (x.wf 0 4 = 7 → (s.slice c).groupMap.length = 8 → (s.slice c).groupMap.Nodup → (∀ p ∈ (s.slice c).groupMap, p < 10) →
        bits v 0 2 = ((List.range 10).filter fun p => !(s.slice c).groupMap.contains p && !(s.slice c).fenced.contains p).length ∧
        ((s.slice c).fenced.Nodup → (∀ p ∈ (s.slice c).fenced, p < 10) →
          ∀ p, p < 10 → v.getLsbD (8 + p) = (s.slice c).fenced.contains p)) ∧
      (x.wf 0 4 = 8 → v = BitVec.ofNat 64 (((s.slice c).tests + 8) % 2 ^ 32)) ∧ (8 < x.wf 0 4 → v = 0)) ∧
  (∀ (c : CoreId) (x : Cmd) (s : State), mxNext s c 3 = some x → x.tid.core = c →
    ((0 < x.wf 0 6 ∧ strideOf x.b < 32 * outBytes (x.wf 10 3)) ∨
        (x.wf 8 2 ≠ 0 ∧ (x.wf 6 1 = 1 ∨ (s.slice c).cpair.map Fin.val ≠ some (x.wf 7 1))) →
      ∃ t, exec (.mdrainStart c) s = .next t ∧ Served .matrix x 0xFF00F0A000000000 s t) ∧
    (x.wf 8 2 = 0 ∨ (x.wf 6 1 = 0 ∧ (s.slice c).cpair.map Fin.val = some (x.wf 7 1)) →
      x.wf 0 6 = 0 ∨ 32 * outBytes (x.wf 10 3) ≤ strideOf x.b →
      ∃ t u us, exec (.mdrainStart c) s = .next t ∧ Left .matrix x s t ∧ SameMemory s t ∧ t.threads = s.threads ∧
        (drainOf (s.slice c) x).left = u :: us ∧
        (t.cluster (clusterOf c)).drain? c.core = some (drainOf (s.slice c) x) ∧
        t.accs = s.accs ++ [engineAccess s x s.nextId (.mxDrain c (us.length + 1))
          (.engWrite (u.2.zipIdx.map fun b => (b.2, b.1))) u.1 64])) ∧
  (∀ (c : CoreId) (d : Drain) (s : State), (s.cluster (clusterOf c)).drain? c.core = some d → d.left = [] →
    ∃ t, exec (.mdrainComplete c) s = .next t ∧ SameMemory s t ∧ OtherSlices c s t ∧
      (t.cluster (clusterOf c)).drain? c.core = none ∧ t.slice c = { s.slice c with agz := d.agz, age := d.age, ago := d.ago } ∧
      (d.refused = none → Answered d.cmd (BitVec.ofNat 64 (d.agz + d.age * 2 ^ 16 + d.ago * 2 ^ 32)) s t) ∧
      (∀ f, d.refused = some f →
        Answered d.cmd (if d.accepted = 0 then failOf f else failToken .partial_ (statusOf f).code d.accepted) s t)) ∧
  (∀ (c : CoreId) (x : Cmd) (s : State), mxHead s c = some x → mustScrub s c x = true → sliceIdle s c = true →
    ∃ t, exec (.matrixContextScrub c) s = .next t ∧ t = { s with slices := t.slices } ∧ OtherSlices c s t ∧
      (∀ i, i < 4 → (t.slice c).tile i = Tile.reset) ∧ (t.slice c).counts = [] ∧ (t.slice c).cpair = none ∧
      (t.slice c).active.valid = false ∧ (t.slice c).shadow.valid = false ∧ (t.slice c).agt = 0 ∧ (t.slice c).agk = 0 ∧
      (t.slice c).agz = 0 ∧ (t.slice c).age = 0 ∧ (t.slice c).ago = 0 ∧
      (t.slice c).lastCtx = (s.slice c).lastCtx ∧ mustScrub t c x = false)

namespace Sys2Proof.Claims

/-- The number that a finite value stands for: (−1)^neg × m × 2^e. -/
def numVal : Machine.Num → ℚ
  | .fin neg m e => (if neg then -1 else 1) * m * (2 : ℚ) ^ e
  | _ => 0

/-- A finite value. -/
def isFin : Machine.Num → Bool
  | .fin _ _ _ => true
  | _ => false

/-- The read of core `i`'s row slot, for the row that is entering the array, arrives at its home. -/
abbrev RowArrives (s : State) (k : Nat) (a : Acc) (c : ClusterId) (i : Nat) (p : Phys) (g : Gang) : Prop :=
  s.acc? k = some a ∧ a.agent = .mxRow c i g.rows ∧ a.place = some p ∧ rowBlocked s c = false ∧ writesBefore s a = false ∧
    a.reaches s = true ∧ answerFits s a p = true ∧ jobHeld s a (fun x => decide (x.id < a.id)) = false ∧ rowGang s c = some g ∧
    ∀ h ∈ (s.cluster c).mma, h.id = g.id → h = g

/-- The MMAs of a cluster once that of `g` is as `h`. -/
def withGang (s : State) (c : ClusterId) (g h : Gang) : List Gang :=
  (s.cluster c).mma.map fun x => if x.id = g.id then h else x

/-- The row of a gang with the bytes `got` of its eight slots, in the elements of its format. -/
def rowOf (s : State) (c : ClusterId) (g : Gang) (got : Map (List Byte)) : List Machine.Num :=
  rowElems (g.cmd.wf 10 3) (mxK (g.cmd.wf 10 3) (s.slice (coreIn c 0)).active.fmt) (got.map (·.2))

end Sys2Proof.Claims

/-- R282 and R283: a group's sum is the exact sum of its finite products, −0 only if each is −0, whatever their order; a NaN
product, or infinities of both signs, make it a NaN, and infinities of one sign that infinity. A tile's NAN and INF bits are
sticky, and a written element reads back. -/
def Sys2Proof.Claims.MatrixSums : Prop :=
  (∀ (xs : List Machine.Num), xs ≠ [] → (∀ x ∈ xs, isFin x = true) →
    isFin (gsum (xs.map some)) = true ∧ numVal (gsum (xs.map some)) = (xs.map numVal).sum ∧
    ((xs.map numVal).sum = 0 →
      ((gsum (xs.map some)).neg = true ↔ ∀ x ∈ xs, x.neg = true ∧ x.isZero = true))) ∧
  (∀ (ps qs : List (Option Machine.Num)), ps.Perm qs → gsum ps = gsum qs) ∧
  (∀ (ps : List (Option Machine.Num)), none ∈ ps → gsum ps = .nan false) ∧
  (∀ (ps : List (Option Machine.Num)), some (.inf false) ∈ ps → some (.inf true) ∈ ps → gsum ps = .nan false) ∧
  (∀ (ps : List (Option Machine.Num)), none ∉ ps → some (.inf false) ∈ ps → some (.inf true) ∉ ps → gsum ps = .inf false) ∧
  (∀ (ps : List (Option Machine.Num)), none ∉ ps → some (.inf true) ∈ ps → some (.inf false) ∉ ps → gsum ps = .inf true) ∧
  (∀ (t : Tile) (i j : Nat) (x : W32), i < 64 → j < 32 → (t.put i j x).at_ i j = x ∧
    (∀ k l, l < 32 → (k, l) ≠ (i, j) → (t.put i j x).at_ k l = t.at_ k l) ∧ (t.nan = true → (t.put i j x).nan = true) ∧
    (t.inf = true → (t.put i j x).inf = true) ∧ (t.put i j x).csat = t.csat)

/-- R282, R284 and R290: an MMA's row enters the array when all eight cores' slots have been read: each slice accumulates the
row's products with its weights into the tiles of the command, group by group, and the next row's slots are read, or, after the
last row, none. With fewer slots the row waits, and a refused slot keeps it and the later rows out of every slice. A group adds
the rounded sum of its products to the element; of a split pair, that of the positive products to P and of the negative ones'
magnitudes to N, with their counts. A row thus adds to each element of its row of the tile the groups of its column in ascending
order, and leaves the other rows, tiles and counts. -/
def Sys2Proof.Claims.MatrixRows : Prop :=
  (∀ (k : Nat) (a : Acc) (c : ClusterId) (i : Nat) (p : Phys) (g : Gang) (got : Map (List Byte)) (s : State),
    RowArrives s k a c i p g → a.refusal p s = none → got = g.got.set i (s.bytes p a.len) →
    (got.length + g.refused.length < 8 →
      ∃ t, exec (.memoryAccessAccept k) s = .next t ∧ SameMemory s t ∧ t.slices = s.slices ∧
        (t.cluster c).mma = withGang s c g { g with got := got }) ∧
    (8 ≤ got.length + g.refused.length → g.refused ≠ [] →
      ∃ t, exec (.memoryAccessAccept k) s = .next t ∧ SameMemory s t ∧ t.slices = s.slices ∧
        (t.cluster c).mma = withGang s c g { g with got := got, shut := true }) ∧
    (got.length = 8 → g.refused = [] →
      ∃ t, exec (.memoryAccessAccept k) s = .next t ∧ SameMemory s t ∧ t.threads = s.threads ∧
        (t.cluster c).mma =
          withGang s c g { g with rows := g.rows + 1, got := [], shut := decide (g.rows = g.cmd.wf 0 6) } ∧
        (∀ j, j < 8 → (t.slice (coreIn c j)).tiles = (mxRowSlice (g.cmd.wf 6 2) (decide (g.cmd.wf 8 1 = 1))
            (g.cmd.wf 10 3) g.rows (rowOf s c g got) (s.slice (coreIn c j))).tiles ∧
          (t.slice (coreIn c j)).active = (s.slice (coreIn c j)).active ∧
          (t.slice (coreIn c j)).shadow = (s.slice (coreIn c j)).shadow) ∧
        t.accs = (settleAcc a s).accs ++ (if g.rows = g.cmd.wf 0 6 then [] else g.cmds.mapIdx fun n y =>
          engineAccess s y (s.nextId + n) (.mxRow c y.tid.core.core (g.rows + 1)) .engRead
            (y.a + BitVec.ofNat 64 ((g.rows + 1) * strideOf y.b)) 64))) ∧
  (∀ (k : Nat) (a : Acc) (c : ClusterId) (i : Nat) (p : Phys) (g : Gang) (f : FaultInfo) (s : State),
    RowArrives s k a c i p g → a.refusal p s = some f →
    ∃ t, exec (.memoryAccessAccept k) s = .next t ∧ SameMemory s t ∧ t.slices = s.slices ∧
      (t.cluster c).mma = withGang s c g { g with
        refused := g.refused.set i (statusOf f)
        shut := decide (8 ≤ g.got.length + (g.refused.set i (statusOf f)).length) }) ∧
  (∀ (tile i j : Nat) (ps : List (Option Machine.Num)) (x : Slice), tile < 4 → i < 64 → j < 32 →
    ((mxGroup tile false i j ps x).tile tile).at_ i j =
      BitVec.ofNat 32 (fp32.add ((x.tile tile).at_ i j).toNat (fp32.ofNum (gsum ps)).1).1 ∧
    (∀ m, m ≠ tile → (mxGroup tile false i j ps x).tile m = x.tile m) ∧ (mxGroup tile false i j ps x).counts = x.counts) ∧
  (∀ (tile i j : Nat) (ps : List (Option Machine.Num)) (x : Slice), tile < 3 → i < 64 → j < 32 →
    ((mxGroup tile true i j ps x).tile tile).at_ i j =
      BitVec.ofNat 32 (fp32.add ((x.tile tile).at_ i j).toNat (fp32.ofNum (signSum false ps)).1).1 ∧
    ((mxGroup tile true i j ps x).tile (tile + 1)).at_ i j =
      BitVec.ofNat 32 (fp32.add ((x.tile (tile + 1)).at_ i j).toNat (fp32.ofNum (signSum true ps)).1).1 ∧
    (∀ m, m ≠ tile → m ≠ tile + 1 → (mxGroup tile true i j ps x).tile m = x.tile m) ∧
    (mxGroup tile true i j ps x).counts.get (0, 0) (32 * i + j) =
      (min 65535 ((x.counts.get (0, 0) (32 * i + j)).1 + (ps.filter (counted false)).length),
        min 65535 ((x.counts.get (0, 0) (32 * i + j)).2 + (ps.filter (counted true)).length))) ∧
  (∀ (tile af i : Nat) (row : List Machine.Num) (x : Slice), tile < 4 → i < 64 →
    (∀ j, j < 32 → ((mxRowSlice tile false af i row x).tile tile).at_ i j =
      (List.range (mxK af x.active.fmt / 32)).foldl (fun (acc : W32) g => BitVec.ofNat 32 (fp32.add acc.toNat (fp32.ofNum (gsum
        (groupProducts row ((List.range (mxK af x.active.fmt)).map (bankElem x.active (bankColumn x.active j) j)) g))).1).1)
        ((x.tile tile).at_ i j)) ∧
    (∀ r j, j < 32 → r ≠ i → ((mxRowSlice tile false af i row x).tile tile).at_ r j = (x.tile tile).at_ r j) ∧
    (∀ m, m ≠ tile → (mxRowSlice tile false af i row x).tile m = x.tile m) ∧
    (mxRowSlice tile false af i row x).counts = x.counts)

/-! ### Pre-emption -/

namespace Sys2Proof.Claims

/-- The resume, or with `false` the pre-emption, in progress for a team. -/
abbrev Preempting (s : State) (c : ClusterId) (n : Nat) (resume : Bool) (p : Preempt) : Prop :=
  s.preempts.find? (fun p => decide (p.cluster = c ∧ p.team = n ∧ p.resume = resume)) = some p

/-- The team entry of a number. -/
def teamAt (s : State) (c : ClusterId) (n : Nat) : Option Team := (s.cluster c).teams.look n

end Sys2Proof.Claims

namespace Sys2Proof.Claims

/-- A class permits a POLICY (R322): class 0 none, class 1 no Save, class 2 any, class 3 Save alone. -/
abbrev permitsPolicy (cls policy : Nat) : Prop :=
  cls ≠ 0 ∧ (cls = 1 → policy ≠ 3) ∧ (cls = 3 → policy = 0 ∨ policy = 3)

/-- r of a thread (R322). -/
def restOf (t : Thread) : Nat :=
  if t.prog.toNat < t.lavg.toNat then t.lavg.toNat - t.prog.toNat else max 1 (t.lavg.toNat / 4)

end Sys2Proof.Claims

/-- R322 and R330, checks 5 to 10 in their order: no entry of the CTX gives NOTEAM, the own team ACCESS, a class that permits nothing or not
the POLICY CLASS, a team that does not run BUSY, an ASIZE below 16,384 + 8,192 × N + K SMALL, an area that may not be written its status;
else the response is the POLICY's, for class 3 Save, and for POLICY 0 the estimator's, where class 1 has Discard for Save. -/
def Sys2Proof.Claims.PreemptChoice : Prop :=
  (∀ (c : Cmd) (s : State), reqEntry c s = none → preemptChoice c s = .error .noTeam) ∧
  (∀ (c : Cmd) (m : Team) (n k bb bs limit : Nat) (s : State), reqEntry c s = some m → n = m.members.length →
    k = (if savesMatrix s (reqCluster c) (reqTeam c) m.ctx then 328192 else 0) → bb = (16384 + 7680 * n + k + 63) / 64 →
    bs = (16384 + 8192 * n + k + 63) / 64 →
    limit = reqDeadline c * clockMHz (s.pkg (reqCluster c).node) (s.die (dieOfCluster (reqCluster c))) →
    (c.tid ∈ m.members → preemptChoice c s = .error .access) ∧
    (c.tid ∉ m.members → ¬ permitsPolicy m.cls (reqPolicy c) → preemptChoice c s = .error .cls) ∧
    (c.tid ∉ m.members → permitsPolicy m.cls (reqPolicy c) → m.state ≠ .running → preemptChoice c s = .error .busy) ∧
    (c.tid ∉ m.members → permitsPolicy m.cls (reqPolicy c) → m.state = .running → reqSize c < 16384 + 8192 * n + k →
      preemptChoice c s = .error .small) ∧
    (∀ st, c.tid ∉ m.members → permitsPolicy m.cls (reqPolicy c) → m.state = .running → 16384 + 8192 * n + k ≤ reqSize c →
      areaRefusal s c (reqArea c) (reqSize c) = some st → preemptChoice c s = .error st) ∧
    (c.tid ∉ m.members → permitsPolicy m.cls (reqPolicy c) → m.state = .running → 16384 + 8192 * n + k ≤ reqSize c →
      areaRefusal s c (reqArea c) (reqSize c) = none →
      ∃ r, preemptChoice c s = .ok (m, r) ∧ (reqPolicy c ≠ 0 → r = reqPolicy c) ∧ (reqPolicy c = 0 → m.cls = 3 → r = 3) ∧
        (reqPolicy c = 0 → m.cls ≠ 3 →
          r = if bb ≤ limit ∧ ∀ t ∈ m.members, (s.th t).waiting = false ∧ 16 * restOf (s.th t) + bb ≤ limit then 1
            else if bb ≤ outstanding s m.members + bs ∧
              ∀ t ∈ m.members, bb + 4 * (s.th t).prog.toNat ≤ outstanding s m.members + bs then 2
            else if m.cls = 1 then 2 else 3)))

/-- R322, R323, R330: PREEMPT answers the status of its first failing check; else its team is PREEMPTING with the response
chosen, and for Discard and Save every thread that can stop at once has stopped, or has left as the block ended behind which it
stood. A thread of a Drain that reaches no region
boundary by the deadline is saved instead, and FALL is set. -/
def Sys2Proof.Claims.PreemptStarts : Prop :=
  (∀ (c : ClusterId) (x : Cmd) (d : BitVec 4) (a : GSrc) (w : W32) (g : Guard) (s : State), nextLaunch s c = some x →
    clusterOf x.tid.core = c → x.ins = .preempt d a w g →
    (∀ st, reqRefusal false x s = some st →
      ∃ t, exec (.preemptStart c) s = .next t ∧ Served .launch x (failToken st 0 0) s t) ∧
    (∀ st, reqRefusal false x s = none → preemptChoice x (dequeue .launch x s) = .error st →
      ∃ t, exec (.preemptStart c) s = .next t ∧ Served .launch x (failToken st 0 0) s t) ∧
    (∀ m r, reqRefusal false x s = none → preemptChoice x (dequeue .launch x s) = .ok (m, r) →
      (∀ q ∈ s.preempts, q.id ≠ s.nextId) →
      ∃ t p, exec (.preemptStart c) s = .next t ∧ Left .launch x s t ∧ SameMemory s t ∧ t.preempts = s.preempts ++ [p] ∧
        p.cmd = x ∧ p.cluster = reqCluster x ∧ p.team = reqTeam x ∧ p.resume = false ∧ p.resp = r ∧ p.fall = false ∧
        p.area = reqArea x ∧ p.deadline = s.taper (reqCluster x).node + reqDeadline x ∧
        teamAt t (reqCluster x) (reqTeam x) = some { m with state := .preempting } ∧
        ∀ tid ∈ m.members, r ≠ 1 → (s.th tid).life = .running → canStop s tid = true →
          (t.th tid).hold = .preempted ∨ (t.th tid).life ≠ .running)) ∧
  (∀ (tid : Tid) (p : Preempt) (s : State),
    s.preempts.find? (fun p => p.draining.any fun d => decide (d.1 = tid) && fallbackDue s p d) = some p →
    (∀ q ∈ s.preempts, q.id = p.id → q = p) →
    ∃ t, exec (.preemptDrainFallback tid) s = .next t ∧ SameMemory s t ∧
      (∃ q ∈ t.preempts, q.id = p.id ∧ q.fall = true ∧ q.saves = p.saves + 1 ∧ q.cmd = p.cmd) ∧
      (canStop s tid = true → (t.th tid).hold = .preempted ∨ (t.th tid).life ≠ .running))

/-- R323 to R326, R330 and R334: once every thread of the team has stopped and is quiet, the save records them and its first
unit is written; after the header the team is SAVED without members, and the token gives the response, the size and the
time; a team that has ended meanwhile answers RESP 0, one abandoned, its CTX having lapsed, LAPSED. To another
package the answer waits while the circuits of its way are being changed (R346). -/
def Sys2Proof.Claims.PreemptCompletes : Prop :=
  (∀ (c : ClusterId) (n : Nat) (p : Preempt) (s : State), Preempting s c n false p →
    answerHeld s c.node p.cmd.tid.core.node = false → (p.abandoned = true ∨ teamAt s c n = none ∨ ∃ m, teamAt s c n = some m ∧ m.state ≠ .preempting) →
    ∃ t, exec (.preemptComplete c n) s = .next t ∧ SameMemory s t ∧
      Answered p.cmd (if p.abandoned then failToken .lapsed 0 0 else preemptToken p 0 0 (s.taper c.node)) s t ∧
      t.preempts = s.preempts.filter (fun q => q.id ≠ p.id)) ∧
  (∀ (c : ClusterId) (n : Nat) (p : Preempt) (m : Team) (s : State), Preempting s c n false p → p.abandoned = false →
    teamAt s c n = some m →
    (answerHeld s c.node p.cmd.tid.core.node = false → m.state = .preempting → p.draining = [] → m.members = [] → teamForks s c n = false →
      ∃ t, exec (.preemptComplete c n) s = .next t ∧ SameMemory s t ∧ Answered p.cmd (preemptToken p 0 0 (s.taper c.node)) s t ∧
        t.preempts = s.preempts.filter (fun q => q.id ≠ p.id) ∧ ∀ j, j ≠ n → teamAt t c j = teamAt s c j) ∧
    (m.state = .preempting → p.draining = [] → m.members ≠ [] → (m.members.all (savable s)) = true → m.saved = none →
      ∃ t v, exec (.preemptComplete c n) s = .next t ∧ SameMemory s t ∧ t.threads = s.threads ∧
        teamAt t c n = some { m with saved := some v } ∧ v.id = p.id ∧
        v.bytes = areaBytes m.members.length (min p.saves m.members.length) (savesMatrix s c n m.ctx) ∧
        v.hdr = areaHeader p m m.members.length v.bytes (savesMatrix s c n m.ctx) ∧
        (∀ tid ∈ m.members, v.threads.look (tidKey tid) = some (s.th tid)) ∧
        t.accs = s.accs ++ [engineAccess s p.cmd s.nextId (.save p.id 1) (.store (areaUnit v 1)) (p.area + 64) 64]) ∧
    (∀ v, m.state = .preempting → p.draining = [] → m.members ≠ [] → (m.members.all (savable s)) = true →
      m.saved = some v → p.next = p.units + 1 → answerHeld s c.node p.cmd.tid.core.node = false → (∀ tid ∈ m.members, tidKey tid ≠ tidKey p.cmd.tid) →
      ∃ t, exec (.preemptComplete c n) s = .next t ∧ SameMemory s t ∧
        Answered p.cmd (preemptToken p p.resp v.bytes (s.taper c.node)) s t ∧
        teamAt t c n = some { m with state := .saved, members := [], complete := true } ∧
        (∀ tid ∈ m.members, (t.th tid).life = .free ∧ (t.th tid).pending = []) ∧
        t.preempts = s.preempts.filter (fun q => q.id ≠ p.id)))

/-- R327, R328 and R331: SIGNAL answers the status of its first failing check; QUERY the state of the team; ABANDON of a
saved team ends it and answers 1; RESUME of a saved team reads its area. Once that is read and every core has the slots
needed, the threads run on as they were saved and the token is 1; a resume not placed by its boundary answers BUSY. -/
def Obligations.SignalsAndResumes : Prop :=
  (∀ (c : ClusterId) (x : Cmd) (d : BitVec 4) (a : GSrc) (w : W32) (g : Guard) (s : State), nextLaunch s c = some x →
    clusterOf x.tid.core = c → x.ins = .signal d a w g →
    (∀ st, reqRefusal true x s = some st →
      ∃ t, exec (.signalStart c) s = .next t ∧ Served .launch x (failToken st 0 0) s t) ∧
    (reqRefusal true x s = none → 2 ≤ w.toNat % 4 →
      ∃ t, exec (.signalStart c) s = .next t ∧
        Served .launch x (match reqEntry x s with | none => 4 | some m => m.query) s t) ∧
    (reqRefusal true x s = none → w.toNat % 4 < 2 → reqEntry x s = none →
      ∃ t, exec (.signalStart c) s = .next t ∧ Served .launch x (failToken .noTeam 0 0) s t) ∧
    (∀ m, reqRefusal true x s = none → w.toNat % 4 < 2 → reqEntry x s = some m → m.state ≠ .saved →
      ∃ t, exec (.signalStart c) s = .next t ∧ Served .launch x (failToken .busy 0 0) s t) ∧
    (∀ m, reqRefusal true x s = none → w.toNat % 4 = 1 → reqEntry x s = some m → m.state = .saved →
      (∀ tid ∈ m.members, tidKey tid ≠ tidKey x.tid) →
      ∃ t, exec (.signalStart c) s = .next t ∧ Served .launch x 1 s t ∧
        teamAt t (reqCluster x) (reqTeam x) = none) ∧
    (∀ m v, reqRefusal true x s = none → w.toNat % 4 = 0 → reqEntry x s = some m → m.state = .saved → m.complete = true →
      m.saved = some v →
      ∃ t p, exec (.signalStart c) s = .next t ∧ Left .launch x s t ∧ SameMemory s t ∧ t.threads = s.threads ∧
        t.preempts = s.preempts ++ [p] ∧ p.cmd = x ∧ p.resume = true ∧ p.units = v.bytes / 64 ∧ p.next = 0 ∧
        p.area = reqArea x ∧ p.deadline = s.taper (reqCluster x).node + reqDeadline x ∧
        teamAt t (reqCluster x) (reqTeam x) = some { m with state := .resuming } ∧
        t.accs = s.accs ++ [engineAccess s x (s.nextId + 1) (.save s.nextId 0) .engRead (reqArea x) 64])) ∧
  (∀ (c : ClusterId) (n : Nat) (p : Preempt) (m : Team) (v : Saved) (l : List (Tid × Tid × Thread)) (s : State),
    Preempting s c n true p → p.cluster = c → p.team = n → teamAt s c n = some m → m.saved = some v → p.next = p.units →
    (v.matrix.all fun e => sliceIdle s (coreIn c e.1)) = true → resumeSlots s v = some l →
    (l.map fun e => tidKey e.2.1).Nodup → (∀ e ∈ l, tidKey e.2.1 ≠ tidKey p.cmd.tid) →
    ∃ t, exec (.resumePlace c n) s = .next t ∧ SameMemory s t ∧ Answered p.cmd 1 s t ∧
      (∀ e ∈ l, t.th e.2.1 = { e.2.2 with hold := .none }) ∧
      teamAt t c n = some { m with state := .running, members := l.map (·.2.1), saved := none, complete := false } ∧
      t.preempts = s.preempts.filter (fun q => q.id ≠ p.id)) ∧
  (∀ (c : ClusterId) (n : Nat) (p : Preempt) (m : Team) (s : State), Preempting s c n true p → p.cluster = c → p.team = n →
    p.deadline ≤ s.taper c.node → teamAt s c n = some m → m.state = .resuming →
    ∃ t, exec (.resumeDeadline c n) s = .next t ∧ SameMemory s t ∧ Answered p.cmd 0xFF00F13000000000 s t ∧
      teamAt t c n = some { m with state := .saved } ∧ t.preempts = s.preempts.filter (fun q => q.id ≠ p.id))

/-! ### Launches -/

namespace Sys2Proof.Claims

/-- The token that a LAUNCH answers (R361): packages that acknowledged, packages in scope, and the grid. -/
def launchToken (acked inscope gid : Nat) : W64 :=
  BitVec.ofNat 64 (acked % 2 ^ 16 + inscope % 2 ^ 16 * 2 ^ 16 + gid % 2 ^ 24 * 2 ^ 32)

/-- The state once the fault report of a grid has been written. -/
def reported (r : Nat) (g : Grid) (s : State) : State :=
  (List.range 4).foldl (fun s i =>
    rootWrite g.cmd (wordAt g.hdr 8 + BitVec.ofNat 64 (64 * i)) ((g.faultReport.drop (8 * i)).take 8) s)
    (modGrid r g.gid (fun _ => g) s)

/-- The grids that a cancel notice finds at their roots. -/
def noticed (s : State) (x : Notice) : List (Nat × Grid) :=
  s.packages.flatMap fun p => (p.2.grids.filter fun e =>
    decide (e.2.ctx = x.ctx ∧ e.2.ended = none) && (e.2.acked.look x.node).isSome && !e.2.stopped.contains x.node).map
      fun e => (p.1, e.2)

/-- A LAUNCH whose checks are passed and whose thread has no access under way has started its grid: it is in the root's table,
DONE, at `p`, is zeroed, and for the own package alone the token has come. `w`: word1. -/
def GridStarted (x : Cmd) (w : W32) (p : Phys) (s t : State) : Prop :=
  OnlyBytes p 64 s t ∧ t.peekWords p 8 = List.replicate 8 0 ∧
    ∃ y, t.grid? x.tid.core.node (s.pkg x.tid.core.node).nextGid = some y ∧
      y.gid = (s.pkg x.tid.core.node).nextGid ∧ y.cmd = x ∧ y.started = s.taper x.tid.core.node ∧
      y.inscope = scopeNodes s x.recw x.tid.core.node ∧ y.next = 0 ∧ y.dealt = 0 ∧ y.ended = none ∧
      (t.pkg x.tid.core.node).nextGid = ((s.pkg x.tid.core.node).nextGid + 1) % 2 ^ 24 ∧
      (t.pkg x.tid.core.node).hlast = max (s.pkg x.tid.core.node).hlast w.toNat ∧
      (hdrScope x.recw ≠ 5 → y.acking = false ∧
        y.acked = [(x.tid.core.node, eligibleOf s (dieOf x.tid.core) x.recw x.tid.core.node)] ∧
        Answered x (launchToken 1 1 (s.pkg x.tid.core.node).nextGid) s t)

/-- No LAUNCH that has passed its checks can start its grid. -/
abbrev NoneStarts (s : State) (c : ClusterId) : Prop :=
  (s.cluster c).launching.find? (launchReady s) = none

/-- A grid whose blocks are all counted, as it ends at a tick: its status by the classes counted, and LATE (R366). -/
def endedAt (g : Grid) (now : Nat) : Grid :=
  { g with
    ended := some now
    status := if g.cancelled ≠ 0 then 2 else if g.faulted ≠ 0 then 4 else if g.lost ≠ 0 then 3 else 1
    late := decide (hdrDeadline g.hdr ≠ 0 ∧ g.started + hdrDeadline g.hdr < now) }

end Sys2Proof.Claims

/-- R361, R362, R368 and R369: LAUNCH answers the status of its first failing check, made once; else it waits until its thread's
earlier accesses are accepted or refused and its header may go out to every package it is for (log 128), and then its grid is in the root's table, DONE is zeroed, and for the own package alone
the token comes at once; where its CTX has lapsed meanwhile, every block is cancelled (log 78). A package's acknowledgement, after
that of the thread's earlier launches, adds its eligible clusters; with the last one, or at the deadline, the token comes, also
where the grid's entry has been freed before (log 112). LSTAT answers the item asked for, or NO_GRID. -/
def Obligations.LaunchCommands : Prop :=
  (∀ (c : ClusterId) (x : Cmd) (d : BitVec 4) (a b : GSrc) (w : W32) (g : Guard) (s : State), nextLaunch s c = some x →
    clusterOf x.tid.core = c → x.ins = .launch d a b w g →
    NoneStarts s c →
    (∀ st, launchRefusal s x = some st →
      ∃ t, exec (.launchStart c) s = .next t ∧ Served .launch x (failToken st 0 0) s t) ∧
    (launchRefusal s x = none → drained s x.tid x.id .group = false ∨ headersFit s x = false →
      ∃ t, exec (.launchStart c) s = .next t ∧ Left .launch x s t ∧ t = { s with clusters := t.clusters } ∧
        (t.cluster c).launching = (s.cluster c).launching ++ [x]) ∧
    (∀ p, launchRefusal s x = none → drained s x.tid x.id .group = true → headersFit s x = true → rootRecord x.tid.core (wordAt x.recw 7) 64 = some p →
      (∀ ls, homeRefusal s x.tid x.ctx p (wordAt x.recw 7) 64 (.engWrite ls) = none) →
      ∃ t, exec (.launchStart c) s = .next t ∧ Left .launch x s t ∧ GridStarted x w p s t)) ∧
  (∀ (c : ClusterId) (x : Cmd) (d : BitVec 4) (a b : GSrc) (w : W32) (g : Guard) (p : Phys) (s : State),
    (s.cluster c).launching.find? (launchReady s) = some x → clusterOf x.tid.core = c →
    x.ins = .launch d a b w g → rootRecord x.tid.core (wordAt x.recw 7) 64 = some p →
    (∀ ls, homeRefusal s x.tid x.ctx p (wordAt x.recw 7) 64 (.engWrite ls) = none) →
    ((∃ l, liveCtx s x.a = .ok l) →
      ∃ t, exec (.launchStart c) s = .next t ∧ GridStarted x w p s t ∧
        (t.cluster c).launching = (s.cluster c).launching.filter (fun y => decide (y.id ≠ x.id))) ∧
    ((∃ e, liveCtx s x.a = .error e) → hdrStatic x.recw = false →
      ∃ t y, exec (.launchStart c) s = .next t ∧
        t.grid? x.tid.core.node (s.pkg x.tid.core.node).nextGid = some y ∧ y.stopped.contains x.tid.core.node = true ∧
        y.next = hdrSize x.recw ∧ y.cancelled = hdrSize x.recw)) ∧
  (∀ (r gid n : Nat) (g : Grid) (s : State), s.grid? r gid = some g → g.acking = true → g.sentTo.contains n = true →
    g.acked.look n = none → g.gone.contains n = false → (s.pkg r).deadLinks.contains n = false →
    n = r ∨ crosses s r n = false → ackOrder s r g n = true → g.freed = false →
    ∃ t y h, exec (.launchAck r gid n) s = .next t ∧ SameMemory s t ∧ t.grid? r gid = some y ∧
      h = { g with acked := g.acked.set n (eligibleOf s g.from_ g.hdr n) } ∧ y.acked = h.acked ∧
      (h.allAcked = false → y.acking = true ∧ t.threads = s.threads) ∧
      (h.allAcked = true → y.acking = false ∧ Answered g.cmd (launchToken h.acked.length g.inscope.length gid) s t)) ∧
  (∀ (r gid : Nat) (g : Grid) (s : State), s.grid? r gid = some g → g.acking = true → g.ackT ≤ s.taper r →
    (g.freed = false →
      ∃ t y, exec (.launchAckDeadline r gid) s = .next t ∧ SameMemory s t ∧ t.grid? r gid = some y ∧ y.acking = false ∧
        y.acked = g.acked ∧ (hdrStatic g.hdr = false → y = { g with acking := false }) ∧
        Answered g.cmd (launchToken g.acked.length g.inscope.length gid) s t) ∧
    (g.freed = true →
      ∃ t, exec (.launchAckDeadline r gid) s = .next t ∧ SameMemory s t ∧ t.grid? r gid = none ∧
        Answered g.cmd (launchToken g.acked.length g.inscope.length gid) s t)) ∧
  (∀ (c : ClusterId) (x : Cmd) (d : BitVec 4) (a : GSrc) (w : W32) (g : Guard) (s : State), nextLaunch s c = some x →
    clusterOf x.tid.core = c → x.ins = .lstat d a w g →
    (s.grid? c.node (bits x.a 32 24) = none ∨ (∃ y, s.grid? c.node (bits x.a 32 24) = some y ∧ y.freed = true) →
      ∃ t, exec (.lstatStart c) s = .next t ∧ Served .launch x 0xFF00F14000000000 s t) ∧
    (∀ y, s.grid? c.node (bits x.a 32 24) = some y → y.freed = false →
      ∃ t v, exec (.lstatStart c) s = .next t ∧ Served .launch x v s t ∧
        (w.toNat % 16 = 0 → v = BitVec.ofNat 64 y.status) ∧ (w.toNat % 16 = 1 → v = BitVec.ofNat 64 y.dealt) ∧
        (w.toNat % 16 = 2 → v = BitVec.ofNat 64 y.completed) ∧ (w.toNat % 16 = 3 → v = BitVec.ofNat 64 y.faulted) ∧
        (w.toNat % 16 = 4 → v = BitVec.ofNat 64 y.lost) ∧ (w.toNat % 16 = 5 → v = BitVec.ofNat 64 y.cancelled) ∧
        (w.toNat % 16 = 6 → v = BitVec.ofNat 64 (y.size - (y.completed + y.faulted + y.lost + y.cancelled))) ∧
        (w.toNat % 16 = 7 → v = BitVec.ofNat 64 y.total) ∧ (8 ≤ w.toNat % 16 → v = 0)))

/-- R363 to R367, R369 and R376: a die takes the root's next blocks and deals at most CHUNK of them to a hungry core; a
STATIC slot's next block goes to its core; reports add to their class; a grid whose blocks are all counted ends with its
status, writes DONE, and its entry is free 64 ticks later (log 112 for one that collects acknowledgements); a cancel notice ends a package's dealing and its undealt blocks
are CANCELLED; and a core may pass its newest record to its least loaded neighbour. A dealt block counts at the root at
once, and reports of a package arrive in order (log 80). -/
def Obligations.Dealing : Prop :=
  (∀ (r gid n : Nat) (h : DieId) (g : Grid) (s : State), s.grid? r gid = some g → hdrStatic g.hdr = false → 0 < n →
    (dealClusters s g h.node).any (fun x => decide (x.1 = h.die)) = true → mayDeal s g h.node = true → g.next + n ≤ g.size →
    ((g.reserve.filter fun x => decide (x.1.node = h.node)).map fun x => x.2.2).sum + n ≤
      4 * hdrChunk g.hdr * ((dealClusters s g h.node).length * 8) → (∀ x ∈ g.reserve, x.1 ≠ h) →
    ∃ t, exec (.rangeRequest r gid h n) s = .next t ∧ t = { s with packages := t.packages } ∧
      t.grid? r gid = some { g with
        next := g.next + n
        reserve := g.reserve ++ [(h, g.next, n)]
        held := g.held.set h.node (g.held.get 0 h.node + n) }) ∧
  (∀ (r gid b k : Nat) (h : DieId) (g : Grid) (c : CoreId) (s : State), s.grid? r gid = some g → mayDeal s g h.node = true →
    launchOrder s r g h.node = true → g.reserve.find? (fun x => decide (x.1 = h)) = some (h, b, k) →
    hungryCore s r g h = some c →
    ∃ t, exec (.dealRecord r gid h) s = .next t ∧ SameMemory s t ∧ t.threads = s.threads ∧
      (t.core c).inbox = (s.core c).inbox ++ [g.record r b (min (hdrChunk g.hdr) k)] ∧
      ∃ y, t.grid? r gid = some y ∧ y.dealt = g.dealt + min (hdrChunk g.hdr) k ∧ y.next = g.next ∧
        (hdrChunk g.hdr < k → (h, b + hdrChunk g.hdr, k - hdrChunk g.hdr) ∈ y.reserve) ∧
        (k ≤ hdrChunk g.hdr → (h, b, k) ∉ y.reserve)) ∧
  (∀ (r gid j : Nat) (cl : ClusterId) (g : Grid) (c : CoreId) (s : State), s.grid? r gid = some g →
    g.slots[j]? = some (cl, true) → c = coreIn cl (g.slotNext.get 0 j % 8) → hdrStatic g.hdr = true → g.acking = false →
    0 < g.slotLeft j → mayDeal s g cl.node = true → launchOrder s r g cl.node = true → holdsGrid s c r gid = false →
    coreRuns s c = true → eligible s g.from_ g.hdr cl = true → (s.core c).inbox.length < Config.inboxEntries →
    ∃ t, exec (.staticDeal r gid j) s = .next t ∧ SameMemory s t ∧ t.threads = s.threads ∧
      (t.core c).inbox = (s.core c).inbox ++ [g.record r (j + g.slotNext.get 0 j * g.slots.length) 1] ∧
      ∃ y, t.grid? r gid = some y ∧ y.dealt = g.dealt + 1 ∧ y.slotNext.get 0 j = g.slotNext.get 0 j + 1) ∧
  (∀ (n k : Nat) (x : Report) (g : Grid) (s : State), s.reports.find? (fun x => decide (x.id = k ∧ x.node = n)) = some x →
    (∀ y ∈ s.reports, y.node = n → y.root = x.root → k ≤ y.id) → (s.pkg x.root).deadLinks.contains n = false →
    n = x.root ∨ crosses s n x.root = false →
    s.grid? x.root x.gid = some g → g.ended = none → g.gone.contains n = false →
    ∃ t y, exec (.blockClassReport n k) s = .next t ∧ t = { s with packages := t.packages, reports := t.reports } ∧
      t.reports = s.reports.filter (fun y => y.id ≠ k) ∧ t.grid? x.root x.gid = some y ∧
      y.completed = g.completed + (if x.cls = 0 then x.count else 0) ∧
      y.faulted = g.faulted + (if x.cls = 1 then x.count else 0) ∧ y.lost = g.lost + (if x.cls = 2 then x.count else 0) ∧
      (x.cls = 3 → y.cancelled = g.cancelled + x.count) ∧ (x.cls < 3 → y.cancelled = g.cancelled) ∧
      (x.cls = 4 → y.total = min (2 ^ 32 - 1) (g.total + 1) ∧
        y.entries = (if g.entries.length < 4 then g.entries ++ [x.entry] else g.entries)) ∧
      (x.cls = 5 → y.causes.get 0 11 = min 65535 (g.causes.get 0 11 + x.count))) ∧
  (∀ (r gid : Nat) (g h : Grid) (s : State), s.grid? r gid = some g → g.gid = gid → g.ended = none →
    g.completed + g.faulted + g.lost + g.cancelled = g.size →
    h = endedAt g (s.taper r) →
    ∃ t, exec (.gridEnd r gid) s = .next t ∧ t.grid? r gid = some h ∧
      ∀ p, rootRecord g.cmd.tid.core (wordAt g.hdr 7) 64 = some p →
        (∀ ls, homeRefusal (reported r h s) g.cmd.tid g.cmd.ctx p (wordAt g.hdr 7) 64 (.engWrite ls) = none) →
        t.peekWords p 8 = [BitVec.ofNat 64 (h.status + (if h.late then 16 else 0)), BitVec.ofNat 64 g.dealt,
          BitVec.ofNat 64 g.completed, BitVec.ofNat 64 g.faulted, BitVec.ofNat 64 g.lost, BitVec.ofNat 64 g.cancelled,
          BitVec.ofNat 64 (min (s.taper r - g.started) (2 ^ 32 - 1)), BitVec.ofNat 64 h.status]) ∧
  (∀ (r gid e : Nat) (g : Grid) (s : State), s.grid? r gid = some g → g.ended = some e → g.freed = false →
    e + 64 ≤ s.taper r →
    ∃ t, exec (.gridEntryFree r gid) s = .next t ∧ t = { s with packages := t.packages } ∧
      t.grid? r gid = (if g.acking then some { g with freed := true } else none)) ∧
  (∀ (k : Nat) (x : Notice) (g : Grid) (s : State), s.notices.find? (fun x => decide (x.id = k)) = some x →
    (hHome x.ctx).node = x.node ∨ crosses s (hHome x.ctx).node x.node = false →
    s.grid? x.node g.gid = some g → noticed s x = [(x.node, g)] → hdrStatic g.hdr = false →
    ∃ t, exec (.cancelNotice k) s = .next t ∧ SameMemory s t ∧ t.notices = s.notices.filter (fun y => y.id ≠ k) ∧
      ∃ y, t.grid? x.node g.gid = some y ∧ y.cancelled = g.cancelled + (g.size - g.next) ∧
        y.next = g.next + (g.size - g.next) ∧ y.stopped.contains x.node = true ∧
        y.reserve = g.reserve.filter (fun z => z.1.node ≠ x.node)) ∧
  (∀ (c d : CoreId) (i : Nat) (s : State), s.taper c.node % 64 = 0 → s.taper c.node ≠ 0 →
    (s.core c).exchanged ≠ s.taper c.node → coreRuns s c = true → lowestLoad s (loadNeighbours s c) = some d →
    passable (s.core c).inbox = some i → (s.core d).figure + 2 ≤ (s.core c).figure →
    recordEligible s (nth [] (s.core c).inbox i) (clusterOf d) = true → (s.core d).inbox.length < Config.inboxEntries →
    coreKey c ≠ coreKey d →
    ∃ t, exec (.loadExchange c) s = .next t ∧ t = { s with cores := t.cores } ∧
      (t.core c).inbox = (s.core c).inbox.eraseIdx i ∧
      (t.core d).inbox = (s.core d).inbox ++ [nth [] (s.core c).inbox i] ∧ (t.core c).exchanged = s.taper c.node)

/-! ### The host port, boot and reset -/

namespace Sys2Proof.Claims

/-- Slot 0 of the host service core has served a host record: its acknowledgement is on its way (R380, R381). -/
def Acknowledges (n : Nat) (r : List W64) (s t : State) : Prop :=
  ∃ i, t.regWrites = s.regWrites ++ [⟨i, ⟨⟨n, 0, 0, 0⟩, 0⟩, 0x080, BitVec.ofNat 64 (bits (wordAt r 1) 0 32), 0⟩]

/-- The keys of a package's memory. -/
def inPackage (n k : Nat) : Prop := k / 2 ^ 42 = n

end Sys2Proof.Claims

/-- R378 to R380, R382 and R383: a write of the submission window, the last taking the record into the FIFO, where one that is
acknowledged does not stay, or dropping it; a read of SUBSTAT or BOOTST in the register region;
a doubleword read or written through the memory region where that is SYSTEM, else all ones and nothing (that an unaligned access is
dropped too is log 30, that G = 0 names cluster 0 of die 0 log 148: the model's choices); the oldest record
not copied goes into the ring and TAIL past it; a restart empties the ring and copies every record anew. -/
def Sys2Proof.Claims.HostPort : Prop :=
  (∀ (n : Nat) (o : BitVec 3) (x : W64) (s : State),
    ∃ t, exec (.hostSubmission n o x) s = .next t ∧ t = { s with packages := t.packages } ∧
      (t.pkg n).subwin = (s.pkg n).subwin.set o.toNat x o.isLt ∧
      (o ≠ 7 → (t.pkg n).fifo = (s.pkg n).fifo ∧ (t.pkg n).dropped = (s.pkg n).dropped) ∧
      (o = 7 → (s.pkg n).fifo.length < Config.fifoEntries →
        (t.pkg n).fifo = ((s.pkg n).fifo ++ [((s.pkg n).subwin.set o.toNat x o.isLt).toList]).filter
          (fun r => decide ((s.pkg n).hack.toNat < recHseq r)) ∧
        (t.pkg n).dropped = (s.pkg n).dropped) ∧
      (o = 7 → Config.fifoEntries ≤ (s.pkg n).fifo.length →
        (t.pkg n).fifo = (s.pkg n).fifo ∧ (t.pkg n).dropped = min 127 ((s.pkg n).dropped + 1))) ∧
  (∀ (n : Nat) (s : State),
    (∃ t, device (.hostRegister n 0x040) s = .next t ∧ t = { s with packages := t.packages } ∧
      ((s.pkg n).fifo.length ≤ 256 → bits (t.pkg n).hostRead 0 9 = 256 - (s.pkg n).fifo.length ∧
        bits (t.pkg n).hostRead 9 7 = (s.pkg n).dropped % 128 ∧
        bits (t.pkg n).hostRead 32 32 = (s.pkg n).hack.toNat)) ∧
    (∃ t, device (.hostRegister n 0x048) s = .next t ∧ t = { s with packages := t.packages } ∧
      bits (t.pkg n).hostRead 0 3 = (s.pkg n).phase % 8 ∧ (t.pkg n).hostRead.getLsbD 3 = (s.pkg n).slotB ∧
      bits (t.pkg n).hostRead 4 4 = (s.pkg n).reason % 16)) ∧
  (∀ (n : Nat) (o : BitVec 33) (s : State),
    (∀ p, hostPlace s n o = some p →
      (∃ t, exec (.hostMemoryAccess n o none) s = .next t ∧ t = { s with packages := t.packages } ∧
        (t.pkg n).hostRead = BitVec.ofNat 64 (s.peek p 8)) ∧
      (∀ x : W64, ∃ t, exec (.hostMemoryAccess n o (some x)) s = .next t ∧ OnlyBytes p 8 s t ∧ t.peek p 8 = x.toNat ∧
        t.empties = s.empties)) ∧
    (hostPlace s n o = none →
      (∃ t, exec (.hostMemoryAccess n o none) s = .next t ∧ (t.pkg n).hostRead = BitVec.allOnes 64 ∧ SameMemory s t) ∧
      (∀ x : W64, exec (.hostMemoryAccess n o (some x)) s = .next s))) ∧
  (∀ (n : Nat) (r : List W64) (s : State), (s.pkg n).fifo[(s.pkg n).copied]? = some r → r.length = 8 →
    (hostTail s n % 32 + 1) % 32 ≠ hostHead s n % 32 →
    ∃ t, exec (.hostRecordCopy n) s = .next t ∧ (t.pkg n).copied = (s.pkg n).copied + 1 ∧ (t.pkg n).fifo = (s.pkg n).fifo ∧
      t.peekWords (scratchAt ⟨n, 0, 0, 0⟩ (0x7E000 + 64 * (hostTail s n % 32))) 8 = r ∧
      hostTail t n = (hostTail s n % 32 + 1) % 32 ∧ hostHead t n = hostHead s n) ∧
  (∀ (n : Nat) (s : State), (s.pkg n).phase ≠ 0 →
    ∃ t, exec (.firmwareRestart n) s = .next t ∧ hostHead t n = 0 ∧ hostTail t n = 0 ∧ (t.pkg n).copied = 0 ∧
      (t.pkg n).fifo = (s.pkg n).fifo ∧ (t.pkg n).hack = (s.pkg n).hack)

/-- R380: the record at the head of the host ring is served: a launch record makes its grid under the default context, or,
its header unreadable, nothing; a cancel record lets the grid's context lapse at the next boundary; a partition record
writes PART and PVC, a refused PART counted (PVC then too: log 140); an unknown kind is ignored. Each is acknowledged. A launch record
whose LCTX is refused writes CANCELLED into its DONE record; one whose header cannot be read makes its CTX and no grid. One whose DIE has
no service core that runs waits (R310), and so does one behind slot 0's own earlier commands of the launch channel, its accesses, SWR or
RNW (R393). That a cancel record names the latest running grid with its DONE address (log 83), and that a launch record which meets FULL
or BUSY waits and one with no readable header is acknowledged (log 31), are the model's choices. -/
def Sys2Proof.Claims.HostRecords : Prop :=
  (∀ (n i : Nat) (r w : List W64) (u : State) (c : Cmd) (s : State), hostRecord s n = some r → hostKind r = 1 →
    hostHeader s (serviceSlot (hostDie n r)) (wordAt r 2) = some w → wordAt r 3 = 0 → someEntry s (hostDie n r) = true →
    entryReady s (hostDie n r) i = true → serviceRuns s (hostDie n r) = true →
    drained s (serviceSlot (hostDie n r)) s.nextId .group = true → launchWaits s (serviceSlot (hostDie n r)) = false →
    hostFree s (serviceSlot (hostDie n r)) r = true →
    u = createLease (hostDie n r) i .ctx (if bits (wordAt r 4) 0 32 = 0 then 2 ^ 32 - 1 else bits (wordAt r 4) 0 32)
      (handleOf (hostDie n r) .ctx i (s.lease (hostDie n r) i).gen) (supervisorCtx n (hostDie n r).die) (.ctx 0 0 0) s.fresh →
    c = ⟨s.nextId, serviceSlot (hostDie n r), supervisorCtx n (hostDie n r).die, 0,
      .launch 0 ⟨false, 0⟩ ⟨false, 0⟩ (BitVec.ofNat 32 (recHseq r)) Guard.none,
      handleOf (hostDie n r) .ctx i (s.lease (hostDie n r) i).gen, wordAt r 2, w, 0, .known true, 0⟩ →
    headersFit s c = true →
    (launchRefusal u c = some .full ∨ launchRefusal u c = some .busy → exec (.hostLaunchRecord n i) s = .next s) ∧
    (launchRefusal u c = none →
    ∃ t y, exec (.hostLaunchRecord n i) s = .next t ∧ Acknowledges n r s t ∧ t.grid? n (s.pkg n).nextGid = some y ∧
      y.cmd = c ∧ y.inscope = scopeNodes s w n ∧ y.ended = none ∧ (t.lease (hostDie n r) i).state = .live ∧
      (t.lease (hostDie n r) i).kind = .ctx)) ∧
  (∀ (n i : Nat) (r : List W64) (s : State), hostRecord s n = some r → hostKind r = 1 →
    serviceRuns s (hostDie n r) = true → hostHeader s (serviceSlot (hostDie n r)) (wordAt r 2) = none → wordAt r 3 = 0 →
    hostFree s (serviceSlot (hostDie n r)) r = true → someEntry s (hostDie n r) = true → entryReady s (hostDie n r) i = true →
    ∃ t, exec (.hostLaunchRecord n i) s = .next t ∧ Acknowledges n r s t ∧ t.packages = s.packages ∧
      hostHead t n = (hostHead s n + 1) % 32 ∧
      t.lease (hostDie n r) i = ⟨.live, .ctx, (s.lease (hostDie n r) i).gen,
        s.taper (hostDie n r).node + (if bits (wordAt r 4) 0 32 = 0 then 2 ^ 32 - 1 else bits (wordAt r 4) 0 32),
        s.taper (hostDie n r).node, handleOf (hostDie n r) .ctx i (s.lease (hostDie n r) i).gen,
        supervisorCtx n (hostDie n r).die, .ctx 0 0 0, false⟩) ∧
  (∀ (n i : Nat) (r : List W64) (s : State), hostRecord s n = some r → hostKind r = 1 → serviceRuns s (hostDie n r) = true →
    hostFree s (serviceSlot (hostDie n r)) r = true →
    ((wordAt r 3 ≠ 0 ∧ ((wordAt r 3).toNat % 64 ≠ 0 ∨ ∃ ws, hostDescriptor s (serviceSlot (hostDie n r)) (wordAt r 3) = some ws ∧
        badDescriptor ws = true)) ∨ (wordAt r 3 = 0 ∧ someEntry s (hostDie n r) = false)) →
    (hostHeader s (serviceSlot (hostDie n r)) (wordAt r 2) = none →
      ∃ t, exec (.hostLaunchRecord n i) s = .next t ∧ Acknowledges n r s t ∧ t.packages = s.packages ∧ t.dies = s.dies) ∧
    (∀ w p, hostHeader s (serviceSlot (hostDie n r)) (wordAt r 2) = some w →
      rootRecord (serviceSlot (hostDie n r)).core (wordAt w 7) 64 = some p →
      (∀ ls, homeRefusal s (serviceSlot (hostDie n r)) (supervisorCtx n (hostDie n r).die) p (wordAt w 7) 64 (.engWrite ls) = none) →
      p.key + 64 ≤ (scratchAt ⟨n, 0, 0, 0⟩ 0x7E800).key ∨ (scratchAt ⟨n, 0, 0, 0⟩ 0x7E800).key + 4 ≤ p.key →
      ∃ t, exec (.hostLaunchRecord n i) s = .next t ∧ Acknowledges n r s t ∧ t.packages = s.packages ∧ t.dies = s.dies ∧
        t.peekWords p 8 = [2, 0, 0, 0, 0, BitVec.ofNat 64 (hdrSize w % 2 ^ 40), 0, 2] ∧ t.isFull (p.plus 56) = true)) ∧
  (∀ (n i : Nat) (r : List W64) (s : State), hostRecord s n = some r → hostKind r = 1 →
    (hostFree s (serviceSlot (hostDie n r)) r = false → exec (.hostLaunchRecord n i) s = .next s) ∧
    (∀ w, hostHeader s (serviceSlot (hostDie n r)) (wordAt r 2) = some w → wordAt r 3 = 0 → someEntry s (hostDie n r) = true →
      launchWaits s (serviceSlot (hostDie n r)) = true ∨ drained s (serviceSlot (hostDie n r)) s.nextId .group = false →
      exec (.hostLaunchRecord n i) s = .next s)) ∧
  (∀ (n : Nat) (r : List W64) (s : State), hostRecord s n = some r → hostKind r = 2 →
    (∀ g, hostGrid s n (wordAt r 2) = some g → renewalWaits s (serviceSlot (hostDie n r)) g.ctx = true →
      exec (.hostCancelRecord n) s = .next s) ∧
    (serviceRuns s (hostDie n r) = true → hostGrid s n (wordAt r 2) = none →
      ∃ t, exec (.hostCancelRecord n) s = .next t ∧ Acknowledges n r s t ∧ t.dies = s.dies)) ∧
  (∀ (n i : Nat) (r : List W64) (g : Grid) (h : DieId) (l : Lease) (s : State), hostRecord s n = some r → hostKind r = 2 →
    hostGrid s n (wordAt r 2) = some g → present s g.ctx = .live h i l → i ≠ 0 →
    l.heldBy (supervisorCtx n (hostDie n r).die) = true → serviceRuns s (hostDie n r) = true →
    renewalWaits s (serviceSlot (hostDie n r)) g.ctx = false →
    ∃ t, exec (.hostCancelRecord n) s = .next t ∧ Acknowledges n r s t ∧ (t.lease h i).x = s.taper h.node ∧
      (∀ j, j ≠ i → t.lease h j = s.lease h j) ∧ hostHead t n = (hostHead s n + 1) % 32) ∧
  (∀ (n : Nat) (r : List W64) (s : State), hostRecord s n = some r →
    (hostKind r = 3 → serviceRuns s (hostDie n r) = true → (∀ w ∈ s.regWrites, w.tid ≠ serviceSlot (hostDie n r)) →
      ∃ t, exec (.hostPartitionRecord n) s = .next t ∧ Acknowledges n r s t ∧
        hostHead t n = (hostHead s n + 1) % 32 ∧ (t.die (hostDie n r)).pvc = wordAt r 3 &&& 0xFFFF ∧
        (t.die (hostDie n r)).part =
          (if valueOk s (serviceSlot (hostDie n r)) 0x051 (wordAt r 2) then BitVec.ofNat 64 (bits (wordAt r 2) 0 60)
           else (s.die (hostDie n r)).part) ∧
        (valueOk s (serviceSlot (hostDie n r)) 0x051 (wordAt r 2) = false →
          (t.pkg n).refusedParts = (s.pkg n).refusedParts + 1)) ∧
    (3 < hostKind r ∨ hostKind r = 0 →
      ∃ t, exec (.hostPartitionRecord n) s = .next t ∧ Acknowledges n r s t ∧ t.packages = s.packages ∧
        hostHead t n = (hostHead s n + 1) % 32 ∧ ∀ h, (t.die h).part = (s.die h).part) ∧
    (hostKind r = 1 ∨ hostKind r = 2 ∨ hostKind r = 3 → serviceRuns s (hostDie n r) = false →
      (∀ i : Nat, exec (.hostLaunchRecord n i) s = .next s) ∧ exec (.hostCancelRecord n) s = .next s ∧
        exec (.hostPartitionRecord n) s = .next s) ∧
    (hostKind r = 3 → (∃ w ∈ s.regWrites, w.tid = serviceSlot (hostDie n r)) → exec (.hostPartitionRecord n) s = .next s))

/-- R104, R105, R144, R297, R382, R384 and R385: a tick adds 1 to the taper of its package alone; the boot ROM takes the slot that
the marker names, or the other, or halts with its reason; bring-up goes on one phase or halts; and module reset puts
everything of its package back but the module flash, the circuits of its fibres with a change of them that is going on, and
the mapping of fenced row groups (log 85), and leaves the memory of the others and the circuits of every strand, its own
memory reading 0 (log 5). No tick passes the end of a dark interval (log 76). Whatever step of a firmware update power is lost in, a marker
still names a slot, and the slot that ran stays valid. -/
def Obligations.BootAndReset : Prop :=
  (∀ (n : Nat) (s : State), darkLate s n = true → exec (.tickBoundary n) s = .next s) ∧
  (∀ (n : Nat) (s : State), darkLate s n = false → ∃ t, exec (.tickBoundary n) s = .next t ∧ t.taper n = s.taper n + 1 ∧
    (∀ m, m ≠ n → t.taper m = s.taper m) ∧ SameMemory s t ∧ ((s.pkg n).relock = none → t.dies = s.dies) ∧
    (∀ w ∈ s.waits, ∀ a, w.kind = .taper a → w.isQueued = true → w.tid.core.node = n → a.toNat ≤ s.taper n + 1 →
      (∀ v ∈ s.waits, v.tid = w.tid → v = w) → w.q ≠ 0 → (s.th w.tid).deferredQ = [] →
      (t.th w.tid).full (.q w.q) = true ∧ (t.th w.tid).rQ w.q = true ∧ (t.th w.tid).hold = .none)) ∧
  (∀ (n : Nat) (s : State), (s.pkg n).booted = false → (s.pkg n).phase = 0 → (s.pkg n).reason = 0 →
    ∃ t, exec (.bootSelect n) s = .next t ∧ t = { s with packages := t.packages } ∧
      ((s.pkg n).flash.marker = none → t.pkg n = { s.pkg n with reason := 2 }) ∧
      (∀ b, (s.pkg n).flash.marker = some b →
        ((s.pkg n).flash.valid b = true → t.pkg n = { s.pkg n with booted := true, slotB := b }) ∧
        ((s.pkg n).flash.valid b = false → (s.pkg n).flash.valid (!b) = true →
          t.pkg n = { s.pkg n with booted := true, slotB := !b }) ∧
        ((s.pkg n).flash.valid b = false → (s.pkg n).flash.valid (!b) = false → t.pkg n = { s.pkg n with reason := 1 }))) ∧
  (∀ (n : Nat) (ok : Bool) (s : State), (s.pkg n).booted = true → (s.pkg n).reason = 0 → (s.pkg n).phase < 4 →
    ∃ t, exec (.bringupPhase n ok) s = .next t ∧ t = { s with packages := t.packages } ∧
      t.pkg n = (if ok = false ∧ (s.pkg n).phase = 1 then { s.pkg n with reason := 4 }
        else if ok = false ∧ (s.pkg n).phase = 2 then { s.pkg n with reason := 3 }
        else { s.pkg n with phase := (s.pkg n).phase + 1 })) ∧
  (∀ (n : Nat) (done : Bool) (d : Device) (s : State), d = .flashSlot n done ∨ d = .flashMarker n done →
    (s.pkg n).flash.valid (s.pkg n).slotB = true → (s.pkg n).flash.marker ≠ none →
    ∃ t, device d s = .next t ∧ t = { s with packages := t.packages } ∧ (t.pkg n).slotB = (s.pkg n).slotB ∧
      (t.pkg n).flash.valid (s.pkg n).slotB = true ∧ (t.pkg n).flash.marker ≠ none) ∧
  (∀ (n why : Nat) (s : State), (s.pkg n).reason = 0 → 1 ≤ (s.pkg n).phase → why = 5 ∨ (why = 4 ∧ (s.pkg n).phase = 1) →
    ∃ t, exec (.packageHalt n why) s = .next t ∧ t = { s with packages := t.packages } ∧
      t.pkg n = { s.pkg n with reason := why }) ∧
  (∀ (n : Nat) (s : State), ∃ t, exec (.moduleReset n) s = .next t ∧
    t.pkg n = { Package.reset with
      flash := (s.pkg n).flash
      strands := (t.pkg n).strands
      changing := (s.pkg n).changing
      darkNow := (s.pkg n).darkNow
      relocks := (s.pkg n).relocks
      relock := (s.pkg n).relock } ∧
    (∀ k, t.strand n k = { Strand.reset with peer := (s.strand n k).peer, far := (s.strand n k).far }) ∧
    (∀ m k, (t.strand m k).peer = (s.strand m k).peer ∧ (t.strand m k).far = (s.strand m k).far) ∧
    (∀ c : CoreId, c.node = n → c.die < 4 → c.cluster < 64 → c.core < 8 → t.core c = Core.reset ∧
      t.slice c = { Slice.reset with groupMap := (s.slice c).groupMap, fenced := (s.slice c).fenced } ∧
      t.cluster (clusterOf c) = Cluster.reset ∧ t.die (dieOf c) = Die.reset n c.die ∧
      ∀ k, k < 16 → t.th ⟨c, k⟩ = Thread.resetAt ⟨c, k⟩) ∧
    (∀ k, inPackage n k → t.byteAt k = 0 ∧ k ∉ t.empties ∧ k ∉ t.poisoned) ∧
    (∀ k, ¬ inPackage n k → t.byteAt k = s.byteAt k ∧ (k ∈ t.empties ↔ k ∈ s.empties) ∧ (k ∈ t.poisoned ↔ k ∈ s.poisoned)) ∧
    (∀ a ∈ t.accs, a ∈ s.accs ∧ a.tid.core.node ≠ n) ∧ (∀ w ∈ t.waits, w ∈ s.waits ∧ w.tid.core.node ≠ n))

/-! ### The fabric -/

namespace Sys2Proof.Claims

/-- Every strand but one is as before. -/
def OtherStrands (n k : Nat) (s t : State) : Prop := ∀ m j, (m, j) ≠ (n, k) → t.strand m j = s.strand m j

/-- Only strands and counters of packages change, and the number given to things in flight. -/
def OnlyPackages (s t : State) : Prop := t = { s with packages := t.packages, nextId := t.nextId }

/-- A strand is down: it carries nothing. -/
def StrandDown (x : Strand) : Prop := x.up = false ∧ x.active = 0 ∧ x.parked = 0 ∧ x.retrain = 0

end Sys2Proof.Claims

/-- R337, R340 to R342 and R350: a retry that fails counts, one that succeeds starts the count anew, and the sixteenth failure in
a row is the strand's death. At a tick every window slides, with no errors for a wavelength that carries nothing; one whose window has
risen above 20 retrains and leaves the active set at both ends, unless it is an end's last, which wakes that end's parked ones and
without a parked one goes on; it rejoins within 500 ticks or is retired, at both
ends. A full queue wakes the parked wavelengths, and after 64 boundaries below WAKE they park again. A strand goes down and comes up at
both ends, and then no link is dead whose every hop has a strand that is up. That parking and waking change the own end's set
alone (log 138), which errors a wavelength shows (log 27), and that a retraining is forgotten as its strand goes down (log 147) are
the model's choices. -/
def Sys2Proof.Claims.Strands : Prop :=
  (∀ (n k : Nat) (ok : Bool) (s : State), k < 1024 → (s.strand n k).up = true →
    (ok = true ∨ (s.strand n k).retries < 15 →
      ∃ t, exec (.linkRetry n k ok) s = .next t ∧ OnlyPackages s t ∧ OtherStrands n k s t ∧
        t.strand n k = { s.strand n k with
          bad := (t.strand n k).bad
          retries := if ok then 0 else (s.strand n k).retries + 1 } ∧
        (∀ i, i < 8 → (s.strand n k).active.getLsbD i = false →
          (t.strand n k).bad.toList.getD i 0 = (s.strand n k).bad.toList.getD i 0)) ∧
    (ok = false → 15 ≤ (s.strand n k).retries →
      ∃ t, exec (.linkRetry n k ok) s = .next t ∧ OnlyPackages s t ∧ StrandDown (t.strand n k) ∧
        ((s.strand n k).far < 1024 → StrandDown (t.strand (s.strand n k).peer.toNat (s.strand n k).far)))) ∧
  (∀ (n k w : Nat) (x : Strand) (s : State), (s.pkg n).strands.look k = some x → w < 8 →
    (∃ e, ((tickStrands n s).strand n k).errs.toList.getD w [] = (e :: x.errs.toList.getD w []).take 64 ∧
      (x.active.getLsbD w = false → e = 0)) ∧
    (((tickStrands n s).strand n k).risen.getLsbD w = true ↔
      20 < ((tickStrands n s).strand n k).window w ∧ (x.window w ≤ 20 ∨ x.risen.getLsbD w = true))) ∧
  (∀ (n k w m j : Nat) (s : State), k < 1024 → w < 8 → (s.strand n k).up = true → (s.strand n k).active.getLsbD w = true →
    (s.strand n k).risen.getLsbD w = true → (s.strand n k).peer.toNat = m → (s.strand n k).far = j →
    (waves (s.strand n k).active ≠ [w] → ¬ (j < 1024 ∧ waves (s.strand m j).active = [w]) →
      ∃ t, exec (.wavelengthRetrainStart n k w) s = .next t ∧ t = { s with packages := t.packages } ∧
        (∀ i l, (i, l) ≠ (n, k) → (i, l) ≠ (m, j) → t.strand i l = s.strand i l) ∧
        (t.strand n k).up = true ∧ (t.strand n k).risen.getLsbD w = false ∧ (t.strand n k).errs = (s.strand n k).errs ∧
        (t.strand n k).retrain.getLsbD w = true ∧ (t.strand n k).active.getLsbD w = false ∧
        (t.strand n k).parked.getLsbD w = false ∧ (t.strand n k).retrainT.toList.getD w 0 = s.taper n ∧
        (j < 1024 → (m, j) ≠ (n, k) → (t.strand m j).retrain.getLsbD w = true ∧
          ((s.strand m j).up = true → (t.strand m j).active.getLsbD w = false))) ∧
    (waves (s.strand n k).active = [w] → (s.strand n k).parked ≠ 0 → ¬ (j < 1024 ∧ waves (s.strand m j).active = [w]) →
      ∃ t, exec (.wavelengthRetrainStart n k w) s = .next t ∧ t = { s with packages := t.packages } ∧ OtherStrands n k s t ∧
        (t.strand n k).retrain = (s.strand n k).retrain ∧ (t.strand n k).woken = true ∧ (t.strand n k).parked = 0) ∧
    (j < 1024 → (m, j) ≠ (n, k) → (s.strand m j).up = true → waves (s.strand m j).active = [w] → (s.strand m j).parked ≠ 0 →
      (waves (s.strand n k).active ≠ [w] ∨ (s.strand n k).parked ≠ 0) →
      ∃ t, exec (.wavelengthRetrainStart n k w) s = .next t ∧ t = { s with packages := t.packages } ∧
        (∀ i l, (i, l) ≠ (n, k) → (i, l) ≠ (m, j) → t.strand i l = s.strand i l) ∧
        (t.strand m j).retrain = (s.strand m j).retrain ∧ (t.strand m j).woken = true ∧ (t.strand m j).parked = 0 ∧
        (t.strand n k).retrain = (s.strand n k).retrain ∧
        (waves (s.strand n k).active ≠ [w] → t.strand n k = s.strand n k)) ∧
    (waves (s.strand n k).active = [w] ∧ (s.strand n k).parked = 0 ∨
        j < 1024 ∧ waves (s.strand m j).active = [w] ∧ (s.strand m j).parked = 0 →
      exec (.wavelengthRetrainStart n k w) s = .next s)) ∧
  (∀ (n k w m j : Nat) (ok : Bool) (s : State), k < 1024 → w < 8 → (s.strand n k).retrain.getLsbD w = true →
    (s.strand n k).peer.toNat = m → (s.strand n k).far = j → (m, j) ≠ (n, k) →
    ∃ t, exec (.wavelengthRetrainEnd n k w ok) s = .next t ∧ t = { s with packages := t.packages } ∧
      (∀ i l, (i, l) ≠ (n, k) → (i, l) ≠ (m, j) → t.strand i l = s.strand i l) ∧
      (t.strand n k).retrain.getLsbD w = false ∧ (t.strand n k).errs = (s.strand n k).errs ∧ (j < 1024 → (t.strand m j).retrain.getLsbD w = false) ∧
      (ok = true → s.taper n ≤ (s.strand n k).retrainT.toList.getD w 0 + 500 →
        (t.strand n k).retired = (s.strand n k).retired ∧ (t.strand m j).retired = (s.strand m j).retired) ∧
      (ok = false ∨ (s.strand n k).retrainT.toList.getD w 0 + 500 < s.taper n →
        (t.strand n k).retired.getLsbD w = true ∧ ((s.strand n k).up = true → (t.strand n k).active.getLsbD w = false) ∧
        (j < 1024 → (t.strand m j).retired.getLsbD w = true))) ∧
  (∀ (n k : Nat) (s : State), k < 1024 → (s.strand n k).up = true → (s.strand n k).parked ≠ 0 →
    (s.strand n k).wake.toNat ≤ (s.strand n k).queue →
    ∃ t, exec (.parkedWake n k) s = .next t ∧ t = { s with packages := t.packages } ∧ OtherStrands n k s t ∧
      (t.strand n k).parked = 0 ∧ (t.strand n k).active = ~~~ ((s.strand n k).retired ||| (s.strand n k).retrain) ∧
      (t.strand n k).woken = true ∧ (t.strand n k).below = 0) ∧
  (∀ (n k : Nat) (s : State), k < 1024 → (s.strand n k).woken = true → 64 ≤ (s.strand n k).below →
    ∃ t, exec (.parkAgain n k) s = .next t ∧ t = { s with packages := t.packages } ∧ OtherStrands n k s t ∧
      (t.strand n k).woken = false ∧
      ((s.strand n k).up = true → (s.strand n k).retired = 0 → (s.strand n k).retrain = 0 →
        (waves (t.strand n k).parked).length = min (s.strand n k).park.toNat 7)) ∧
  (∀ (n k : Nat) (s : State), k < 1024 → (s.strand n k).up = true →
    ∃ t, exec (.strandDeath n k) s = .next t ∧ t = { s with packages := t.packages } ∧ StrandDown (t.strand n k) ∧
      ((s.strand n k).far < 1024 → StrandDown (t.strand (s.strand n k).peer.toNat (s.strand n k).far))) ∧
  (∀ (n k p : Nat) (s : State), k < 1024 → p ≠ n → n < 65536 → (s.strand n k).up = false → (s.strand n k).peer.toNat = p →
    (s.strand n k).far < 1024 → s.group.contains p = true → (s.strand n k).retired ≠ BitVec.allOnes 8 →
    (s.pkg n).changing.contains k = false →
    ∃ t, exec (.strandUp n k p) s = .next t ∧ t = { s with packages := t.packages } ∧ (t.strand n k).up = true ∧
      (t.strand p (s.strand n k).far).up = true ∧ (t.strand n k).retired = (s.strand n k).retired ∧
      (t.pkg n).deadLinks.contains p = false ∧ (t.pkg p).deadLinks.contains n = false ∧
      ∀ m q, routeUp t m q = true → (t.pkg m).deadLinks.contains q = false)

namespace Sys2Proof.Claims

/-- An access goes, or has gone, from package `n` to package `p` for a partition. -/
def onWay (s : State) (n p part : Nat) (a : Acc) : Bool :=
  match a.leg s with
  | some l => decide (l.node = n ∧ l.peer = p ∧ l.part = part)
  | none => false

/-- The access waits at the fabric die of its package as the first of its peer and partition, on the way `l`. -/
abbrev FirstToSend (s : State) (k : Nat) (a : Acc) (l : Leg) : Prop :=
  s.acc? k = some a ∧ a.id = k ∧ a.leg s = some l ∧ a.sent = false ∧ a.ofPerformed = false ∧ waitsBefore s a.arrived k l = false

/-- Nothing of package `n` but accesses is on its way to a peer. -/
abbrev OnlyAccesses (s : State) : Prop := s.msgs = [] ∧ s.leaseReqs = [] ∧ s.waits = [] ∧ s.raises = []

end Sys2Proof.Claims

/-- R346 to R348 and R350: the fabric die sends a waiting access or message header, in order of arrival, within its cap,
keeps it while the cap is full or its route, the model's choice where there are several (log 127), is being changed, or refuses
it before phase 3 (log 28), for want of a path, or over a dead link. An
end-to-end acknowledgement brings the answers of what it covers and changes the cap by the sample, which in a dark interval is
not taken. That a request is one flit, which payloads count and that a tick has 100 sampling periods are the model's choices
(logs 74, 128). Link death ends what is on its way with PATH, whose outcome 1 needs that the request was sent. A
reconfiguration drains its circuits, goes dark, and relocks; for each package the relock ends at its next tick boundary, at which
paths without a route lapse, and until then what waited waits on (log 146). That a lost acknowledgement leaves an access performed or
not (log 26), what waits for a change of circuits and that the pod keeps its bounds (log 76), and acknowledgement periods (log 27) are
the model's choices. -/
def Sys2Proof.Claims.Links : Prop :=
  (∀ (k : Nat) (a : Acc) (l : Leg) (s : State), s.acc? k = some a → a.leg s = some l → waitsBefore s a.arrived k l = true →
    exec (.capAdmit k) s = .next s) ∧
  (∀ (k : Nat) (m : Msg) (s : State), s.acc? k = none → s.msg? k = some m → waitsBefore s m.arrived k (m.leg s) = true →
    exec (.capAdmit k) s = .next s) ∧
  (∀ (k : Nat) (a : Acc) (l : Leg) (s : State), FirstToSend s k a l →
    (3 ≤ (s.pkg l.node).phase → pathLive s l.node l.ctx l.peer = true → (s.pkg l.node).deadLinks.contains l.peer = false →
      (crosses s l.node l.peer = true ∨ (s.capOf l).full (a.op.payload a.len) = true → exec (.capAdmit k) s = .next s) ∧
      (crosses s l.node l.peer = false →
        ((s.capOf l).out = 0 ∨ (s.capOf l).out + a.op.payload a.len ≤ (s.capOf l).bytes) → (s.capOf l).flits < 32768 →
        ∃ t, exec (.capAdmit k) s = .next t ∧ t = { s with packages := t.packages, accs := t.accs, threads := t.threads } ∧
          t.acc? k = some { a with sent := true } ∧ (a.held = false → t.threads = s.threads) ∧
          t.capOf l = { s.capOf l with out := (s.capOf l).out + a.op.payload a.len, flits := (s.capOf l).flits + 1 })) ∧
    (∀ pid lane q f, a.agent = .thread pid lane → a.op ≠ .join → (s.th a.tid).pend? pid = some q → q.left = 1 →
      q.refused = [] → q.vector = false → q.void = false → (∃ v, q.val = .g v) →
      (((s.pkg l.node).phase < 3 ∧ f = ⟨.access, a.ea, 0, 2⟩) ∨
        (3 ≤ (s.pkg l.node).phase ∧ pathLive s l.node l.ctx l.peer = false ∧ f = ⟨.lapsed, 0, a.ea, 4⟩) ∨
        (3 ≤ (s.pkg l.node).phase ∧ pathLive s l.node l.ctx l.peer = true ∧
          (s.pkg l.node).deadLinks.contains l.peer = true ∧ f = ⟨.path, a.ea, 0, 0⟩)) →
      ∃ t, exec (.capAdmit k) s = .next t ∧ SameMemory s t ∧ t.acc? k = none ∧
        (t.th a.tid).answers = (s.th a.tid).answers ++ [⟨f, q.word, q.region, pid, q.load, false⟩])) ∧
  (∀ (k : Nat) (m : Msg) (s : State), s.acc? k = none → s.msg? k = some m → m.id = k → m.atFabric s = true →
    waitsBefore s m.arrived k (m.leg s) = false → 3 ≤ (s.pkg m.cmd.tid.core.node).phase →
    (pathLive s m.cmd.tid.core.node m.cmd.ctx m.dest.node = false →
      ∃ t, exec (.capAdmit k) s = .next t ∧ SameMemory s t ∧ t.msg? k = none ∧
        (m.dead = false → Answered m.cmd 0xFF00F03000000000 s t)) ∧
    (pathLive s m.cmd.tid.core.node m.cmd.ctx m.dest.node = true →
      (s.pkg m.cmd.tid.core.node).deadLinks.contains m.dest.node = false → crosses s m.cmd.tid.core.node m.dest.node = false →
      (s.capOf (m.leg s)).full 0 = false →
      ∃ t again, exec (.capAdmit k) s = .next t ∧ t = { s with packages := t.packages, msgs := t.msgs } ∧
        m.phase = .waiting again ∧ t.msg? k = some { m with
          phase := .offered again
          arrived := 0
          firstOffer := if again then m.firstOffer else s.taper m.cmd.tid.core.node })) ∧
  (∀ (n p part rtt : Nat) (c : Cap) (base : Nat) (s : State), s.cap n p part = c → c.flits ≠ 0 → rtt ≠ 0 →
    (s.pkg n).deadLinks.contains p = false → base = ((rtt :: c.samples).take 256).foldl min rtt →
    (∀ a ∈ s.accs, a.ofPerformed = false) →
    ∃ t, exec (.endToEndAck n p part rtt) s = .next t ∧ OnlyPackages s t ∧
      (t.cap n p part).out = ((s.accs.filter fun a => onWay s n p part a && a.sent).map fun a => a.op.payload a.len).sum ∧
      ((s.pkg n).darkNow = true → (t.cap n p part).bytes = c.bytes ∧ (t.cap n p part).samples = c.samples) ∧
      ((s.pkg n).darkNow = false → (t.cap n p part).samples = (rtt :: c.samples).take 256 ∧
        (4 * rtt < 5 * base → (t.cap n p part).bytes = min 4194304 (c.bytes + 4096)) ∧
        (5 * base ≤ 4 * rtt → rtt ≤ 2 * base → (t.cap n p part).bytes = c.bytes) ∧
        (5 * base ≤ 4 * rtt → 2 * base < rtt →
          (c.halvedAt = none ∨ ∃ h, c.halvedAt = some h ∧ h + base ≤ 100 * s.taper n) →
          (t.cap n p part).bytes = max 4096 (c.bytes / 2) ∧ ∃ h, (t.cap n p part).halvedAt = some h ∧ 100 * s.taper n ≤ h) ∧
        (∀ h, c.halvedAt = some h → 5 * base ≤ 4 * rtt → ackNow s n c < h + base → (t.cap n p part).bytes = c.bytes))) ∧
  (∀ (n p part rtt pid lane : Nat) (a : Acc) (x : W64) (pl : Phys) (q : Pending) (d : BitVec 4) (s : State),
    (s.cap n p part).flits ≠ 0 → rtt ≠ 0 → (s.pkg n).deadLinks.contains p = false →
    (s.accs.filter fun a => onWay s n p part a && a.ofPerformed) = [a] →
    a.agent = .performed pid lane (.g x) → a.place = some pl → (s.th a.tid).pend? pid = some q → q.left = 1 →
    q.refused = [] → q.dst = some (.g d) → q.also = none → q.val = .g 0 → d ≠ 0 →
    (∀ w ∈ s.waits, w.tid = a.tid → w.seq ≠ pid) →
    ∃ t u, exec (.endToEndAck n p part rtt) s = .next t ∧ SameMemory s t ∧ exec (.resultFill a.tid pid) t = .next u ∧
      (u.th a.tid).full (.g d) = true ∧ (u.th a.tid).rG d = x) ∧
  (∀ (n p : Nat) (s : State), linkDown s n p = true → (s.pkg n).deadLinks.contains p = false → OnlyAccesses s →
    ((∀ a ∈ s.accs, a.toPeer s n p = false) →
      ∃ t, exec (.linkDeath n p) s = .next t ∧ t = { s with packages := t.packages } ∧
        (t.pkg n).deadLinks.contains p = true) ∧
    (∀ a pid lane q, s.accs.filter (Acc.toPeer s n p) = [a] →
      a.agent = .thread pid lane → a.op ≠ .join → (s.th a.tid).pend? pid = some q → q.left = 1 → q.refused = [] →
      q.vector = false → q.void = false → (∃ v, q.val = .g v) →
      ∃ t o, exec (.linkDeath n p) s = .next t ∧ SameMemory s t ∧ (t.pkg n).deadLinks.contains p = true ∧
        (t.th a.tid).answers = (s.th a.tid).answers ++ [⟨⟨.path, a.ea, 0, o⟩, q.word, q.region, pid, q.load, false⟩] ∧
        (o = 0 ∨ (o = 1 ∧ a.sent = true)))) ∧
  (∀ (fs : List Nat) (s : State), fs ≠ [] → (∀ f ∈ fs, (s.strand (f / 128) (8 * (f % 128))).far < 1024) →
    (s.packages.any fun p => p.2.darkNow) = false →
    ∃ t, exec (.reconfigDrain fs) s = .next t ∧ t = { s with packages := t.packages } ∧
      ∀ f ∈ fs, ∀ i, i < 8 → (t.pkg (f / 128)).changing.contains (8 * (f % 128) + i) = true ∧
        (t.pkg (s.strand (f / 128) (8 * (f % 128) + i)).peer.toNat).changing.contains
          (s.strand (f / 128) (8 * (f % 128) + i)).far = true) ∧
  (∀ (n : Nat) (s : State), (s.pkg n).changing ≠ [] → (s.pkg n).darkNow = false → drainedCircuits s = true →
    ∃ t, exec (.reconfigDark n) s = .next t ∧ t = { s with packages := t.packages } ∧ (t.pkg n).darkNow = true ∧
      (t.pkg n).darkT = s.taper n ∧
      ∀ k ∈ (s.pkg n).changing, StrandDown (t.strand n k) ∧ (t.strand n k).far = (s.strand n k).far) ∧
  (∀ (ps : List (Nat × Nat)) (s : State),
    (s.packages.any fun p => (decide (p.2.changing ≠ []) && !p.2.darkNow) || p.2.relock.isSome) = false → circuitsOk s ps = true →
    ∃ t, exec (.reconfigRelock ps) s = .next t ∧ SameMemory s t ∧ t.dies = s.dies ∧ t.threads = s.threads ∧
      (∀ n m, s.packages.look n ≠ none → s.packages.look m ≠ none → crosses s n m = true → crosses t n m = true) ∧
      (∀ n, (t.pkg n).changing = [] ∧ (t.pkg n).darkNow = false) ∧
      ∀ e ∈ ps, ∀ i, i < 8 →
        (t.strand (e.1 / 128) (e.1 % 128 * 8 + i)).up = true ∧
        (t.strand (e.1 / 128) (e.1 % 128 * 8 + i)).peer.toNat = e.2 / 128 ∧
        (t.strand (e.2 / 128) (e.2 % 128 * 8 + i)).up = true ∧
        (t.strand (e.2 / 128) (e.2 % 128 * 8 + i)).peer.toNat = e.1 / 128) ∧
  (∀ (n : Nat) (l : List Nat) (s : State), (s.pkg n).relock = some l → darkLate s n = false →
    ∃ t, exec (.tickBoundary n) s = .next t ∧ (t.pkg n).relock = none ∧
      (∀ (h : DieId) (i m : Nat), h.node = n → dieOfKey (dieKey h) = h → (s.lease h i).state = .live → (s.lease h i).body = .path m →
        (reach s n m = false → (t.lease h i).state = .smoke ∧ (t.lease h i).since = s.taper n + 1) ∧
        (reach s n m = true → t.lease h i = s.lease h i)) ∧
      ∀ (h : DieId) (i : Nat), dieOfKey (dieKey h) = h → h.node ≠ n ∨ (∀ m, (s.lease h i).body ≠ .path m) →
        t.lease h i = s.lease h i)

namespace Sys2Proof.Claims

/-! ### Steps, fetching, reset and encodings -/

/-- Only thread `tid` changes: all else is as before, memory with it. -/
def OnlyOf (tid : Tid) (s t : State) : Prop :=
  t = { s with threads := t.threads } ∧ ∀ k, k ≠ tidKey tid → t.threads.look k = s.threads.look k

/-- Thread `tid` stands at word `w` of block `b` at offset `a`, its registers as they were, and its checker's CRC begins
anew. -/
def StandsAt (tid : Tid) (a : BitVec 19) (w : Nat) (b : Block) (s t : State) : Prop :=
  OnlyOf tid s t ∧ Thread.sameBut [] (s.th tid) (t.th tid) ∧ (t.th tid).bh = a ∧
    (t.th tid).pc = a + BitVec.ofNat 19 (8 + 4 * w) ∧ (t.th tid).block = some b ∧ (t.th tid).fetch = none ∧
    (t.th tid).crc = 0xFFFFF

/-- Thread `tid` has entered the handler block `b` at `a` with TCAUSE, TPC and TINFO as given (R60, R97). -/
def HandlerAt (tid : Tid) (a : BitVec 19) (b : Block) (cause : Nat) (tpc : W64) (info : Vector W64 4) (s t : State) : Prop :=
  StandsAt tid a 0 b s t ∧ (t.th tid).tcause = BitVec.ofNat 64 cause ∧ (t.th tid).tpc = tpc ∧ (t.th tid).tinfo = info ∧
    (t.th tid).inHandler = true ∧ (t.th tid).deferred = false

/-- What may be deferred (R49, R82, R83, R85): guard, sources with their E bits, and predicate. -/
def deferForm : Instr → Option (Guard × List (RegRef × Bool) × BitVec 4)
  | .cmpeq d a b g | .cmpne d a b g | .cmplt d a b g | .cmple d a b g | .cmpltu d a b g | .cmpleu d a b g | .tstz d a b g
  | .tstnz d a b g => some (g, [(.g a.r, a.e), (.g b.r, b.e)], d)
  | .cmpeqi d a _ g | .cmpnei d a _ g | .cmplti d a _ g | .cmplei d a _ g | .cmpltui d a _ g | .cmpleui d a _ g
  | .cmpgti d a _ g | .cmpgtui d a _ g => some (g, [(.g a.r, a.e)], d)
  | .qand d a b g | .qor d a b g | .qxor d a b g | .qandn d a b g => some (g, [(.q a, false), (.q b, false)], d)
  | _ => none

/-- A source fills: a G register with `x`, a predicate with `x ≠ 0`. -/
def fillSource (r : RegRef) (x : W64) (t : Thread) : Thread :=
  match r with
  | .g r => t.fillG r x
  | .q r => t.fillQ r (decide (x ≠ 0))
  | _ => t

/-- The thread as it would be had a source held that value all along. -/
def holding (r : RegRef) (x : W64) (t : Thread) : Thread :=
  match r with
  | .g r => t.wG r x
  | .q r => t.wQ r (decide (x ≠ 0))
  | _ => t

/-- The predicate `d` is full, with the result that `i` has of the sources in `u`. -/
def Evaluated (i : Instr) (d : BitVec 4) (u t : Thread) : Prop :=
  t.full (.q d) = true ∧ (predicateForm u i).map (fun f => f.2.2.2) = some (t.rQ d)

/-- R49, R84 and R85: a compare, of registers or with an immediate, or a combiner of predicates does not wait for an empty source
with E = 0. It retires with its predicate empty, which fills with the result when the last source fills: the one that is empty,
which may be both, or of two the second, in whichever order they fill. -/
def DeferredPredicate : Prop :=
  ∀ (i : Instr) (g : Guard) (rs : List (RegRef × Bool)) (d : BitVec 4) (s : State), deferForm i = some (g, rs, d) → d ≠ 0 →
    s.me.passes g → s.me.full (.q d) = true → s.me.deferredQ = [] →
    (∀ r ∈ rs, (s.me.full r.1 = true → s.me.bad r.1 = false) ∧ (s.me.full r.1 = false → r.2 = false)) →
    (∃ r ∈ rs, s.me.full r.1 = false) →
    ∃ t, exec i s = .next t ∧ OnlyThread s t ∧ SameMemory s t ∧ Thread.sameBut [.q d] s.me t.me ∧
      t.me.pc = s.me.pc + 4 ∧ t.me.hold = .none ∧ t.me.blocked = none ∧ t.me.full (.q d) = false ∧
      (∀ (r : RegRef) (x : W64), s.me.full r = false → (∀ y ∈ rs, y.1 = r ∨ s.me.full y.1 = true) →
        Evaluated i d (holding r x s.me) (fillSource r x t.me)) ∧
      (∀ (r q : RegRef) (x y : W64), s.me.full r = false → s.me.full q = false → r ≠ q →
        rs.map (·.1) = [r, q] ∨ rs.map (·.1) = [q, r] →
        (fillSource r x t.me).full (.q d) = false ∧
        Evaluated i d (holding q y (holding r x s.me)) (fillSource q y (fillSource r x t.me)))

end Sys2Proof.Claims

/-- R44, R104, R132, R194, R284, R385 and Tables 2-1, 2-8: after module reset every byte of memory that exists reads 0, every
scratchpad word is full and no unit is poisoned; the taper of every package is 0 and no core runs; XB is 0x8_0000, TFRB
0x7_EC00 and L 15 on every core; every tile element is +0 and every weight bank INVALID; PART is 0 and PVC 0xFFFF; every
register of a thread is full, with the values of Table 2-1. The zeros of B-stacks and HBM, the thread-start values of slots
that have not started, and GEN are the model's choices (log 4, 5, 6). -/
def Obligations.ResetState : Prop :=
  State.reset.canonical ∧ (∀ k, State.reset.byteAt k = 0) ∧ State.reset.empties = [] ∧ State.reset.poisoned = [] ∧
    (∀ n, State.reset.taper n = 0 ∧ (State.reset.pkg n).phase = 0 ∧ (State.reset.pkg n).grids = []) ∧
    (∀ c, (State.reset.core c).xb = 0x80000 ∧ (State.reset.core c).tfrb = 0x7EC00 ∧ (State.reset.core c).ovh = 0 ∧
      (State.reset.core c).last = 15 ∧ (State.reset.core c).halted = false ∧ (State.reset.core c).inbox = []) ∧
    (∀ x, (∀ i : Fin 4, (State.reset.slice x).tiles[i] = ⟨[], false, false, false, false⟩) ∧
      (State.reset.slice x).active.valid = false ∧ (State.reset.slice x).shadow.valid = false ∧
      (State.reset.slice x).cpair = none) ∧
    (∀ h, (State.reset.die h).part = 0 ∧ (State.reset.die h).pvc = 0xFFFF) ∧
    (∀ tid, (State.reset.th tid).life = .free ∧ (∀ r, (State.reset.th tid).full (.g r) = true ∧
        (State.reset.th tid).rG r = 0) ∧
      (∀ r, (State.reset.th tid).full (.q r) = true ∧ (State.reset.th tid).rQ r = decide (r = 0)) ∧
      (∀ r, (State.reset.th tid).full (.m r) = true ∧ (State.reset.th tid).rM r = BitVec.allOnes 64) ∧
      (∀ r, (State.reset.th tid).full (.v r) = true ∧ (State.reset.th tid).rV r = Lanes.zero) ∧
      (State.reset.th tid).eto = 0xF4240 ∧ (State.reset.th tid).lavg = 64 ∧ (State.reset.th tid).ccnt = 1 ∧
      (State.reset.th tid).inHandler = false) ∧
    ∀ c late, choose State.reset c late = .nothing

/-- How a step runs (log 1; R69, R106, R132, R140, R155, R350): a lapse that is due, or the death of a link, comes first; then what a
bound in ticks forces, but for events of the boundary's own cycle (log 39); then a core's own fork record, where a slot is free
for it, and a team that a core can place (log 142), but for a turn that makes such a choice itself (log 14); then the schedule's next turn. A core's turn runs exactly the instruction that the
block copy at PC decodes to, as `exec` does it for the slot that R132 chose; where that word does not issue, L stays as it was and
the turn is still to come; a word that decodes to none traps; an event is `exec` of its row. -/
def Sys2Proof.Claims.StepRuns : Prop :=
  (∀ (s : State) (e : Act), dueEvent s = some e → step s = e s) ∧
  (∀ (s : State) (c : CoreId) (late : List Nat) (rest : List Turn) (u : State), dueEvent s = none → dueAnywhere s = none → dueSlots s = none →
    s.sched = .issue c late :: rest → u = { s with sched := rest } → c.wf = true →
    (∀ tid i t, choose u c late = .word tid → fetchInstr (s.th tid) = some i → exec i (select tid u) = .next t →
      (stayed tid u t = false → step s = .next t) ∧
      (stayed tid u t = true → ∃ v, step s = .next { v with sched := .issue c late :: t.sched } ∧
        v = t.modCore tid.core fun k => { k with last := (s.core tid.core).last })) ∧
    (∀ tid, choose u c late = .word tid → fetchInstr (s.th tid) = none → stayed tid u (illegalWord (select tid u)) = false →
      step s = .next (illegalWord (select tid u))) ∧
    (∀ tid, choose u c late = .upkeep tid → step s = .next (upkeep tid u)) ∧
    (choose u c late = .nothing → step s = .next u)) ∧
  (∀ (s : State) (e : Instr) (rest : List Turn), dueEvent s = none → s.sched = .event e :: rest →
    inBoundaryCycle e = true ∨ (dueAnywhere s = none ∧
      (dueSlots s = none ∨ (∃ c stk, e = .forkRecordStart c stk) ∨
        (dueFork s = none ∧ ((∃ c i x, e = .teamPlace c i x) ∨ ∃ c n, e = .resumePlace c n)))) →
    step s = exec e { s with sched := rest }) ∧
  (∀ (s : State) (d : Device) (rest : List Turn), dueEvent s = none → s.sched = .device d :: rest → dueAnywhere s = none → dueSlots s = none →
    step s = device d { s with sched := rest }) ∧
  (∀ (s : State) (a : Act), dueEvent s = none → dueAnywhere s = some a →
    (∀ e rest, s.sched = .event e :: rest → inBoundaryCycle e = false) → step s = a s) ∧
  (∀ (s : State) (a : Act), dueEvent s = none → dueAnywhere s = none → dueFork s = some a →
    (∀ e rest, s.sched = .event e :: rest → inBoundaryCycle e = false ∧ ∀ c stk, e ≠ .forkRecordStart c stk) → step s = a s) ∧
  (∀ (s : State) (a : Act), dueEvent s = none → dueAnywhere s = none → dueFork s = none → dueTeam s = some a →
    (∀ e rest, s.sched = .event e :: rest → inBoundaryCycle e = false ∧ (∀ c stk, e ≠ .forkRecordStart c stk) ∧
      (∀ c i x, e ≠ .teamPlace c i x) ∧ ∀ c n, e ≠ .resumePlace c n) → step s = a s) ∧
  (∀ (s : State), dueEvent s = none → dueAnywhere s = none → dueSlots s = none → s.sched = [] →
    step s = autoStep (fun c => coreCycle c [] id) s) ∧
  (∀ (t : Thread) (b : Block) (i : Instr), t.block = some b →
    decode t.curWord (b.words.getD (t.wordIx + 1) 0) = .ok i →
    (isWide t.curWord = true → t.wordIx + 1 < t.blockLen) → (Instr.isControl i = true → t.wordIx + 1 = t.blockLen) →
    fetchInstr t = some i)

/-- R132: among the slots of a core that are ready the one that issues is the first after L, the slot that issued last, in
cyclic order of slot numbers; with none ready nothing issues. -/
def Sys2Proof.Claims.RoundRobin : Prop :=
  ∀ (s : State) (c : CoreId),
    (∀ j, j < 16 → (∀ i, i < j → ready s ⟨c, ((s.core c).last.toNat + 1 + i) % 16⟩ = false) →
      ready s ⟨c, ((s.core c).last.toNat + 1 + j) % 16⟩ = true →
      (∀ k, k < 16 → ready s ⟨c, k⟩ = true → upkeepDue s ⟨c, k⟩ = false) →
      choose s c [] = .word ⟨c, ((s.core c).last.toNat + 1 + j) % 16⟩ ∧
      ((select ⟨c, ((s.core c).last.toNat + 1 + j) % 16⟩ s).core c).last.toNat = ((s.core c).last.toNat + 1 + j) % 16) ∧
    ((∀ k, k < 16 → ready s ⟨c, k⟩ = false) → choose s c [] = .nothing)

namespace Sys2Proof.Claims

/-- What R54 asks of the header that a fetch reads: [63:62], LEN, bit 0 of LIVE, and KIND by the way it was reached. A block that a saved
thread goes on in was reached before (R323). -/
def GoodHeader (via : Via) (h : W64) : Prop :=
  h.extractLsb' 62 2 = 0b10#2 ∧ h.extractLsb' 0 7 ≠ 0#7 ∧ h.getLsbD 7 = false ∧
  match via with
  | .trapEntry => h.extractLsb' 60 2 = 0b01#2
  | .overlayEntry => h.extractLsb' 60 2 = 0b10#2
  | .transfer _ | .resume _ _ => h.extractLsb' 60 2 = 0b00#2
  | .saved _ _ => h.extractLsb' 60 2 ≠ 0b11#2

end Sys2Proof.Claims

/-- R53, R54, R57, R58 and R60: what a fetch finds. At or above XB it is an overlay entry; a header in a poisoned unit is poison; a
header below XB that fails R54 is bad, also where its block would reach beyond XB (which of the two comes first there is log 17's
reading); a good one whose block reaches beyond XB is an overlay entry; else its block holds LEN words from the bytes behind it, and is
compared where CK is set, or, with a unit of it poisoned, is poison, at the first byte that lies in such a unit (log 158). -/
def Sys2Proof.Claims.HeaderChecks : Prop :=
  ∀ (s : State) (c : CoreId) (a : W64) (via : Via) (h : W64) (n : Nat),
    h = BitVec.ofNat 64 (s.peek (scratchAt c a.toNat) 8) → n = (h.extractLsb' 0 7).toNat →
    ((s.core c).xb.toNat ≤ a.toNat → fetchAt s c a via = .overlay) ∧
    (a.toNat < (s.core c).xb.toNat → s.isPoisoned (scratchAt c a.toNat) = true → fetchAt s c a via = .poison (scratchAt c a.toNat)) ∧
    (a.toNat < (s.core c).xb.toNat → s.isPoisoned (scratchAt c a.toNat) = false →
      (¬ GoodHeader via h → fetchAt s c a via = .bad h) ∧
      (GoodHeader via h → (s.core c).xb.toNat < a.toNat + 8 + 4 * n → fetchAt s c a via = .overlay) ∧
      (GoodHeader via h → a.toNat + 8 + 4 * n ≤ (s.core c).xb.toNat →
        ((∀ k, k < 8 + 4 * n → s.isPoisoned (scratchAt c (a.toNat + k)) = false) →
          ∃ b, fetchAt s c a via = .block b ∧ b.hdr = h ∧ b.compare = h.getLsbD 59 ∧ b.words.length = n ∧
            ∀ k, k < n → b.words[k]? = some (BitVec.ofNat 32 (s.peek (scratchAt c (a.toNat + 8 + 4 * k)) 4))) ∧
        (∀ k, k < 8 + 4 * n → s.isPoisoned (scratchAt c (a.toNat + k)) = true →
          (∀ j, j < k → s.isPoisoned (scratchAt c (a.toNat + j)) = false) →
          fetchAt s c a via = .poison (scratchAt c (a.toNat + k)))))

/-- R53, R54, R58, R60 and R97, for a header fetch that a transfer or a block's end has asked for: a good header below XB is
entered; one at or above XB enters the overlay handler; a bad one traps with HEADER. -/
def Sys2Proof.Claims.HeaderFetch : Prop :=
  ∀ (tid : Tid) (s : State), (s.th tid).faultDue = false →
    (∀ f, (s.th tid).fetch = some f →
      (∀ b k, f.via = .transfer k → fetchAt s tid.core f.target f.via = .block b →
        StandsAt tid (f.target.setWidth 19) 0 b s (upkeep tid s)) ∧
      (∀ b w cmp, f.via = .resume w cmp ∨ f.via = .saved w cmp → fetchAt s tid.core f.target f.via = .block b →
        StandsAt tid (f.target.setWidth 19) w { b with compare := b.compare && cmp } s (upkeep tid s)) ∧
      (∀ b k, f.via = .transfer k →
        ((s.core tid.core).xb.toNat ≤ f.target.toNat ∨ fetchAt s tid.core f.target f.via = .overlay) →
        (s.th tid).inHandler = false →
        fetchAt s tid.core ((s.core tid.core).ovh.setWidth 64) .overlayEntry = .block b →
        HandlerAt tid (s.core tid.core).ovh b 0 f.target
          #v[f.target, f.src, BitVec.ofNat 64 k, (s.th tid).tinfo[3]] s (upkeep tid s)) ∧
      (∀ b h k, f.via = .transfer k → fetchAt s tid.core f.target f.via = .bad h → (s.th tid).inHandler = false →
        fetchAt s tid.core ((s.th tid).tvb.setWidth 64) .trapEntry = .block b →
        HandlerAt tid (s.th tid).tvb b 2 f.target #v[h, f.src, BitVec.ofNat 64 k, f.target] s (upkeep tid s))) ∧
    (∀ b, (s.th tid).fetch = none → (s.th tid).mismatch = false → (s.th tid).pjoin = none →
      fetchAt s tid.core (BitVec.ofNat 64 (s.th tid).nh) (.transfer 0) = .block b →
      StandsAt tid (BitVec.ofNat 19 (s.th tid).nh) 0 b s (upkeep tid s))

/-- R56, R316 and R318: a block whose CRC differs from its SIG restarts its region, once; generators return to the region's
checkpoint, RSTC counts, and the region's first block is fetched again; a second mismatch of the region traps with CHECK. -/
def Sys2Proof.Claims.CheckedBlock : Prop :=
  ∀ (tid : Tid) (s : State), (s.th tid).faultDue = false → (s.th tid).fetch = none → (s.th tid).mismatch = true →
    (s.th tid).inHandler = false → (s.th tid).rword = 0 →
    ((s.th tid).ckr = false → (s.th tid).restarts ≠ 2 →
      SameMemory s (upkeep tid s) ∧ Thread.sameBut [] (s.th tid) ((upkeep tid s).th tid) ∧
      ((upkeep tid s).th tid).restarts = (s.th tid).restarts + 1 ∧ ((upkeep tid s).th tid).ckr = true ∧
      ((upkeep tid s).th tid).gen = (s.th tid).genCk ∧ ((upkeep tid s).th tid).prog = 0 ∧
      ((upkeep tid s).th tid).block = none ∧
      ((upkeep tid s).th tid).fetch =
        some ⟨(s.th tid).rhdr.setWidth 64, .resume 0 true, (s.th tid).bh.setWidth 64⟩) ∧
    (∀ b h, (s.th tid).ckr = true → (s.th tid).block = some h →
      fetchAt s tid.core ((s.th tid).tvb.setWidth 64) .trapEntry = .block b →
      HandlerAt tid (s.th tid).tvb b 12 (BitVec.ofNat 64 ((s.th tid).bh.toNat + 4 + 4 * (s.th tid).blockLen))
        #v[BitVec.ofNat 64 (hdrSig h.hdr), (s.th tid).ckCrc.setWidth 64 ||| ((s.th tid).crc.setWidth 64 <<< 32),
          (s.th tid).ckHdr.setWidth 64, (s.th tid).bh.setWidth 64] s (upkeep tid s))

/-- R55, R69 step 1 and R97: a word that is no instruction traps with ILLEGAL, with the word in TINFO0 and, for one of two
words, the second in TINFO1, where the block holds it (else 0: log 94). -/
def Sys2Proof.Claims.IllegalWords : Prop :=
  ∀ (s : State) (b blk : Block), s.me.block = some blk → CanTrap s b →
    Trapped ⟨.illegal, s.me.curWord.setWidth 64,
      if isWide s.me.curWord then (blk.words.getD (s.me.wordIx + 1) 0).setWidth 64 else 0, 0⟩
      (s.me.pc.setWidth 64) b s (illegalWord s)

/-- R377: the request port of a core puts the 16 lanes of a trap handler's VST into the core's inbox as a record of KIND 1
with the requesting slot, over what the handler wrote in those bits; a full inbox holds the store. -/
def Sys2Proof.Claims.RequestPort : Prop :=
  ∀ (k : Nat) (a : Acc) (pid n : Nat) (ws : List W32) (p : Phys) (s : State), s.acc? k = some a →
    a.agent = .thread pid n → a.op = .port ws → a.place = some p → mayAccept s a p = true → NeedsAnswer s a.tid pid →
    ((s.core a.tid.core).inbox.length < 32 →
      ∃ (t : State) (r : List W64), exec (.sysRequestPortWrite k) s = .next t ∧ SameMemory s t ∧
        (t.core a.tid.core).inbox = (s.core a.tid.core).inbox ++ [r] ∧ r.length = 8 ∧
        (∀ i, i < 8 → i ≠ 3 → r.getD i (0 : W64) = (ws.getD (2 * i + 1) 0 ++ ws.getD (2 * i) 0 : BitVec (32 + 32))) ∧
        r.getD 3 (0 : W64) =
          (BitVec.ofNat 8 (16 + a.tid.slot % 16) ++ (ws.getD 7 0).setWidth 24 ++ ws.getD 6 0 : BitVec (8 + 24 + 32)) ∧
        (t.th a.tid).pend? pid = none) ∧
    (32 ≤ (s.core a.tid.core).inbox.length → exec (.sysRequestPortWrite k) s = .next s)

/-- Tables 2-4, 2-5, 2-7a and 10-1: what some words written out from the encoding tables stand for. -/
def Obligations.DecodeWords : Prop :=
  decode 0x048218A0 0 = .ok (.div 4 ⟨false, 2⟩ ⟨false, 3⟩ ⟨false, 0⟩) ∧
  decode 0x10432160 0 = .ok (.extu 2 ⟨false, 3⟩ 8 11 ⟨false, 0⟩) ∧
  decode 0x4043FB40 0 = .ok (.cmplti 2 ⟨false, 3⟩ 0xFB ⟨false, 0⟩) ∧
  decode 0x048218BF 0 = .ok (.div 4 ⟨false, 2⟩ ⟨false, 3⟩ ⟨true, 15⟩) ∧
  decode 0x048218B0 0 = .error .illFormed

/-- R68, R69 and Tables 2-4, 2-5 and 2-7a: no bit of an encoding is dropped: an instruction within its fields' limits is what its words
decode to, whatever stands behind the one word of a short one. -/
def Obligations.EncodeDecode : Prop :=
  ∀ (i : Instr) (w : W32) (w1 : Option W32) (x : W32), i.wf = true → encode i = some (w, w1) →
    decode w (w1.getD x) = .ok i

/-- R68 and R69: the fields decide the word: an instruction that a word stands for obeys the limits of step 1 of R69, and its words
are that word and, for the wide majors, the word behind it. -/
def Obligations.DecodeEncode : Prop :=
  ∀ (i : Instr) (w w1 : W32), decode w w1 = .ok i →
    i.wf = true ∧ encode i = some (w, if isWide w then some w1 else none)

/-- Whatever step the machine takes, of an instruction or of any agent, memory, tags and poison marks keep their canonical
form: equal memories are equal data. -/
def Obligations.StepKeepsCanonical : Prop :=
  ∀ s t : State, s.canonical → step s = .next t → t.canonical

/-- Counting, reversing, extracting and inserting bits of one register (`Claims.BitCounts`, `Claims.BitFields`). -/
def Obligations.BitOperations : Prop := Claims.BitCounts ∧ Claims.BitFields

/-- Quotients and remainders of every pair of operands, the edges among them; to G0 they go nowhere. The rule's word is
DIV G4, G2, G3 (`Claims.Division`, `Claims.DivisionToG0`). -/
def Obligations.DivisionAndRemainder : Prop := Claims.Division ∧ Claims.DivisionToG0 ∧
  decode 0x048218A0 0 = .ok (.div 4 ⟨false, 2⟩ ⟨false, 3⟩ ⟨false, 0⟩)

/-- What an instruction of two sources does about empty and poisoned operands (`Claims.EmptyOperands`,
`Claims.PoisonedSource`). -/
def Obligations.OperandTraps : Prop := Claims.EmptyOperands ∧ Claims.PoisonedSource

/-- Compares and combiners write their predicate at once, or when the last source fills (`Claims.PredicateResults`,
`Claims.DeferredPredicate`). -/
def Obligations.Predicates : Prop := Claims.PredicateResults ∧ Claims.DeferredPredicate

/-- A trap that enters no handler stops its thread, and a supervisor's instruction in a user slot traps
(`Claims.DoubleEntry`, `Claims.Privilege`). -/
def Obligations.DoubleEntriesAndPrivilege : Prop := Claims.DoubleEntry ∧ Claims.Privilege

/-- Transfers, their links, and EXIT (`Claims.DisplacementTransfers`, `Claims.RegisterTransfers`, `Claims.ThreadExit`). -/
def Obligations.Transfers : Prop := Claims.DisplacementTransfers ∧ Claims.RegisterTransfers ∧ Claims.ThreadExit

/-- SRD and SWR of every register (`Claims.SystemReads`, `Claims.SystemWrites`). -/
def Obligations.SystemRegisters : Prop := Claims.SystemReads ∧ Claims.SystemWrites

/-- Register writes on their way take effect (`Claims.RegisterWriteEffect`, `Claims.WiderWriteEffects`). -/
def Obligations.RegisterWrites : Prop := Claims.RegisterWriteEffect ∧ Claims.WiderWriteEffects

/-- Scalar memory instructions issue their access (`Claims.MemoryIssue`, `Claims.FlaggedStoreIssue`). -/
def Obligations.ScalarMemoryIssue : Prop := Claims.MemoryIssue ∧ Claims.FlaggedStoreIssue

/-- What the memory and fork instructions trap on at issue (`Claims.MemoryIssueTraps`, `Claims.ForkTraps`). -/
def Obligations.IssueTraps : Prop := Claims.MemoryIssueTraps ∧ Claims.ForkTraps

/-- What an accepted access of a scalar instruction does at its home, and to the waits on its word
(`Claims.LoadAcceptance`, `Claims.StoreAcceptance`, `Claims.WaiterService`). -/
def Obligations.ScalarAcceptance : Prop := Claims.LoadAcceptance ∧ Claims.StoreAcceptance ∧ Claims.WaiterService

/-- Register reads, refused accesses and the request port (`Claims.RegisterReadAndRefusal`, `Claims.RequestPort`). -/
def Obligations.OtherAcceptance : Prop := Claims.RegisterReadAndRefusal ∧ Claims.RequestPort

/-- FENCE, FENCESC and TLBI (`Claims.Fences`, `Claims.TranslationInvalidation`, `Claims.InvalidationReach`). -/
def Obligations.FencesAndInvalidation : Prop := Claims.Fences ∧ Claims.TranslationInvalidation ∧ Claims.InvalidationReach

/-- Waits as their deciding places accept them (`Claims.WordWaitAcceptance`, `Claims.OtherWaitAcceptance`). -/
def Obligations.WaitAcceptance : Prop := Claims.WordWaitAcceptance ∧ Claims.OtherWaitAcceptance

/-- Locks, and how queued waits end (`Claims.LockAcceptance`, `Claims.WaitEndings`). -/
def Obligations.LocksAndWaitEndings : Prop := Claims.LockAcceptance ∧ Claims.WaitEndings

/-- How a home answers lease requests, and the items of LINFO (`Claims.LeaseGrant`, `Claims.LeaseRefusals`,
`Claims.LeaseItems`). -/
def Obligations.LeaseAnswers : Prop := Claims.LeaseGrant ∧ Claims.LeaseRefusals ∧ Claims.LeaseItems

/-- Handles and the lapse of leases (`Claims.LeaseHandles`, `Claims.LeaseLapse`). -/
def Obligations.LeasesInTime : Prop := Claims.LeaseHandles ∧ Claims.LeaseLapse

/-- FORK, JINIT, JOIN and the join's outcome (`Claims.ForkAndJoin`, `Claims.JoinOutcome`). -/
def Obligations.ForksAndJoins : Prop := Claims.ForkAndJoin ∧ Claims.JoinOutcome

/-- The bound on empty registers, and restarts of a region (`Claims.EmptyTimeout`, `Claims.RegionRestart`,
`Claims.CheckedBlock`). -/
def Obligations.Restarts : Prop := Claims.EmptyTimeout ∧ Claims.RegionRestart ∧ Claims.CheckedBlock

/-- Deferred faults, stopped threads and their records (`Claims.DeferredDelivery`, `Claims.ThreadRecords`). -/
def Obligations.FaultDelivery : Prop := Claims.DeferredDelivery ∧ Claims.ThreadRecords

/-- Flag raises of flagged stores, and failures of memory banks (`Claims.FlagRaises`, `Claims.MemoryRepair`). -/
def Obligations.FlagsAndRepair : Prop := Claims.FlagRaises ∧ Claims.MemoryRepair

/-- The walker, fault records and the service core's replies (`Claims.TranslationSteps`, `Claims.FaultReplies`). -/
def Obligations.Translation : Prop := Claims.TranslationSteps ∧ Claims.FaultReplies

/-- Teams placed and ended, fork records started (`Claims.TeamPlacement`, `Claims.ForkStartAndTeamEnd`). -/
def Obligations.TeamLife : Prop := Claims.TeamPlacement ∧ Claims.ForkStartAndTeamEnd

/-- What lane operations compute (`Claims.IntegerLanes`, `Claims.FloatSums`). -/
def Obligations.ElementwiseLanes : Prop := Claims.IntegerLanes ∧ Claims.FloatSums

/-- Vector instructions with late results, lane insertion, extraction and conversion (`Claims.LateVectorResults`,
`Claims.LaneInsertAndExtract`, `Claims.ConvertedLanes`). -/
def Obligations.SlowVectorResults : Prop := Claims.LateVectorResults ∧ Claims.LaneInsertAndExtract ∧ Claims.ConvertedLanes

/-- Reductions and scans (`Claims.IntegerReductions`, `Claims.ReductionsByTree`, `Claims.ReductionTree`). -/
def Obligations.Reductions : Prop := Claims.IntegerReductions ∧ Claims.ReductionsByTree ∧ Claims.ReductionTree

/-- Vector memory instructions issue the accesses of their lanes, or trap at issue (`Claims.VectorMemoryIssue`,
`Claims.FlaggedVectorStore`, `Claims.VectorIssueTraps`). -/
def Obligations.VectorMemoryIssues : Prop := Claims.VectorMemoryIssue ∧ Claims.FlaggedVectorStore ∧ Claims.VectorIssueTraps

/-- The accesses of lanes at their homes (`Claims.UnitsOfLanes`, `Claims.VectorAcceptance`). -/
def Obligations.VectorMemoryAcceptance : Prop := Claims.UnitsOfLanes ∧ Claims.VectorAcceptance

/-- The copy unit and its chain channels (`Claims.CopyUnit`, `Claims.ChainChannels`). -/
def Obligations.CopyEngine : Prop := Claims.CopyUnit ∧ Claims.ChainChannels

/-- Message commands start, and messages are decided (`Claims.MessageCommands`, `Claims.MessageDecision`). -/
def Obligations.Messages : Prop := Claims.MessageCommands ∧ Claims.MessageDecision

/-- What a pre-emption answers or chooses, how it begins and completes (`Claims.PreemptStarts`,
`Claims.PreemptCompletes`, `Claims.PreemptChoice`). -/
def Obligations.PreemptionSteps : Prop := Claims.PreemptStarts ∧ Claims.PreemptCompletes ∧ Claims.PreemptChoice

/-- The host's writes and reads, and its records (`Claims.HostPort`, `Claims.HostRecords`). -/
def Obligations.HostInterface : Prop := Claims.HostPort ∧ Claims.HostRecords

/-- Strands, wavelengths, caps, links and circuits (`Claims.Strands`, `Claims.Links`). -/
def Obligations.FabricDie : Prop := Claims.Strands ∧ Claims.Links

/-- Header fetches and words that are no instruction (`Claims.HeaderChecks`, `Claims.HeaderFetch`,
`Claims.IllegalWords`). -/
def Obligations.FetchAndIllegalWords : Prop := Claims.HeaderChecks ∧ Claims.HeaderFetch ∧ Claims.IllegalWords

/-- Sums of products, and the rows that accumulate into tiles (`Claims.MatrixSums`, `Claims.MatrixRows`). -/
def Obligations.MatrixSumsAndRows : Prop := Claims.MatrixSums ∧ Claims.MatrixRows

/-- A step runs the decoded instruction of the slot that round robin chooses (`Claims.StepRuns`, `Claims.RoundRobin`). -/
def Obligations.StepsAndIssue : Prop := Claims.StepRuns ∧ Claims.RoundRobin
end

