-- ==== Sys2Proof/Laws/State.lean ====
section
/-!
SUPPORT. The laws of the state's updates: each update of one field leaves every other field as it was.
-/

namespace Sys2Proof.Machine

/-! ### `State.setTh` changes `threads` alone -/

section
variable (s : State) (t : Tid) (x : Thread)
@[simp] theorem State.setTh_cur : (s.setTh t x).cur = s.cur := rfl
@[simp] theorem State.setTh_sched : (s.setTh t x).sched = s.sched := rfl
@[simp] theorem State.setTh_ownCycles : (s.setTh t x).ownCycles = s.ownCycles := rfl
@[simp] theorem State.setTh_ownTicks : (s.setTh t x).ownTicks = s.ownTicks := rfl
@[simp] theorem State.setTh_nextId : (s.setTh t x).nextId = s.nextId := rfl
@[simp] theorem State.setTh_group : (s.setTh t x).group = s.group := rfl
@[simp] theorem State.setTh_cores : (s.setTh t x).cores = s.cores := rfl
@[simp] theorem State.setTh_slices : (s.setTh t x).slices = s.slices := rfl
@[simp] theorem State.setTh_clusters : (s.setTh t x).clusters = s.clusters := rfl
@[simp] theorem State.setTh_dies : (s.setTh t x).dies = s.dies := rfl
@[simp] theorem State.setTh_packages : (s.setTh t x).packages = s.packages := rfl
@[simp] theorem State.setTh_mem : (s.setTh t x).mem = s.mem := rfl
@[simp] theorem State.setTh_empties : (s.setTh t x).empties = s.empties := rfl
@[simp] theorem State.setTh_poisoned : (s.setTh t x).poisoned = s.poisoned := rfl
@[simp] theorem State.setTh_sysMem : (s.setTh t x).sysMem = s.sysMem := rfl
@[simp] theorem State.setTh_service : (s.setTh t x).service = s.service := rfl
@[simp] theorem State.setTh_accs : (s.setTh t x).accs = s.accs := rfl
@[simp] theorem State.setTh_fences : (s.setTh t x).fences = s.fences := rfl
@[simp] theorem State.setTh_waits : (s.setTh t x).waits = s.waits := rfl
@[simp] theorem State.setTh_leaseReqs : (s.setTh t x).leaseReqs = s.leaseReqs := rfl
@[simp] theorem State.setTh_regWrites : (s.setTh t x).regWrites = s.regWrites := rfl
@[simp] theorem State.setTh_jobs : (s.setTh t x).jobs = s.jobs := rfl
@[simp] theorem State.setTh_msgs : (s.setTh t x).msgs = s.msgs := rfl
@[simp] theorem State.setTh_raises : (s.setTh t x).raises = s.raises := rfl
@[simp] theorem State.setTh_tlbis : (s.setTh t x).tlbis = s.tlbis := rfl
@[simp] theorem State.setTh_preempts : (s.setTh t x).preempts = s.preempts := rfl
@[simp] theorem State.setTh_reports : (s.setTh t x).reports = s.reports := rfl
@[simp] theorem State.setTh_notices : (s.setTh t x).notices = s.notices := rfl
end

/-! ### `State.modTh` changes `threads` alone -/

section
variable (s : State) (t : Tid) (f : Thread → Thread)
@[simp] theorem State.modTh_cur : (s.modTh t f).cur = s.cur := rfl
@[simp] theorem State.modTh_sched : (s.modTh t f).sched = s.sched := rfl
@[simp] theorem State.modTh_ownCycles : (s.modTh t f).ownCycles = s.ownCycles := rfl
@[simp] theorem State.modTh_ownTicks : (s.modTh t f).ownTicks = s.ownTicks := rfl
@[simp] theorem State.modTh_nextId : (s.modTh t f).nextId = s.nextId := rfl
@[simp] theorem State.modTh_group : (s.modTh t f).group = s.group := rfl
@[simp] theorem State.modTh_cores : (s.modTh t f).cores = s.cores := rfl
@[simp] theorem State.modTh_slices : (s.modTh t f).slices = s.slices := rfl
@[simp] theorem State.modTh_clusters : (s.modTh t f).clusters = s.clusters := rfl
@[simp] theorem State.modTh_dies : (s.modTh t f).dies = s.dies := rfl
@[simp] theorem State.modTh_packages : (s.modTh t f).packages = s.packages := rfl
@[simp] theorem State.modTh_mem : (s.modTh t f).mem = s.mem := rfl
@[simp] theorem State.modTh_empties : (s.modTh t f).empties = s.empties := rfl
@[simp] theorem State.modTh_poisoned : (s.modTh t f).poisoned = s.poisoned := rfl
@[simp] theorem State.modTh_sysMem : (s.modTh t f).sysMem = s.sysMem := rfl
@[simp] theorem State.modTh_service : (s.modTh t f).service = s.service := rfl
@[simp] theorem State.modTh_accs : (s.modTh t f).accs = s.accs := rfl
@[simp] theorem State.modTh_fences : (s.modTh t f).fences = s.fences := rfl
@[simp] theorem State.modTh_waits : (s.modTh t f).waits = s.waits := rfl
@[simp] theorem State.modTh_leaseReqs : (s.modTh t f).leaseReqs = s.leaseReqs := rfl
@[simp] theorem State.modTh_regWrites : (s.modTh t f).regWrites = s.regWrites := rfl
@[simp] theorem State.modTh_jobs : (s.modTh t f).jobs = s.jobs := rfl
@[simp] theorem State.modTh_msgs : (s.modTh t f).msgs = s.msgs := rfl
@[simp] theorem State.modTh_raises : (s.modTh t f).raises = s.raises := rfl
@[simp] theorem State.modTh_tlbis : (s.modTh t f).tlbis = s.tlbis := rfl
@[simp] theorem State.modTh_preempts : (s.modTh t f).preempts = s.preempts := rfl
@[simp] theorem State.modTh_reports : (s.modTh t f).reports = s.reports := rfl
@[simp] theorem State.modTh_notices : (s.modTh t f).notices = s.notices := rfl
end

/-! ### `State.modMe` changes `threads` alone -/

section
variable (s : State) (f : Thread → Thread)
@[simp] theorem State.modMe_cur : (s.modMe f).cur = s.cur := rfl
@[simp] theorem State.modMe_sched : (s.modMe f).sched = s.sched := rfl
@[simp] theorem State.modMe_ownCycles : (s.modMe f).ownCycles = s.ownCycles := rfl
@[simp] theorem State.modMe_ownTicks : (s.modMe f).ownTicks = s.ownTicks := rfl
@[simp] theorem State.modMe_nextId : (s.modMe f).nextId = s.nextId := rfl
@[simp] theorem State.modMe_group : (s.modMe f).group = s.group := rfl
@[simp] theorem State.modMe_cores : (s.modMe f).cores = s.cores := rfl
@[simp] theorem State.modMe_slices : (s.modMe f).slices = s.slices := rfl
@[simp] theorem State.modMe_clusters : (s.modMe f).clusters = s.clusters := rfl
@[simp] theorem State.modMe_dies : (s.modMe f).dies = s.dies := rfl
@[simp] theorem State.modMe_packages : (s.modMe f).packages = s.packages := rfl
@[simp] theorem State.modMe_mem : (s.modMe f).mem = s.mem := rfl
@[simp] theorem State.modMe_empties : (s.modMe f).empties = s.empties := rfl
@[simp] theorem State.modMe_poisoned : (s.modMe f).poisoned = s.poisoned := rfl
@[simp] theorem State.modMe_sysMem : (s.modMe f).sysMem = s.sysMem := rfl
@[simp] theorem State.modMe_service : (s.modMe f).service = s.service := rfl
@[simp] theorem State.modMe_accs : (s.modMe f).accs = s.accs := rfl
@[simp] theorem State.modMe_fences : (s.modMe f).fences = s.fences := rfl
@[simp] theorem State.modMe_waits : (s.modMe f).waits = s.waits := rfl
@[simp] theorem State.modMe_leaseReqs : (s.modMe f).leaseReqs = s.leaseReqs := rfl
@[simp] theorem State.modMe_regWrites : (s.modMe f).regWrites = s.regWrites := rfl
@[simp] theorem State.modMe_jobs : (s.modMe f).jobs = s.jobs := rfl
@[simp] theorem State.modMe_msgs : (s.modMe f).msgs = s.msgs := rfl
@[simp] theorem State.modMe_raises : (s.modMe f).raises = s.raises := rfl
@[simp] theorem State.modMe_tlbis : (s.modMe f).tlbis = s.tlbis := rfl
@[simp] theorem State.modMe_preempts : (s.modMe f).preempts = s.preempts := rfl
@[simp] theorem State.modMe_reports : (s.modMe f).reports = s.reports := rfl
@[simp] theorem State.modMe_notices : (s.modMe f).notices = s.notices := rfl
end

/-! ### `State.modCore` changes `cores` alone -/

section
variable (s : State) (c : CoreId) (f : Core → Core)
@[simp] theorem State.modCore_cur : (s.modCore c f).cur = s.cur := rfl
@[simp] theorem State.modCore_sched : (s.modCore c f).sched = s.sched := rfl
@[simp] theorem State.modCore_ownCycles : (s.modCore c f).ownCycles = s.ownCycles := rfl
@[simp] theorem State.modCore_ownTicks : (s.modCore c f).ownTicks = s.ownTicks := rfl
@[simp] theorem State.modCore_nextId : (s.modCore c f).nextId = s.nextId := rfl
@[simp] theorem State.modCore_group : (s.modCore c f).group = s.group := rfl
@[simp] theorem State.modCore_threads : (s.modCore c f).threads = s.threads := rfl
@[simp] theorem State.modCore_slices : (s.modCore c f).slices = s.slices := rfl
@[simp] theorem State.modCore_clusters : (s.modCore c f).clusters = s.clusters := rfl
@[simp] theorem State.modCore_dies : (s.modCore c f).dies = s.dies := rfl
@[simp] theorem State.modCore_packages : (s.modCore c f).packages = s.packages := rfl
@[simp] theorem State.modCore_mem : (s.modCore c f).mem = s.mem := rfl
@[simp] theorem State.modCore_empties : (s.modCore c f).empties = s.empties := rfl
@[simp] theorem State.modCore_poisoned : (s.modCore c f).poisoned = s.poisoned := rfl
@[simp] theorem State.modCore_sysMem : (s.modCore c f).sysMem = s.sysMem := rfl
@[simp] theorem State.modCore_service : (s.modCore c f).service = s.service := rfl
@[simp] theorem State.modCore_accs : (s.modCore c f).accs = s.accs := rfl
@[simp] theorem State.modCore_fences : (s.modCore c f).fences = s.fences := rfl
@[simp] theorem State.modCore_waits : (s.modCore c f).waits = s.waits := rfl
@[simp] theorem State.modCore_leaseReqs : (s.modCore c f).leaseReqs = s.leaseReqs := rfl
@[simp] theorem State.modCore_regWrites : (s.modCore c f).regWrites = s.regWrites := rfl
@[simp] theorem State.modCore_jobs : (s.modCore c f).jobs = s.jobs := rfl
@[simp] theorem State.modCore_msgs : (s.modCore c f).msgs = s.msgs := rfl
@[simp] theorem State.modCore_raises : (s.modCore c f).raises = s.raises := rfl
@[simp] theorem State.modCore_tlbis : (s.modCore c f).tlbis = s.tlbis := rfl
@[simp] theorem State.modCore_preempts : (s.modCore c f).preempts = s.preempts := rfl
@[simp] theorem State.modCore_reports : (s.modCore c f).reports = s.reports := rfl
@[simp] theorem State.modCore_notices : (s.modCore c f).notices = s.notices := rfl
end

/-! ### `State.modSlice` changes `slices` alone -/

section
variable (s : State) (c : CoreId) (f : Slice → Slice)
@[simp] theorem State.modSlice_cur : (s.modSlice c f).cur = s.cur := rfl
@[simp] theorem State.modSlice_sched : (s.modSlice c f).sched = s.sched := rfl
@[simp] theorem State.modSlice_ownCycles : (s.modSlice c f).ownCycles = s.ownCycles := rfl
@[simp] theorem State.modSlice_ownTicks : (s.modSlice c f).ownTicks = s.ownTicks := rfl
@[simp] theorem State.modSlice_nextId : (s.modSlice c f).nextId = s.nextId := rfl
@[simp] theorem State.modSlice_group : (s.modSlice c f).group = s.group := rfl
@[simp] theorem State.modSlice_threads : (s.modSlice c f).threads = s.threads := rfl
@[simp] theorem State.modSlice_cores : (s.modSlice c f).cores = s.cores := rfl
@[simp] theorem State.modSlice_clusters : (s.modSlice c f).clusters = s.clusters := rfl
@[simp] theorem State.modSlice_dies : (s.modSlice c f).dies = s.dies := rfl
@[simp] theorem State.modSlice_packages : (s.modSlice c f).packages = s.packages := rfl
@[simp] theorem State.modSlice_mem : (s.modSlice c f).mem = s.mem := rfl
@[simp] theorem State.modSlice_empties : (s.modSlice c f).empties = s.empties := rfl
@[simp] theorem State.modSlice_poisoned : (s.modSlice c f).poisoned = s.poisoned := rfl
@[simp] theorem State.modSlice_sysMem : (s.modSlice c f).sysMem = s.sysMem := rfl
@[simp] theorem State.modSlice_service : (s.modSlice c f).service = s.service := rfl
@[simp] theorem State.modSlice_accs : (s.modSlice c f).accs = s.accs := rfl
@[simp] theorem State.modSlice_fences : (s.modSlice c f).fences = s.fences := rfl
@[simp] theorem State.modSlice_waits : (s.modSlice c f).waits = s.waits := rfl
@[simp] theorem State.modSlice_leaseReqs : (s.modSlice c f).leaseReqs = s.leaseReqs := rfl
@[simp] theorem State.modSlice_regWrites : (s.modSlice c f).regWrites = s.regWrites := rfl
@[simp] theorem State.modSlice_jobs : (s.modSlice c f).jobs = s.jobs := rfl
@[simp] theorem State.modSlice_msgs : (s.modSlice c f).msgs = s.msgs := rfl
@[simp] theorem State.modSlice_raises : (s.modSlice c f).raises = s.raises := rfl
@[simp] theorem State.modSlice_tlbis : (s.modSlice c f).tlbis = s.tlbis := rfl
@[simp] theorem State.modSlice_preempts : (s.modSlice c f).preempts = s.preempts := rfl
@[simp] theorem State.modSlice_reports : (s.modSlice c f).reports = s.reports := rfl
@[simp] theorem State.modSlice_notices : (s.modSlice c f).notices = s.notices := rfl
end

/-! ### `State.modCluster` changes `clusters` alone -/

section
variable (s : State) (c : ClusterId) (f : Cluster → Cluster)
@[simp] theorem State.modCluster_cur : (s.modCluster c f).cur = s.cur := rfl
@[simp] theorem State.modCluster_sched : (s.modCluster c f).sched = s.sched := rfl
@[simp] theorem State.modCluster_ownCycles : (s.modCluster c f).ownCycles = s.ownCycles := rfl
@[simp] theorem State.modCluster_ownTicks : (s.modCluster c f).ownTicks = s.ownTicks := rfl
@[simp] theorem State.modCluster_nextId : (s.modCluster c f).nextId = s.nextId := rfl
@[simp] theorem State.modCluster_group : (s.modCluster c f).group = s.group := rfl
@[simp] theorem State.modCluster_threads : (s.modCluster c f).threads = s.threads := rfl
@[simp] theorem State.modCluster_cores : (s.modCluster c f).cores = s.cores := rfl
@[simp] theorem State.modCluster_slices : (s.modCluster c f).slices = s.slices := rfl
@[simp] theorem State.modCluster_dies : (s.modCluster c f).dies = s.dies := rfl
@[simp] theorem State.modCluster_packages : (s.modCluster c f).packages = s.packages := rfl
@[simp] theorem State.modCluster_mem : (s.modCluster c f).mem = s.mem := rfl
@[simp] theorem State.modCluster_empties : (s.modCluster c f).empties = s.empties := rfl
@[simp] theorem State.modCluster_poisoned : (s.modCluster c f).poisoned = s.poisoned := rfl
@[simp] theorem State.modCluster_sysMem : (s.modCluster c f).sysMem = s.sysMem := rfl
@[simp] theorem State.modCluster_service : (s.modCluster c f).service = s.service := rfl
@[simp] theorem State.modCluster_accs : (s.modCluster c f).accs = s.accs := rfl
@[simp] theorem State.modCluster_fences : (s.modCluster c f).fences = s.fences := rfl
@[simp] theorem State.modCluster_waits : (s.modCluster c f).waits = s.waits := rfl
@[simp] theorem State.modCluster_leaseReqs : (s.modCluster c f).leaseReqs = s.leaseReqs := rfl
@[simp] theorem State.modCluster_regWrites : (s.modCluster c f).regWrites = s.regWrites := rfl
@[simp] theorem State.modCluster_jobs : (s.modCluster c f).jobs = s.jobs := rfl
@[simp] theorem State.modCluster_msgs : (s.modCluster c f).msgs = s.msgs := rfl
@[simp] theorem State.modCluster_raises : (s.modCluster c f).raises = s.raises := rfl
@[simp] theorem State.modCluster_tlbis : (s.modCluster c f).tlbis = s.tlbis := rfl
@[simp] theorem State.modCluster_preempts : (s.modCluster c f).preempts = s.preempts := rfl
@[simp] theorem State.modCluster_reports : (s.modCluster c f).reports = s.reports := rfl
@[simp] theorem State.modCluster_notices : (s.modCluster c f).notices = s.notices := rfl
end

/-! ### `State.modDie` changes `dies` alone -/

section
variable (s : State) (h : DieId) (f : Die → Die)
@[simp] theorem State.modDie_cur : (s.modDie h f).cur = s.cur := rfl
@[simp] theorem State.modDie_sched : (s.modDie h f).sched = s.sched := rfl
@[simp] theorem State.modDie_ownCycles : (s.modDie h f).ownCycles = s.ownCycles := rfl
@[simp] theorem State.modDie_ownTicks : (s.modDie h f).ownTicks = s.ownTicks := rfl
@[simp] theorem State.modDie_nextId : (s.modDie h f).nextId = s.nextId := rfl
@[simp] theorem State.modDie_group : (s.modDie h f).group = s.group := rfl
@[simp] theorem State.modDie_threads : (s.modDie h f).threads = s.threads := rfl
@[simp] theorem State.modDie_cores : (s.modDie h f).cores = s.cores := rfl
@[simp] theorem State.modDie_slices : (s.modDie h f).slices = s.slices := rfl
@[simp] theorem State.modDie_clusters : (s.modDie h f).clusters = s.clusters := rfl
@[simp] theorem State.modDie_packages : (s.modDie h f).packages = s.packages := rfl
@[simp] theorem State.modDie_mem : (s.modDie h f).mem = s.mem := rfl
@[simp] theorem State.modDie_empties : (s.modDie h f).empties = s.empties := rfl
@[simp] theorem State.modDie_poisoned : (s.modDie h f).poisoned = s.poisoned := rfl
@[simp] theorem State.modDie_sysMem : (s.modDie h f).sysMem = s.sysMem := rfl
@[simp] theorem State.modDie_service : (s.modDie h f).service = s.service := rfl
@[simp] theorem State.modDie_accs : (s.modDie h f).accs = s.accs := rfl
@[simp] theorem State.modDie_fences : (s.modDie h f).fences = s.fences := rfl
@[simp] theorem State.modDie_waits : (s.modDie h f).waits = s.waits := rfl
@[simp] theorem State.modDie_leaseReqs : (s.modDie h f).leaseReqs = s.leaseReqs := rfl
@[simp] theorem State.modDie_regWrites : (s.modDie h f).regWrites = s.regWrites := rfl
@[simp] theorem State.modDie_jobs : (s.modDie h f).jobs = s.jobs := rfl
@[simp] theorem State.modDie_msgs : (s.modDie h f).msgs = s.msgs := rfl
@[simp] theorem State.modDie_raises : (s.modDie h f).raises = s.raises := rfl
@[simp] theorem State.modDie_tlbis : (s.modDie h f).tlbis = s.tlbis := rfl
@[simp] theorem State.modDie_preempts : (s.modDie h f).preempts = s.preempts := rfl
@[simp] theorem State.modDie_reports : (s.modDie h f).reports = s.reports := rfl
@[simp] theorem State.modDie_notices : (s.modDie h f).notices = s.notices := rfl
end

/-! ### `State.modPkg` changes `packages` alone -/

section
variable (s : State) (n : Nat) (f : Package → Package)
@[simp] theorem State.modPkg_cur : (s.modPkg n f).cur = s.cur := rfl
@[simp] theorem State.modPkg_sched : (s.modPkg n f).sched = s.sched := rfl
@[simp] theorem State.modPkg_ownCycles : (s.modPkg n f).ownCycles = s.ownCycles := rfl
@[simp] theorem State.modPkg_ownTicks : (s.modPkg n f).ownTicks = s.ownTicks := rfl
@[simp] theorem State.modPkg_nextId : (s.modPkg n f).nextId = s.nextId := rfl
@[simp] theorem State.modPkg_group : (s.modPkg n f).group = s.group := rfl
@[simp] theorem State.modPkg_threads : (s.modPkg n f).threads = s.threads := rfl
@[simp] theorem State.modPkg_cores : (s.modPkg n f).cores = s.cores := rfl
@[simp] theorem State.modPkg_slices : (s.modPkg n f).slices = s.slices := rfl
@[simp] theorem State.modPkg_clusters : (s.modPkg n f).clusters = s.clusters := rfl
@[simp] theorem State.modPkg_dies : (s.modPkg n f).dies = s.dies := rfl
@[simp] theorem State.modPkg_mem : (s.modPkg n f).mem = s.mem := rfl
@[simp] theorem State.modPkg_empties : (s.modPkg n f).empties = s.empties := rfl
@[simp] theorem State.modPkg_poisoned : (s.modPkg n f).poisoned = s.poisoned := rfl
@[simp] theorem State.modPkg_sysMem : (s.modPkg n f).sysMem = s.sysMem := rfl
@[simp] theorem State.modPkg_service : (s.modPkg n f).service = s.service := rfl
@[simp] theorem State.modPkg_accs : (s.modPkg n f).accs = s.accs := rfl
@[simp] theorem State.modPkg_fences : (s.modPkg n f).fences = s.fences := rfl
@[simp] theorem State.modPkg_waits : (s.modPkg n f).waits = s.waits := rfl
@[simp] theorem State.modPkg_leaseReqs : (s.modPkg n f).leaseReqs = s.leaseReqs := rfl
@[simp] theorem State.modPkg_regWrites : (s.modPkg n f).regWrites = s.regWrites := rfl
@[simp] theorem State.modPkg_jobs : (s.modPkg n f).jobs = s.jobs := rfl
@[simp] theorem State.modPkg_msgs : (s.modPkg n f).msgs = s.msgs := rfl
@[simp] theorem State.modPkg_raises : (s.modPkg n f).raises = s.raises := rfl
@[simp] theorem State.modPkg_tlbis : (s.modPkg n f).tlbis = s.tlbis := rfl
@[simp] theorem State.modPkg_preempts : (s.modPkg n f).preempts = s.preempts := rfl
@[simp] theorem State.modPkg_reports : (s.modPkg n f).reports = s.reports := rfl
@[simp] theorem State.modPkg_notices : (s.modPkg n f).notices = s.notices := rfl
end

/-! ### `State.fresh` changes `nextId` alone -/

section
variable (s : State) 
@[simp] theorem State.fresh_cur : (s.fresh).cur = s.cur := rfl
@[simp] theorem State.fresh_sched : (s.fresh).sched = s.sched := rfl
@[simp] theorem State.fresh_ownCycles : (s.fresh).ownCycles = s.ownCycles := rfl
@[simp] theorem State.fresh_ownTicks : (s.fresh).ownTicks = s.ownTicks := rfl
@[simp] theorem State.fresh_group : (s.fresh).group = s.group := rfl
@[simp] theorem State.fresh_threads : (s.fresh).threads = s.threads := rfl
@[simp] theorem State.fresh_cores : (s.fresh).cores = s.cores := rfl
@[simp] theorem State.fresh_slices : (s.fresh).slices = s.slices := rfl
@[simp] theorem State.fresh_clusters : (s.fresh).clusters = s.clusters := rfl
@[simp] theorem State.fresh_dies : (s.fresh).dies = s.dies := rfl
@[simp] theorem State.fresh_packages : (s.fresh).packages = s.packages := rfl
@[simp] theorem State.fresh_mem : (s.fresh).mem = s.mem := rfl
@[simp] theorem State.fresh_empties : (s.fresh).empties = s.empties := rfl
@[simp] theorem State.fresh_poisoned : (s.fresh).poisoned = s.poisoned := rfl
@[simp] theorem State.fresh_sysMem : (s.fresh).sysMem = s.sysMem := rfl
@[simp] theorem State.fresh_service : (s.fresh).service = s.service := rfl
@[simp] theorem State.fresh_accs : (s.fresh).accs = s.accs := rfl
@[simp] theorem State.fresh_fences : (s.fresh).fences = s.fences := rfl
@[simp] theorem State.fresh_waits : (s.fresh).waits = s.waits := rfl
@[simp] theorem State.fresh_leaseReqs : (s.fresh).leaseReqs = s.leaseReqs := rfl
@[simp] theorem State.fresh_regWrites : (s.fresh).regWrites = s.regWrites := rfl
@[simp] theorem State.fresh_jobs : (s.fresh).jobs = s.jobs := rfl
@[simp] theorem State.fresh_msgs : (s.fresh).msgs = s.msgs := rfl
@[simp] theorem State.fresh_raises : (s.fresh).raises = s.raises := rfl
@[simp] theorem State.fresh_tlbis : (s.fresh).tlbis = s.tlbis := rfl
@[simp] theorem State.fresh_preempts : (s.fresh).preempts = s.preempts := rfl
@[simp] theorem State.fresh_reports : (s.fresh).reports = s.reports := rfl
@[simp] theorem State.fresh_notices : (s.fresh).notices = s.notices := rfl
end

/-! ### `State.poke` changes `mem` alone -/

section
variable (s : State) (p : Phys) (bs : List Byte)
@[simp] theorem State.poke_cur : (s.poke p bs).cur = s.cur := rfl
@[simp] theorem State.poke_sched : (s.poke p bs).sched = s.sched := rfl
@[simp] theorem State.poke_ownCycles : (s.poke p bs).ownCycles = s.ownCycles := rfl
@[simp] theorem State.poke_ownTicks : (s.poke p bs).ownTicks = s.ownTicks := rfl
@[simp] theorem State.poke_nextId : (s.poke p bs).nextId = s.nextId := rfl
@[simp] theorem State.poke_group : (s.poke p bs).group = s.group := rfl
@[simp] theorem State.poke_threads : (s.poke p bs).threads = s.threads := rfl
@[simp] theorem State.poke_cores : (s.poke p bs).cores = s.cores := rfl
@[simp] theorem State.poke_slices : (s.poke p bs).slices = s.slices := rfl
@[simp] theorem State.poke_clusters : (s.poke p bs).clusters = s.clusters := rfl
@[simp] theorem State.poke_dies : (s.poke p bs).dies = s.dies := rfl
@[simp] theorem State.poke_packages : (s.poke p bs).packages = s.packages := rfl
@[simp] theorem State.poke_empties : (s.poke p bs).empties = s.empties := rfl
@[simp] theorem State.poke_poisoned : (s.poke p bs).poisoned = s.poisoned := rfl
@[simp] theorem State.poke_sysMem : (s.poke p bs).sysMem = s.sysMem := rfl
@[simp] theorem State.poke_service : (s.poke p bs).service = s.service := rfl
@[simp] theorem State.poke_accs : (s.poke p bs).accs = s.accs := rfl
@[simp] theorem State.poke_fences : (s.poke p bs).fences = s.fences := rfl
@[simp] theorem State.poke_waits : (s.poke p bs).waits = s.waits := rfl
@[simp] theorem State.poke_leaseReqs : (s.poke p bs).leaseReqs = s.leaseReqs := rfl
@[simp] theorem State.poke_regWrites : (s.poke p bs).regWrites = s.regWrites := rfl
@[simp] theorem State.poke_jobs : (s.poke p bs).jobs = s.jobs := rfl
@[simp] theorem State.poke_msgs : (s.poke p bs).msgs = s.msgs := rfl
@[simp] theorem State.poke_raises : (s.poke p bs).raises = s.raises := rfl
@[simp] theorem State.poke_tlbis : (s.poke p bs).tlbis = s.tlbis := rfl
@[simp] theorem State.poke_preempts : (s.poke p bs).preempts = s.preempts := rfl
@[simp] theorem State.poke_reports : (s.poke p bs).reports = s.reports := rfl
@[simp] theorem State.poke_notices : (s.poke p bs).notices = s.notices := rfl
end

/-! ### `State.setTag` changes `empties` alone -/

section
variable (s : State) (p : Phys) (b : Bool)
@[simp] theorem State.setTag_cur : (s.setTag p b).cur = s.cur := by cases b <;> rfl
@[simp] theorem State.setTag_sched : (s.setTag p b).sched = s.sched := by cases b <;> rfl
@[simp] theorem State.setTag_ownCycles : (s.setTag p b).ownCycles = s.ownCycles := by cases b <;> rfl
@[simp] theorem State.setTag_ownTicks : (s.setTag p b).ownTicks = s.ownTicks := by cases b <;> rfl
@[simp] theorem State.setTag_nextId : (s.setTag p b).nextId = s.nextId := by cases b <;> rfl
@[simp] theorem State.setTag_group : (s.setTag p b).group = s.group := by cases b <;> rfl
@[simp] theorem State.setTag_threads : (s.setTag p b).threads = s.threads := by cases b <;> rfl
@[simp] theorem State.setTag_cores : (s.setTag p b).cores = s.cores := by cases b <;> rfl
@[simp] theorem State.setTag_slices : (s.setTag p b).slices = s.slices := by cases b <;> rfl
@[simp] theorem State.setTag_clusters : (s.setTag p b).clusters = s.clusters := by cases b <;> rfl
@[simp] theorem State.setTag_dies : (s.setTag p b).dies = s.dies := by cases b <;> rfl
@[simp] theorem State.setTag_packages : (s.setTag p b).packages = s.packages := by cases b <;> rfl
@[simp] theorem State.setTag_mem : (s.setTag p b).mem = s.mem := by cases b <;> rfl
@[simp] theorem State.setTag_poisoned : (s.setTag p b).poisoned = s.poisoned := by cases b <;> rfl
@[simp] theorem State.setTag_sysMem : (s.setTag p b).sysMem = s.sysMem := by cases b <;> rfl
@[simp] theorem State.setTag_service : (s.setTag p b).service = s.service := by cases b <;> rfl
@[simp] theorem State.setTag_accs : (s.setTag p b).accs = s.accs := by cases b <;> rfl
@[simp] theorem State.setTag_fences : (s.setTag p b).fences = s.fences := by cases b <;> rfl
@[simp] theorem State.setTag_waits : (s.setTag p b).waits = s.waits := by cases b <;> rfl
@[simp] theorem State.setTag_leaseReqs : (s.setTag p b).leaseReqs = s.leaseReqs := by cases b <;> rfl
@[simp] theorem State.setTag_regWrites : (s.setTag p b).regWrites = s.regWrites := by cases b <;> rfl
@[simp] theorem State.setTag_jobs : (s.setTag p b).jobs = s.jobs := by cases b <;> rfl
@[simp] theorem State.setTag_msgs : (s.setTag p b).msgs = s.msgs := by cases b <;> rfl
@[simp] theorem State.setTag_raises : (s.setTag p b).raises = s.raises := by cases b <;> rfl
@[simp] theorem State.setTag_tlbis : (s.setTag p b).tlbis = s.tlbis := by cases b <;> rfl
@[simp] theorem State.setTag_preempts : (s.setTag p b).preempts = s.preempts := by cases b <;> rfl
@[simp] theorem State.setTag_reports : (s.setTag p b).reports = s.reports := by cases b <;> rfl
@[simp] theorem State.setTag_notices : (s.setTag p b).notices = s.notices := by cases b <;> rfl
end

/-! ### `State.setPoison` changes `poisoned` alone -/

section
variable (s : State) (p : Phys) (b : Bool)
@[simp] theorem State.setPoison_cur : (s.setPoison p b).cur = s.cur := by cases b <;> rfl
@[simp] theorem State.setPoison_sched : (s.setPoison p b).sched = s.sched := by cases b <;> rfl
@[simp] theorem State.setPoison_ownCycles : (s.setPoison p b).ownCycles = s.ownCycles := by cases b <;> rfl
@[simp] theorem State.setPoison_ownTicks : (s.setPoison p b).ownTicks = s.ownTicks := by cases b <;> rfl
@[simp] theorem State.setPoison_nextId : (s.setPoison p b).nextId = s.nextId := by cases b <;> rfl
@[simp] theorem State.setPoison_group : (s.setPoison p b).group = s.group := by cases b <;> rfl
@[simp] theorem State.setPoison_threads : (s.setPoison p b).threads = s.threads := by cases b <;> rfl
@[simp] theorem State.setPoison_cores : (s.setPoison p b).cores = s.cores := by cases b <;> rfl
@[simp] theorem State.setPoison_slices : (s.setPoison p b).slices = s.slices := by cases b <;> rfl
@[simp] theorem State.setPoison_clusters : (s.setPoison p b).clusters = s.clusters := by cases b <;> rfl
@[simp] theorem State.setPoison_dies : (s.setPoison p b).dies = s.dies := by cases b <;> rfl
@[simp] theorem State.setPoison_packages : (s.setPoison p b).packages = s.packages := by cases b <;> rfl
@[simp] theorem State.setPoison_mem : (s.setPoison p b).mem = s.mem := by cases b <;> rfl
@[simp] theorem State.setPoison_empties : (s.setPoison p b).empties = s.empties := by cases b <;> rfl
@[simp] theorem State.setPoison_sysMem : (s.setPoison p b).sysMem = s.sysMem := by cases b <;> rfl
@[simp] theorem State.setPoison_service : (s.setPoison p b).service = s.service := by cases b <;> rfl
@[simp] theorem State.setPoison_accs : (s.setPoison p b).accs = s.accs := by cases b <;> rfl
@[simp] theorem State.setPoison_fences : (s.setPoison p b).fences = s.fences := by cases b <;> rfl
@[simp] theorem State.setPoison_waits : (s.setPoison p b).waits = s.waits := by cases b <;> rfl
@[simp] theorem State.setPoison_leaseReqs : (s.setPoison p b).leaseReqs = s.leaseReqs := by cases b <;> rfl
@[simp] theorem State.setPoison_regWrites : (s.setPoison p b).regWrites = s.regWrites := by cases b <;> rfl
@[simp] theorem State.setPoison_jobs : (s.setPoison p b).jobs = s.jobs := by cases b <;> rfl
@[simp] theorem State.setPoison_msgs : (s.setPoison p b).msgs = s.msgs := by cases b <;> rfl
@[simp] theorem State.setPoison_raises : (s.setPoison p b).raises = s.raises := by cases b <;> rfl
@[simp] theorem State.setPoison_tlbis : (s.setPoison p b).tlbis = s.tlbis := by cases b <;> rfl
@[simp] theorem State.setPoison_preempts : (s.setPoison p b).preempts = s.preempts := by cases b <;> rfl
@[simp] theorem State.setPoison_reports : (s.setPoison p b).reports = s.reports := by cases b <;> rfl
@[simp] theorem State.setPoison_notices : (s.setPoison p b).notices = s.notices := by cases b <;> rfl
end

end Sys2Proof.Machine
end

