-- ==== Sys2Proof/Laws/Map.lean ====
section
/-!
SUPPORT. The laws of sparse maps: reading after writing, and strictly rising keys; and of the units that the state keeps
in them.
-/

namespace Sys2Proof.Machine

/-! ### Reading after writing -/

theorem Map.look_set {α : Type} (m : Map α) (k j : Nat) (x : α) :
    (m.set k x).look j = if k = j then some x else m.look j := by
  induction m with
  | nil => by_cases h : k = j <;> simp [Map.set, Map.look, h]
  | cons e m ih =>
    obtain ⟨i, y⟩ := e
    unfold Map.set
    split
    · by_cases h : k = j <;> simp [Map.look, h]
    · split
      · next h => subst h; by_cases h : k = j <;> simp [Map.look, h]
      · next h =>
        simp only [Map.look, ih]
        by_cases hi : i = j
        · subst hi; simp [h]
        · simp [hi]

@[simp] theorem Map.look_set_self {α : Type} (m : Map α) (k : Nat) (x : α) : (m.set k x).look k = some x := by
  simp [Map.look_set]
theorem Map.look_set_ne {α : Type} {m : Map α} {k j : Nat} {x : α} (h : j ≠ k) : (m.set k x).look j = m.look j := by
  simp [Map.look_set, Ne.symm h]
@[simp] theorem Map.get_set_self {α : Type} (m : Map α) (d : α) (k : Nat) (x : α) : (m.set k x).get d k = x := by
  simp [Map.get]
theorem Map.get_set_ne {α : Type} {m : Map α} {d : α} {k j : Nat} {x : α} (h : j ≠ k) : (m.set k x).get d j = m.get d j := by
  simp [Map.get, Map.look_set_ne h]

/-! ### Strictly rising keys -/

/-- Every key is at least `lo`. -/
theorem Map.wf_cons {α : Type} (j : Nat) (y : α) (m : Map α) :
    Map.wf ((j, y) :: m) = true ↔ (∀ e ∈ m, j < e.1) ∧ Map.wf m = true := by
  induction m generalizing j y with
  | nil => simp [Map.wf]
  | cons e m ih =>
    obtain ⟨k, z⟩ := e
    simp only [Map.wf, Bool.and_eq_true, decide_eq_true_eq, ih k z, List.mem_cons, forall_eq_or_imp]
    constructor
    · rintro ⟨h, h1, h2⟩; exact ⟨⟨h, fun e he => Nat.lt_trans h (h1 e he)⟩, h1, h2⟩
    · rintro ⟨⟨h, _⟩, h1, h2⟩; exact ⟨h, h1, h2⟩

theorem Map.mem_set {α : Type} {m : Map α} {k : Nat} {x : α} {e : Nat × α} (h : e ∈ m.set k x) : e = (k, x) ∨ e ∈ m := by
  induction m with
  | nil => simp_all [Map.set]
  | cons d m ih =>
    obtain ⟨j, y⟩ := d
    unfold Map.set at h
    split at h
    · simp_all
    · split at h
      · simp only [List.mem_cons] at h ⊢; tauto
      · simp only [List.mem_cons] at h ⊢
        rcases h with h | h
        · exact .inr (.inl h)
        · rcases ih h with h | h
          · exact .inl h
          · exact .inr (.inr h)

/-- Setting an entry keeps the keys strictly rising. -/
theorem Map.wf_set {α : Type} {m : Map α} (k : Nat) (x : α) (h : Map.wf m = true) : Map.wf (m.set k x) = true := by
  induction m with
  | nil => rfl
  | cons d m ih =>
    obtain ⟨j, y⟩ := d
    have h' := (Map.wf_cons j y m).1 h
    unfold Map.set
    split
    · next hk =>
      rw [Map.wf_cons]
      refine ⟨fun e he => ?_, h⟩
      rcases List.mem_cons.1 he with rfl | he
      · exact hk
      · exact Nat.lt_trans hk (h'.1 e he)
    · split
      · next _ hk => subst hk; rw [Map.wf_cons]; exact h'
      · next h1 h2 =>
        rw [Map.wf_cons]
        refine ⟨fun e he => ?_, ih h'.2⟩
        rcases Map.mem_set he with rfl | he
        · exact Nat.lt_of_le_of_ne (Nat.not_lt.1 h1) (Ne.symm h2)
        · exact h'.1 e he

/-- Taking entries out keeps the keys strictly rising. -/
theorem Map.wf_filter {α : Type} {m : Map α} (p : Nat × α → Bool) (h : Map.wf m = true) : Map.wf (m.filter p) = true := by
  induction m with
  | nil => rfl
  | cons d m ih =>
    obtain ⟨j, y⟩ := d
    have h' := (Map.wf_cons j y m).1 h
    by_cases hp : p (j, y)
    · rw [List.filter_cons_of_pos hp, Map.wf_cons]
      exact ⟨fun e he => h'.1 e (List.mem_filter.1 he).1, ih h'.2⟩
    · rw [List.filter_cons_of_neg (by simpa using hp)]; exact ih h'.2

/-! ### The units of the state -/

section
variable (s : State)

@[simp] theorem State.th_setTh (t : Tid) (x : Thread) : (s.setTh t x).th t = x := by simp [State.th, State.setTh]
@[simp] theorem State.th_modTh (t : Tid) (f : Thread → Thread) : (s.modTh t f).th t = f (s.th t) := by
  simp [State.modTh]
theorem State.me_modMe (f : Thread → Thread) : (s.modMe f).me = f s.me := by simp [State.me, State.modMe]
theorem State.th_cur : s.th s.cur = s.me := rfl
theorem State.me_modTh_cur (f : Thread → Thread) : (s.modTh s.cur f).me = f s.me := by simp [State.me]

theorem State.modTh_look {t : Tid} {f : Thread → Thread} {k : Nat} (h : k ≠ tidKey t) :
    (s.modTh t f).threads.look k = s.threads.look k := by simp [State.modTh, State.setTh, Map.look_set_ne h]
theorem State.modMe_look {f : Thread → Thread} {k : Nat} (h : k ≠ tidKey s.cur) :
    (s.modMe f).threads.look k = s.threads.look k := s.modTh_look h

theorem State.th_modCore (c : CoreId) (f : Core → Core) (t : Tid) : (s.modCore c f).th t = s.th t := rfl
theorem State.core_modTh (t : Tid) (f : Thread → Thread) (c : CoreId) : (s.modTh t f).core c = s.core c := rfl
@[simp] theorem State.core_modMe (f : Thread → Thread) (c : CoreId) : (s.modMe f).core c = s.core c := rfl
@[simp] theorem State.core_modCore (c : CoreId) (f : Core → Core) : (s.modCore c f).core c = f (s.core c) := by
  simp [State.core, State.modCore]
@[simp] theorem State.slice_modSlice (c : CoreId) (f : Slice → Slice) : (s.modSlice c f).slice c = f (s.slice c) := by
  simp [State.slice, State.modSlice]
@[simp] theorem State.cluster_modCluster (c : ClusterId) (f : Cluster → Cluster) :
    (s.modCluster c f).cluster c = f (s.cluster c) := by simp [State.cluster, State.modCluster]
@[simp] theorem State.die_modDie (h : DieId) (f : Die → Die) : (s.modDie h f).die h = f (s.die h) := by
  simp [State.die, State.modDie]
@[simp] theorem State.pkg_modPkg (n : Nat) (f : Package → Package) : (s.modPkg n f).pkg n = f (s.pkg n) := by
  simp [State.pkg, State.modPkg]
theorem State.pkg_modPkg_ne {n k : Nat} {f : Package → Package} (h : k ≠ n) : (s.modPkg n f).pkg k = s.pkg k := by
  simp [State.pkg, State.modPkg, Map.get_set_ne h]

/-- Two changes of one thread are one. -/
theorem Map.set_set {α : Type} (m : Map α) (k : Nat) (x y : α) : (m.set k x).set k y = m.set k y := by
  induction m with
  | nil => simp [Map.set]
  | cons e m ih =>
    obtain ⟨i, z⟩ := e
    by_cases h1 : k < i
    · simp [Map.set, h1]
    · by_cases h2 : k = i
      · subst h2; simp [Map.set]
      · simp [Map.set, h1, h2, ih]

theorem State.modTh_modTh (t : Tid) (f g : Thread → Thread) : (s.modTh t f).modTh t g = s.modTh t (fun x => g (f x)) := by
  simp [State.modTh, State.setTh, State.th, Map.get, Map.set_set]
theorem State.modMe_modMe (f g : Thread → Thread) : (s.modMe f).modMe g = s.modMe (fun x => g (f x)) :=
  s.modTh_modTh s.cur f g
end

end Sys2Proof.Machine
end

