-- ==== Sys2Proof/Laws/Memory.lean ====
section
/-!
SUPPORT. The laws of memory: a read after a write, and the canonical form, which every operation on memory keeps.
-/

namespace Sys2Proof.Machine

/-! ### One byte -/

theorem readByte_putByte (m : List Host.Cell) (k j : Nat) (b : Byte) :
    readByte (putByte m k b) j = if k = j then b else readByte m j := by
  induction m with
  | nil => by_cases hk : k = j <;> simp [putByte, readByte, hk]
  | cons e m ih =>
    obtain ⟨i, c⟩ := e
    unfold putByte
    split
    · by_cases hj : k = j <;> simp [readByte, hj]
    · split
      · next hk =>
        subst hk
        by_cases hj : k = j <;> simp [readByte, hj]
      · next h1 h2 =>
        simp only [readByte, ih]
        by_cases hi : i = j
        · subst hi; simp [h2]
        · simp [hi]

theorem readByte_filter_ne (m : List Host.Cell) (k j : Nat) :
    readByte (m.filter fun c => decide (c.1 ≠ k)) j = if k = j then emptyByte else readByte m j := by
  induction m with
  | nil => simp [readByte]
  | cons e m ih =>
    obtain ⟨i, c⟩ := e
    by_cases hi : i = k
    · subst hi
      rw [List.filter_cons_of_neg (by simp), ih]
      by_cases hj : i = j <;> simp [readByte, hj]
    · rw [List.filter_cons_of_pos (by simpa using hi)]
      simp only [readByte, ih]
      by_cases hj : i = j
      · subst hj; simp [Ne.symm hi]
      · simp [hj]

/-- The byte written reads back and every other byte reads as before. -/
theorem readByte_writeByte (m : List Host.Cell) (k j : Nat) (b : Byte) :
    readByte (writeByte m k b) j = if k = j then b else readByte m j := by
  unfold writeByte
  split
  · next hb => rw [readByte_filter_ne, hb]
  · exact readByte_putByte m k j b

theorem Memory.wfFrom_mono {m : List Host.Cell} {lo lo' : Nat} (h : Memory.wfFrom lo m = true) (hl : lo' ≤ lo) :
    Memory.wfFrom lo' m = true := by
  cases m with
  | nil => rfl
  | cons e m =>
    obtain ⟨j, b⟩ := e
    simp only [Memory.wfFrom, Bool.and_eq_true, decide_eq_true_eq] at h ⊢
    exact ⟨⟨by omega, h.1.2⟩, h.2⟩

theorem putByte_wfFrom {m : List Host.Cell} {lo : Nat} (k : Nat) {b : Byte} (hb : b ≠ emptyByte)
    (h : Memory.wfFrom lo m = true) (hk : lo ≤ k) : Memory.wfFrom lo (putByte m k b) = true := by
  induction m generalizing lo with
  | nil => simp [putByte, Memory.wfFrom, hb, hk]
  | cons e m ih =>
    obtain ⟨i, c⟩ := e
    simp only [Memory.wfFrom, Bool.and_eq_true, decide_eq_true_eq] at h
    unfold putByte
    split
    · simp only [Memory.wfFrom, Bool.and_eq_true, decide_eq_true_eq]
      exact ⟨⟨hk, hb⟩, ⟨by omega, h.1.2⟩, h.2⟩
    · split
      · next hki =>
        subst hki
        simp only [Memory.wfFrom, Bool.and_eq_true, decide_eq_true_eq]
        exact ⟨⟨hk, hb⟩, h.2⟩
      · next h1 h2 =>
        simp only [Memory.wfFrom, Bool.and_eq_true, decide_eq_true_eq]
        exact ⟨h.1, ih h.2 (by omega)⟩

/-- Taking cells out keeps the canonical form. -/
theorem Memory.wfFrom_filter {m : List Host.Cell} {lo : Nat} (p : Host.Cell → Bool) (h : Memory.wfFrom lo m = true) :
    Memory.wfFrom lo (m.filter p) = true := by
  induction m generalizing lo with
  | nil => rfl
  | cons e m ih =>
    obtain ⟨i, c⟩ := e
    simp only [Memory.wfFrom, Bool.and_eq_true, decide_eq_true_eq] at h
    by_cases hp : p (i, c)
    · rw [List.filter_cons_of_pos hp]
      simp only [Memory.wfFrom, Bool.and_eq_true, decide_eq_true_eq]
      exact ⟨h.1, ih h.2⟩
    · rw [List.filter_cons_of_neg (by simpa using hp)]
      exact Memory.wfFrom_mono (ih h.2) (by omega)

theorem Memory.wf_filter {m : List Host.Cell} (p : Host.Cell → Bool) (h : Memory.wf m = true) :
    Memory.wf (m.filter p) = true := Memory.wfFrom_filter p h

/-- Writing a byte keeps the canonical form. -/
theorem writeByte_wf {m : List Host.Cell} (k : Nat) (b : Byte) (h : Memory.wf m = true) :
    Memory.wf (writeByte m k b) = true := by
  unfold writeByte
  split
  · exact Memory.wf_filter _ h
  · next hb => exact putByte_wfFrom k hb h (Nat.zero_le k)

/-! ### Several bytes -/

/-- Writing bytes keeps the canonical form. -/
theorem writeBytes_wf {m : List Host.Cell} (k : Nat) (bs : List Byte) (h : Memory.wf m = true) :
    Memory.wf (writeBytes m k bs) = true := by
  induction bs generalizing m k with
  | nil => exact h
  | cons b bs ih => exact ih (k + 1) (writeByte_wf k b h)

/-- Byte `j` reads as written where it lies among the bytes written, and as before elsewhere. -/
theorem readByte_writeBytes (m : List Host.Cell) (k j : Nat) (bs : List Byte) :
    readByte (writeBytes m k bs) j = if k ≤ j ∧ j < k + bs.length then bs.getD (j - k) 0 else readByte m j := by
  induction bs generalizing m k with
  | nil => simp [writeBytes]
  | cons b bs ih =>
    simp only [writeBytes, ih _ (k + 1), readByte_writeByte, List.length_cons]
    by_cases h1 : k = j
    · subst h1; simp
    · by_cases h2 : k + 1 ≤ j ∧ j < k + 1 + bs.length
      · have e : j - k = (j - (k + 1)) + 1 := by omega
        rw [if_pos h2, if_pos (by omega), e, List.getD_cons_succ]
      · rw [if_neg h2, if_neg h1, if_neg (by omega)]

/-- Bytes outside those written read as before. -/
theorem readByte_writeBytes_of_outside {m : List Host.Cell} {k j : Nat} {bs : List Byte}
    (hj : j < k ∨ k + bs.length ≤ j) : readByte (writeBytes m k bs) j = readByte m j := by
  rw [readByte_writeBytes, if_neg (by omega)]

/-- The bytes written read back. -/
theorem readBytes_writeBytes (m : List Host.Cell) (k : Nat) (bs : List Byte) :
    readBytes (writeBytes m k bs) k bs.length = bs := by
  have key : ∀ (n i : Nat), i + n = bs.length → readBytes (writeBytes m k bs) (k + i) n = bs.drop i := by
    intro n
    induction n with
    | zero => intro i hi; rw [readBytes, List.drop_of_length_le (by omega)]
    | succ n ih =>
      intro i hi
      have hlt : i < bs.length := by omega
      rw [readBytes, readByte_writeBytes, if_pos (by omega), Nat.add_assoc, ih (i + 1) (by omega),
        List.drop_eq_getElem_cons hlt]
      simp [List.getD_eq_getElem?_getD, hlt]
  simpa using key bs.length 0 (by omega)

@[simp] theorem leBytes_length (x n : Nat) : (leBytes x n).length = n := by
  induction n generalizing x with
  | zero => rfl
  | succ n ih => simp [leBytes, ih]

/-- The number of its own little-endian bytes. -/
theorem leNat_leBytes (x n : Nat) : leNat (leBytes x n) = x % 2 ^ (8 * n) := by
  induction n generalizing x with
  | zero => simp [leBytes, leNat, Nat.mod_one]
  | succ n ih =>
    have e : (2 : Nat) ^ (8 * (n + 1)) = 256 * 2 ^ (8 * n) := by rw [Nat.mul_succ, Nat.pow_add]; omega
    simp only [leBytes, leNat, ih, BitVec.toNat_ofNat, e, Nat.mod_mul]

/-! ### The state's memory -/

/-- Storing keeps the canonical form. -/
theorem State.poke_wf {s : State} (p : Phys) (bs : List Byte) (h : Memory.wf s.mem = true) :
    Memory.wf (s.poke p bs).mem = true := writeBytes_wf _ _ h

/-- What was stored reads back. -/
theorem State.bytes_poke (s : State) (p : Phys) (bs : List Byte) :
    (s.poke p bs).bytes p bs.length = bs := readBytes_writeBytes _ _ _

/-- A store leaves every byte outside its own alone. -/
theorem State.byteAt_poke_of_outside {s : State} {p : Phys} {bs : List Byte} {k : Nat}
    (hk : k < p.key ∨ p.key + bs.length ≤ k) : (s.poke p bs).byteAt k = s.byteAt k :=
  readByte_writeBytes_of_outside hk

/-- Memory at reset is in canonical form. -/
theorem reset_mem_wf : Memory.wf State.reset.mem = true := rfl

end Sys2Proof.Machine
end

