-- ==== Sys2Proof/Laws/Ops.lean ====
section
/-!
SUPPORT. What the shared operations of issue do: the gate of R69, retirement, register writes, and what `Retires` needs.
-/

namespace Sys2Proof.Machine

/-! ### Registers after a write -/

section
variable (t : Thread)

theorem Thread.rG_zero : t.rG 0 = 0 := rfl
theorem Thread.full_g0 : t.full (.g 0) = true := rfl
theorem Thread.bad_g0 : t.bad (.g 0) = false := rfl

theorem Thread.rG_wG (d r : BitVec 4) (x : W64) :
    (t.wG d x).rG r = if r = d ∧ d ≠ 0 then x else t.rG r := by
  by_cases hd : d = 0#4
  · simp [Thread.wG, hd]
  · by_cases hr : r = d
    · subst hr; simp [Thread.wG, Thread.rG, hd]
    · have : d.toNat ≠ r.toNat := fun h => hr (BitVec.eq_of_toNat_eq h.symm)
      simp [Thread.wG, Thread.rG, hd, hr, Vector.getElem_set_ne _ _ this]

theorem Thread.mark_wG (d r : BitVec 4) (x : W64) :
    (t.wG d x).mark (.g r) = if r = d then (true, false) else t.mark (.g r) := by
  by_cases hd : d = 0#4
  · subst hd; by_cases hr : r = 0#4 <;> simp [Thread.wG, Thread.mark, hr]
  · by_cases hr : r = d
    · subst hr; simp [Thread.wG, Thread.mark, hd]
    · have : d.toNat ≠ r.toNat := fun h => hr (BitVec.eq_of_toNat_eq h.symm)
      simp [Thread.wG, Thread.mark, hd, hr, Vector.getElem_set_ne _ _ this]

theorem Thread.rQ_wQ (d r : BitVec 4) (x : Bool) :
    (t.wQ d x).rQ r = if r = d ∧ d ≠ 0 then x else t.rQ r := by
  by_cases hd : d = 0#4
  · simp [Thread.wQ, hd]
  · by_cases hr : r = d
    · subst hr; simp [Thread.wQ, Thread.rQ, hd]
    · have : d.toNat ≠ r.toNat := fun h => hr (BitVec.eq_of_toNat_eq h.symm)
      simp [Thread.wQ, Thread.rQ, hd, hr, Vector.getElem_set_ne _ _ this]

theorem Thread.mark_wQ (d r : BitVec 4) (x : Bool) :
    (t.wQ d x).mark (.q r) = if r = d then (true, false) else t.mark (.q r) := by
  by_cases hd : d = 0#4
  · subst hd; by_cases hr : r = 0#4 <;> simp [Thread.wQ, Thread.mark, hr]
  · by_cases hr : r = d
    · subst hr; simp [Thread.wQ, Thread.mark, hd]
    · have : d.toNat ≠ r.toNat := fun h => hr (BitVec.eq_of_toNat_eq h.symm)
      simp [Thread.wQ, Thread.mark, hd, hr, Vector.getElem_set_ne _ _ this]

theorem Thread.rM_wM (d r : BitVec 2) (x : W64) :
    (t.wM d x).rM r = if r = d ∧ d ≠ 0 then x else t.rM r := by
  by_cases hd : d = 0#2
  · simp [Thread.wM, hd]
  · by_cases hr : r = d
    · subst hr; simp [Thread.wM, Thread.rM, hd]
    · have : d.toNat ≠ r.toNat := fun h => hr (BitVec.eq_of_toNat_eq h.symm)
      simp [Thread.wM, Thread.rM, hd, hr, Vector.getElem_set_ne _ _ this]

theorem Thread.mark_wM (d r : BitVec 2) (x : W64) :
    (t.wM d x).mark (.m r) = if r = d then (true, false) else t.mark (.m r) := by
  by_cases hd : d = 0#2
  · subst hd; by_cases hr : r = 0#2 <;> simp [Thread.wM, Thread.mark, hr]
  · by_cases hr : r = d
    · subst hr; simp [Thread.wM, Thread.mark, hd]
    · have : d.toNat ≠ r.toNat := fun h => hr (BitVec.eq_of_toNat_eq h.symm)
      simp [Thread.wM, Thread.mark, hd, hr, Vector.getElem_set_ne _ _ this]

/-- A vector register reads as written; every other one as before. -/
theorem Thread.vReg_wV (d r : BitVec 5) (x : Lanes) (hd : d.toNat < 26) :
    (t.wV d x).vReg r = if r = d then .of x else t.vReg r := by
  unfold Thread.vReg Thread.wV
  by_cases hr : r = d
  · subst hr; simp [List.getD_eq_getElem?_getD, hd]
  · have h : d.toNat ≠ r.toNat := fun h => hr (BitVec.eq_of_toNat_eq h.symm)
    simp [List.getD_eq_getElem?_getD, hr, List.getElem?_set_ne h]

theorem Thread.sameBut_refl (rs : List RegRef) : Thread.sameBut rs t t := fun r _ => by cases r <;> simp [Thread.sameReg]

theorem Thread.sameBut_wG (d : BitVec 4) (x : W64) : Thread.sameBut [.g d] t (t.wG d x) := by
  intro r hr
  cases r with
  | g r =>
    have : r ≠ d := fun h => hr (by simp [h])
    simp [Thread.sameReg, Thread.rG_wG, Thread.mark_wG, this]
  | q r => by_cases hd : d = 0#4 <;> simp [Thread.sameReg, Thread.wG, hd, Thread.rQ, Thread.mark]
  | m r => by_cases hd : d = 0#4 <;> simp [Thread.sameReg, Thread.wG, hd, Thread.rM, Thread.mark]
  | v r => by_cases hd : d = 0#4 <;> simp [Thread.sameReg, Thread.wG, hd, Thread.vReg]

theorem Thread.sameBut_wQ (d : BitVec 4) (x : Bool) : Thread.sameBut [.q d] t (t.wQ d x) := by
  intro r hr
  cases r with
  | q r =>
    have : r ≠ d := fun h => hr (by simp [h])
    simp [Thread.sameReg, Thread.rQ_wQ, Thread.mark_wQ, this]
  | g r => by_cases hd : d = 0#4 <;> simp [Thread.sameReg, Thread.wQ, hd, Thread.rG, Thread.mark]
  | m r => by_cases hd : d = 0#4 <;> simp [Thread.sameReg, Thread.wQ, hd, Thread.rM, Thread.mark]
  | v r => by_cases hd : d = 0#4 <;> simp [Thread.sameReg, Thread.wQ, hd, Thread.vReg]

theorem Thread.sameBut_wM (d : BitVec 2) (x : W64) : Thread.sameBut [.m d] t (t.wM d x) := by
  intro r hr
  cases r with
  | m r =>
    have : r ≠ d := fun h => hr (by simp [h])
    simp [Thread.sameReg, Thread.rM_wM, Thread.mark_wM, this]
  | g r => by_cases hd : d = 0#2 <;> simp [Thread.sameReg, Thread.wM, hd, Thread.rG, Thread.mark]
  | q r => by_cases hd : d = 0#2 <;> simp [Thread.sameReg, Thread.wM, hd, Thread.rQ, Thread.mark]
  | v r => by_cases hd : d = 0#2 <;> simp [Thread.sameReg, Thread.wM, hd, Thread.vReg]

theorem Thread.sameBut_wV (d : BitVec 5) (x : Lanes) : Thread.sameBut [.v d] t (t.wV d x) := by
  intro r hr
  cases r with
  | v r =>
    have h : d.toNat ≠ r.toNat := fun h => hr (by simp [BitVec.eq_of_toNat_eq h])
    simp [Thread.sameReg, Thread.vReg, Thread.wV, List.getD_eq_getElem?_getD, List.getElem?_set_ne h]
  | g r => simp [Thread.sameReg, Thread.wV, Thread.rG, Thread.mark]
  | q r => simp [Thread.sameReg, Thread.wV, Thread.rQ, Thread.mark]
  | m r => simp [Thread.sameReg, Thread.wV, Thread.rM, Thread.mark]

theorem Thread.sameRest_wG (d : BitVec 4) (x : W64) : Thread.sameRest t (t.wG d x) := by
  unfold Thread.wG; split <;> rfl
theorem Thread.sameRest_wQ (d : BitVec 4) (x : Bool) : Thread.sameRest t (t.wQ d x) := by
  unfold Thread.wQ; split <;> rfl
theorem Thread.sameRest_wM (d : BitVec 2) (x : W64) : Thread.sameRest t (t.wM d x) := by
  unfold Thread.wM; split <;> rfl
theorem Thread.sameRest_wV (d : BitVec 5) (x : Lanes) : Thread.sameRest t (t.wV d x) := rfl

/-! ### Regions and retirement -/

/-- Opening a region moves the region's registers alone. -/
theorem Thread.enterRegion_eq : t.enterRegion = { t with
    rhdr := t.enterRegion.rhdr, rword := t.enterRegion.rword, restarts := t.enterRegion.restarts, ckr := t.enterRegion.ckr,
    prog := t.enterRegion.prog, genCk := t.enterRegion.genCk, region := t.enterRegion.region,
    restarted := t.enterRegion.restarted } := by
  unfold Thread.enterRegion Thread.regionAt; split
  · rfl
  · split <;> rfl

/-- Retirement moves what issue itself moves. -/
theorem Thread.retire_eq (n : Nat) (close : Bool) : t.retire n close = { t with
    crc := (t.retire n close).crc, pc := t.pc + BitVec.ofNat 19 (4 * n), prog := (t.retire n close).prog, blocked := none,
    hold := .none, rhdr := (t.retire n close).rhdr, rword := (t.retire n close).rword,
    restarts := (t.retire n close).restarts, ckr := (t.retire n close).ckr, lavg := (t.retire n close).lavg,
    genCk := (t.retire n close).genCk, region := (t.retire n close).region } := by
  cases close
  · rfl
  · rfl

theorem Thread.enterRegion_g : t.enterRegion.g = t.g := by rw [Thread.enterRegion_eq]
theorem Thread.enterRegion_q : t.enterRegion.q = t.q := by rw [Thread.enterRegion_eq]
theorem Thread.enterRegion_m : t.enterRegion.m = t.m := by rw [Thread.enterRegion_eq]
theorem Thread.enterRegion_v : t.enterRegion.v = t.v := by rw [Thread.enterRegion_eq]
theorem Thread.enterRegion_pc : t.enterRegion.pc = t.pc := by rw [Thread.enterRegion_eq]
theorem Thread.retire_g (n : Nat) (c : Bool) : (t.retire n c).g = t.g := by rw [Thread.retire_eq]
theorem Thread.retire_q (n : Nat) (c : Bool) : (t.retire n c).q = t.q := by rw [Thread.retire_eq]
theorem Thread.retire_m (n : Nat) (c : Bool) : (t.retire n c).m = t.m := by rw [Thread.retire_eq]
theorem Thread.retire_v (n : Nat) (c : Bool) : (t.retire n c).v = t.v := by rw [Thread.retire_eq]
theorem Thread.retire_pc (n : Nat) (c : Bool) : (t.retire n c).pc = t.pc + BitVec.ofNat 19 (4 * n) := by rw [Thread.retire_eq]
theorem Thread.retire_hold (n : Nat) (c : Bool) : (t.retire n c).hold = .none := by rw [Thread.retire_eq]
theorem Thread.retire_blocked (n : Nat) (c : Bool) : (t.retire n c).blocked = none := by rw [Thread.retire_eq]

end

/-- A register holds the same in threads with the same registers. -/
theorem Thread.rG_congr {x y : Thread} (h : y.g = x.g) (r : BitVec 4) : y.rG r = x.rG r := by simp [Thread.rG, h]
theorem Thread.rQ_congr {x y : Thread} (h : y.q = x.q) (r : BitVec 4) : y.rQ r = x.rQ r := by simp [Thread.rQ, h]
theorem Thread.rM_congr {x y : Thread} (h : y.m = x.m) (r : BitVec 2) : y.rM r = x.rM r := by simp [Thread.rM, h]
theorem Thread.vReg_congr {x y : Thread} (h : y.v = x.v) (r : BitVec 5) : y.vReg r = x.vReg r := by simp [Thread.vReg, h]
theorem Thread.mark_congr {x y : Thread} (hg : y.g = x.g) (hq : y.q = x.q) (hm : y.m = x.m) (hv : y.v = x.v) (r : RegRef) :
    y.mark r = x.mark r := by
  cases r <;> simp [Thread.mark, hg, hq, hm, Thread.vReg_congr hv]

theorem Thread.sameReg_congr {x y z : Thread} (hg : z.g = y.g) (hq : z.q = y.q) (hm : z.m = y.m) (hv : z.v = y.v)
    {r : RegRef} (h : Thread.sameReg x y r) : Thread.sameReg x z r := by
  cases r with
  | g r => exact ⟨(Thread.rG_congr hg r).trans h.1, (Thread.mark_congr hg hq hm hv _).trans h.2⟩
  | q r => exact ⟨(Thread.rQ_congr hq r).trans h.1, (Thread.mark_congr hg hq hm hv _).trans h.2⟩
  | m r => exact ⟨(Thread.rM_congr hm r).trans h.1, (Thread.mark_congr hg hq hm hv _).trans h.2⟩
  | v r => exact (Thread.vReg_congr hv r).trans h

section
variable (t : Thread)
@[simp] theorem Thread.rG_enterRegion (r : BitVec 4) : t.enterRegion.rG r = t.rG r := Thread.rG_congr t.enterRegion_g r
@[simp] theorem Thread.rQ_enterRegion (r : BitVec 4) : t.enterRegion.rQ r = t.rQ r := Thread.rQ_congr t.enterRegion_q r
@[simp] theorem Thread.rM_enterRegion (r : BitVec 2) : t.enterRegion.rM r = t.rM r := Thread.rM_congr t.enterRegion_m r
@[simp] theorem Thread.vReg_enterRegion (r : BitVec 5) : t.enterRegion.vReg r = t.vReg r :=
  Thread.vReg_congr t.enterRegion_v r
@[simp] theorem Thread.mark_enterRegion (r : RegRef) : t.enterRegion.mark r = t.mark r :=
  Thread.mark_congr t.enterRegion_g t.enterRegion_q t.enterRegion_m t.enterRegion_v r
@[simp] theorem Thread.full_enterRegion (r : RegRef) : t.enterRegion.full r = t.full r := by simp [Thread.full]
@[simp] theorem Thread.src_enterRegion (a : GSrc) : t.enterRegion.src a = t.src a := by simp [Thread.src]
@[simp] theorem Thread.rG_retire (n : Nat) (c : Bool) (r : BitVec 4) : (t.retire n c).rG r = t.rG r :=
  Thread.rG_congr (t.retire_g n c) r
@[simp] theorem Thread.rQ_retire (n : Nat) (c : Bool) (r : BitVec 4) : (t.retire n c).rQ r = t.rQ r :=
  Thread.rQ_congr (t.retire_q n c) r
@[simp] theorem Thread.rM_retire (n : Nat) (c : Bool) (r : BitVec 2) : (t.retire n c).rM r = t.rM r :=
  Thread.rM_congr (t.retire_m n c) r
@[simp] theorem Thread.vReg_retire (n : Nat) (c : Bool) (r : BitVec 5) : (t.retire n c).vReg r = t.vReg r :=
  Thread.vReg_congr (t.retire_v n c) r
@[simp] theorem Thread.mark_retire (n : Nat) (c : Bool) (r : RegRef) : (t.retire n c).mark r = t.mark r :=
  Thread.mark_congr (t.retire_g n c) (t.retire_q n c) (t.retire_m n c) (t.retire_v n c) r
@[simp] theorem Thread.full_retire (n : Nat) (c : Bool) (r : RegRef) : (t.retire n c).full r = t.full r := by
  simp [Thread.full]
@[simp] theorem Thread.bad_retire (n : Nat) (c : Bool) (r : RegRef) : (t.retire n c).bad r = t.bad r := by
  simp [Thread.bad]
end

/-! ### Fetch reads the cores' XB, memory and its poison alone -/

theorem State.peekCode_congr {s t : State} (h : t.mem = s.mem) (p : Phys) (n : Nat) : t.peekCode p n = s.peekCode p n := by
  induction n generalizing p with
  | zero => rfl
  | succ n ih => simp only [State.peekCode, State.peek, State.bytes, h, ih]

theorem State.firstPoison_congr {s t : State} (h : t.poisoned = s.poisoned) (p : Phys) (n : Nat) :
    t.firstPoison p n = s.firstPoison p n := by
  induction n generalizing p with
  | zero => rfl
  | succ n ih =>
    have e : t.isPoisoned p = s.isPoisoned p := by simp [State.isPoisoned, h]
    simp only [State.firstPoison, ih]
    by_cases hp : s.isPoisoned p = true <;> simp [e, hp]

theorem fetchAt_congr {s t : State} (hc : t.cores = s.cores) (hm : t.mem = s.mem) (hp : t.poisoned = s.poisoned)
    (c : CoreId) (a : W64) (via : Via) : fetchAt t c a via = fetchAt s c a via := by
  have e1 : t.peekCode = s.peekCode := funext fun p => funext fun n => State.peekCode_congr hm p n
  have e2 : t.firstPoison = s.firstPoison := funext fun p => funext fun n => State.firstPoison_congr hp p n
  have e3 : t.isPoisoned = s.isPoisoned := funext fun p => by rw [State.isPoisoned, State.isPoisoned, hp]
  have e4 : t.peek = s.peek := funext fun p => funext fun n => by rw [State.peek, State.peek, State.bytes, State.bytes, hm]
  have e5 : t.core = s.core := funext fun c => by rw [State.core, State.core, hc]
  rw [fetchAt, fetchAt, e1, e2, e3, e4, e5]

@[simp] theorem fetchAt_modTh (s : State) (t : Tid) (f : Thread → Thread) (c : CoreId) (a : W64) (via : Via) :
    fetchAt (s.modTh t f) c a via = fetchAt s c a via :=
  fetchAt_congr (s := s) (t := s.modTh t f) rfl rfl rfl c a via
@[simp] theorem fetchAt_modMe (s : State) (f : Thread → Thread) (c : CoreId) (a : W64) (via : Via) :
    fetchAt (s.modMe f) c a via = fetchAt s c a via := fetchAt_modTh s s.cur f c a via

/-! ### The gate (R69) -/

/-- With a true guard, the mode that the instruction needs, readable sources and full destinations, it goes on. -/
theorem Thread.gate_go {t : Thread} {slot : Nat} {g : Guard} {priv : Bool} {srcs : List Src} {dsts : List RegRef}
    (hg : t.passes g) (hp : priv = false ∨ slot = 0) (hs : t.readable (srcs.map (·.ref))) (hd : t.allFull dsts) :
    t.gate slot g priv srcs dsts = .go := by
  have hs' : ∀ x ∈ srcs, t.full x.ref = true ∧ t.bad x.ref = false := fun x hx => hs _ (List.mem_map_of_mem hx)
  have e1 : srcs.find? (fun x => x.e && !t.full x.ref) = none := by
    rw [List.find?_eq_none]; intro x hx; simp [(hs' x hx).1]
  have e2 : srcs.find? (fun x => t.full x.ref && t.bad x.ref) = none := by
    rw [List.find?_eq_none]; intro x hx; simp [(hs' x hx).2]
  have e3 : srcs.filter (fun x => !t.full x.ref && !x.viaDest) = [] := by
    rw [List.filter_eq_nil_iff]; intro x hx; simp [(hs' x hx).1]
  have e4 : dsts.filter (fun r => !t.full r) = [] := by
    rw [List.filter_eq_nil_iff]; intro r hr; simp [hd r hr]
  have e5 : ¬ (priv = true ∧ slot ≠ 0) := by rcases hp with h | h <;> simp [h]
  unfold Thread.gate
  rw [if_neg (by simp [hg.1]), if_neg (by simp [hg.2.1]), if_neg hg.2.2, if_neg e5]
  simp only [e1, e2, e3, e4, List.map_nil, List.append_nil, if_true]

/-- With a false guard it is skipped, whatever else it needs (R66). -/
theorem Thread.gate_skip {t : Thread} {slot : Nat} {g : Guard} {priv : Bool} {srcs : List Src} {dsts : List RegRef}
    (hg : t.declines g) : t.gate slot g priv srcs dsts = .skip := by
  unfold Thread.gate
  rw [if_neg (by simp [hg.1]), if_neg (by simp [hg.2.1]), if_pos hg.2.2]

theorem gatedHold_go {n : Nat} {g : Guard} {priv : Bool} {srcs : List Src} {dsts : List RegRef}
    {pre : State → Option Hold} {body : State → State} {s : State} (hg : s.me.passes g) (hp : priv = false ∨ s.cur.slot = 0)
    (hs : s.me.readable (srcs.map (·.ref))) (hd : s.me.allFull dsts) (hpre : pre s = none) :
    gatedHold n g priv srcs dsts pre body s = body s := by
  simp only [gatedHold, Thread.gate_go hg hp hs hd, hpre]

theorem gated_go {n : Nat} {g : Guard} {priv : Bool} {srcs : List Src} {dsts : List RegRef}
    {body : State → State} {s : State} (hg : s.me.passes g) (hp : priv = false ∨ s.cur.slot = 0)
    (hs : s.me.readable (srcs.map (·.ref))) (hd : s.me.allFull dsts) :
    gated n g priv srcs dsts body s = body (s.modMe Thread.enterRegion) := gatedHold_go hg hp hs hd rfl

theorem gatedTrap_go {n : Nat} {g : Guard} {priv : Bool} {srcs : List Src} {dsts : List RegRef}
    {body : State → State} {s : State} (hg : s.me.passes g) (hp : priv = false ∨ s.cur.slot = 0)
    (hs : s.me.readable (srcs.map (·.ref))) (hd : s.me.allFull dsts) :
    gatedTrap n g priv srcs dsts body s = body s := gatedHold_go hg hp hs hd rfl

theorem gatedHold_skip {n : Nat} {g : Guard} {priv : Bool} {srcs : List Src} {dsts : List RegRef}
    {pre : State → Option Hold} {body : State → State} {s : State} (hg : s.me.declines g) :
    gatedHold n g priv srcs dsts pre body s = retire n false (s.modMe Thread.enterRegion) := by
  simp only [gatedHold, Thread.gate_skip hg, State.begin]

/-- A register instruction that goes on: its effect on the thread, then retirement. -/
theorem simple_go {g : Guard} {srcs : List Src} {dsts : List RegRef} {f : Thread → Thread} {s : State}
    (hg : s.me.passes g) (hs : s.me.readable (srcs.map (·.ref))) (hd : s.me.allFull dsts) :
    simple g srcs dsts f s = s.modMe fun t => Thread.retire 1 false (f t.enterRegion) := by
  simp only [simple, gated_go hg (.inl rfl) hs hd, retire, State.modMe_modMe]

theorem controlHold_go {g : Guard} {srcs : List Src} {dsts : List RegRef} {pre : State → Option Hold}
    {body : State → State} {s : State} (hg : s.me.passes g) (hs : s.me.readable (srcs.map (·.ref)))
    (hd : s.me.allFull dsts) (hpre : pre s = none) (hc : (s.me.advance 1).mismatch = false) :
    controlHold g srcs dsts pre body s = body s := by
  simp only [controlHold, gatedHold_go hg (.inl rfl) hs hd hpre, hc, Bool.false_eq_true, if_false]

/-! ### What an instruction leaves alone -/

theorem SameMemory.refl (s : State) : SameMemory s s := ⟨fun _ => rfl, rfl, rfl⟩

theorem OnlyThread.modMe (s : State) (f : Thread → Thread) : OnlyThread s (s.modMe f) :=
  ⟨rfl, fun _ hk => s.modMe_look hk⟩

/-- A register instruction of `n` words that changes the registers `rs` at most. -/
theorem Retires.modMe {s : State} {n : Nat} {close : Bool} {rs : List RegRef} {f : Thread → Thread}
    (h1 : Thread.sameBut rs s.me.enterRegion (f s.me.enterRegion))
    (h2 : Thread.sameRest s.me.enterRegion (f s.me.enterRegion)) (h3 : (f s.me.enterRegion).pc = s.me.enterRegion.pc) :
    Retires n rs s (s.modMe fun t => Thread.retire n close (f t.enterRegion)) := by
  refine ⟨OnlyThread.modMe _ _, ⟨fun _ => rfl, rfl, rfl⟩, ?_, ?_, ?_, ?_, ?_⟩
  · intro r hr
    rw [State.me_modMe]
    refine Thread.sameReg_congr (Thread.retire_g _ _ _) (Thread.retire_q _ _ _) (Thread.retire_m _ _ _)
      (Thread.retire_v _ _ _) ?_
    have h := h1 r hr
    cases r <;> simpa [Thread.sameReg] using h
  · rw [State.me_modMe]
    unfold Thread.sameRest at *
    rw [Thread.retire_eq, h2, Thread.enterRegion_eq]
  · rw [State.me_modMe, Thread.retire_pc, h3, Thread.enterRegion_pc]
  · rw [State.me_modMe, Thread.retire_hold]
  · rw [State.me_modMe, Thread.retire_blocked]

/-! ### A pending join at its block's end -/

section
variable (t : Thread) (h : BitVec 19) (live : BitVec 16) (vals : List W64) (now : Nat) (regs : List Await)

@[simp] theorem Thread.blockOn_hold : (t.blockOn now regs).hold = .none := rfl
@[simp] theorem Thread.blockOn_pjoin : (t.blockOn now regs).pjoin = t.pjoin := rfl
@[simp] theorem Thread.blockOn_pc : (t.blockOn now regs).pc = t.pc := rfl
@[simp] theorem Thread.continueAt_bh : (t.continueAt h live vals).bh = h := rfl
@[simp] theorem Thread.continueAt_pjoin : (t.continueAt h live vals).pjoin = none := rfl
@[simp] theorem Thread.continueAt_hold : (t.continueAt h live vals).hold = .none := rfl

end

/-- A join that continues waits for its empty registers and changes nothing else (R48). -/
theorem applyJoin_waits {tid : Tid} {s : State} {cont : Nat} {live : BitVec 16} {vals : List W64}
    (hj : (s.th tid).pjoin = some (.continue_ cont live vals)) (he : (s.th tid).emptyLive live ≠ []) :
    applyJoin tid s = s.modTh tid fun t => t.blockOn (s.taper tid.core.node) (t.emptyLive live) := by
  simp only [applyJoin, hj, ne_eq, he, not_false_eq_true, if_true]

/-! ### Answers to another package (R346) -/

@[simp] theorem wayOpen_self (s : State) (n : Nat) : wayOpen s n n = true := by simp [wayOpen]
@[simp] theorem answerHeld_self (s : State) (n : Nat) : answerHeld s n n = false := by simp [answerHeld]

/-- Over an open way a wait ends at once; with no way left it ends as LAPSED; else its outcome is kept, and nothing else changes. -/
theorem answerWait_cases (w : QWait) (ok : Bool) (x : Option W64) (f : Option FaultInfo) (s : State) :
    (wayOpen s w.node w.tid.core.node = true ∧
      answerWait w ok x f s = (match f with | some g => faultWait w g s | none => endWait w ok x s)) ∨
    (wayOpen s w.node w.tid.core.node = false ∧ wayLost s w.node w.tid.core.node = true ∧
      answerWait w ok x f s = faultWait w ⟨.lapsed, 0, 0, 4⟩ s) ∨
    (answerHeld s w.node w.tid.core.node = true ∧ answerWait w ok x f s = { s with waits := (answerWait w ok x f s).waits }) := by
  cases h : wayOpen s w.node w.tid.core.node
  · cases l : wayLost s w.node w.tid.core.node
    · exact .inr (.inr ⟨by simp [answerHeld, h, l], by simp [answerWait, h, l]⟩)
    · exact .inr (.inl ⟨rfl, rfl, by simp [answerWait, h, l]⟩)
  · exact .inl ⟨rfl, by cases f <;> simp [answerWait, h]⟩

/-- What a fetch reports as poisoned lies in a poisoned unit. -/
theorem State.firstPoison_isPoisoned {s : State} {p q : Phys} {n : Nat} (h : s.firstPoison p n = some q) : s.isPoisoned q = true := by
  induction n generalizing p with
  | zero => simp [State.firstPoison] at h
  | succ n ih =>
    rw [State.firstPoison] at h
    split at h
    · cases h; assumption
    · exact ih h

end Sys2Proof.Machine
end

