-- ==== Sys2Proof/Tests/Slice0.lean ====
section
/-!
SUPPORT. Tests: words written out from the encoding tables, ill-formed instructions that are refused, single steps with the
results that the spec's own examples and tables give, and for every statement with hypotheses a state that meets them.
-/

open Sys2Proof Sys2Proof.Machine Sys2Proof.Claims

namespace Sys2Proof.Tests

set_option Elab.async false

/-! ### States for the tests -/

def c0 : CoreId := ⟨0, 0, 0, 0⟩
def k0 : ClusterId := ⟨0, 0, 0⟩
def h0 : DieId := ⟨0, 0⟩
def u0 : Tid := ⟨c0, 0⟩
def u1 : Tid := ⟨c0, 1⟩
/-- The module after reset. -/
def z : State := State.reset
/-- No guard. -/
def g0 : Guard := ⟨false, 0⟩
/-- A G source with E = 0, and one with E = 1. -/
def r (n : BitVec 4) : GSrc := ⟨false, n⟩
def re (n : BitVec 4) : GSrc := ⟨true, n⟩
/-- A header of a kind and a length, with every other field 0. -/
def hdrOf (kind len : Nat) : W64 := BitVec.ofNat 64 (2 ^ 63 + kind * 2 ^ 60 + len)
/-- The block that a header of length 1 over zero words makes. -/
def blkOf (kind : Nat) : Block := ⟨hdrOf kind 1, [0], false⟩
/-- Put a doubleword into the scratchpad of core 0. -/
def put (o : Nat) (x : W64) (s : State) : State := s.poke (scratchAt c0 o) (leBytes x.toNat 8)
/-- Change the issuing thread. -/
def me (f : Thread → Thread) (s : State) : State := s.modMe f
/-- Slot 1 runs the one word of the block at 0x300; a trap handler stands at 0x100, an overlay handler at 0x200. -/
def s1 : State :=
  me (fun t => { t with life := .running, tvb := 0x100, bh := 0x300, pc := 0x308, block := some (blkOf 0) })
    { (put 0x300 (hdrOf 0 1) (put 0x200 (hdrOf 2 1) (put 0x100 (hdrOf 1 1) z))).modCore c0 (fun c => { c with ovh := 0x200, xb := 0x10000 }) with
      cur := u1 }
/-- Slot 0 in the same place. -/
def s0 : State :=
  me (fun t => { t with life := .running, tvb := 0x100, bh := 0x300, pc := 0x308, block := some (blkOf 0) })
    { (put 0x300 (hdrOf 0 1) (put 0x200 (hdrOf 2 1) (put 0x100 (hdrOf 1 1) z))).modCore c0 (fun c => { c with ovh := 0x200, xb := 0x10000 }) with
      cur := u0 }
/-- G registers with values. -/
def gs (l : List (BitVec 4 × W64)) (s : State) : State := me (fun t => l.foldl (fun t e => t.wG e.1 e.2) t) s
/-- Registers empty. -/
def empty (l : List RegRef) (s : State) : State := me (fun t => l.foldl Thread.empty t) s
/-- Addresses of core 0's scratchpad: the own window and the cluster window. -/
def wnd (o : Nat) : W64 := BitVec.ofNat 64 (0xF0 * 2 ^ 56 + o)
def cwd (o : Nat) : W64 := BitVec.ofNat 64 (0xF1 * 2 ^ 56 + 2 ^ 32 + o)
/-- An answer to come, for a register. -/
def pend (id : Nat) (dst also : Option RegRef) (val : PVal) : Pending :=
  ⟨id, 0x308, 0, dst, also, none, 1, val, [], false, false, 0, false, true⟩
/-- Add answers to come to the issuing thread. -/
def awaits (ps : List Pending) (s : State) : State := me (fun t => { t with pending := t.pending ++ ps }) s

/-- Slot 1 with a poisoned G register. -/
def spoilt (n : BitVec 4) : State := me (fun t => t.spoil (.g n)) s1
/-- Slot 1 in a trap handler, with the trap registers given. -/
def handling (cause tpc bh : W64) (s : State) : State :=
  me (fun t => { t with inHandler := true, tcause := cause, tpc := tpc, tinfo := #v[0, 0, 0, bh] }) s

/-- A scratchpad place of core 0, marked SYSTEM, and an access of slot 1 on its way to it. -/
def p2 : Phys := scratchAt c0 0x20000
def sysm (s : State) : State := { s with sysMem := [⟨p2.key, 0x10000⟩] }
def accAt (p : Phys) (op : AccOp) (ea : W64) (n : Nat) : Acc :=
  ⟨7, u1, 0, 0, .thread 7 0, 0x308, op, ea, n, .done p, false, false, 0x10000, false, false, 7⟩
def acc2 (op : AccOp) (n : Nat) : Acc := accAt p2 op (wnd 0x20000) n
def flying (a : Acc) (q : Pending) : State := sysm { awaits [q] s1 with accs := [a] }
/-- A wait of slot 1 on its way. -/
def wait2 (k : WaitKind) (addr : W64) (t : Nat) : QWait := ⟨7, u1, 0, 0x308, k, addr, 2, t, .sent, none, none⟩
def waiting (w : QWait) : State := sysm { me (fun t => { t with hold := .wait }) s1 with waits := [w] }
/-- A wait of slot 2, queued on the same word. -/
def wait3 (seq : Nat) (k : WaitKind) : QWait := ⟨seq, ⟨c0, 2⟩, 0, 0x308, k, wnd 0x20000, 2, 9, .queued 0, none, some p2⟩
/-- A TLBI of slot 0 for core 0, of every leaf of space 0, not yet acknowledged. -/
def tlbi7 : TlbiReq := ⟨7, u0, [c0], [], [c0], 2, 0, 0, 0⟩
/-- With no wait queued, what is asked of those queued holds. -/
theorem none_queued {P : QWait → Prop} {s : State} (h : (s.waits.any QWait.isQueued) = false) :
    ∀ v ∈ s.waits, v.isQueued = true → P v :=
  fun v hv hq => absurd (List.any_eq_true.mpr ⟨v, hv, hq⟩) (by simp [h])

/-- Node 0 is brought up. -/
def up (s : State) : State := s.modPkg 0 fun q => { q with phase := 4 }
/-- Entry 1 of die 0: a range over the place that context 0 owns; entry 2 a group, entry 3 a hold of slot 1. -/
def lock3 : LBody := .lock (wnd 0x20000) p2.key u1 false
def held (s : State) : State :=
  s.modDie h0 fun d => { d with
    leases := [(1, ⟨.live, .range, 1, 1000, 0, 0, 0, .range (wnd 0x20000) 0x10000 p2.key true, false⟩),
      (2, ⟨.live, .group, 1, 1000, 0, 0, 0, .group 2 [] false, false⟩), (3, ⟨.live, .lock, 1, 1000, 0, 0, 0, lock3, false⟩)] }
def range1 : W64 := handleOf h0 .range 1 1
def group2 : W64 := handleOf h0 .group 2 1
def hold3 : W64 := handleOf h0 .lock 3 1
/-- A lease instruction or a request of slot 1 on its way. -/
def req (i : Instr) (a b : W64) : LeaseReq := ⟨7, u1, 0, i, a, b, 0x308, none⟩
def asking (r : LeaseReq) (s : State) : State := { held s with leaseReqs := [r] }
/-- A lock request of slot 1, its key on its way. -/
def keyAcc : Acc := ⟨8, u1, 0, 0, .lockKey 7, 0x308, .key, wnd 0x20000, 64, .done p2, false, false, 0x10000, false, false, 8⟩
def locking (w : QWait) : State := { held (me (fun t => { t with hold := .wait }) s1) with waits := [w], accs := [keyAcc] }
/-- A block at 0x300 that names a reconvergence block at 0x340 with a live register, and a task block at 0x380. -/
def fk (f : Thread → Thread) : State :=
  put 0x380 (hdrOf 0 1 + 0x100#64 * 4) (put 0x340 (hdrOf 0 1 + 0x100#64)
    (gs [(1, 9), (2, wnd 0x20000)] (me (fun t => f { t with block := some ⟨hdrOf 0 1 + 8 * 2 ^ 23, [0], false⟩ }) s1)))
def forkRec (n : Nat) : ForkRec := ⟨0x380, 0x6, n, wnd 0x20000, [0, 0, 0, 0, 0, 0], u1, 1, none⟩
def forkSpot (n : Nat) : ForkRec := { forkRec n with spot := some 0 }
/-- A fault of slot 1 reported by a home. -/
def ans1 : Answer := ⟨⟨.access, 64, 0, 1⟩, 0x308, 0, 7, false, false⟩
def stop1 : StopInfo := ⟨2, ⟨.access, 64, 0, 1⟩, 0x308, 0x300, false⟩
def virtAcc (t : Trans) : Acc := ⟨7, u1, 0, 0, .thread 7 0, 0x308, .load true, 0x200000, 8, t, false, false, 0x10000, false, false, 7⟩
def virtual (t : Trans) : State :=
  State.modPkg { awaits [pend 7 (some (.g 3)) none (.g 0)] s1 with accs := [virtAcc t] } 0 fun q => { q with phase := 3 }
/-- The same of slot 0. -/
def acc0 (t : Trans) : Acc := { virtAcc t with tid := u0 }
def virtual0 (t : Trans) : State :=
  State.modPkg { awaits [pend 7 (some (.g 3)) none (.g 0)] s0 with accs := [acc0 t] } 0 fun q => { q with phase := 3 }
/-- A reply of core 0's service thread to slot 1's fault, on its way to core 0's agent. -/
def agentP : Phys := ⟨0, 0, .agent 0 0, 8⟩
def replyAcc : Acc := ⟨8, u0, 0, 0, .thread 9 0, 0x308, .store (leBytes 0 8), windowAddr agentP, 8, .done agentP, false, false, 0, false, false, 8⟩
def replying (s : State) : State :=
  let s := s.modTh u0 fun t => { t with life := .running, pending := [pend 9 none none (.g 0)] }
  { s with accs := s.accs ++ [replyAcc] }
def putH (o : Nat) (x : W64) (s : State) : State := s.poke ⟨0, 0, .hbm, o⟩ (leBytes x.toNat 8)

def busyTable : State := { asking (req (.lgroup 3 (r 2) (r 4) 5 g0) (2) (100)) (up s1) with waits := List.replicate 262143 ⟨7, u1, 0, 0x308, .lock 50 3, wnd 0x20000, 2, 9, .queued 0, some 5, some p2⟩ }
theorem someEntry_of_replicate (s : State) (h : DieId) (w : QWait) (n : Nat) (p : Phys) (i : Nat) (hw : s.waits = List.replicate n w)
    (hr : w.resv = some i) (hk : w.key = some p) (hp : p.home = h) (hi : (s.die h).leases.look i = none)
    (hn : Config.leaseEntries ≤ n + 1) : someEntry s h = false := by
  simp only [someEntry, hw, List.filter_replicate, hr, hk, hp, hi, decide_true, Bool.and_self, if_true, List.length_replicate]
  exact decide_eq_false (by omega)
theorem busy_table : someEntry busyTable h0 = false :=
  someEntry_of_replicate busyTable h0 _ 262143 p2 5 rfl rfl rfl rfl (by decide +kernel) (by decide +kernel)

/-- Write to an agreed place whatever bytes: of slot 0's engine writes to scratchpad none is refused. -/
theorem engWrite_taken {s : State} {tid : Tid} {ctx : W64} {p : Phys} {ea : W64} {n : Nat} (h1 : p.isScratch = true) (h2 : tid.slot = 0)
    (h3 : granuleCheck s ctx p ea = none) (h4 : bindingCheck s tid p ea = none) (h5 : s.isPoisoned p = false) (ls : List (Nat × Byte)) :
    homeRefusal s tid ctx p ea n (.engWrite ls) = none := by
  obtain ⟨a, b, r, o⟩ := p
  cases r <;> simp_all [Phys.isScratch, homeRefusal, homeRefusalXB, notYetServed, homeCheck, servedBy, belowXB, Phys.plus]
/-- A block-range record, a team and a fork record of it. -/
def range0 (entry : W64) : List W64 := [entry, supervisorCtx 0 0, 0, 0x100000001, 5, 1, 0, 0]
def team3 (ms : List Tid) : Team := ⟨.running, supervisorCtx 0 0, 0, 1, 0, 0, 0, 0x100, 1, ms, c0, [], false, none, false⟩
def inboxOf (r : List W64) : State := up (z.modCore c0 fun c => { c with inbox := [r] })
/-- A sub-page window of core 0. -/
def windowed (s : State) : State := s.modCore c0 fun c => { c with spw := #v[0x200001, 0, 0, 0] }
def teams (ms : List Tid) (s : State) : State := s.modCluster k0 fun k => { k with teams := [(3, team3 ms)] }
/-- An engine command of a slot, and the queues of cluster 0 with it. -/
def cmdBy (t : Tid) (i : Instr) (a b : W64) (w : List W64) : Cmd := ⟨7, t, 0, 0, i, a, b, w, 0, .known true, 0x308⟩
def cmdOf (i : Instr) (a b : W64) (w : List W64) : Cmd := cmdBy u1 i a b w
def copying (x : Cmd) (s : State) : State := s.modCluster k0 fun k => { k with copyQ := [x] }
def sending (x : Cmd) (s : State) : State := s.modCluster k0 fun k => { k with msgQ := [x] }
/-- A layout of one doubleword; as a destination with a flag. -/
def lay (a : W64) : List W64 := [a, 8, 1, 1, 1, 1, 0, 0]
def layF (a f : W64) : List W64 := [a, 8 + 0x10000, 1, 1, 1, 1, f, 0]
def cpyI : Instr := .cpy 3 (r 2) (r 4) 0 g0
def cpyX (a b : List W64) : Cmd := cmdOf cpyI 0 0 (a ++ b)
/-- A copy whose source is ZERO. -/
def zeroX : Cmd := cpyX [0, 8 + 0x20000, 1, 1, 1, 1, 0, 0] (lay (wnd 0x21000))
def jobOf (dst : List W64) (chain : Option (ClusterId × Nat)) (n : Nat) (rf : Option FaultInfo) : Job :=
  ⟨7, cpyX (lay (wnd 0x20000)) dst, chain, lay (wnd 0x20000), dst, [], n, n, 8 * n, rf, none⟩
def chainOf (st : Nat) (job : Option Nat) : Chain := ⟨st, wnd 0x20000, false, u0, job, 0⟩
/-- A chain record that software has handed over, at 0x20000. -/
def chainRec (s : State) : State :=
  s.poke p2 ((lay (wnd 0x30000) ++ (lay (wnd 0x31000)).set 7 1).flatMap fun x => leBytes x.toNat 8)
def chained (ch : Chain) (s : State) : State := s.modCluster k0 fun k => { k with chains := k.chains.set 1 ch }
/-- An endpoint over a ring of 4 entries at 0x20000, a receive, and a message of one doubleword. -/
def recv0 (done : W64) (dst : List W64) : Posted := ⟨range1, 5, BitVec.allOnes 64, done, dst, u0, 0, 0⟩
def ep9 (ps : List Posted) : Endpoint := ⟨true, 1, 0, 0, 1, wnd 0x20000, 4, 0, ps, (p2.plus 256).key, false, u0⟩
def ringAt (e : Endpoint) (s : State) : State := s.modDie h0 fun d => { d with endpoints := [(9, e)] }
def sendX : Cmd := cmdOf (.send 3 (r 2) (r 4) 5 g0) 0 0 (lay (wnd 0x20000))
def msg7 (ph : MsgPhase) (r : Option Posted) (us : List Nat) (acc : Nat) : Msg :=
  ⟨7, sendX, 5, h0, 9, 1, 10, lay (wnd 0x20000), ph, 0, 0, r, none, 0, [(0, [1, 0, 0, 0, 0, 0, 0, 0])], us, us.length, acc, none, none, true, none, false, 0⟩
def messages (m : Msg) (s : State) : State := { held s with msgs := [m] }

theorem onCores_of (c : ClusterId) (f : Nat → Cmd) (hf : ∀ i, (f i).tid.core = coreIn c i) (n : Nat) :
    OnCores c ((List.range n).map f) := by
  intro i x h
  obtain ⟨y, hy, rfl⟩ := Option.map_eq_some_iff.mp (List.getElem?_map .. ▸ h)
  obtain ⟨_, rfl⟩ := List.getElem?_eq_some_iff.mp hy
  simpa using hf _
/-- A matrix command of slot 1 of core `k` of cluster 0, and that command at the head of the queues of all eight cores. -/
def mxCmd (i : Instr) (k : Nat) : Cmd := ⟨7 + k, ⟨coreIn k0 k, 1⟩, 0, 0, i, wnd 0x20000, 64, [], 0, .known true, 0x308⟩
def mxAll (i : Instr) : List Cmd := (List.range 8).map (mxCmd i)
def phase (n : Nat) (s : State) : State := s.modPkg 0 fun q => { q with phase := n }
def gangOf (i : Nat → Instr) (arr : List Nat) : State :=
  (List.range 8).foldl (fun s k => s.modCore (coreIn k0 k) fun q => { q with matrixQ := [mxCmd (i k) k] })
    ((phase 3 z).modCluster k0 fun q => { q with arrived := arr })
/-- The slices with a weight bank loaded. -/
def loaded (s : State) : State :=
  (List.range 8).foldl (fun s k => s.modSlice (coreIn k0 k) fun q => { q with active := ⟨true, 0, 0, []⟩ }) s
def mmaI : Instr := .mma 3 (r 2) (r 4) 0 g0
def gang7 (i : Instr) (n : Nat) : Gang := ⟨6, mxAll i, 64, [], n, [], true⟩
/-- An MMA of cluster 0 whose first row has arrived at some cores, and its read of core 0's row slot. -/
def gangRow (l : List Nat) (rf : Map Status) : Gang :=
  { gang7 mmaI 0 with rows := 0, shut := false, refused := rf, got := l.map fun k => (k, List.replicate 64 0) }
def rowAcc : Acc := { accAt p2 .engRead (wnd 0x20000) 64 with id := 20, agent := .mxRow k0 0 0 }
def rowState (g : Gang) : State :=
  sysm { (phase 4 s1).modCluster k0 fun k => { k with mma := [g] } with accs := [rowAcc] }
def inCluster (f : Cluster → Cluster) (s : State) : State := s.modCluster k0 f
/-- One slice command at the head of core 0's queue. -/
def sliceOf (i : Instr) : State := (phase 3 z).modCore c0 fun q => { q with matrixQ := [mxCmd i 0] }
/-- PREEMPT and SIGNAL of slot 0 for team 3, which has class 1. -/
def ask (i : Instr) : Cmd := cmdBy u0 i 0 0 [supervisorCtx 0 0, 3, 0x200000000 + 100, wnd 0x20000, 0x6000, 0, 0, 0]
def sig (i : Instr) : Cmd := cmdBy u0 i 0 0 [supervisorCtx 0 0, 3, 100, wnd 0x20000, 0x6000, 0, 0, 0]
def launching (x : Cmd) (s : State) : State := s.modCluster k0 fun k => { k with launchQ := [x] }
def teamIn (st : TeamState) (ms : List Tid) (v : Option Saved) : Team :=
  { team3 ms with state := st, gridf := 0x4000000, saved := v, complete := true }
def withTeam (m : Team) (s : State) : State := s.modCluster k0 fun k => { k with teams := [(3, m)] }
def pre7 (resume : Bool) (ds : List (Tid × Option Nat)) (next : Nat) : Preempt :=
  ⟨9, ask (.preempt 3 (r 2) 0 g0), k0, 3, resume, 2, false, 0, 100, wnd 0x20000, ds, 0, 383, next, 0, false, false⟩
def pre7x : Preempt := { pre7 false [] 0 with abandoned := true }
def preempting (p : Preempt) (m : Team) (s : State) : State := { withTeam m s with preempts := [p] }
def save7 (t : Thread) : Saved := ⟨9, [], [(tidKey u1, t)], [], [], 24576⟩
/-- A launch of slot 0 with one block, and its grid at the root. -/
def head0 (k : W64) : List W64 :=
  [0x300, 0x100000001, 1 + 2 ^ 32 + 3 * 2 ^ 39 + k, 3, 2 ^ 32, 1, 0, wnd 0x20000, wnd 0x21000, 0, 0, 0, 0, 0, 0, 0]
def launchX (k : W64) : Cmd :=
  { cmdBy u0 (.launch 3 (r 2) (r 4) 0 g0) (supervisorCtx 0 0) 0 (head0 k) with ctx := supervisorCtx 0 0 }
/-- The launch of a context that is no more. -/
def dead0 : Cmd := { launchX 0 with a := handleOf h0 .ctx 1 1 }
def grid5 (k : W64) : Grid :=
  ⟨5, launchX k, u0, 0, [0], [0], [(0, [(0, 0)])], false, 0, 0, [], [], [], 0, 0, 0, 0, 0, [], [], [], [], 0, [], none, 0, false, false⟩
/-- Die 0 is of partition 1, with clusters 0 and 1. -/
def parted : State := z.modDie h0 fun d => { d with part := 0x30001 }
def gridIn (g : Grid) (s : State) : State := s.modPkg 0 fun q => { q with phase := 4, grids := [(5, g)] }

/-- Package 0 with the firmware running and one record in its host ring. -/
def hostWith (r : List W64) (s : State) : State :=
  ((phase 4 s).poke (scratchAt c0 0x7E000) (r.flatMap fun w => leBytes w.toNat 8)).poke (scratchAt c0 0x7E804) [1]
def hostRec (k : W64) : List W64 := [k, 9, wnd 0x20000, 0, 0, 0, 0, 0]
/-- The launch header in memory. -/
def headed (s : State) : State := (sysm s).poke p2 ((head0 0).flatMap fun w => leBytes w.toNat 8)
def grid6 : Grid := { grid5 0 with cmd := { launchX 0 with a := handleOf h0 .ctx 1 1 } }
def ctx1 : Lease := ⟨.live, .ctx, 1, 1000, 0, supervisorCtx 0 0, 0, .ctx 0 0 0, false⟩
def booting (f : Package → Package) : State := z.modPkg 0 f
/-- Strand 0 of package 0, joined to strand 5 of package 1, of whose link context 0 holds the path. -/
def strand0 (f : Strand → Strand) (s : State) : State :=
  ({ s with group := [0, 1] }.modPkg 0 fun q => { q with
      strands := [(0, f { Strand.reset with up := true, active := 0xFF, peer := 1, far := 5 })] }).modDie h0 fun d => { d with
    leases := [(1, ⟨.live, .path, 1, 1000, 0, 0, 0, .path 1, false⟩)] }
def far1 : Phys := ⟨1, 0, .hbm, 0⟩
def farAcc (ag : Agent) : Acc := { accAt far1 (.load true) 0x200000 8 with agent := ag }
def outward (ag : Agent) : State := { strand0 id (awaits [pend 7 (some (.g 3)) none (.g 0)] s1) with accs := [farAcc ag] }
def leg01 : Leg := ⟨0, 1, 0, 0⟩
/-- A message to node 1 that waits at the fabric die. -/
def farMsg : Msg := { msg7 (.waiting false) none [] 0 with dest := ⟨1, 0⟩, headerOut := false }
/-- Wavelength 7 of a strand has had 21 bit errors in its window. -/
def noisy (x : Strand) : Strand := { x with errs := x.errs.set 7 [21], risen := 0x80 }
def peerCap (s : State) : State := s.modPkg 0 fun q => { q with caps := [(256, ⟨65536, 8, 1, [], none, 0⟩)] }
/-- Slot 1 of a running package at a word. -/
def at1 (w : W32) : State := me (fun t => { t with block := some ⟨hdrOf 0 1, [w], false⟩ }) (phase 1 s1)
def issue0 (s : State) : State := { s with sched := [.issue c0 []] }
def due (e : Instr) (s : State) : State := { s with sched := [.event e] }
/-- The state that an instruction leaves. -/
def after (i : Instr) (s : State) : State :=
  match exec i s with
  | .next t => t
  | _ => s
/-- A wait of slot 1 whose time is over. -/
def lateWait : State :=
  (waiting ⟨7, u1, 0, 0x308, .full, wnd 0x20000, 2, 9, .queued 0, none, none⟩).modPkg 0 fun q => { q with taper := 9 }
/-- Core 0 has a fork record of its own to start. -/
def forky : State := windowed (up (teams [u1] (s1.modCore c0 fun c => { c with forks := [forkRec 3] })))
theorem dueFork_forky : dueFork forky = some (execForkRecordStart c0 (forkPick forky c0)) := by
  have hc : forky.cores = [(0, forky.core c0)] := by decide +kernel
  have ht : forkTask forky (coreOfKey 0) = some (c0, forkRec 3, team3 [u1], ⟨c0, 2⟩) := by decide +kernel
  have hs : stacksFit forky (team3 [u1]).space [⟨c0, 2⟩] (forkPick forky (coreOfKey 0) - 1024) = true := by decide +kernel
  simp only [dueFork, hc, List.findSome?_cons, ht, hs, and_true]
  rfl
/-- A malformed record at the head of core 0's inbox. -/
def dropping : State := inboxOf (range0 0x301)
theorem dueTeam_dropping : dueTeam dropping = some (ownPlace dropping c0) := by
  have hc : dropping.cores = [(0, dropping.core c0)] := by decide +kernel
  have hi : (dropping.core (coreOfKey 0)).inbox = [range0 0x301] := by decide +kernel
  have hm : recKind (range0 0x301) = 0 ∧ (dropping.core (coreOfKey 0)).halted = false ∧
      movesInbox dropping (coreOfKey 0) (ownPlace dropping (coreOfKey 0)) = true := by decide +kernel
  simp only [dueTeam, hc, List.findSome?_cons, hi, hm, and_self, if_true]
  rfl
/-- A host record for a die whose service core has halted. -/
def dieOff (r : List W64) : State := (hostWith r z).modCore ⟨0, 1, 0, 0⟩ fun c => { c with halted := true }
def fetching (f : Fetch) : State := me (fun t => { t with block := none, fetch := some f }) (phase 1 s1)
/-- A checked block whose CRC does not match. -/
def checked (ckr : Bool) : State :=
  me (fun t => { t with pc := 0x30C, block := some ⟨hdrOf 0 1 + 0x0800000000000000, [0], true⟩, ckr := ckr }) (phase 1 s1)
def port0 : Phys := ⟨0, 0, .agent 0 0, 0x100⟩
def portAcc : Acc := accAt port0 (.port [1]) (BitVec.ofNat 64 (0xF1 * 2 ^ 56 + 2 ^ 23 + 0x100)) 64

theorem witness_scalarResults_0 : ∃ (i : Instr) (s : State) (g : Guard) (rs : List RegRef) (d : BitVec 4) (v :
    W64) (n : Nat), scalarForm s.me i = some (g, rs, d, v, n) ∧ s.me.passes g ∧ s.me.readable rs ∧ s.me.full (.g d)
    = true :=
  ⟨.add 1 (r 2) (r 3) g0, gs [(2, 5), (3, 7)] s1, _, _, _, _, _, rfl, by decide +kernel⟩

theorem witness_bitCounts_0 : ∃ a : W64, ∃ i : Nat, i < 64 ∧ 64 - (clzRes a).toNat ≤ i :=
  ⟨1, 63, by decide +kernel⟩

theorem witness_bitCounts_1 : ∃ a : W64, a ≠ 0 :=
  ⟨1, by decide +kernel⟩

theorem witness_bitCounts_2 : ∃ a : W64, a = 0 :=
  ⟨0, by decide +kernel⟩

theorem witness_bitCounts_3 : ∃ a : W64, ∃ i : Nat, i < (ctzRes a).toNat :=
  ⟨8, 2, by decide +kernel⟩

theorem witness_bitCounts_4 : ∃ a : W64, a ≠ 0 :=
  ⟨8, by decide +kernel⟩

theorem witness_bitCounts_5 : ∃ a : W64, a = 0 :=
  ⟨0, by decide +kernel⟩

theorem witness_bitCounts_6 : ∃ a : W64, ∃ i : Nat, i < 64 :=
  ⟨5, 63, by decide +kernel⟩

theorem witness_bitCounts_7 : ∃ a : W64, ∃ i : Nat, i < 64 :=
  ⟨5, 63, by decide +kernel⟩

theorem witness_bitFields_0 : ∃ (p : BitVec 6) (l : BitVec 5) (a old : W64), ∃ i : Nat, p.toNat + l.toNat + 1 ≤
    64 ∧ i < 64 :=
  ⟨32, 31, 0x123456789, 0, 63, by decide +kernel⟩

theorem witness_division_0 : ∃ (i : Instr) (s : State) (g : Guard) (a b : GSrc) (d : BitVec 4) (v : W64),
    divisionForm s.me i = some (g, a, b, d, v) ∧ d ≠ 0 ∧ s.me.passes g ∧ s.me.readable [.g a.r, .g b.r] ∧ s.me.full
    (.g d) = true ∧ FreshName s :=
  ⟨.div 4 (r 2) (r 3) g0, gs [(2, 7)] s1, _, _, _, _, _, rfl, by decide +kernel⟩

theorem witness_divisionToG0_0 : ∃ (i : Instr) (s : State) (g : Guard) (a b : GSrc) (v : W64), divisionForm s.me
    i = some (g, a, b, 0, v) ∧ s.me.passes g ∧ s.me.readable [.g a.r, .g b.r] :=
  ⟨.rem 0 (r 2) (r 3) g0, gs [(2, 7)] s1, _, _, _, _, rfl, by decide +kernel⟩

theorem witness_predicateResults_0 : ∃ (i : Instr) (s : State) (g : Guard) (rs : List RegRef) (d : BitVec 4) (v
    : Bool), predicateForm s.me i = some (g, rs, d, v) ∧ s.me.passes g ∧ s.me.readable rs ∧ s.me.full (.q d) = true
    :=
  ⟨.cmplt 2 (r 2) (r 3) g0, gs [(2, 7)] s1, _, _, _, _, rfl, by decide +kernel⟩

theorem witness_predicateWord_0 : ∃ (d : BitVec 4) (g : Guard) (s : State), s.me.passes g ∧ s.me.full (.g d) =
    true :=
  ⟨4, g0, empty [.q 3] s1, by decide +kernel⟩

theorem witness_predicateWord_1 : ∃ (a : GSrc) (g : Guard) (s : State), s.me.passes g ∧ s.me.readable [.g a.r] ∧
    (∀ q, s.me.full (.q q) = true) :=
  ⟨r 4, g0, gs [(4, 0xFFFF)] s1, by decide +kernel⟩

theorem witness_predicateWord_2 : ∃ (a : GSrc) (g : Guard) (s : State), s.me.passes g ∧ s.me.readable [.g a.r] ∧
    (∃ q, s.me.full (.q q) = false) :=
  ⟨r 4, g0, empty [.q 15] s1, by decide +kernel, by decide +kernel, ⟨15, by decide +kernel⟩⟩

theorem witness_falseGuard_0 : ∃ (i : Instr) (g : Guard) (n : Nat) (s : State), guardForm i = some (g, n) ∧
    s.me.declines g :=
  ⟨.addl 3 ⟨false, 5⟩ 1, ⟨false, 5⟩, 2, empty [.g 3] s1, by decide +kernel⟩

theorem witness_emptyOperands_0 : ∃ (i : Instr) (d : BitVec 4) (a b : GSrc) (g : Guard) (s : State), twoSource i
    = some (d, a, b, g) ∧ s.me.full (.q g.q) = false :=
  ⟨.add 1 (r 2) (re 3) ⟨true, 4⟩, 1, r 2, re 3, ⟨true, 4⟩, empty [.q 4, .g 3] s1, by decide +kernel⟩

theorem witness_emptyOperands_1 : ∃ (i : Instr) (d : BitVec 4) (a b : GSrc) (g : Guard) (s : State), ∃ blk,
    twoSource i = some (d, a, b, g) ∧ s.me.passes g ∧ a.e = true ∧ s.me.full (.g a.r) = false ∧ CanTrap s blk :=
  ⟨.add 1 (re 2) (re 3) g0, 1, re 2, re 3, g0, empty [.g 2, .g 3] s1, blkOf 1, by decide +kernel⟩

theorem witness_emptyOperands_2 : ∃ (i : Instr) (d : BitVec 4) (a b : GSrc) (g : Guard) (s : State), ∃ blk,
    twoSource i = some (d, a, b, g) ∧ s.me.passes g ∧ (a.e = true → s.me.full (.g a.r) = true) ∧ b.e = true ∧
    s.me.full (.g b.r) = false ∧ CanTrap s blk :=
  ⟨.add 1 (r 2) (re 3) g0, 1, r 2, re 3, g0, empty [.g 2, .g 3] s1, blkOf 1, by decide +kernel⟩

theorem witness_emptyOperands_3 : ∃ (i : Instr) (d : BitVec 4) (a b : GSrc) (g : Guard) (s : State), twoSource i
    = some (d, a, b, g) ∧ s.me.passes g ∧ a.e = false ∧ b.e = false ∧ s.me.full (.g a.r) = false ∧ s.me.full (.g
    b.r) = false ∧ s.me.full (.g d) = false :=
  ⟨.add 1 (r 2) (r 3) g0, 1, r 2, r 3, g0, empty [.g 1, .g 2, .g 3] s1, by decide +kernel⟩

theorem witness_emptyOperands_5 : ∃ (i : Instr) (d : BitVec 4) (a b : GSrc) (g : Guard) (s : State), twoSource i
    = some (d, a, b, g) ∧ s.me.passes g ∧ (s.me.full (.g a.r) = true → s.me.bad (.g a.r) = false) ∧ (s.me.full (.g
    b.r) = true → s.me.bad (.g b.r) = false) ∧ (s.me.full (.g a.r) = false → a.e = false) ∧ (s.me.full (.g b.r) =
    false → b.e = false) ∧ (s.me.full (.g a.r) = false ∨ s.me.full (.g b.r) = false) :=
  ⟨.add 1 (r 2) (r 3) g0, 1, r 2, r 3, g0, empty [.g 2] s1, by decide +kernel⟩

theorem witness_emptyOperands_4 : ∃ (i : Instr) (d : BitVec 4) (a b : GSrc) (g : Guard) (s : State), twoSource i
    = some (d, a, b, g) ∧ s.me.passes g ∧ s.me.readable [.g a.r, .g b.r] ∧ s.me.full (.g d) = false :=
  ⟨.add 15 (r 2) (r 3) g0, 15, r 2, r 3, g0, empty [.g 15] s1, by decide +kernel⟩

theorem witness_poisonedSource_0 : ∃ (i : Instr) (d : BitVec 4) (a b : GSrc) (g : Guard) (s : State) (blk :
    Block), twoSource i = some (d, a, b, g) ∧ s.me.passes g ∧ s.me.full (.g a.r) = true ∧ s.me.full (.g b.r) = true
    ∧ CanTrap s blk ∧ s.me.bad (.g a.r) = true :=
  ⟨.add 1 (re 2) (r 3) g0, 1, re 2, r 3, g0, spoilt 2, blkOf 1, by decide +kernel⟩

theorem witness_poisonedSource_1 : ∃ (i : Instr) (d : BitVec 4) (a b : GSrc) (g : Guard) (s : State) (blk :
    Block), twoSource i = some (d, a, b, g) ∧ s.me.passes g ∧ s.me.full (.g a.r) = true ∧ s.me.full (.g b.r) = true
    ∧ CanTrap s blk ∧ s.me.bad (.g a.r) = false ∧ s.me.bad (.g b.r) = true :=
  ⟨.add 1 (r 2) (re 3) g0, 1, r 2, re 3, g0, spoilt 3, blkOf 1, by decide +kernel⟩

theorem witness_privilege_0 : ∃ (i : Instr) (g : Guard) (s : State) (blk : Block), supervisorForm i = some g ∧
    s.me.passes g ∧ s.cur.slot ≠ 0 ∧ CanTrap s blk :=
  ⟨.swr (r 2) 0x010 g0, g0, s1, blkOf 1, by decide +kernel⟩

theorem witness_trapInstructions_0 : ∃ (s : State) (blk : Block), ∃ (i : BitVec 11) (g : Guard), CanTrap s blk ∧
    (s.me.advance 1).mismatch = false ∧ s.me.passes g :=
  ⟨s1, blkOf 1, -1024, g0, by decide +kernel⟩

theorem witness_trapInstructions_1 : ∃ (s : State) (blk : Block), ∃ g : Guard, CanTrap s blk ∧ (s.me.advance
    1).mismatch = false ∧ s.me.passes g :=
  ⟨s1, blkOf 1, g0, by decide +kernel⟩

theorem witness_trapInstructions_2 : ∃ (s : State) (blk : Block), ∃ (a b : GSrc) (g : Guard), CanTrap s blk ∧
    (s.me.advance 1).mismatch = false ∧ s.me.passes g ∧ s.me.readable [.g a.r, .g b.r] :=
  ⟨s1, blkOf 1, r 2, r 3, g0, by decide +kernel⟩

theorem witness_doubleEntry_0 : ∃ (i : Instr) (f : FaultInfo) (tpc : W64) (s : State), raised s i = some (f,
    tpc) ∧ (s.me.inHandler = true ∨ fetchAt s s.cur.core (s.me.tvb.setWidth 64) .trapEntry = .overlay ∨ ∃ h, fetchAt
    s s.cur.core (s.me.tvb.setWidth 64) .trapEntry = .bad h) :=
  ⟨.brk g0, ⟨.brk, 0, 0, 0⟩, 0x308, me (fun t => { t with inHandler := true }) s1, by decide +kernel, .inl
    (by decide +kernel)⟩

theorem witness_displacementTransfers_0 : ∃ (i : Instr) (g : Guard) (target : W64) (kind : Nat) (d : BitVec 4)
    (s : State) (b : Block), displacementForm s.me i = some (g, target, kind, d) ∧ s.me.passes g ∧ s.me.full (.g d)
    = true ∧ (s.me.advance 1).mismatch = false ∧ s.me.pjoin = none ∧ fetchAt s s.cur.core target (.transfer kind) =
    .block b :=
  ⟨.call 0 g0, g0, _, _, 15, s1, blkOf 0, rfl, by decide +kernel⟩

theorem witness_registerTransfers_0 : ∃ (i : Instr) (g : Guard) (a : GSrc) (kind : Nat) (d : BitVec 4) (s :
    State) (b : Block), registerForm i = some (g, a, kind, d) ∧ s.me.passes g ∧ s.me.readable [.g a.r] ∧ s.me.full
    (.g d) = true ∧ (s.me.advance 1).mismatch = false ∧ s.me.pjoin = none ∧ s.me.rG a.r ≠ 0 ∧ (s.me.rG a.r).toNat %
    8 = 0 ∧ fetchAt s s.cur.core (s.me.rG a.r) (.transfer kind) = .block b :=
  ⟨.jcall 3 (r 2) g0, g0, r 2, 4, 3, gs [(2, 0x300)] s1, blkOf 0, by decide +kernel⟩

theorem witness_registerTransfers_1 : ∃ (i : Instr) (g : Guard) (a : GSrc) (kind : Nat) (d : BitVec 4) (s :
    State) (b : Block), registerForm i = some (g, a, kind, d) ∧ s.me.passes g ∧ s.me.readable [.g a.r] ∧ s.me.full
    (.g d) = true ∧ (s.me.advance 1).mismatch = false ∧ s.me.pjoin = none ∧ s.me.rG a.r = 0 :=
  ⟨.ret (r 2) g0, g0, r 2, 5, 0, s1, blkOf 0, by decide +kernel⟩

theorem witness_registerTransfers_2 : ∃ (i : Instr) (g : Guard) (a : GSrc) (kind : Nat) (d : BitVec 4) (s :
    State) (b : Block), registerForm i = some (g, a, kind, d) ∧ s.me.passes g ∧ s.me.readable [.g a.r] ∧ s.me.full
    (.g d) = true ∧ (s.me.advance 1).mismatch = false ∧ s.me.pjoin = none ∧ (s.me.rG a.r).toNat % 8 ≠ 0 ∧ CanTrap s
    b :=
  ⟨.jmp (r 2) g0, g0, r 2, 3, 0, gs [(2, 0x304)] s1, blkOf 1, by decide +kernel⟩

theorem witness_threadExit_0 : ∃ (g : Guard) (s : State), s.me.passes g ∧ (s.me.advance 1).mismatch = false ∧
    s.me.pjoin = none :=
  ⟨g0, s1, by decide +kernel⟩

theorem witness_handlerReturn_0 : ∃ (g : Guard) (s : State) (b : Block) (w : Nat), s.me.passes g ∧ (s.me.advance
    1).mismatch = false ∧ s.me.pjoin = none ∧ s.me.inHandler = true ∧ s.me.tcause &&& 0xFF ≠ 0 ∧
    (s.me.tinfo[3].setWidth 19).toNat + 8 ≤ Config.scratchBytes ∧ s.me.tpc.toNat = (s.me.tinfo[3].setWidth 19).toNat
    + 8 + 4 * w ∧ w < hdrLen (BitVec.ofNat 64 (s.peek (scratchAt s.cur.core (s.me.tinfo[3].setWidth 19).toNat) 8)) ∧
    fetchAt s s.cur.core ((s.me.tinfo[3].setWidth 19).setWidth 64) (.resume w false) = .block b :=
  ⟨g0, handling 3 0x308 0x300 s1, blkOf 0, 0, by decide +kernel⟩

theorem witness_handlerReturn_1 : ∃ (g : Guard) (s : State) (b : Block), s.me.passes g ∧ (s.me.advance
    1).mismatch = false ∧ s.me.pjoin = none ∧ s.me.inHandler = true ∧ (s.me.tcause &&& 0xFF = 0 ∨ OffBlock s) ∧
    s.me.tpc ≠ 0 ∧ s.me.tpc.toNat % 8 = 0 ∧ fetchAt s s.cur.core s.me.tpc (.transfer 6) = .block b :=
  ⟨g0, handling 3 0x310 0x300 (put 0x310 (hdrOf 0 1) s1), blkOf 0, by decide +kernel, by decide +kernel,
    by decide +kernel, by decide +kernel, .inr (by decide +kernel), by decide +kernel⟩

theorem witness_handlerReturn_2 : ∃ (g : Guard) (s : State) (b : Block), s.me.passes g ∧ (s.me.advance
    1).mismatch = false ∧ s.me.pjoin = none ∧ s.me.inHandler = true ∧ (s.me.tcause &&& 0xFF = 0 ∨ OffBlock s) ∧
    s.me.tpc = 0 :=
  ⟨g0, handling 0 0 0 s1, blkOf 0, by decide +kernel, by decide +kernel, by decide +kernel, by decide +kernel,
    .inl (by decide +kernel), by decide +kernel⟩

theorem witness_handlerReturn_3 : ∃ (g : Guard) (s : State) (b : Block), s.me.passes g ∧ (s.me.advance
    1).mismatch = false ∧ s.me.pjoin = none ∧ s.me.inHandler = true ∧ (s.me.tcause &&& 0xFF = 0 ∨ OffBlock s) ∧
    s.me.tpc.toNat % 8 ≠ 0 ∧ fetchAt s s.cur.core (s.me.tvb.setWidth 64) .trapEntry = .block b :=
  ⟨g0, handling 0 0x304 0 s1, blkOf 1, by decide +kernel, by decide +kernel, by decide +kernel, by decide +kernel,
    .inl (by decide +kernel), by decide +kernel⟩

theorem witness_handlerReturn_4 : ∃ (g : Guard) (s : State) (b : Block), s.me.passes g ∧ (s.me.advance
    1).mismatch = false ∧ s.me.inHandler = false ∧ CanTrap s b :=
  ⟨g0, s1, blkOf 1, by decide +kernel⟩

theorem witness_systemReads_0 : ∃ (d : BitVec 4) (n : BitVec 11) (g : Guard) (s : State), s.me.passes g ∧
    s.me.full (.g d) = true ∧ n = 0x01B ∧ s.me.flagsPending = true :=
  ⟨2, 0x01B, g0, awaits [{ pend 1 none none (.g 0) with flags := some 0 }] s1, by decide +kernel⟩

theorem witness_systemReads_1 : ∃ (d : BitVec 4) (n : BitVec 11) (g : Guard) (s : State), ∃ x, s.me.passes g ∧
    s.me.full (.g d) = true ∧ nearReg s s.cur n.toNat = some x ∧ (n = 0x01B → s.me.flagsPending = false) :=
  ⟨2, 0x01A, g0, s1, 0xF4240, by decide +kernel⟩

theorem witness_systemReads_2 : ∃ (d : BitVec 4) (n : BitVec 11) (g : Guard) (s : State), s.me.passes g ∧
    s.me.full (.g d) = true ∧ nearReg s s.cur n.toNat = none :=
  ⟨2, 0x051, g0, s1, by decide +kernel⟩

theorem witness_systemWrites_0 : ∃ (a : GSrc) (n : BitVec 11) (g : Guard) (s : State), ∃ w, s.me.passes g ∧
    s.me.readable [.g a.r] ∧ (SysReg.supervisor n = true → s.cur.slot = 0) ∧ (n = 0x01B → s.me.flagsPending = false)
    ∧ n = 0x01B ∧ (s.regWrites.filter fun w => w.tid = s.cur).getLast? = some w :=
  ⟨r 2, 0x01B, g0, { s1 with regWrites := [⟨1, u1, 0x01C, 9, 0⟩] }, ⟨1, u1, 0x01C, 9, 0⟩, by decide +kernel⟩

theorem witness_systemWrites_1 : ∃ (a : GSrc) (n : BitVec 11) (g : Guard) (s : State), ∃ b, s.me.passes g ∧
    s.me.readable [.g a.r] ∧ (SysReg.supervisor n = true → s.cur.slot = 0) ∧ (n = 0x01B → s.me.flagsPending = false)
    ∧ valueOk s s.cur n.toNat (s.me.rG a.r) = false ∧ CanTrap s b :=
  ⟨r 2, 0x012, g0, gs [(2, 4)] s1, blkOf 1, by decide +kernel⟩

theorem witness_systemWrites_2 : ∃ (a : GSrc) (n : BitVec 11) (g : Guard) (s : State), s.me.passes g ∧
    s.me.readable [.g a.r] ∧ (SysReg.supervisor n = true → s.cur.slot = 0) ∧ (n = 0x01B → s.me.flagsPending = false)
    ∧ n = 0x01B ∧ (∀ w ∈ s.regWrites, w.tid ≠ s.cur) :=
  ⟨r 2, 0x01B, g0, gs [(2, 63)] s1, by decide +kernel⟩

theorem witness_systemWrites_3 : ∃ (a : GSrc) (n : BitVec 11) (g : Guard) (s : State), s.me.passes g ∧
    s.me.readable [.g a.r] ∧ (SysReg.supervisor n = true → s.cur.slot = 0) ∧ (n = 0x01B → s.me.flagsPending = false)
    ∧ n ≠ 0x01B ∧ valueOk s s.cur n.toNat (s.me.rG a.r) = true :=
  ⟨r 2, 0x012, g0, gs [(2, 0x100)] s1, by decide +kernel⟩

theorem witness_registerWriteEffect_0 : ∃ (k : Nat) (w : RegWrite) (s : State) (m : W64), findWrite s k = some w
    ∧ writtenBits w.reg = some m :=
  ⟨1, ⟨1, u1, 0x012, 0x200, 0⟩, { s1 with regWrites := [⟨1, u1, 0x012, 0x200, 0⟩] }, 0x7FFFF, by decide +kernel⟩

theorem witness_widerWriteEffects_0 : ∃ (k : Nat) (w : RegWrite) (s : State), findWrite s k = some w ∧ w.reg =
    0x01C :=
  ⟨1, ⟨1, u1, 0x01C, 9, 0⟩, { s1 with regWrites := [⟨1, u1, 0x01C, 9, 0⟩] }, by decide +kernel⟩

theorem witness_widerWriteEffects_1 : ∃ (k : Nat) (w : RegWrite) (s : State), findWrite s k = some w ∧ (w.reg =
    0x040 ∨ w.reg = 0x041) :=
  ⟨1, ⟨1, u1, 0x041, 9, 0⟩, { s1 with regWrites := [⟨1, u1, 0x041, 9, 0⟩] }, by decide +kernel⟩

theorem witness_widerWriteEffects_2 : ∃ (k : Nat) (w : RegWrite) (s : State), findWrite s k = some w ∧ w.reg =
    0x051 ∧ valueOk s w.tid 0x051 w.val = true :=
  ⟨1, ⟨1, u0, 0x051, 1, 0⟩, { s1.modPkg 0 fun p => { p with phase := 4 } with regWrites := [⟨1, u0, 0x051, 1, 0⟩]
    }, by decide +kernel⟩

theorem witness_widerWriteEffects_3 : ∃ (k : Nat) (w : RegWrite) (s : State), findWrite s k = some w ∧ w.reg =
    0x051 ∧ valueOk s w.tid 0x051 w.val = false ∧ (s.th w.tid).hold = .regWrite k ∧ (s.th w.tid).inHandler = false ∧
    (∃ b, fetchAt s w.tid.core ((s.th w.tid).tvb.setWidth 64) .trapEntry = .block b) :=
  ⟨1, ⟨1, u1, 0x051, 0x300, 0⟩, { me (fun t => { t with hold := .regWrite 1 }) s1 with regWrites := [⟨1, u1,
    0x051, 0x300, 0⟩] }, by decide +kernel, by decide +kernel, by decide +kernel, by decide +kernel,
    by decide +kernel, ⟨blkOf 1, by decide +kernel⟩⟩

theorem witness_widerWriteEffects_4 : ∃ (k : Nat) (w : RegWrite) (s : State), findWrite s k = some w ∧ w.reg =
    0x071 :=
  ⟨1, ⟨1, u0, 0x071, 0x1003, 0⟩, { s1 with regWrites := [⟨1, u0, 0x071, 0x1003, 0⟩] }, by decide +kernel⟩

theorem witness_widerWriteEffects_5 : ∃ (k : Nat) (w : RegWrite) (s : State), findWrite s k = some w ∧ w.reg =
    0x080 :=
  ⟨1, ⟨1, u0, 0x080, 1, 0⟩, { s1 with regWrites := [⟨1, u0, 0x080, 1, 0⟩] }, by decide +kernel⟩

theorem witness_widerWriteEffects_6 : ∃ (tid : Tid) (s : State), (s.th tid).hold = .flg ∧ (s.th
    tid).flagsPending = false :=
  ⟨u1, me (fun t => { t with hold := .flg }) s1, by decide +kernel⟩

theorem witness_memoryIssue_0 : ∃ (i : Instr) (s : State) (g : Guard) (rs : List RegRef) (d : BitVec 4) (op :
    AccOp) (ea : W64) (n : Nat) (tag : Bool), accessForm s.me i = some (g, rs, d, op, ea, n, tag) ∧ s.me.passes g ∧
    s.me.readable rs ∧ s.me.full (.g d) = true ∧ ea.toNat % n = 0 ∧ (loads op = false → ownXB s ea = false) ∧ (tag =
    true → ∃ p, taggedPlace s.cur.core ea = .ok p) :=
  ⟨.stfw (r 2) (r 3) g0, gs [(2, wnd 0x20000)] s1, _, _, _, _, _, _, _, rfl, by decide +kernel, by decide +kernel,
    by decide +kernel, by decide +kernel, by exact ⟨by decide +kernel, fun _ => ⟨scratchAt c0 0x20000,
    by decide +kernel⟩⟩⟩

theorem witness_flaggedStoreIssue_0 : ∃ (i : Instr) (d a b : GSrc) (g : Guard) (n : Nat) (s : State), ((i =
    .stflw d a b g ∧ n = 4) ∨ (i = .stfld d a b g ∧ n = 8)) ∧ s.me.passes g ∧ s.me.readable [.g d.r, .g a.r, .g b.r]
    ∧ (s.me.rG a.r).toNat % n = 0 ∧ flagAddrFault (s.me.rG d.r) = none ∧ ownXB s (s.me.rG a.r) = false :=
  ⟨.stfld (r 4) (r 2) (r 3) g0, r 4, r 2, r 3, g0, 8, gs [(2, wnd 0x20000), (4, cwd 0x21000)] s1, .inr ⟨rfl, rfl⟩,
    by decide +kernel⟩

theorem witness_memoryIssueTraps_0 : ∃ (i : Instr) (s : State) (g : Guard) (rs : List RegRef) (d : BitVec 4) (op
    : AccOp) (ea : W64) (n : Nat) (tag : Bool) (b : Block), accessForm s.me i = some (g, rs, d, op, ea, n, tag) ∧
    s.me.passes g ∧ s.me.readable rs ∧ s.me.full (.g d) = true ∧ CanTrap s b ∧ ea.toNat % n ≠ 0 :=
  ⟨.ld 1 (r 2) .d false 0 g0, gs [(2, 4)] s1, _, _, _, _, _, _, _, blkOf 1, rfl, by decide +kernel⟩

theorem witness_memoryIssueTraps_1 : ∃ (i : Instr) (s : State) (g : Guard) (rs : List RegRef) (d : BitVec 4) (op
    : AccOp) (ea : W64) (n : Nat) (tag : Bool) (b : Block), ∃ src, accessForm s.me i = some (g, rs, d, op, ea, n,
    tag) ∧ s.me.passes g ∧ s.me.readable rs ∧ s.me.full (.g d) = true ∧ CanTrap s b ∧ ea.toNat % n = 0 ∧ tag = true
    ∧ TaggedSource s.cur.core ea src :=
  ⟨.sete (r 2) g0, s1, _, _, _, _, _, _, _, blkOf 1, 5, rfl, by decide +kernel, by decide +kernel,
    by decide +kernel, by decide +kernel, by exact ⟨by decide +kernel, by decide +kernel, .inr (.inr ⟨.inl
    (by decide +kernel), rfl⟩)⟩⟩

theorem witness_memoryIssueTraps_2 : ∃ (i : Instr) (s : State) (g : Guard) (rs : List RegRef) (d : BitVec 4) (op
    : AccOp) (ea : W64) (n : Nat) (tag : Bool) (b : Block), accessForm s.me i = some (g, rs, d, op, ea, n, tag) ∧
    s.me.passes g ∧ s.me.readable rs ∧ s.me.full (.g d) = true ∧ CanTrap s b ∧ ea.toNat % n = 0 ∧ loads op = false ∧
    ownXB s ea = true ∧ (tag = true → ∃ p, taggedPlace s.cur.core ea = .ok p) :=
  ⟨.st (r 3) (r 2) .b 0 g0, gs [(2, wnd 0xFFFF)] s1, _, _, _, _, _, _, _, blkOf 1, rfl, by decide +kernel,
    by decide +kernel, by decide +kernel, by decide +kernel, by exact ⟨by decide +kernel, by decide +kernel,
    by decide +kernel, nofun⟩⟩

theorem witness_loadAcceptance_0 : ∃ (k : Nat) (a : Acc) (pid : Nat) (p : Phys) (d : BitVec 4) (s : State), ∃
    sx, Arrives s k a pid p ∧ NeedsValue s a.tid pid d ∧ a.op = .load sx :=
  ⟨7, acc2 (.load true) 8, 7, p2, 3, flying (acc2 (.load true) 8) (pend 7 (some (.g 3)) none (.g 0)), true,
    by decide +kernel, ⟨by decide +kernel, ⟨pend 7 (some (.g 3)) none (.g 0), by decide +kernel⟩,
    by decide +kernel⟩, by decide +kernel⟩

theorem witness_loadAcceptance_1 : ∃ (k : Nat) (a : Acc) (pid : Nat) (p : Phys) (d : BitVec 4) (s : State), ∃ o
    v e, Arrives s k a pid p ∧ NeedsValue s a.tid pid d ∧ a.op = .atom o v e :=
  ⟨7, acc2 (.atom .cas 5 0) 4, 7, p2, 3, flying (acc2 (.atom .cas 5 0) 4) (pend 7 (some (.g 3)) none (.g 0)),
    .cas, 5, 0, by decide +kernel, ⟨by decide +kernel, ⟨pend 7 (some (.g 3)) none (.g 0), by decide +kernel⟩,
    by decide +kernel⟩, by decide +kernel⟩

theorem witness_storeAcceptance_0 : ∃ (k : Nat) (a : Acc) (pid : Nat) (p : Phys) (s : State), ∃ x n, Arrives s k
    a pid p ∧ NeedsAnswer s a.tid pid ∧ (∃ c j, p.region = .scratch c j ∨ p.region = .bstack c ∨ p.region = .hbm) ∧
    a.op = .store (leBytes x n) :=
  ⟨7, acc2 (.store (leBytes 5 4)) 4, 7, p2, flying (acc2 (.store (leBytes 5 4)) 4) (pend 7 none none (.g 0)), 5,
    4, by decide +kernel, ⟨pend 7 none none (.g 0), by decide +kernel⟩, ⟨0, 0, .inl rfl⟩, by decide +kernel⟩

theorem witness_storeAcceptance_1 : ∃ (k : Nat) (a : Acc) (pid : Nat) (p : Phys) (s : State), ∃ o v, Arrives s k
    a pid p ∧ NeedsAnswer s a.tid pid ∧ (∃ c j, p.region = .scratch c j ∨ p.region = .bstack c ∨ p.region = .hbm) ∧
    a.op = .red o v :=
  ⟨7, acc2 (.red .add 5) 8, 7, p2, flying (acc2 (.red .add 5) 8) (pend 7 none none (.g 0)), .add, 5,
    by decide +kernel, ⟨pend 7 none none (.g 0), by decide +kernel⟩, ⟨0, 0, .inl rfl⟩, by decide +kernel⟩

theorem witness_storeAcceptance_2 : ∃ (k : Nat) (a : Acc) (pid : Nat) (p : Phys) (s : State), Arrives s k a pid
    p ∧ NeedsAnswer s a.tid pid ∧ (∃ c j, p.region = .scratch c j ∨ p.region = .bstack c ∨ p.region = .hbm) ∧ a.op =
    .sete :=
  ⟨7, acc2 (.sete) 4, 7, p2, flying (acc2 (.sete) 4) (pend 7 none none (.g 0)), by decide +kernel, ⟨pend 7 none
    none (.g 0), by decide +kernel⟩, ⟨0, 0, .inl rfl⟩, by decide +kernel⟩

theorem witness_storeAcceptance_3 : ∃ (k : Nat) (a : Acc) (pid : Nat) (p : Phys) (s : State), Arrives s k a pid
    p ∧ NeedsAnswer s a.tid pid ∧ (∃ c j, p.region = .scratch c j ∨ p.region = .bstack c ∨ p.region = .hbm) ∧ a.op =
    .setf ∧ s.waits = [] :=
  ⟨7, acc2 (.setf) 4, 7, p2, flying (acc2 (.setf) 4) (pend 7 none none (.g 0)), by decide +kernel, ⟨pend 7 none
    none (.g 0), by decide +kernel⟩, ⟨0, 0, .inl rfl⟩, by decide +kernel⟩

theorem witness_storeAcceptance_4 : ∃ (k : Nat) (a : Acc) (pid : Nat) (p : Phys) (s : State), ∃ x n, Arrives s k
    a pid p ∧ NeedsAnswer s a.tid pid ∧ (∃ c j, p.region = .scratch c j ∨ p.region = .bstack c ∨ p.region = .hbm) ∧
    a.op = .stf (leBytes x n) ∧ (n = 4 ∨ n = 8) ∧ p.off % n = 0 ∧ s.waits = [] :=
  ⟨7, acc2 (.stf (leBytes 5 8)) 8, 7, p2, flying (acc2 (.stf (leBytes 5 8)) 8) (pend 7 none none (.g 0)), 5, 8,
    by decide +kernel, ⟨pend 7 none none (.g 0), by decide +kernel⟩, ⟨0, 0, .inl rfl⟩, by decide +kernel⟩

theorem witness_waiterService_0 : ∃ (k : Nat) (a : Acc) (pid : Nat) (p : Phys) (w : QWait) (d : BitVec 4) (s :
    State), Arrives s k a pid p ∧ NeedsAnswer s a.tid pid ∧ a.op = .setf ∧ w.isQueued = true ∧ w.place = some p ∧
    NotDeferred s w.tid w.q ∧ w.kind = .ldsw d ∧ s.waits = [w] :=
  ⟨7, acc2 .setf 4, 7, p2, wait3 8 (.ldsw 3), 3,
    { flying (acc2 .setf 4) (pend 7 none none (.g 0)) with waits := [wait3 8 (.ldsw 3)] }, by decide +kernel, ⟨pend
    7 none none (.g 0), by decide +kernel⟩, by decide +kernel⟩

theorem witness_waiterService_1 : ∃ (k : Nat) (a : Acc) (pid : Nat) (p : Phys) (w : QWait) (d : BitVec 4) (s :
    State), ∃ w₂ d₂, Arrives s k a pid p ∧ NeedsAnswer s a.tid pid ∧ a.op = .setf ∧ w.isQueued = true ∧ w.place =
    some p ∧ NotDeferred s w.tid w.q ∧ w.kind = .ldcw d ∧ (s.waits = [w] ∨ (s.waits = [w, w₂] ∧ w₂.isQueued = true ∧
    w₂.place = some p ∧ w₂.kind = .ldcw d₂ ∧ w₂.seq ≠ w.seq)) :=
  ⟨7, acc2 .setf 4, 7, p2, wait3 8 (.ldcw 3), 3, { flying (acc2 .setf 4) (pend 7 none none (.g 0)) with waits :=
    [wait3 8 (.ldcw 3), wait3 9 (.ldcw 4)] }, wait3 9 (.ldcw 4), 4, by decide +kernel, ⟨pend 7 none none (.g 0),
    by decide +kernel⟩, by decide +kernel, by decide +kernel, by decide +kernel, by exact ⟨by decide +kernel,
    by decide +kernel, .inr (by decide +kernel)⟩⟩

theorem witness_registerReadAndRefusal_0 : ∃ (k : Nat) (a : Acc) (pid n : Nat) (sel : BitVec 13) (d : BitVec 4)
    (s : State), s.acc? k = some a ∧ a.agent = .thread pid 0 ∧ a.op = .sysreg n sel ∧ (n = 0 → taperBefore s a =
    false) ∧ NeedsValue s a.tid pid d :=
  ⟨7, acc2 (.sysreg 0x050 0) 8, 7, 0x050, 0, 3, flying (acc2 (.sysreg 0x050 0) 8) (pend 7 (some (.g 3)) none (.g
    0)), by decide +kernel, by decide +kernel, by decide +kernel, by decide +kernel, ⟨by decide +kernel, ⟨pend 7
    (some (.g 3)) none (.g 0), by decide +kernel⟩, by decide +kernel⟩⟩

theorem witness_registerReadAndRefusal_1 : ∃ (k : Nat) (a : Acc) (pid : Nat) (p : Phys) (f : FaultInfo) (q :
    Pending) (s : State), s.acc? k = some a ∧ a.agent = .thread pid 0 ∧ a.place = some p ∧ p.node = a.tid.core.node
    ∧ mayAccept s a p = true ∧ mustPromote s a p = false ∧ a.op ≠ .join ∧ (∀ n sel, a.op ≠ .sysreg n sel) ∧ (∀ ws,
    a.op ≠ .port ws) ∧ a.refusal p (settleAcc a s) = some f ∧ (s.th a.tid).pend? pid = some q ∧ q.left = 1 ∧
    q.refused = [] ∧ q.vector = false ∧ q.void = false ∧ (∃ x, q.val = .g x) :=
  ⟨7, acc2 (.load true) 8, 7, p2, ⟨.stale, 0, wnd 0x20000, 1⟩, pend 7 (some (.g 3)) none (.g 0),
    { flying (acc2 (.load true) 8) (pend 7 (some (.g 3)) none (.g 0)) with sysMem := [] }, by decide +kernel,
    by decide +kernel, by decide +kernel, by decide +kernel, by decide +kernel, by exact ⟨by decide +kernel,
    by decide +kernel, fun _ _ => by simp [acc2, accAt], fun _ => by simp [acc2, accAt], by decide +kernel, by exact
    ⟨by decide +kernel, by decide +kernel, by decide +kernel, by decide +kernel, by decide +kernel, ⟨0, rfl⟩⟩⟩⟩

theorem witness_fences_0 : ∃ (sc : Scope) (g : Guard) (s : State), s.me.passes g :=
  ⟨.cluster, g0, s1, by decide +kernel⟩

theorem witness_fences_1 : ∃ (sc : Scope) (g : Guard) (s : State), s.me.passes g :=
  ⟨.package, g0, s1, by decide +kernel⟩

theorem witness_fences_2 : ∃ (tid : Tid) (sc : Scope) (s : State), (s.th tid).hold = .fencesc sc ∧ drained s tid
    s.nextId sc = true :=
  ⟨u1, .die, me (fun t => { t with hold := .fencesc .die }) s1, by decide +kernel⟩

theorem witness_translationInvalidation_0 : ∃ (a b : GSrc) (g : Guard) (s : State), s.me.passes g ∧ s.cur.slot =
    0 ∧ s.me.readable [.g a.r, .g b.r] ∧ bits (s.me.rG b.r) 16 2 ≠ 3 :=
  ⟨r 2, r 3, g0, gs [(3, 0x10007)] s0, by decide +kernel⟩

theorem witness_translationInvalidation_1 : ∃ (a b : GSrc) (g : Guard) (s : State), ∃ blk, s.me.passes g ∧
    s.cur.slot = 0 ∧ s.me.readable [.g a.r, .g b.r] ∧ bits (s.me.rG b.r) 16 2 = 3 ∧ CanTrap s blk :=
  ⟨r 2, r 3, g0, gs [(3, 0x30007)] s0, blkOf 1, by decide +kernel⟩

theorem witness_translationInvalidation_2 : ∃ (k : Nat) (c : CoreId) (r : TlbiReq) (s : State), s.tlbis.find?
    (fun r => r.id = k) = some r ∧ c ∈ r.waiting ∧ (∀ a ∈ s.accs, a.tid.core = c → a.id ∈ r.accs → a.accepted =
    true) :=
  ⟨7, c0, tlbi7, { s0 with tlbis := [tlbi7] }, by decide +kernel⟩

theorem witness_waitIssue_0 : ∃ (i : Instr) (s : State) (g : Guard) (rs : List RegRef) (d : Option (BitVec 4))
    (q : BitVec 4) (kind : WaitKind) (addr : W64) (tmo n : Nat), waitForm s.me i = some (g, rs, d, q, kind, addr,
    tmo, n) ∧ s.me.passes g ∧ s.me.readable rs ∧ s.me.allFull (waitRegs d q) ∧ (n ≠ 0 → addr.toNat % n = 0 ∧ ∃ p,
    taggedPlace s.cur.core addr = .ok p) :=
  ⟨.ldsd 3 (r 2) (r 4) 5 g0, gs [(2, wnd 0x20008), (4, 50)] s1, _, _, _, _, _, _, _, _, rfl, by decide +kernel,
    by decide +kernel, by decide +kernel, fun _ => ⟨by decide +kernel, scratchAt c0 0x20008, by decide +kernel⟩⟩

theorem witness_waitIssue_1 : ∃ (d : BitVec 4) (a b : GSrc) (q : BitVec 4) (g : Guard) (s : State), s.me.passes
    g ∧ s.me.readable [.g a.r, .g b.r] ∧ s.me.allFull [.g d, .q q] ∧ (s.me.rG a.r).toNat % 64 = 0 ∧ classify
    s.cur.core (s.me.rG a.r) ≠ .nothing :=
  ⟨3, r 2, r 4, 5, g0, gs [(2, wnd 0x20040), (4, 50)] s1, by decide +kernel⟩

theorem witness_wordWaitAcceptance_0 : ∃ (tid : Tid) (i : Nat) (w : QWait) (p : Phys) (s : State), ∃ v d m,
    SentWait s tid w ∧ onWord w.kind = true ∧ w.place = some p ∧ wordMayAccept s w p = true ∧ homeRefusal s tid
    w.ctx p w.addr (if w.double then 8 else 4) (.load false) = none ∧ s.waits = [v, w] ∧ v.kind = .matches_ m ∧
    v.isQueued = true ∧ v.place = some p ∧ v.seq ≠ w.seq ∧ v.tid ≠ tid ∧ NotDeferred s v.tid v.q ∧ w.kind = .ldcw d
    ∧ s.isFull p = true ∧ s.peek p 4 = m.toNat :=
  ⟨u1, 0, wait2 (.ldcw 3) (wnd 0x20000) 5, p2, { waiting (wait2 (.ldcw 3) (wnd 0x20000) 5) with waits := [wait3 6
    (.matches_ 0), wait2 (.ldcw 3) (wnd 0x20000) 5] }, wait3 6 (.matches_ 0), 3, 0, by decide +kernel⟩

theorem witness_wordWaitAcceptance_1 : ∃ (tid : Tid) (i : Nat) (w : QWait) (p : Phys) (s : State), ∃ x, SentWait
    s tid w ∧ onWord w.kind = true ∧ w.place = some p ∧ wordMayAccept s w p = true ∧ homeRefusal s tid w.ctx p
    w.addr (if w.double then 8 else 4) (.load false) = none ∧ (∀ v ∈ s.waits, v.isQueued = true → ∀ y, v.place =
    some y → wordSucceeds v.kind (s.peek y 4) (s.peek y 8) (s.isFull y) (s.isFull (y.plus 4)) = none) ∧ wordSucceeds
    w.kind (s.peek p 4) (s.peek p 8) (s.isFull p) (s.isFull (p.plus 4)) = some x :=
  ⟨u1, 0, wait2 (.ldcd 3) (wnd 0x20000) 5, p2, waiting (wait2 (.ldcd 3) (wnd 0x20000) 5), 0, by decide +kernel,
    by decide +kernel, by decide +kernel, by decide +kernel, by decide +kernel, by exact ⟨none_queued
    (by decide +kernel), by decide +kernel⟩⟩

theorem witness_wordWaitAcceptance_2 : ∃ (tid : Tid) (i : Nat) (w : QWait) (p : Phys) (s : State), SentWait s
    tid w ∧ onWord w.kind = true ∧ w.place = some p ∧ wordMayAccept s w p = true ∧ homeRefusal s tid w.ctx p w.addr
    (if w.double then 8 else 4) (.load false) = none ∧ (∀ v ∈ s.waits, v.isQueued = true → ∀ y, v.place = some y →
    wordSucceeds v.kind (s.peek y 4) (s.peek y 8) (s.isFull y) (s.isFull (y.plus 4)) = none) ∧ wordSucceeds w.kind
    (s.peek p 4) (s.peek p 8) (s.isFull p) (s.isFull (p.plus 4)) = none ∧ w.t = 0 :=
  ⟨u1, 0, wait2 (.matches_ 1) (wnd 0x20000) 0, p2, waiting (wait2 (.matches_ 1) (wnd 0x20000) 0),
    by decide +kernel, by decide +kernel, by decide +kernel, by decide +kernel, by decide +kernel, by exact
    ⟨none_queued (by decide +kernel), by decide +kernel⟩⟩

theorem witness_wordWaitAcceptance_3 : ∃ (tid : Tid) (i : Nat) (w : QWait) (p : Phys) (s : State), SentWait s
    tid w ∧ onWord w.kind = true ∧ w.place = some p ∧ wordMayAccept s w p = true ∧ homeRefusal s tid w.ctx p w.addr
    (if w.double then 8 else 4) (.load false) = none ∧ (∀ v ∈ s.waits, v.isQueued = true → ∀ y, v.place = some y →
    wordSucceeds v.kind (s.peek y 4) (s.peek y 8) (s.isFull y) (s.isFull (y.plus 4)) = none) ∧ wordSucceeds w.kind
    (s.peek p 4) (s.peek p 8) (s.isFull p) (s.isFull (p.plus 4)) = none ∧ w.t ≠ 0 :=
  ⟨u1, 0, wait2 (.ring 0 3) (wnd 0x20000) 1, p2, waiting (wait2 (.ring 0 3) (wnd 0x20000) 1), by decide +kernel,
    by decide +kernel, by decide +kernel, by decide +kernel, by decide +kernel, by exact ⟨none_queued
    (by decide +kernel), by decide +kernel⟩⟩

theorem witness_otherWaitAcceptance_0 : ∃ (tid : Tid) (i : Nat) (w : QWait) (s : State), ∃ a ok, SentWait s tid
    w ∧ ((w.kind = .taper a ∧ ok = decide (a.toNat ≤ s.taper tid.core.node)) ∨ (w.kind = .jobs a ∧ ok = decide
    (a.toNat ≤ (s.th tid).cdone))) ∧ (ok = true ∨ w.t = 0) :=
  ⟨u1, 0, wait2 (.taper 0) (0) 0, waiting (wait2 (.taper 0) (0) 0), 0, true, by decide +kernel, .inl
    (by decide +kernel), by decide +kernel⟩

theorem witness_otherWaitAcceptance_1 : ∃ (tid : Tid) (i : Nat) (w : QWait) (s : State), ∃ a, SentWait s tid w ∧
    ((w.kind = .taper a ∧ s.taper tid.core.node < a.toNat) ∨ (w.kind = .jobs a ∧ (s.th tid).cdone < a.toNat)) ∧ w.t
    ≠ 0 :=
  ⟨u1, 0, wait2 (.jobs 1) (0) 9, waiting (wait2 (.jobs 1) (0) 9), 1, by decide +kernel, .inr (by decide +kernel),
    by decide +kernel⟩

theorem witness_leaseItems_0 : ∃ (s : State) (h : DieId) (l : Lease), ∃ n, 5 ≤ n :=
  ⟨z, h0, ⟨.live, .range, 1, 1000, 0, 0, 0, .none, false⟩, 5, by decide +kernel⟩

theorem witness_leaseItems_1 : ∃ (s : State) (h : DieId) (l : Lease), ∃ base n x y, l.body = .range base n x y
    :=
  ⟨z, h0, ⟨.live, .range, 1, 1000, 0, 0, 0, .range 5 64 7 true, false⟩, 5, 64, 7, true, by decide +kernel⟩

theorem witness_leaseItems_2 : ∃ (s : State) (h : DieId) (l : Lease), ∃ key p o x, l.body = .lock key p o x :=
  ⟨z, h0, ⟨.live, .range, 1, 1000, 0, 0, 0, .lock 5 7 u1 false, false⟩, 5, 7, u1, false, by decide +kernel⟩

theorem witness_leaseItems_3 : ∃ (s : State) (h : DieId) (l : Lease), ∃ n ts x, l.body = .group n ts x :=
  ⟨z, h0, ⟨.live, .range, 1, 1000, 0, 0, 0, .group 2 [u1] false, false⟩, 2, [u1], false, by decide +kernel⟩

theorem witness_leaseItems_4 : ∃ (s : State) (h : DieId) (l : Lease), ∃ n, l.body = .path n :=
  ⟨z, h0, ⟨.live, .range, 1, 1000, 0, 0, 0, .path 1, false⟩, 1, by decide +kernel⟩

theorem witness_leaseItems_5 : ∃ (s : State) (h : DieId) (l : Lease), ∃ d x y, l.body = .ctx d x y :=
  ⟨z, h0, ⟨.live, .range, 1, 1000, 0, 0, 0, .ctx 5 0 0, false⟩, 5, 0, 0, by decide +kernel⟩

theorem witness_leaseItems_6 : ∃ (s : State) (h : DieId) (l : Lease), ∃ ep, l.body = .recv ep :=
  ⟨z, h0, ⟨.live, .range, 1, 1000, 0, 0, 0, .recv 9, false⟩, 9, by decide +kernel⟩

theorem witness_leaseOperations_6 : ∃ (k i : Nat) (r : LeaseReq) (h : DieId) (l : Lease) (s : State), ∃ a sc g
    sc' key p o det, AtHome s k r h i l ∧ r.ins = .rel a sc g ∧ (s.th r.tid).hold = .rel r.a sc' false ∧ l.body =
    .lock key p o det ∧ (det = true ∨ o ≠ r.tid) :=
  ⟨7, 3, req (.rel (r 2) .die g0) (hold3) (0), h0, ⟨.live, .lock, 1, 1000, 0, 0, 0, .lock (wnd 0x20000) p2.key u0
    true, false⟩, (asking (req (.rel (r 2) .die g0) (hold3) (0)) (me (fun t =>
    { t with hold := .rel hold3 .die false }) s1)).modLease h0 3 fun l =>
    { l with body := .lock (wnd 0x20000) p2.key u0 true }, r 2, .die, g0, .die, wnd 0x20000, p2.key, u0, true,
    by decide +kernel, by decide +kernel, by decide +kernel, by decide +kernel, .inl rfl⟩

theorem witness_otherWaitAcceptance_2 : ∃ (tid : Tid) (i : Nat) (w : QWait) (s : State), ∃ x h j l n ts team,
    SentWait s tid w ∧ w.kind = .bar x ∧ x ≠ 0 ∧ pathRefusal s tid w.ctx x = none ∧ wayOpen s (hHome x).node
    tid.core.node = true ∧ handleHeld s tid.core.node x = false ∧ present s x = .live h j l ∧ l.body = .group n ts
    team ∧ (barQueue s x).length + 1 = n :=
  ⟨u1, 0, wait2 (.bar group2) (0) 9, (held (waiting (wait2 (.bar group2) (0) 9))).modLease h0 2 fun l =>
    { l with body := .group 1 [u1] false }, group2, h0, 2, ⟨.live, .group, 1, 1000, 0, 0, 0, .group 1 [u1] false,
    false⟩, 1, [u1], false, by decide +kernel⟩

theorem witness_otherWaitAcceptance_3 : ∃ (tid : Tid) (i : Nat) (w : QWait) (s : State), ∃ x h j l n ts team,
    SentWait s tid w ∧ w.kind = .bar x ∧ x ≠ 0 ∧ pathRefusal s tid w.ctx x = none ∧ wayOpen s (hHome x).node
    tid.core.node = true ∧ handleHeld s tid.core.node x = false ∧ present s x = .live h j l ∧ l.body = .group n ts
    team ∧ (barQueue s x).length + 1 ≠ n ∧ w.t = 0 :=
  ⟨u1, 0, wait2 (.bar group2) (0) 0, held (waiting (wait2 (.bar group2) (0) 0)), group2, h0, 2, ⟨.live, .group, 1,
    1000, 0, 0, 0, .group 2 [] false, false⟩, 2, [], false, by decide +kernel⟩

theorem witness_otherWaitAcceptance_4 : ∃ (tid : Tid) (i : Nat) (w : QWait) (s : State), ∃ x h j l n ts team,
    SentWait s tid w ∧ w.kind = .bar x ∧ x ≠ 0 ∧ pathRefusal s tid w.ctx x = none ∧ wayOpen s (hHome x).node
    tid.core.node = true ∧ handleHeld s tid.core.node x = false ∧ present s x = .live h j l ∧ l.body = .group n ts
    team ∧ (barQueue s x).length + 1 ≠ n ∧ w.t ≠ 0 :=
  ⟨u1, 0, wait2 (.bar group2) (0) 9, held (waiting (wait2 (.bar group2) (0) 9)), group2, h0, 2, ⟨.live, .group, 1,
    1000, 0, 0, 0, .group 2 [] false, false⟩, 2, [], false, by decide +kernel⟩

theorem witness_lockAcceptance_0 : ∃ (tid : Tid) (i life : Nat) (d : BitVec 4) (w : QWait) (a : Acc) (p : Phys)
    (s : State), SentWait s tid w ∧ w.kind = .lock life d ∧ s.accs.find? (fun a => a.agent = .lockKey w.seq) = some
    a ∧ a.trans = .done p ∧ a.reaches s = true ∧ wayOpen s p.node tid.core.node = true ∧ translatedBefore s tid
    w.seq = true ∧ fencesAllow s tid w.seq p false = true ∧ isSystem s p = false ∧ granuleCheck s w.ctx p w.addr =
    none ∧ lockAt s p.home p.key = none ∧ (s.die p.home).locks.length < Config.lockEntries ∧ someEntry s p.home =
    true ∧ entryReady s p.home i = true ∧ lockQueue s p.home p.key = [] :=
  ⟨u1, 4, 50, 3, wait2 (.lock 50 3) (wnd 0x20000) 9, keyAcc, p2, locking (wait2 (.lock 50 3) (wnd 0x20000) 9),
    by decide +kernel⟩

theorem witness_lockAcceptance_1 : ∃ (tid : Tid) (i life : Nat) (d : BitVec 4) (w : QWait) (a : Acc) (p : Phys)
    (s : State), ∃ k, SentWait s tid w ∧ w.kind = .lock life d ∧ s.accs.find? (fun a => a.agent = .lockKey w.seq) =
    some a ∧ a.trans = .done p ∧ a.reaches s = true ∧ wayOpen s p.node tid.core.node = true ∧ translatedBefore s tid
    w.seq = true ∧ fencesAllow s tid w.seq p false = true ∧ isSystem s p = false ∧ granuleCheck s w.ctx p w.addr =
    none ∧ lockAt s p.home p.key = some k ∧ holdsLock s p.home k tid = true :=
  ⟨u1, 4, 50, 3, wait2 (.lock 50 3) (wnd 0x20000) 9, keyAcc, p2, (locking (wait2 (.lock 50 3) (wnd 0x20000)
    9)).modDie h0 fun d => { d with locks := [⟨p2.key, wnd 0x20000, some 3, none, 0⟩] }, ⟨p2.key, wnd 0x20000, some
    3, none, 0⟩, by decide +kernel⟩

theorem witness_waitEndings_0 : ∃ (tid : Tid) (w : QWait) (s : State), s.waits.find? (fun w => decide (w.tid =
    tid) && w.due s) = some w ∧ w.key = none ∧ wayOpen s w.node w.tid.core.node = true ∧ NotDeferred s tid w.q :=
  ⟨u1, ⟨7, u1, 0, 0x308, .full, wnd 0x20000, 2, 9, .queued 0, none, none⟩, (waiting ⟨7, u1, 0, 0x308, .full, wnd
    0x20000, 2, 9, .queued 0, none, none⟩).modPkg 0 fun q => { q with taper := 9 }, by decide +kernel⟩

theorem witness_waitEndings_1 : ∃ (tid : Tid) (w : QWait) (s : State), s.waits.find? (fun w => decide (w.tid =
    tid) && w.due s) = some w ∧ w.key = none ∧ answerHeld s w.node w.tid.core.node = true :=
  ⟨u1, ⟨7, u1, 0, 0x308, .bar (handleOf ⟨1, 0⟩ .group 2 1), 0, 2, 9, .queued 0, none, none⟩, (waiting ⟨7, u1, 0,
    0x308, .bar (handleOf ⟨1, 0⟩ .group 2 1), 0, 2, 9, .queued 0, none, none⟩).modPkg 1 fun q =>
    { q with taper := 9, relock := some [0] }, by decide +kernel⟩

theorem witness_waitEndings_3 : ∃ (tid : Tid) (w : QWait) (ok : Bool) (x : Option W64) (s : State),
    s.waits.find? (fun v => decide (v.tid = tid) && decide (v.seq = w.seq)) = some w ∧ w.stage = .answered ok x none
    ∧ wayOpen s w.node w.tid.core.node = true ∧ NotDeferred s tid w.q :=
  ⟨u1, ⟨7, u1, 0, 0x308, .bar group2, 0, 2, 9, .answered true none none, none, none⟩, true, none, waiting ⟨7, u1,
    0, 0x308, .bar group2, 0, 2, 9, .answered true none none, none, none⟩, by decide +kernel⟩

theorem witness_waitEndings_4 : ∃ (tid : Tid) (w : QWait) (ok : Bool) (x : Option W64) (s : State),
    s.waits.find? (fun v => decide (v.tid = tid) && decide (v.seq = w.seq)) = some w ∧ w.stage = .answered ok x none
    ∧ wayLost s w.node w.tid.core.node = true :=
  ⟨u1, ⟨7, u1, 0, 0x308, .bar (handleOf ⟨1, 0⟩ .group 2 1), 0, 2, 9, .answered true none none, none, none⟩, true,
    none, waiting ⟨7, u1, 0, 0x308, .bar (handleOf ⟨1, 0⟩ .group 2 1), 0, 2, 9, .answered true none none, none,
    none⟩, by decide +kernel⟩

theorem witness_waitEndings_2 : ∃ (tid : Tid) (w : QWait) (ds : List (Tid × Nat)) (sc : Scope) (s : State),
    s.waits.find? (fun v => decide (v.tid = tid) && decide (v.seq = w.seq)) = some w ∧ w.gd = none ∧ wayOpen s
    w.node w.tid.core.node = true ∧ w.stage = .won ds sc ∧ (∀ d ∈ ds, drained s d.1 d.2 sc = true) ∧ NotDeferred s
    tid w.q :=
  ⟨u1, ⟨7, u1, 0, 0x308, .bar group2, 0, 2, 9, .won [(u1, 7)] .die, none, none⟩, [(u1, 7)], .die, waiting ⟨7, u1,
    0, 0x308, .bar group2, 0, 2, 9, .won [(u1, 7)] .die, none, none⟩, by decide +kernel⟩

theorem witness_leaseIssue_0 : ∃ (i : Instr) (s : State) (g : Guard) (rs : List RegRef) (d : BitVec 4) (q :
    Option (BitVec 4)) (a b : W64), leaseForm s.me i = some (g, rs, d, q, a, b) ∧ s.me.passes g ∧ s.me.readable rs ∧
    s.me.allFull (waitRegs (some d) (q.getD 0)) :=
  ⟨.lgroup 3 (r 2) (r 4) 5 g0, gs [(2, 2), (4, 50)] s1, _, _, _, _, _, _, rfl, by decide +kernel⟩

theorem witness_leaseIssue_1 : ∃ (j : BitVec 2) (a : GSrc) (g : Guard) (s : State), s.me.passes g ∧
    s.me.readable [.g a.r] :=
  ⟨1, r 2, g0, s1, by decide +kernel⟩

theorem witness_leaseIssue_2 : ∃ (a : GSrc) (sc : Scope) (g : Guard) (s : State), s.me.passes g ∧ s.me.readable
    [.g a.r] :=
  ⟨r 2, .die, g0, s1, by decide +kernel⟩

theorem witness_leaseGrant_0 : ∃ (k i b n m : Nat) (r : LeaseReq) (kind : LKind) (h2 : W64) (body : LBody) (s :
    State), Requested s k r ∧ decideRequest s r i b = .grant kind h2 body (n, m) ∧ someEntry s (requestHome r) =
    true ∧ entryReady s (requestHome r) i = true ∧ ((∀ d x y q g, r.ins ≠ .lrange d x y q g) ∨ bits r.a 40 2 ≠ 0 ∨
    (mappedRun s r.tid (hbmVa b) (roundUp (bits r.a 0 37) 4096) (bits r.a 42 2)).isSome = true) :=
  ⟨7, 5, 0, 0, 0, req (.lgroup 3 (r 2) (r 4) 5 g0) (2) (100), .group, 0, .group 2 [] false, asking (req (.lgroup 3
    (r 2) (r 4) 5 g0) (2) (100)) (up s1), by decide +kernel, by decide +kernel, by decide +kernel,
    by decide +kernel, .inl nofun⟩

theorem witness_leaseRefusals_0 : ∃ (s : State) (r : LeaseReq) (i b : Nat) (d : BitVec 4) (x y : GSrc) (q :
    BitVec 4) (g : Guard), r.ins = .lgroup d x y q g ∧ (r.a.toNat % 2 ^ 24 = 0 ∨ 2 ^ 24 ≤ r.a.toNat) :=
  ⟨z, req (.lgroup 3 (r 2) (r 4) 5 g0) (0x1000000) (100), 0, 0, 3, r 2, r 4, 5, g0, by decide +kernel⟩

theorem witness_leaseRefusals_1 : ∃ (s : State) (r : LeaseReq) (i b : Nat) (d : BitVec 4) (x y : GSrc) (q :
    BitVec 4) (g : Guard), r.ins = .lgroup d x y q g ∧ r.a.toNat % 2 ^ 24 ≠ 0 ∧ r.a.toNat < 2 ^ 24 ∧
    Config.groupEntries ≤ groupsUsed s (dieOf r.tid.core) :=
  ⟨z.modDie h0 fun d => { d with leases := (List.range 256).map fun i => (i, Lease.mk .live .group 1 9 0 0 0
    (.group 2 [] false) false) }, req (.lgroup 3 (r 2) (r 4) 5 g0) (2) (100), 0, 0, 3, r 2, r 4, 5, g0,
    by decide +kernel⟩

theorem witness_leaseRefusals_2 : ∃ (s : State) (r : LeaseReq) (i b : Nat) (d : BitVec 4) (x y : GSrc) (q :
    BitVec 4) (g : Guard), r.ins = .lgroup d x y q g ∧ r.a.toNat % 2 ^ 24 ≠ 0 ∧ r.a.toNat < 2 ^ 24 ∧ groupsUsed s
    (dieOf r.tid.core) < Config.groupEntries :=
  ⟨z, req (.lgroup 3 (r 2) (r 4) 5 g0) (2) (100), 0, 0, 3, r 2, r 4, 5, g0, by decide +kernel⟩

theorem witness_leaseRefusals_3 : ∃ (s : State) (r : LeaseReq) (i b : Nat) (d : BitVec 4) (x y : GSrc) (q :
    BitVec 4) (g : Guard), r.ins = .lpath d x y q g ∧ (2 ^ 16 ≤ r.a.toNat ∨ r.a.toNat % 2 ^ 16 = r.tid.core.node) :=
  ⟨z, req (.lpath 3 (r 2) (r 4) 5 g0) (0) (100), 0, 0, 3, r 2, r 4, 5, g0, by decide +kernel⟩

theorem witness_leaseRefusals_4 : ∃ (s : State) (r : LeaseReq) (i b : Nat) (d : BitVec 4) (x y : GSrc) (q :
    BitVec 4) (g : Guard), r.ins = .lpath d x y q g ∧ r.a.toNat < 2 ^ 16 ∧ r.a.toNat ≠ r.tid.core.node ∧ r.a.toNat ∉
    s.group :=
  ⟨z, req (.lpath 3 (r 2) (r 4) 5 g0) (1) (100), 0, 0, 3, r 2, r 4, 5, g0, by decide +kernel⟩

theorem witness_leaseRefusals_5 : ∃ (s : State) (r : LeaseReq) (i b : Nat) (d : BitVec 4) (x y : GSrc) (q :
    BitVec 4) (g : Guard), r.ins = .lpath d x y q g ∧ r.a.toNat < 2 ^ 16 ∧ r.a.toNat ≠ r.tid.core.node ∧ r.a.toNat ∈
    s.group :=
  ⟨{ z with group := [0, 1] }, req (.lpath 3 (r 2) (r 4) 5 g0) (1) (100), 0, 0, 3, r 2, r 4, 5, g0,
    by decide +kernel⟩

theorem witness_leaseRefusals_6 : ∃ (s : State) (r : LeaseReq) (i b : Nat) (d : BitVec 4) (x y : GSrc) (q :
    BitVec 4) (g : Guard), r.ins = .lrange d x y q g ∧ badRange r.a = true :=
  ⟨z, req (.lrange 3 (r 2) (r 4) 5 g0) (0) (100), 0, 0, 3, r 2, r 4, 5, g0, by decide +kernel⟩

theorem witness_leaseRefusals_7 : ∃ (s : State) (r : LeaseReq) (i b : Nat) (d : BitVec 4) (x y : GSrc) (q :
    BitVec 4) (g : Guard), r.ins = .lrange d x y q g ∧ badRange r.a = false ∧ i = Config.leaseEntries ∧ noRoom s r =
    true :=
  ⟨z, req (.lrange 3 (r 2) (r 4) 5 g0) (0x1FFFFFFFFF) (100), 262144, 0, 3, r 2, r 4, 5, g0, by decide +kernel⟩

theorem witness_leaseRefusals_8 : ∃ (s : State) (r : LeaseReq) (i b : Nat) (d : BitVec 4) (x y : GSrc) (q :
    BitVec 4) (g : Guard), r.ins = .lctx d x y q g ∧ r.a.toNat % 64 ≠ 0 :=
  ⟨z, req (.lctx 3 (r 2) (r 4) 5 g0) (wnd 0x20020) (100), 0, 0, 3, r 2, r 4, 5, g0, by decide +kernel⟩

theorem witness_leaseRefusals_9 : ∃ (s : State) (r : LeaseReq) (i b : Nat) (d : BitVec 4) (x y : GSrc) (q :
    BitVec 4) (g : Guard), ∃ ws, r.ins = .lctx d x y q g ∧ r.a.toNat % 64 = 0 ∧ r.desc = some ws ∧ badDescriptor ws
    = true :=
  ⟨z, { req (.lctx 3 (r 2) (r 4) 5 g0) (wnd 0x20000) (100) with desc := some [0x10000, 0, 0, 0, 0, 0, 0, 0] }, 0,
    0, 3, r 2, r 4, 5, g0, [0x10000, 0, 0, 0, 0, 0, 0, 0], by decide +kernel⟩

theorem witness_leaseRefusals_10 : ∃ (s : State) (r : LeaseReq) (i b : Nat) (d : BitVec 4) (x y : GSrc) (q :
    BitVec 4) (g : Guard), ∃ ws, r.ins = .lctx d x y q g ∧ r.a.toNat % 64 = 0 ∧ r.desc = some ws ∧ badDescriptor ws
    = false :=
  ⟨z, { req (.lctx 3 (r 2) (r 4) 5 g0) (wnd 0x20000) (100) with desc := some [7, 0x40, 0, 0, 0, 0, 0, 0] }, 0, 0,
    3, r 2, r 4, 5, g0, [7, 0x40, 0, 0, 0, 0, 0, 0], by decide +kernel⟩

theorem witness_leaseRefusals_11 : ∃ (k i b c : Nat) (r : LeaseReq) (s : State), Requested s k r ∧ decideRequest
    s r i b = .refuse c :=
  ⟨7, 5, 0, 3, req (.lgroup 3 (r 2) (r 4) 5 g0) (0) (100), asking (req (.lgroup 3 (r 2) (r 4) 5 g0) (0) (100)) (up
    s1), by decide +kernel⟩

theorem witness_leaseRefusals_12 : ∃ (k i b : Nat) (r : LeaseReq) (kind : LKind) (h2 : W64) (body : LBody) (c :
    Nat × Nat) (s : State), Requested s k r ∧ decideRequest s r i b = .grant kind h2 body c ∧ someEntry s
    (requestHome r) = false :=
  ⟨7, 5, 0, req (.lgroup 3 (r 2) (r 4) 5 g0) (2) (100), .group, 0, .group 2 [] false, (0, 0), busyTable,
    by decide +kernel, by decide +kernel, busy_table⟩

theorem witness_leaseRefusals_13 : ∃ (k i b n m : Nat) (r : LeaseReq) (kind : LKind) (h2 : W64) (body : LBody)
    (u : State) (s : State), Requested s k r ∧ decideRequest s r i b = .grant kind h2 body (n, m) ∧ someEntry s
    (requestHome r) = true ∧ entryReady s (requestHome r) i = true ∧ u = grantRequest r (requestHome r) i kind h2
    body (clearRange n m s) ∧ mapGranted s r b u = .error .full :=
  ⟨7, 5, 0x80 * 2 ^ 57 + 0x10000080000, 0x8000080000, 0x1000, req (.lrange 3 (r 2) (r 4) 5 g0) (0x1000) (100),
    .range, 0, .range 0x10000080000 0x1000 0x8000080000 true, _, { asking (req (.lrange 3 (r 2) (r 4) 5 g0) (0x1000)
    (100)) (up s1) with sysMem := [⟨0x8000081000, 2 ^ 37 - 0x81000⟩] }, by decide +kernel, by decide +kernel,
    by decide +kernel, by decide +kernel, rfl, by decide +kernel⟩

theorem witness_leaseOperations_0 : ∃ (k i : Nat) (r : LeaseReq) (h : DieId) (l : Lease) (s : State), ∃ d a b g,
    AtHome s k r h i l ∧ r.ins = .rnw d a b g ∧ i ≠ 0 ∧ (if l.kind = .lock then l.ownedBy r.tid = true else l.heldBy
    r.ctx = true) :=
  ⟨7, 1, req (.rnw 3 (r 2) (r 4) g0) (range1) (100), h0, ⟨.live, .range, 1, 1000, 0, 0, 0, .range (wnd 0x20000)
    0x10000 p2.key true, false⟩, asking (req (.rnw 3 (r 2) (r 4) g0) (range1) (100)) (s1), 3, r 2, r 4, g0,
    by decide +kernel⟩

theorem witness_leaseOperations_1 : ∃ (k i : Nat) (r : LeaseReq) (h : DieId) (l : Lease) (s : State), ∃ d a g,
    AtHome s k r h i l ∧ r.ins = .life d a g ∧ l.heldBy r.ctx = true ∧ h.node = r.tid.core.node :=
  ⟨7, 1, req (.life 3 (r 2) g0) (range1) (0), h0, ⟨.live, .range, 1, 1000, 0, 0, 0, .range (wnd 0x20000) 0x10000
    p2.key true, false⟩, asking (req (.life 3 (r 2) g0) (range1) (0)) (s1), 3, r 2, g0, by decide +kernel⟩

theorem witness_leaseOperations_2 : ∃ (k i : Nat) (r : LeaseReq) (h : DieId) (l : Lease) (s : State), ∃ d a b g,
    AtHome s k r h i l ∧ r.ins = .linfo d a b g ∧ l.heldBy r.ctx = true :=
  ⟨7, 1, req (.linfo 3 (r 2) (r 4) g0) (range1) (1), h0, ⟨.live, .range, 1, 1000, 0, 0, 0, .range (wnd 0x20000)
    0x10000 p2.key true, false⟩, asking (req (.linfo 3 (r 2) (r 4) g0) (range1) (1)) (s1), 3, r 2, r 4, g0,
    by decide +kernel⟩

theorem witness_leaseOperations_3 : ∃ (k i : Nat) (r : LeaseReq) (h : DieId) (l : Lease) (s : State), ∃ j a g
    since n ts team, AtHome s k r h i l ∧ r.ins = .gjoin j a g ∧ (s.th r.tid).hold = .gjoin since r.id ∧ l.body =
    .group n ts team ∧ l.holder = r.ctx ∧ r.tid ∉ ts ∧ ts.length ≠ n :=
  ⟨7, 2, req (.gjoin 1 (r 2) g0) (group2) (0), h0, ⟨.live, .group, 1, 1000, 0, 0, 0, .group 2 [] false, false⟩,
    asking (req (.gjoin 1 (r 2) g0) (group2) (0)) (me (fun t => { t with hold := .gjoin 0 7 }) s1), 1, r 2, g0, 0,
    2, [], false, by decide +kernel⟩

theorem witness_leaseOperations_4 : ∃ (k i : Nat) (r : LeaseReq) (h : DieId) (l : Lease) (s : State), ∃ d a b g
    hb ib lb key p, AtHome s k r h i l ∧ r.ins = .bind d a b g ∧ pathRefusal (dropReq k s) r.tid r.ctx r.b = none ∧
    handleHeld s r.tid.core.node r.b = false ∧ present (dropReq k s) r.b = .live hb ib lb ∧ l.kind = .range ∧
    lb.body = .lock key p r.tid false ∧ l.holder = r.ctx ∧ h.node = hb.node ∧ (∀ x ∈ (s.die h).binds, x.range ≠ i) ∧
    (s.die h).binds.length < Config.bindEntries :=
  ⟨7, 1, req (.bind 3 (r 2) (r 4) g0) (range1) (hold3), h0, ⟨.live, .range, 1, 1000, 0, 0, 0, .range (wnd 0x20000)
    0x10000 p2.key true, false⟩, asking (req (.bind 3 (r 2) (r 4) g0) (range1) (hold3)) (s1), 3, r 2, r 4, g0, h0,
    3, ⟨.live, .lock, 1, 1000, 0, 0, 0, lock3, false⟩, wnd 0x20000, p2.key, by decide +kernel⟩

theorem witness_leaseOperations_5 : ∃ (k i : Nat) (r : LeaseReq) (h : DieId) (l : Lease) (s : State), ∃ a sc g
    sc' key p, AtHome s k r h i l ∧ r.ins = .rel a sc g ∧ (s.th r.tid).hold = .rel r.a sc' false ∧ l.body = .lock
    key p r.tid false ∧ lockQueue s h p = [] :=
  ⟨7, 3, req (.rel (r 2) .die g0) (hold3) (0), h0, ⟨.live, .lock, 1, 1000, 0, 0, 0, lock3, false⟩, asking (req
    (.rel (r 2) .die g0) (hold3) (0)) (me (fun t => { t with hold := .rel hold3 .die false }) s1), r 2, .die, g0,
    .die, wnd 0x20000, p2.key, by decide +kernel⟩

theorem witness_leaseHandles_0 : ∃ (k : Nat) (r : LeaseReq) (c : Cause) (s : State), ∃ q, s.leaseReqs.find? (fun
    r => decide (r.id = k) && !isRequest r.ins) = some r ∧ (isRenewal r.ins = true → ∀ x ∈ s.leaseReqs, x.id < k →
    x.tid = r.tid → x.a = r.a → isRenewal x.ins = false) ∧ pathRefusal (dropReq k s) r.tid r.ctx r.a = none ∧
    handleHeld s r.tid.core.node r.a = false ∧ ((present (dropReq k s) r.a = .stale ∧ c = .stale) ∨ (present
    (dropReq k s) r.a = .lapsed ∧ c = .lapsed)) ∧ (∃ d a b g, r.ins = .rnw d a b g ∨ r.ins = .life d a g ∨ r.ins =
    .linfo d a b g) ∧ (s.th r.tid).pend? r.id = some q ∧ q.left = 1 ∧ q.refused = [] ∧ q.vector = false ∧ q.void =
    false :=
  ⟨7, req (.life 3 (r 2) g0) (range1 + 1) (0), .stale, asking (req (.life 3 (r 2) g0) (range1 + 1) (0)) (awaits
    [pend 7 (some (.g 3)) none (.g 0)] s1), pend 7 (some (.g 3)) none (.g 0), by decide +kernel, fun h => absurd h
    (by decide), by decide +kernel, by decide +kernel, .inl (by decide +kernel), by exact ⟨⟨3, r 2, r 2, g0, .inr
    (.inl rfl)⟩, by decide +kernel⟩⟩

theorem witness_leaseHandles_1 : ∃ (tid : Tid) (x : W64) (sc : Scope) (h : DieId) (i : Nat) (l : Lease) (s :
    State), (s.th tid).hold = .rel x sc true ∧ drained s tid s.nextId sc = true ∧ answered s tid = true ∧
    handleWaits s tid (s.th tid).ctxh x = false ∧ present s x = .live h i l :=
  ⟨u1, hold3, .die, h0, 3, ⟨.live, .lock, 1, 1000, 0, 0, 0, lock3, false⟩, held (me (fun t =>
    { t with hold := .rel hold3 .die true }) s1), by decide +kernel⟩

theorem witness_leaseLapse_0 : ∃ (h : DieId) (i : Nat) (s : State), i ≠ 0 ∧ (s.lease h i).state = .live ∧
    (s.lease h i).x ≤ s.taper h.node ∧ (s.lease h i).since < s.taper h.node ∧ (∀ w ∈ s.waits, w.resv ≠ some i) :=
  ⟨h0, 1, (held z).modPkg 0 fun q => { q with taper := 1000 }, by decide +kernel⟩

theorem witness_leaseLapse_1 : ∃ (h : DieId) (i : Nat) (s : State), (s.lease h i).state = .smoke ∧ (s.lease h
    i).since + 64 ≤ s.taper h.node :=
  ⟨h0, 1, ((held z).modLease h0 1 fun l => { l with state := .smoke }).modPkg 0 fun q => { q with taper := 64 },
    by decide +kernel⟩

theorem witness_leaseLapse_2 : ∃ (h : DieId) (i size phys : Nat) (base : W64) (s : State), (s.lease h i).body =
    .range base size phys false ∧ (s.lease h i).state ≠ .live :=
  ⟨h0, 1, 0x10000, p2.key, wnd 0x20000, (held z).modLease h0 1 fun l =>
    { l with state := .smoke, body := .range (wnd 0x20000) 0x10000 p2.key false }, by decide +kernel⟩

theorem witness_leaseLapse_3 : ∃ (h : DieId) (i : Nat) (s : State), (s.lease h i).state = .live ∧ i ≠ 0 :=
  ⟨h0, 1, held z, by decide +kernel⟩

theorem witness_forkAndJoin_0 : ∃ (a : GSrc) (g : Guard) (cont h : W64) (s : State), s.me.passes g ∧
    s.me.readable [.g a.r] ∧ jinitChecks a s = .ok (cont, h) ∧ s.me.readable ((liveRegs (hdrLive h)).map .g) ∧ ownXB
    s (s.me.rG a.r) = false :=
  ⟨r 2, g0, 0x340, hdrOf 0 1 + 0x100#64, fk id, by decide +kernel⟩

theorem witness_forkAndJoin_1 : ∃ (a : GSrc) (o : BitVec 16) (g : Guard) (tg h : W64) (p : Phys) (s : State),
    s.me.passes g ∧ s.me.readable [.g a.r] ∧ forkChecks a o s = .ok ((tg, p), h) ∧ s.me.readable ((liveRegs (hdrLive
    h)).map .g) ∧ updateFree s s.cur p = true ∧ forkRoom (s.core s.cur.core) = true ∧ homeRefusal s s.cur s.me.ctxh
    p (s.me.rG a.r) 4 .join = none ∧ s.peek p 4 < 2 ^ 32 - 1 :=
  ⟨r 2, 16, g0, 0x380, hdrOf 0 1 + 0x100#64 * 4, p2, sysm (fk id), by decide +kernel⟩

theorem witness_forkAndJoin_2 : ∃ (a : GSrc) (g : Guard) (p : Phys) (s : State), s.me.passes g ∧ s.me.readable
    [.g a.r] ∧ s.me.pjoin = none ∧ joinPlace s.cur.core (s.me.rG a.r) = .ok p ∧ ownXB s (s.me.rG a.r) = false :=
  ⟨r 2, g0, p2, fk id, by decide +kernel⟩

theorem witness_forkTraps_0 : ∃ (a : GSrc) (o : BitVec 16) (g : Guard) (s : State) (b : Block), s.me.passes g ∧
    s.me.readable [.g a.r] ∧ CanTrap s b ∧ s.me.reconv = 0 :=
  ⟨r 2, 16, g0, s1, blkOf 1, by decide +kernel⟩

theorem witness_forkTraps_1 : ∃ (a : GSrc) (o : BitVec 16) (g : Guard) (s : State) (b : Block), ∃ f, s.me.passes
    g ∧ s.me.readable [.g a.r] ∧ CanTrap s b ∧ jinitChecks a s = .error f :=
  ⟨r 2, 16, g0, gs [(2, 8)] (fk id), blkOf 1, ⟨.align, 8, 0, 0⟩, by decide +kernel⟩

theorem witness_forkTraps_2 : ∃ (a : GSrc) (o : BitVec 16) (g : Guard) (s : State) (b : Block), ∃ f, s.me.passes
    g ∧ s.me.readable [.g a.r] ∧ CanTrap s b ∧ forkChecks a o s = .error f :=
  ⟨r 2, 16, g0, gs [(2, 8)] (fk id), blkOf 1, ⟨.align, 8, 0, 0⟩, by decide +kernel⟩

theorem witness_forkTraps_3 : ∃ (a : GSrc) (o : BitVec 16) (g : Guard) (s : State) (b : Block), ∃ tg p h,
    s.me.passes g ∧ s.me.readable [.g a.r] ∧ CanTrap s b ∧ forkChecks a o s = .ok ((tg, p), h) ∧ s.me.readable
    ((liveRegs (hdrLive h)).map .g) ∧ updateFree s s.cur p = true ∧ forkRoom (s.core s.cur.core) = false :=
  ⟨r 2, 16, g0, (fk id).modCore c0 fun c =>
    { c with forks := List.replicate 16 (forkRec 3) ++ List.replicate 64 (forkSpot 3) }, blkOf 1, 0x380, p2, hdrOf 0
    1 + 0x100#64 * 4, by decide +kernel⟩

theorem witness_forkTraps_4 : ∃ (a : GSrc) (o : BitVec 16) (g : Guard) (s : State) (b : Block), s.me.passes g ∧
    s.me.readable [.g a.r] ∧ CanTrap s b ∧ s.me.pjoin ≠ none :=
  ⟨r 2, 16, g0, fk fun t => { t with pjoin := some .asked }, blkOf 1, by decide +kernel⟩

theorem witness_joinOutcome_0 : ∃ (k pid : Nat) (a : Acc) (p : Phys) (s : State), Arrives s k a pid p ∧ a.op =
    .join ∧ NeedsAnswer s a.tid pid ∧ (s.th a.tid).pjoin = some .asked ∧ 0 < s.peek p 4 :=
  ⟨7, 7, acc2 .join 64, p2, State.poke (me (fun t => { t with pjoin := some .asked }) (flying (acc2 .join 64)
    (pend 7 none none (.g 0)))) p2 [2], by decide +kernel, by decide +kernel, ⟨pend 7 none none (.g 0),
    by decide +kernel⟩, by decide +kernel⟩

theorem witness_joinOutcome_1 : ∃ (tid : Tid) (s : State), (s.th tid).hold = .blockEnd ∧ (s.th tid).pjoin = some
    .retire ∧ (s.th tid).joinHeld = false :=
  ⟨u1, me (fun t => { t with hold := .blockEnd, pjoin := some .retire }) s1, by decide +kernel⟩

theorem witness_joinOutcome_2 : ∃ (tid : Tid) (cont : Nat) (live : BitVec 16) (vals : List W64) (b : Block) (s :
    State), (s.th tid).hold = .blockEnd ∧ (s.th tid).pjoin = some (.continue_ cont live vals) ∧ (s.th tid).joinHeld
    = false ∧ vals.length = 6 ∧ (liveRegs live).length ≤ 6 ∧ live.getLsbD 0 = false ∧ (∀ r : BitVec 4, live.getLsbD
    r.toNat = true → (s.th tid).full (.g r) = true) ∧ fetchAt s tid.core (BitVec.ofNat 64 cont) (.transfer 7) =
    .block b :=
  ⟨u1, 0x300, 0x6, [1, 2, 0, 0, 0, 0], blkOf 0, me (fun t =>
    { t with hold := .blockEnd, pjoin := some (.continue_ 0x300 0x6 [1, 2, 0, 0, 0, 0]) }) s1, by decide +kernel⟩

theorem witness_deferredDelivery_0 : ∃ (tid : Tid) (a : Answer) (s : State), deliverable s tid = true ∧
    nextFirst s tid a.word = false ∧ a.held = false ∧ (s.th tid).pjoin ≠ some (.refused a.pid) ∧ (s.th tid).life =
    .ended ∧ (s.th tid).abandoned = false ∧ (s.th tid).answers.head? = some a ∧ tid.slot ≠ 0 :=
  ⟨u1, ans1, me (fun t => { t with life := .ended, answers := [ans1] }) s1, by decide +kernel⟩

theorem witness_deferredDelivery_1 : ∃ (tid : Tid) (a : Answer) (s : State), deliverable s tid = true ∧
    nextFirst s tid a.word = false ∧ a.held = false ∧ (s.th tid).pjoin ≠ some (.refused a.pid) ∧ (s.th tid).life =
    .running ∧ (s.th tid).inHandler = true ∧ (s.th tid).answers.find? (fun a => !a.held) = some a :=
  ⟨u1, ans1, me (fun t => { t with inHandler := true, answers := [ans1] }) s1, by decide +kernel⟩

theorem witness_deferredDelivery_2 : ∃ (tid : Tid) (a : Answer) (s : State), ∃ b p, deliverable s tid = true ∧
    nextFirst s tid a.word = false ∧ a.held = false ∧ (s.th tid).pjoin ≠ some (.refused a.pid) ∧ (s.th tid).life =
    .running ∧ (s.th tid).answers.head? = some a ∧ (s.th tid).inHandler = false ∧ a.fault.cause ≠ .poison ∧ (s.th
    tid).hold = .none ∧ (s.th tid).fetch = none ∧ (s.th tid).deferredQ = [] ∧ (s.th tid).pend? a.pid = some p ∧
    fetchAt s tid.core ((s.th tid).tvb.setWidth 64) .trapEntry = .block b :=
  ⟨u1, ans1, awaits [pend 7 (some (.g 3)) none (.g 0)] (me (fun t => { t with answers := [ans1] }) s1), blkOf 1,
    pend 7 (some (.g 3)) none (.g 0), by decide +kernel⟩

theorem witness_joinOutcome_3 : ∃ (tid : Tid) (cont : Nat) (live : BitVec 16) (vals : List W64) (r : BitVec 4)
    (s : State), (s.th tid).hold = .blockEnd ∧ (s.th tid).pjoin = some (.continue_ cont live vals) ∧ (s.th
    tid).joinHeld = false ∧ live.getLsbD r.toNat = true ∧ (s.th tid).full (.g r) = false :=
  ⟨u1, 0x300, 0x6, [1, 2, 0, 0, 0, 0], 2, me (fun t =>
    { t with hold := .blockEnd, pjoin := some (.continue_ 0x300 0x6 [1, 2, 0, 0, 0, 0]) }) (empty [.g 2] s1),
    by decide +kernel⟩

theorem witness_emptyTimeout_0 : ∃ (tid : Tid) (s : State), translationHeld s tid = true :=
  ⟨u1, virtual .faulted, by decide +kernel⟩

theorem witness_emptyTimeout_1 : ∃ (tid : Tid) (since id : Nat) (blk : Block) (s : State), (s.th tid).life =
    .running ∧ (s.th tid).hold = .gjoin since id ∧ translationHeld s tid = false ∧ leaseHeld s tid id = false ∧
    since + max 1 (s.th tid).eto.toNat ≤ s.taper tid.core.node ∧ (s.th tid).inHandler = false ∧ fetchAt s tid.core
    ((s.th tid).tvb.setWidth 64) .trapEntry = .block blk :=
  ⟨u1, 0, 7, blkOf 1, (me (fun t => { t with eto := 0, hold := .gjoin 0 7 }) s1).modPkg 0 fun q =>
    { q with taper := 1 }, by decide +kernel⟩

theorem witness_emptyTimeout_2 : ∃ (tid : Tid) (b : Blocked) (w : Await) (blk : Block) (s : State), (s.th
    tid).life = .running ∧ (s.th tid).hold = .none ∧ (s.th tid).blocked = some b ∧ (s.th tid).stillEmpty = some w ∧
    translationHeld s tid = false ∧ fabricHeld s tid w.ref = false ∧ b.since + max 1 (s.th tid).eto.toNat ≤ s.taper
    tid.core.node ∧ (s.th tid).inHandler = false ∧ fetchAt s tid.core ((s.th tid).tvb.setWidth 64) .trapEntry =
    .block blk :=
  ⟨u1, ⟨0, [⟨.g 3, 19, .source⟩]⟩, ⟨.g 3, 19, .source⟩, blkOf 1, (empty [.g 3] (me (fun t =>
    { t with eto := 0, blocked := some ⟨0, [⟨.g 3, 19, .source⟩]⟩ }) s1)).modPkg 0 fun q => { q with taper := 1 },
    by decide +kernel⟩

theorem witness_emptyTimeout_3 : ∃ (tid : Tid) (b : Blocked) (w : Await) (s : State), (s.th tid).hold = .none ∧
    (s.th tid).blocked = some b ∧ (s.th tid).stillEmpty = some w ∧ fabricHeld s tid w.ref = true :=
  ⟨u1, ⟨0, [⟨.g 3, 19, .source⟩]⟩, ⟨.g 3, 19, .source⟩, { empty [.g 3] (me (fun t =>
    { t with blocked := some ⟨0, [⟨.g 3, 19, .source⟩]⟩, pending := [pend 7 (some (.g 3)) none (.g 0)] }) s1) with
    accs := [{ acc2 (.load true) 8 with held := true }] }, by decide +kernel⟩

theorem witness_emptyTimeout_4 : ∃ (tid : Tid) (since id : Nat) (s : State), (s.th tid).hold = .gjoin since id ∧
    leaseHeld s tid id = true :=
  ⟨u1, 0, 7, { me (fun t => { t with hold := .gjoin 0 7 }) s1 with leaseReqs := [req (.gjoin 1 (r 2) g0) (handleOf
    ⟨1, 0⟩ .group 2 1) (0)] }, by decide +kernel⟩

theorem witness_regionRestart_0 : ∃ (tid : Tid) (n w : Nat) (cmp : Bool) (f : Fetch) (b : Block) (s : State),
    (s.th tid).hold = .tick n ∧ n ≤ s.taper tid.core.node ∧ (s.th tid).restarted = true ∧ (s.th tid).fetch = some f
    ∧ f.via = .resume w cmp ∧ fetchAt s tid.core f.target f.via = .block b :=
  ⟨u1, 5, 0, true, ⟨0x300, .resume 0 true, 0⟩, blkOf 0, (me (fun t =>
    { t with hold := .tick 5, restarted := true, fetch := some ⟨0x300, .resume 0 true, 0⟩ }) s1).modPkg 0 fun q =>
    { q with taper := 5 }, by decide +kernel⟩

theorem witness_threadRecords_0 : ∃ (tid : Tid) (i : StopInfo) (s : State), (s.th tid).life = .stopped ∧ (s.th
    tid).stop = some i ∧ 0 < tid.slot ∧ tid.slot < 16 ∧ quiet s tid = true ∧ s.waits = [] :=
  ⟨u1, stop1, me (fun t => { t with life := .stopped, stop := some stop1 }) s1, by decide +kernel⟩

theorem witness_threadRecords_1 : ∃ (c : CoreId) (k : Nat) (ws : List W64) (rest : List (List W64)) (s : State),
    (s.core c).heldRecs.look k = some (ws :: rest) ∧ 0 < k ∧ k < 16 ∧ ws.length = 8 ∧ recordPending s ⟨c, k⟩ = false
    ∧ s.waits = [] :=
  ⟨c0, 1, [0x109, 0x308, 64, 0, 1, 0x300, 0, 0], [], z.modCore c0 fun c =>
    { c with heldRecs := [(1, [[0x109, 0x308, 64, 0, 1, 0x300, 0, 0]])] }, by decide +kernel⟩

theorem witness_threadRecords_2 : ∃ (tid : Tid) (s : State), (s.th tid).life = .ended ∧ quiet s tid = true ∧
    (s.th tid).answers = [] :=
  ⟨u1, me (fun t => { t with life := .ended }) s1, by decide +kernel⟩

theorem witness_flagRaises_0 : ∃ (k : Nat) (r : FlagRaise) (p : Phys) (s : State), ∃ f q, s.raises.find? (fun x
    => decide (x.id = k) && x.vector == r.vector) = some r ∧ taggedPlace { r.tid.core with node := r.node } r.flag =
    .ok p ∧ raiseTurn s r p = true ∧ homeRefusalXB s r.tid r.xb r.ctx p r.flag 8 (.stf []) = some f ∧ (s.th
    r.tid).pend? r.pid = some q ∧ q.left = 1 ∧ q.refused = [] ∧ q.void = false ∧ (∃ fa l n, q.val = .flag fa l n
    .posted) :=
  ⟨9, ⟨9, u1, 0, 0x308, 7, 0, cwd 0x20000, false, 0x10000⟩, p2, { awaits [pend 7 none none (.flag (cwd 0x20000) 0
    0 .posted)] s1 with raises := [⟨9, u1, 0, 0x308, 7, 0, cwd 0x20000, false, 0x10000⟩] }, ⟨.stale, 0, cwd 0x20000,
    1⟩, pend 7 none none (.flag (cwd 0x20000) 0 0 .posted), by decide +kernel, by decide +kernel, by decide +kernel,
    by decide +kernel, by decide +kernel, by exact ⟨by decide +kernel, by decide +kernel, by decide +kernel, ⟨_, _,
    _, rfl⟩⟩⟩

theorem witness_flagRaises_1 : ∃ (k : Nat) (r : FlagRaise) (p : Phys) (s : State), s.raises.find? (fun x =>
    decide (x.id = k) && x.vector == r.vector) = some r ∧ taggedPlace { r.tid.core with node := r.node } r.flag =
    .ok p ∧ raiseTurn s r p = true ∧ homeRefusalXB s r.tid r.xb r.ctx p r.flag 8 (.stf []) = none ∧ s.waits = [] :=
  ⟨9, ⟨9, u1, 0, 0x308, 7, 0, cwd 0x20000, false, 0x10000⟩, p2, sysm
    { s1 with raises := [⟨9, u1, 0, 0x308, 7, 0, cwd 0x20000, false, 0x10000⟩] }, by decide +kernel⟩

theorem witness_translationSteps_0 : ∃ (k : Nat) (a : Acc) (e : W64) (die off : Nat) (s : State), s.acc? k =
    some a ∧ a.trans = .need ∧ (a.ofThread = true ∨ a.isKey = true → translatedBefore s a.tid a.id = true) ∧
    (a.ofThread = false → a.agent.work = none) ∧ classify a.tid.core a.ea = .virt ∧ 3 ≤ (s.pkg
    a.tid.core.node).phase ∧ walk s a.tid.core a.space a.sub a.ea = .leaf e die off ∧ permits e a.op = true ∧
    inMetadata e a.ea = false :=
  ⟨7, virtAcc .need, 5, 0, 0x4008, putH 0x4008 5 (putH 0x3000 0x100003 (putH 0x2000 0xC0003 (putH 0x1000 0x80003
    (putH 0 0x40003 (virtual .need))))), by decide +kernel, by decide +kernel, fun _ => by decide +kernel, fun _ =>
    by decide +kernel, by decide +kernel⟩

theorem witness_translationSteps_1 : ∃ (k : Nat) (a : Acc) (e : W64) (s : State), s.acc? k = some a ∧ a.trans =
    .need ∧ (a.ofThread = true ∨ a.isKey = true → translatedBefore s a.tid a.id = true) ∧ (a.ofThread = false →
    a.agent.work = none) ∧ classify a.tid.core a.ea = .virt ∧ 3 ≤ (s.pkg a.tid.core.node).phase ∧ cached s
    a.tid.core a.space a.sub a.ea = some e ∧ permits e a.op = true ∧ inMetadata e a.ea = false :=
  ⟨7, virtAcc .need, 5, (virtual .need).modCore c0 fun c => { c with cache := [⟨0, false, 1, 5, []⟩] },
    by decide +kernel, by decide +kernel, fun _ => by decide +kernel, fun _ => by decide +kernel, by decide +kernel⟩

theorem witness_translationSteps_2 : ∃ (k : Nat) (a : Acc) (e : W64) (s : State), s.acc? k = some a ∧ a.trans =
    .need ∧ (a.ofThread = true ∨ a.isKey = true → translatedBefore s a.tid a.id = true) ∧ (a.ofThread = false →
    a.agent.work = none) ∧ classify a.tid.core a.ea = .virt ∧ 3 ≤ (s.pkg a.tid.core.node).phase ∧ cached s
    a.tid.core a.space a.sub a.ea = some e ∧ permits e a.op = false :=
  ⟨7, virtAcc .need, 3, (virtual .need).modCore c0 fun c => { c with cache := [⟨0, false, 1, 3, []⟩] },
    by decide +kernel, by decide +kernel, fun _ => by decide +kernel, fun _ => by decide +kernel, by decide +kernel⟩

theorem witness_translationSteps_3 : ∃ (k : Nat) (a : Acc) (cause level die off pid lane : Nat) (e : W64) (q :
    Pending) (s : State), s.acc? k = some a ∧ a.trans = .need ∧ a.agent = .thread pid lane ∧ a.op ≠ .join ∧
    translatedBefore s a.tid a.id = true ∧ a.ofThread = true ∧ classify a.tid.core a.ea = .virt ∧ 3 ≤ (s.pkg
    a.tid.core.node).phase ∧ walkFault s a = some ⟨cause, level, e, die, off⟩ ∧ a.tid.slot = 0 ∧ (s.th a.tid).pend?
    pid = some q ∧ q.left = 1 ∧ q.refused = [] ∧ q.vector = false ∧ q.void = false ∧ (∃ v, q.val = .g v) :=
  ⟨7, acc0 .need, 0, 0, 0, 0, 7, 0, 0, pend 7 (some (.g 3)) none (.g 0), virtual0 .need, by decide +kernel,
    by decide +kernel, by decide +kernel, by decide +kernel, by decide +kernel, by exact ⟨by decide +kernel,
    by decide +kernel, by decide +kernel, by decide +kernel, by decide +kernel, by exact ⟨by decide +kernel,
    by decide +kernel, by decide +kernel, by decide +kernel, by decide +kernel, ⟨0, rfl⟩⟩⟩⟩

theorem witness_translationSteps_4 : ∃ (k : Nat) (a : Acc) (cause level die off : Nat) (e : W64) (u : State) (s
    : State), s.acc? k = some a ∧ a.trans = .need ∧ (a.ofThread = true ∨ a.isKey = true → translatedBefore s a.tid
    a.id = true) ∧ (a.ofThread = false → a.agent.work = none) ∧ classify a.tid.core a.ea = .virt ∧ 3 ≤ (s.pkg
    a.tid.core.node).phase ∧ walkFault s a = some ⟨cause, level, e, die, off⟩ ∧ a.tid.slot ≠ 0 :=
  ⟨7, virtAcc .need, 0, 0, 0, 0, 0, (postFault c0 (faultRec (virtAcc .need) 0 0 0 0 0) (virtual .need)).getD z,
    virtual .need, by decide +kernel, by decide +kernel, fun _ => by decide +kernel, fun _ => by decide +kernel,
    by decide +kernel⟩

theorem witness_translationSteps_5 : ∃ (k : Nat) (a : Acc) (ws : List W64) (u : State) (s : State), s.acc? k =
    some a ∧ a.trans = .ringFull ws ∧ postFault a.tid.core ws s = some u :=
  ⟨7, virtAcc (.ringFull [1, 2, 3, 4, 5, 6, 7, 8]), [1, 2, 3, 4, 5, 6, 7, 8], (postFault c0 [1, 2, 3, 4, 5, 6, 7,
    8] (virtual (.ringFull [1, 2, 3, 4, 5, 6, 7, 8]))).getD z, virtual (.ringFull [1, 2, 3, 4, 5, 6, 7, 8]),
    by decide +kernel⟩

theorem witness_translationSteps_6 : ∃ (c : CoreId) (ws : List W64) (s : State), s.waits = [] ∧ s.peek
    (scratchAt (serviceOf s c) 0x7FFC4) 4 < 63 ∧ (s.peek (scratchAt (serviceOf s c) 0x7FFC4) 4 + 1) % 63 ≠ s.peek
    (scratchAt (serviceOf s c) 0x7FFC0) 4 ∧ ws.length = 8 :=
  ⟨c0, [1, 2, 3, 4, 5, 6, 7, 8], z, by decide +kernel⟩

theorem witness_faultReplies_0 : ∃ (k pid x : Nat) (a : Acc) (p : Phys) (y c : Nat) (s : State), Arrives s k a
    pid p ∧ NeedsAnswer s a.tid pid ∧ a.op = .store (leBytes x 8) ∧ p.region = .agent y c ∧ p.off / 8 < 16 ∧
    faultPending s ⟨p.node, p.die, y, c⟩ (p.off / 8) = none :=
  ⟨8, 9, 0, replyAcc, agentP, 0, 0, replying (virtual .need), by decide +kernel⟩

theorem witness_faultReplies_1 : ∃ (k pid x : Nat) (a : Acc) (p : Phys) (y c : Nat) (s : State), ∃ b, Arrives s
    k a pid p ∧ NeedsAnswer s a.tid pid ∧ a.op = .store (leBytes x 8) ∧ p.region = .agent y c ∧ p.off / 8 < 16 ∧
    faultPending s ⟨p.node, p.die, y, c⟩ (p.off / 8) = some b ∧ b.id ≠ k ∧ (s.core ⟨p.node, p.die, y,
    c⟩).replies.look (p.off / 8) = none :=
  ⟨8, 9, 0, replyAcc, agentP, 0, 0, replying (virtual .faulted), virtAcc .faulted, by decide +kernel⟩

theorem witness_faultReplies_2 : ∃ (tid : Tid) (k : Nat) (x : W64) (a : Acc) (s : State), (s.core
    tid.core).replies.look tid.slot = some (k, x) ∧ (s.accs.find? (fun a => decide (a.id = k ∧ a.trans = .faulted))
    = some a) ∧ x.toNat % 4 ≠ 1 ∧ x.toNat % 4 ≠ 2 :=
  ⟨u1, 7, 0, virtAcc .faulted, (virtual .faulted).modCore c0 fun c => { c with replies := [(1, (7, 0))] },
    by decide +kernel⟩

theorem witness_faultReplies_3 : ∃ (tid : Tid) (k : Nat) (x : W64) (a : Acc) (s : State), ∃ (pid lane : Nat) (q
    : Pending) (f : FaultInfo), (s.core tid.core).replies.look tid.slot = some (k, x) ∧ (s.accs.find? (fun a =>
    decide (a.id = k ∧ a.trans = .faulted)) = some a) ∧ ((x.toNat % 4 = 1 ∧ f = ⟨.access, a.ea, 0, 1⟩) ∨ (x.toNat %
    4 = 2 ∧ f = ⟨.poison, a.ea, 0, 0⟩)) ∧ a.agent = .thread pid lane ∧ a.op ≠ .join ∧ (s.th a.tid).pend? pid = some
    q ∧ q.left = 1 ∧ q.refused = [] ∧ q.vector = false ∧ q.void = false ∧ (∃ v, q.val = .g v) :=
  ⟨u1, 7, 1, virtAcc .faulted, (virtual .faulted).modCore c0 fun c => { c with replies := [(1, (7, 1))] }, 7, 0,
    pend 7 (some (.g 3)) none (.g 0), ⟨.access, 0x200000, 0, 1⟩, by decide +kernel, by decide +kernel, .inl
    (by decide +kernel), by decide +kernel, by decide +kernel, by exact ⟨by decide +kernel, by decide +kernel,
    by decide +kernel, by decide +kernel, by decide +kernel, ⟨0, rfl⟩⟩⟩

theorem witness_memoryRepair_0 : ∃ (c : CoreId) (b : Nat) (s : State), b < 18 ∧ (s.core c).badBanks = [] ∧
    (s.core c).rebuilding = none :=
  ⟨c0, 17, z, by decide +kernel⟩

theorem witness_memoryRepair_1 : ∃ (c : CoreId) (b i : Nat) (s : State), b < 18 ∧ (s.core c).badBanks ≠ [] ∧ b ∉
    (s.core c).badBanks ∧ i < 0x2000 :=
  ⟨c0, 4, 0x1FFF, z.modCore c0 fun c => { c with badBanks := [17] }, by decide +kernel⟩

theorem witness_memoryRepair_2 : ∃ (c : CoreId) (b : Nat) (s : State), (s.core c).rebuilding = some b :=
  ⟨c0, 17, z.modCore c0 fun c => { c with badBanks := [4, 17], rebuilding := some 17 }, by decide +kernel⟩

theorem witness_memoryRepair_3 : ∃ (u : Nat) (p : Phys) (s : State), repairUnit u = some p ∧ inTablePage s p =
    false :=
  ⟨0, physOfKey 0, z, by decide +kernel⟩

theorem witness_memoryRepair_4 : ∃ (u : Nat) (p q : Phys) (s : State), repairUnit u = some p ∧ inTablePage s p =
    true :=
  ⟨Phys.key ⟨0, 0, .hbm, 0⟩ / 64, ⟨0, 0, .hbm, 0⟩, p2, z, by decide +kernel⟩

theorem witness_teamPlacement_0 : ∃ (c : CoreId) (i stk : Nat) (sp : List Nat) (r : List W64) (rest : List (List
    W64)) (s : State), (s.core c).inbox = r :: rest ∧ recKind r = 0 ∧ (s.core c).halted = true :=
  ⟨c0, 4, 0x200000, List.replicate 8 0x40000, range0 0x300, [], z.modCore c0 fun c =>
    { c with inbox := [range0 0x300], halted := true }, by decide +kernel⟩

theorem witness_teamPlacement_1 : ∃ (c : CoreId) (i stk : Nat) (sp : List Nat) (r : List W64) (rest : List (List
    W64)) (s : State), (s.core c).inbox = r :: rest ∧ recKind r = 0 ∧ (s.core c).halted = false ∧ coreRuns s c =
    true ∧ servesInbox s c = true ∧ badRecord r = true :=
  ⟨c0, 4, 0x200000, List.replicate 8 0x40000, range0 0x301, [], inboxOf (range0 0x301), by decide +kernel⟩

theorem witness_teamPlacement_2 : ∃ (c : CoreId) (i stk : Nat) (sp : List Nat) (r : List W64) (rest : List (List
    W64)) (s : State), (s.core c).inbox = r :: rest ∧ recKind r = 0 ∧ (s.core c).halted = false ∧ coreRuns s c =
    true ∧ servesInbox s c = true ∧ badRecord r = false ∧ (present s (wordAt r 1) = .lapsed ∨ present s (wordAt r 1)
    = .stale) :=
  ⟨c0, 4, 0x200000, List.replicate 8 0x40000, (range0 0x300).set 1 group2, [], inboxOf ((range0 0x300).set 1
    group2), by decide +kernel, by decide +kernel, by decide +kernel, by decide +kernel, by decide +kernel, by exact
    ⟨by decide +kernel, .inr (by decide +kernel)⟩⟩

theorem witness_teamPlacement_3 : ∃ (c : CoreId) (i stk : Nat) (sp : List Nat) (r : List W64) (rest : List (List
    W64)) (s : State), ∃ h k l d space tvb tids no, (s.core c).inbox = r :: rest ∧ recKind r = 0 ∧ (s.core c).halted
    = false ∧ coreRuns s c = true ∧ servesInbox s c = true ∧ badRecord r = false ∧ present s (wordAt r 1) = .live h
    k l ∧ l.body = .ctx d space tvb ∧ teamSlots s c (recTeam r) = some tids ∧ freeTeam s (clusterOf c) = some no ∧
    entryReady s (dieOf c) i = true ∧ stacksFit s space tids stk = true ∧ spillsFit s c sp = true ∧ (tids.map
    tidKey).Nodup :=
  ⟨c0, 4, 0x200000, List.replicate 8 0x40000, range0 0x300, [], windowed (inboxOf (range0 0x300)), h0, 0, z.lease
    h0 0, 0, 0, 0, [u1], 0, by decide +kernel⟩

theorem witness_forkStartAndTeamEnd_0 : ∃ (c o : CoreId) (stk k : Nat) (rest : List Nat) (r : ForkRec) (m :
    Team) (s : State), freeSlots s c = k :: rest ∧ nextFork s c = some (o, r) ∧ drained s r.by_ r.seq .cluster =
    true ∧ (s.cluster (clusterOf c)).teams.look r.teamNo = some m ∧ m.state = .running ∧ r.live.getLsbD 0 = false ∧
    r.live.getLsbD 14 = false ∧ 1024 ≤ stk ∧ stacksFit s m.space [⟨c, k⟩] (stk - 1024) = true :=
  ⟨c0, c0, 0x200400, 2, [3, 4, 5, 6, 7, 8, 9, 10, 11, 12, 13, 14, 15], forkRec 3, team3 [u1], windowed (up (teams
    [u1] (s1.modCore c0 fun c => { c with forks := [forkRec 3] }))), by decide +kernel⟩

theorem witness_forkStartAndTeamEnd_2 : ∃ (c : CoreId) (r : ForkRec) (rs : List ForkRec) (s : State), (s.core
    c).forks.filter (forkRuns s (clusterOf c)) = r :: rs :=
  ⟨c0, forkRec 3, [], up (teams [u1] (s1.modCore c0 fun c => { c with forks := [forkRec 3] })), by decide +kernel⟩

theorem witness_forkStartAndTeamEnd_3 : ∃ (c o : CoreId) (r : ForkRec) (s : State), o =
    { c with core := (c.core + 1) % 8 } ∧ (s.core c).forks.filter (forkRuns s (clusterOf c)) = [] ∧ ((s.core
    o).forks.filter (forkRuns s (clusterOf c))).getLast? = some r ∧ (((s.core o).forks.filter (forkRuns s (clusterOf
    c))).length ≠ 1 ∨ freeSlots s o = []) :=
  ⟨c0, coreIn k0 1, forkRec 3, up (teams [u1] (s1.modCore (coreIn k0 1) fun c => { c with forks :=
    [{ forkRec 3 with seq := 2 }, forkRec 3] })), by decide +kernel, by decide +kernel, by decide +kernel, .inl
    (by decide +kernel)⟩

theorem witness_forkStartAndTeamEnd_1 : ∃ (c : ClusterId) (n : Nat) (m : Team) (cls : Nat) (s : State),
    (s.cluster c).teams.look n = some m ∧ m.state = .running ∧ ((m.members = [] ∧ teamForks s c n = false ∧ cls = if
    m.faulted then 1 else 0) ∨ ((m.members ≠ [] ∨ teamForks s c n = true) ∧ teamLost s m = true ∧ cls = 2)) :=
  ⟨k0, 3, team3 [], 0, teams [] s1, by decide +kernel, by decide +kernel, .inl (by decide +kernel)⟩

theorem witness_vectorResults_0 : ∃ (i : Instr) (s : State) (rs : List RegRef) (v : BitVec 5) (m : W64) (f : Nat
    → W32 × Fl), vectorForm s.me i = some (rs, v, m, f) ∧ v.toNat < 26 ∧ s.me.readable rs ∧ s.me.allFull [.v v, .v
    24] :=
  ⟨.vadd 1 2 3 0 false .f32, s1, _, _, _, _, rfl, by decide +kernel⟩

theorem witness_floatSums_0 : ∃ a b : W32, (a.toNat % 2 ^ 31 > 0x7F800000 ∨ b.toNat % 2 ^ 31 > 0x7F800000) :=
  ⟨0x7F800001, 0, .inl (by decide +kernel)⟩

theorem witness_floatSums_1 : ∃ a : W32, a.toNat % 2 ^ 31 < 0x7F800000 ∧ a.toNat % 2 ^ 31 ≠ 0 :=
  ⟨1, by decide +kernel⟩

theorem witness_lateVectorResults_0 : ∃ (i : Instr) (s : State) (rs : List RegRef) (v : BitVec 5) (r : Nat →
    W32) (fl : Fl) (gen : Vector W32 64), slowForm s.me i = some (rs, v, r, fl, gen) ∧ v.toNat < 26 ∧ s.me.readable
    rs ∧ s.me.allFull [.v v, .v 24] ∧ FreshName s :=
  ⟨.vrcp 1 2 0 false .f32, s1, _, _, _, _, _, rfl, by decide +kernel⟩

theorem witness_integerReductions_0 : ∃ (v a o : BitVec 5) (m : BitVec 2) (e : Bool) (s : State), v.toNat < 26 ∧
    o.toNat < 6 ∧ s.me.readable [.v a, .m m] ∧ s.me.allFull [.v v, .v 24] ∧ FreshName s :=
  ⟨1, 2, 5, 1, false, s1, by decide +kernel⟩

theorem witness_reductionsByTree_0 : ∃ (v a o : BitVec 5) (m : BitVec 2) (e : Bool) (ty : VType) (s : State),
    v.toNat < 26 ∧ s.me.readable [.v a, .m m] ∧ s.me.allFull [.v v, .v 24] ∧ FreshName s :=
  ⟨1, 2, 0, 1, false, .f32, s1, by decide +kernel⟩

theorem witness_reductionsByTree_1 : ∃ (v a o : BitVec 5) (m : BitVec 2) (e : Bool) (ty : VType) (s : State),
    v.toNat < 26 ∧ s.me.readable [.v a, .m m] ∧ s.me.allFull [.v v, .v 24] ∧ FreshName s :=
  ⟨25, 2, 0, 1, false, .f16, s1, by decide +kernel⟩

theorem witness_laneInsertAndExtract_0 : ∃ (v : BitVec 5) (a b : GSrc) (m : BitVec 2) (ty : VType) (s : State),
    v.toNat < 26 ∧ s.me.readable [.v v, .g a.r, .g b.r, .m m] ∧ s.me.full (.v 24) = true ∧ FreshName s ∧ isPair ty =
    false :=
  ⟨1, r 2, r 3, 0, .f32, s1, by decide +kernel⟩

theorem witness_laneInsertAndExtract_1 : ∃ (v : BitVec 5) (a b : GSrc) (m : BitVec 2) (ty : VType) (s : State),
    v.toNat < 26 ∧ s.me.readable [.v v, .g a.r, .g b.r, .m m] ∧ s.me.full (.v 24) = true ∧ FreshName s ∧ isPair ty =
    true :=
  ⟨1, r 2, r 3, 0, .bf16, s1, by decide +kernel⟩

theorem witness_laneInsertAndExtract_2 : ∃ (d : BitVec 4) (a : BitVec 5) (b : GSrc) (e : Bool) (ty : VType) (s :
    State), s.me.readable [.v a, .g b.r] ∧ s.me.full (.g d) = true ∧ FreshName s ∧ d = 0 :=
  ⟨0, 1, r 2, false, .i32, s1, by decide +kernel⟩

theorem witness_laneInsertAndExtract_3 : ∃ (d : BitVec 4) (a : BitVec 5) (b : GSrc) (e : Bool) (ty : VType) (s :
    State), s.me.readable [.v a, .g b.r] ∧ s.me.full (.g d) = true ∧ FreshName s ∧ d ≠ 0 :=
  ⟨3, 1, r 2, false, .i32, s1, by decide +kernel⟩

theorem witness_maskResults_0 : ∃ (i : Instr) (s : State) (rs : List RegRef) (k : BitVec 2) (x : W64), maskForm
    s.me i = some (rs, k, x) ∧ s.me.readable rs ∧ s.me.full (.m k) = true :=
  ⟨.mand 1 2 3 false, s1, _, _, _, rfl, by decide +kernel⟩

theorem witness_maskResults_1 : ∃ (d : BitVec 4) (a : BitVec 2) (e : Bool) (s : State), s.me.readable [.m a] ∧
    s.me.full (.g d) = true :=
  ⟨3, 1, false, s1, by decide +kernel⟩

theorem witness_maskResults_2 : ∃ (d : BitVec 4) (a : BitVec 2) (e : Bool) (s : State), s.me.readable [.m a] ∧
    s.me.full (.g d) = true :=
  ⟨3, 1, false, s1, by decide +kernel⟩

theorem witness_maskResults_3 : ∃ (i : Instr) (s : State) (rs : List RegRef) (k : BitVec 2) (m : W64) (f : Nat →
    Bool × Fl), compareForm s.me i = some (rs, k, m, f) ∧ s.me.readable rs ∧ s.me.full (.m k) = true :=
  ⟨.vcmplt 1 2 3 0 false .i32, s1, _, _, _, _, rfl, by decide +kernel⟩

theorem witness_vectorMemoryIssue_0 : ∃ (i : Instr) (s : State) (rs : List RegRef) (load : Bool) (v : BitVec 5)
    (ls : List LaneAddr) (side : Bool) (ea : W64), vectorAccess s.me i = some (rs, load, v, ls, side, ea) ∧ v.toNat
    < 26 ∧ s.me.readable rs ∧ (if side then ea.toNat % 4 = 0 else ∀ l ∈ ls, l.2.toNat % 4 = 0) ∧ issueRefusal s (if
    side then some ea else none) (!load) ls = none ∧ load = true ∧ s.me.allFull [.v v, .v 25] :=
  ⟨.vld 1 (r 2) 0 0 false, gs [(2, wnd 0x20000), (4, cwd 0x21000)] s1, _, _, _, _, _, _, rfl, by decide +kernel⟩

theorem witness_vectorMemoryIssue_1 : ∃ (i : Instr) (s : State) (rs : List RegRef) (load : Bool) (v : BitVec 5)
    (ls : List LaneAddr) (side : Bool) (ea : W64), vectorAccess s.me i = some (rs, load, v, ls, side, ea) ∧ v.toNat
    < 26 ∧ s.me.readable rs ∧ (if side then ea.toNat % 4 = 0 else ∀ l ∈ ls, l.2.toNat % 4 = 0) ∧ issueRefusal s (if
    side then some ea else none) (!load) ls = none ∧ load = false ∧ (side = true → isPort s.cur.core ea = false) :=
  ⟨.vstx 1 (r 2) 3 0 false, gs [(2, wnd 0x20000), (4, cwd 0x21000)] s1, _, _, _, _, _, _, rfl, by decide +kernel,
    by decide +kernel, by decide +kernel, by decide +kernel, by exact ⟨by decide +kernel, nofun⟩⟩

theorem witness_vectorMemoryIssue_2 : ∃ (i : Instr) (s : State) (rs : List RegRef) (load : Bool) (v : BitVec 5)
    (ls : List LaneAddr) (side : Bool) (ea : W64), ∃ a o m e, vectorAccess s.me i = some (rs, load, v, ls, side, ea)
    ∧ v.toNat < 26 ∧ s.me.readable rs ∧ (if side then ea.toNat % 4 = 0 else ∀ l ∈ ls, l.2.toNat % 4 = 0) ∧
    issueRefusal s (if side then some ea else none) (!load) ls = none ∧ i = .vst v a o m e ∧ isPort s.cur.core ea =
    true ∧ s.me.rM m = 0xFFFF :=
  ⟨.vst 1 (r 2) 0 1 false, me (fun t => t.wM 1 0xFFFF) (gs [(2, BitVec.ofNat 64 (0xF1 * 2 ^ 56 + 2 ^ 23 + 0x100))]
    s0), _, _, _, _, _, _, r 2, 0, 1, false, rfl, by decide +kernel, by decide +kernel, by decide +kernel,
    by decide +kernel, by exact ⟨rfl, by decide +kernel⟩⟩

theorem witness_flaggedVectorStore_0 : ∃ (v : BitVec 5) (a b : GSrc) (m : BitVec 2) (e : Bool) (s : State),
    s.me.readable [.v v, .g a.r, .g b.r, .m m] ∧ (s.me.rG a.r).toNat % 4 = 0 ∧ flagAddrFault (s.me.rG b.r) = none ∧
    issueRefusal s (some (s.me.rG a.r)) true (lanesAt (s.me.rM m) fun i => s.me.rG a.r + 4 * BitVec.ofNat 64 i) =
    none :=
  ⟨1, r 2, r 4, 1, false, gs [(2, wnd 0x20000), (4, cwd 0x21000)] s1, by decide +kernel⟩

theorem witness_vectorIssueTraps_0 : ∃ (i : Instr) (s : State) (rs : List RegRef) (load : Bool) (v : BitVec 5)
    (ls : List LaneAddr) (side : Bool) (ea : W64) (fa : Option W64) (b : Block), vectorAccessFlag s.me i = some (rs,
    load, v, ls, side, ea, fa) ∧ v.toNat < 26 ∧ s.me.readable rs ∧ (load = true → s.me.allFull [.v v, .v 25]) ∧
    CanTrap s b ∧ side = true ∧ ea.toNat % 4 ≠ 0 :=
  ⟨.vld 1 (r 2) 0 0 false, gs [(2, 2)] s1, _, _, _, _, _, _, _, blkOf 1, rfl, by decide +kernel⟩

theorem witness_vectorIssueTraps_1 : ∃ (i : Instr) (s : State) (rs : List RegRef) (load : Bool) (v : BitVec 5)
    (ls : List LaneAddr) (side : Bool) (ea : W64) (fa : Option W64) (b : Block), ∃ l ∈ ls, vectorAccessFlag s.me i =
    some (rs, load, v, ls, side, ea, fa) ∧ v.toNat < 26 ∧ s.me.readable rs ∧ (load = true → s.me.allFull [.v v, .v
    25]) ∧ CanTrap s b ∧ side = false ∧ l.2.toNat % 4 ≠ 0 ∧ (∀ k ∈ ls, k.2.toNat % 4 ≠ 0 → l.2.toNat ≤ k.2.toNat) :=
  ⟨.vldx 1 (r 2) 3 0 false, gs [(2, 2)] s1, _, _, _, _, _, _, _, blkOf 1, (0, 2), by decide +kernel, rfl,
    by decide +kernel⟩

theorem witness_vectorIssueTraps_2 : ∃ (i : Instr) (s : State) (rs : List RegRef) (load : Bool) (v : BitVec 5)
    (ls : List LaneAddr) (side : Bool) (ea : W64) (fa : Option W64) (b : Block), ∃ x f, vectorAccessFlag s.me i =
    some (rs, load, v, ls, side, ea, fa) ∧ v.toNat < 26 ∧ s.me.readable rs ∧ (load = true → s.me.allFull [.v v, .v
    25]) ∧ CanTrap s b ∧ (if side then ea.toNat % 4 = 0 else ∀ l ∈ ls, l.2.toNat % 4 = 0) ∧ fa = some x ∧
    flagAddrFault x = some f :=
  ⟨.vstfl 1 (r 2) (r 4) 0 false, gs [(2, wnd 0x20000), (4, 3)] s1, _, _, _, _, _, _, _, blkOf 1, 3, ⟨.align, 3, 0,
    0⟩, rfl, by decide +kernel⟩

theorem witness_vectorIssueTraps_3 : ∃ (i : Instr) (s : State) (rs : List RegRef) (load : Bool) (v : BitVec 5)
    (ls : List LaneAddr) (side : Bool) (ea : W64) (fa : Option W64) (b : Block), ∃ l src, vectorAccessFlag s.me i =
    some (rs, load, v, ls, side, ea, fa) ∧ v.toNat < 26 ∧ s.me.readable rs ∧ (load = true → s.me.allFull [.v v, .v
    25]) ∧ CanTrap s b ∧ (if side then ea.toNat % 4 = 0 else ∀ l ∈ ls, l.2.toNat % 4 = 0) ∧ (∀ x, fa = some x →
    flagAddrFault x = none) ∧ l ∈ ls ∧ LaneSource s side load ea l.2 src ∧ (∀ k n, k ∈ ls → k.1 < l.1 → ¬ LaneSource
    s side load ea k.2 n) :=
  ⟨.vstx 1 (r 2) 3 0 false, gs [(2, wnd 0x100)] s1, _, _, _, _, _, _, _, blkOf 1, (0, wnd 0x100), 3, rfl,
    by decide +kernel, by decide +kernel, by decide +kernel, by decide +kernel, by exact ⟨by decide +kernel, (fun _
    h => nomatch h), by decide +kernel, .inr ⟨fun h => Bool.noConfusion h.1, rfl, by decide +kernel, rfl⟩, fun _ _ _
    h => absurd h (Nat.not_lt_zero _)⟩⟩

theorem witness_unitsOfLanes_0 : ∃ ls : List LaneAddr, ∃ n u v, ∃ x ∈ u, ∃ y ∈ v, (unitsOf ls)[n]? = some u ∧
    (unitsOf ls)[n + 1]? = some v :=
  ⟨[(0, 0x3C), (1, 0x40)], 0, [(0, 0x3C)], [(1, 0x40)], (0, 0x3C), by decide +kernel, (1, 0x40),
    by decide +kernel, by decide +kernel⟩

theorem witness_convertedLanes_0 : ∃ (k : Nat) (a : Lanes) (gen : Nat → W32) (i : Nat), ∃ x : BitVec 16, i < 64
    ∧ x = (laneAt a (32 * (k % 2) + i / 2) >>> (16 * (i % 2))).setWidth 16 ∧ x &&& 0x7FFF#16 ≤ 0x7F80#16 :=
  ⟨1, Vector.replicate 64 0x3F803F80, fun _ => 0, 63, 0x3F80, by decide +kernel⟩

theorem witness_convertedLanes_1 : ∃ (k : Nat) (a : Lanes) (gen : Nat → W32) (i : Nat), ∃ ty, i < 64 ∧ 32 ≤ i ∧
    isPair ty = true :=
  ⟨0, Lanes.zero, fun _ => 0, 63, .f16, by decide +kernel⟩

theorem witness_convertedLanes_2 : ∃ (k : Nat) (a : Lanes) (gen : Nat → W32) (i : Nat), i < 64 ∧ i < 32 ∧ k = 1
    ∧ laneAt a (2 * i) &&& 0x7FFFFFFF#32 ≤ 0x7F800000#32 ∧ laneAt a (2 * i + 1) &&& 0x7FFFFFFF#32 ≤ 0x7F800000#32 :=
  ⟨1, Lanes.zero, fun _ => 0, 31, by decide +kernel⟩

theorem witness_convertedLanes_3 : ∃ (k : Nat) (a : Lanes) (gen : Nat → W32) (i : Nat), ∃ (k' : Nat) (b : Lanes)
    (gen' : Nat → W32), i < 64 ∧ (laneAt a i).toInt.natAbs ≤ 2 ^ 24 ∧ laneAt b i = (cvtLane .f32 .i32 k a gen i).1
    :=
  ⟨0, Lanes.zero, fun _ => 0, 0, 4, Lanes.zero, fun _ => 0, by decide +kernel⟩

theorem witness_convertedLanes_4 : ∃ (k : Nat) (a : Lanes) (gen : Nat → W32) (i : Nat), i < 64 ∧ 0x7F800000#32 <
    laneAt a i &&& 0x7FFFFFFF#32 :=
  ⟨0, Vector.replicate 64 0x7F800001, fun _ => 0, 63, by decide +kernel⟩

theorem witness_convertedLanes_5 : ∃ (k : Nat) (a : Lanes) (gen : Nat → W32) (i : Nat), i < 64 ∧ 0x4F000000#32 ≤
    laneAt a i ∧ laneAt a i ≤ 0x7F800000#32 :=
  ⟨0, Vector.replicate 64 0x4F000000, fun _ => 0, 63, by decide +kernel⟩

theorem witness_convertedLanes_6 : ∃ (k : Nat) (a : Lanes) (gen : Nat → W32) (i : Nat), i < 64 ∧ 0xCF000001#32 ≤
    laneAt a i ∧ laneAt a i ≤ 0xFF800000#32 :=
  ⟨0, Vector.replicate 64 0xFF800000, fun _ => 0, 63, by decide +kernel⟩

theorem witness_convertedLanes_7 : ∃ (k : Nat) (a : Lanes) (gen : Nat → W32) (i : Nat), i < 64 ∧ 0x4B000000#32 ≤
    laneAt a i &&& 0x7FFFFFFF#32 ∧ laneAt a i &&& 0x7FFFFFFF#32 ≤ 0x7F800000#32 :=
  ⟨0, Vector.replicate 64 0xCB000001, fun _ => 0, 63, by decide +kernel⟩

theorem witness_reductionTree_0 : ∃ (op : Nat → Nat → Nat × Fl) (n : Nat) (es : List Nat), n ≤ 7 ∧ es.length = 2
    ^ n :=
  ⟨fun x y => (x + y, 0), 1, [5, 6], by decide +kernel⟩

theorem witness_vectorAcceptance_0 : ∃ (k pid ln : Nat) (a : Acc) (p : Phys) (q : Pending) (s : State), ∃ ls xs,
    s.acc? k = some a ∧ a.agent = .thread pid ln ∧ a.place = some p ∧ p.node = a.tid.core.node ∧ mayAccept s a p =
    true ∧ a.refusal p (settleAcc a s) = none ∧ (s.th a.tid).pend? pid = some q ∧ q.refused = [] ∧ a.op = .vload ls
    ∧ q.val = .lanes xs ∧ 1 < q.left :=
  ⟨7, 7, 0, acc2 (.vload [(0, 0), (1, 4)]) 8, p2,
    { pend 7 (some (.v 1)) (some (.v 25)) (.lanes [(2, 9)]) with left := 2 }, flying (acc2 (.vload [(0, 0), (1, 4)])
    8) ({ pend 7 (some (.v 1)) (some (.v 25)) (.lanes [(2, 9)]) with left := 2 }), [(0, 0), (1, 4)], [(2, 9)],
    by decide +kernel⟩

theorem witness_vectorAcceptance_1 : ∃ (k pid ln : Nat) (a : Acc) (p : Phys) (q : Pending) (s : State), ∃ ls xs
    v, s.acc? k = some a ∧ a.agent = .thread pid ln ∧ a.place = some p ∧ p.node = a.tid.core.node ∧ mayAccept s a p
    = true ∧ a.refusal p (settleAcc a s) = none ∧ (s.th a.tid).pend? pid = some q ∧ q.refused = [] ∧ a.op = .vload
    ls ∧ q.left = 1 ∧ q.dst = some (.v v) ∧ q.val = .lanes xs ∧ ((v.toNat < 25 ∧ q.also = some (.v 25)) ∨ (v = 25 ∧
    q.also = none)) ∧ (∀ w ∈ s.waits, w.tid = a.tid → w.seq ≠ pid) :=
  ⟨7, 7, 0, acc2 (.vload [(0, 0), (1, 4)]) 8, p2,
    { pend 7 (some (.v 1)) (some (.v 25)) (.lanes [(2, 9)]) with left := 1 }, flying (acc2 (.vload [(0, 0), (1, 4)])
    8) ({ pend 7 (some (.v 1)) (some (.v 25)) (.lanes [(2, 9)]) with left := 1 }), [(0, 0), (1, 4)], [(2, 9)], 1,
    by decide +kernel, by decide +kernel, by decide +kernel, by decide +kernel, by decide +kernel, by exact
    ⟨by decide +kernel, by decide +kernel, by decide +kernel, by decide +kernel, by decide +kernel, by exact
    ⟨by decide +kernel, by decide +kernel, .inl (by decide +kernel), by decide +kernel⟩⟩⟩

theorem witness_vectorAcceptance_2 : ∃ (k pid ln : Nat) (a : Acc) (p : Phys) (q : Pending) (s : State), ∃ ls,
    s.acc? k = some a ∧ a.agent = .thread pid ln ∧ a.place = some p ∧ p.node = a.tid.core.node ∧ mayAccept s a p =
    true ∧ a.refusal p (settleAcc a s) = none ∧ (s.th a.tid).pend? pid = some q ∧ q.refused = [] ∧ a.op = .vstore ls
    ∧ q.left = 1 ∧ q.dst = none ∧ q.also = none ∧ q.val = .g 0 :=
  ⟨7, 7, 0, acc2 (.vstore [(0, 0, 5), (1, 4, 6)]) 8, p2, pend 7 none none (.g 0), flying (acc2 (.vstore [(0, 0,
    5), (1, 4, 6)]) 8) (pend 7 none none (.g 0)), [(0, 0, 5), (1, 4, 6)], by decide +kernel⟩

theorem witness_engineIssue_0 : ∃ (i : Instr) (e : Engine) (s : State), engineForm s i = some e ∧ (e.priv = true
    → s.cur.slot = 0) ∧ s.me.readable (e.srcs.map fun x => .g x.r) ∧ s.me.full (.g e.d) = true ∧ e.fault = none ∧
    recordTrap s.cur.core e.recs = none ∧ recordWait s e.recs = none ∧ recordRefusal s e.recs = none ∧ queueRoom s
    s.cur e.queue = true ∧ (s.me.full (.q e.guard.q) = true → s.me.bad (.q e.guard.q) = false) :=
  ⟨.cpy 3 (r 2) (r 4) 0 ⟨true, 5⟩, _, sysm (gs [(2, wnd 0x20000), (4, wnd 0x20040)] s1), rfl, by decide +kernel⟩

theorem witness_engineIssue_1 : ∃ (i : Instr) (e : Engine) (s : State), ∃ f b, engineForm s i = some e ∧ (e.priv
    = true → s.cur.slot = 0) ∧ s.me.readable (e.srcs.map fun x => .g x.r) ∧ s.me.full (.g e.d) = true ∧ (e.fault.or
    (recordTrap s.cur.core e.recs)) = some f ∧ CanTrap s b :=
  ⟨.send 3 (r 2) (r 4) 0 g0, _, gs [(2, 1)] s1, ⟨.align, 1, 0, 0⟩, blkOf 1, rfl, nofun, by decide +kernel⟩

theorem witness_copyUnit_0 : ∃ (c : ClusterId) (x : Cmd) (d : BitVec 4) (a b : GSrc) (w : W32) (g : Guard) (s :
    State), nextCopy s c = some x ∧ clusterOf x.tid.core = c ∧ x.ins = .cpy d a b w g ∧ copyOk (x.recw.take 8)
    (x.recw.drop 8) = false :=
  ⟨k0, cpyX (layF (wnd 0x20000) 0) (lay (wnd 0x21000)), 3, r 2, r 4, 0, g0, copying (cpyX (layF (wnd 0x20000) 0)
    (lay (wnd 0x21000))) s1, by decide +kernel⟩

theorem witness_copyUnit_1 : ∃ (c : ClusterId) (x : Cmd) (d : BitVec 4) (a b : GSrc) (w : W32) (g : Guard) (s :
    State), nextCopy s c = some x ∧ clusterOf x.tid.core = c ∧ x.ins = .cpy d a b w g ∧ copyOk (x.recw.take 8)
    (x.recw.drop 8) = true ∧ layZero (x.recw.take 8) = false :=
  ⟨k0, cpyX (lay (wnd 0x20000)) (lay (wnd 0x21000)), 3, r 2, r 4, 0, g0, copying (cpyX (lay (wnd 0x20000)) (lay
    (wnd 0x21000))) s1, by decide +kernel⟩

theorem witness_copyUnit_2 : ∃ (c : ClusterId) (x : Cmd) (d : BitVec 4) (a b : GSrc) (w : W32) (g : Guard) (s :
    State), nextCopy s c = some x ∧ clusterOf x.tid.core = c ∧ x.ins = .cpy d a b w g ∧ copyOk (x.recw.take 8)
    (x.recw.drop 8) = true ∧ layZero (x.recw.take 8) = true ∧ (∀ y ∈ s.jobs, y.id ≠ s.nextId) :=
  ⟨k0, zeroX, 3, r 2, r 4, 0, g0, copying zeroX s1, by decide +kernel⟩

theorem witness_copyUnit_3 : ∃ (c : ClusterId) (x : Cmd) (d : BitVec 4) (w : W32) (g : Guard) (s : State),
    nextCopy s c = some x ∧ clusterOf x.tid.core = c ∧ x.ins = .cstat d w g :=
  ⟨k0, cmdOf (.cstat 3 0 g0) 0 0 [], 3, 0, g0, copying (cmdOf (.cstat 3 0 g0) 0 0 []) s1, by decide +kernel⟩

theorem witness_copyUnit_4 : ∃ (c : CoreId) (q : EngineQueue) (sl : Nat) (x : Cmd) (s : State), channelHead s
    ⟨c, sl⟩ q = some x ∧ x.tid = ⟨c, sl⟩ ∧ x.guard = .known false ∧ jobTurn s x = true :=
  ⟨c0, .copy, 1, { cmdOf cpyI 0 0 [] with guard := .known false }, copying
    ({ cmdOf cpyI 0 0 [] with guard := .known false }) s1, by decide +kernel⟩

theorem witness_copyUnit_5 : ∃ (j : Nat) (x : Job) (s : State), s.job? j = some x ∧ x.id = j ∧ x.chain = none ∧
    jobSettled s x = true ∧ x.refused = none ∧ layFlag x.dst = false :=
  ⟨7, jobOf (lay (wnd 0x21000)) (none) 1 (none), { s1 with jobs := [jobOf (lay (wnd 0x21000)) (none) 1 (none)] },
    by decide +kernel⟩

theorem witness_copyUnit_6 : ∃ (j : Nat) (x : Job) (s : State), ∃ p, s.job? j = some x ∧ x.id = j ∧ x.chain =
    none ∧ jobSettled s x = true ∧ x.refused = none ∧ layFlag x.dst = true ∧ (wordAt x.dst 6).toNat % 8 = 0 ∧
    classify x.cmd.tid.core (wordAt x.dst 6) = .place p ∧ p.isScratch = true ∧ homeRefusal (dropJob j (dropAccs
    (·.ofJob j) s)) x.cmd.tid x.cmd.ctx p (wordAt x.dst 6) 8 .raise = none :=
  ⟨7, jobOf (layF (wnd 0x21000) (wnd 0x22000)) (none) 1 (none),
    { (sysm s1) with jobs := [jobOf (layF (wnd 0x21000) (wnd 0x22000)) (none) 1 (none)] }, scratchAt c0 0x22000,
    by decide +kernel⟩

theorem witness_copyUnit_7 : ∃ (j : Nat) (x : Job) (s : State), ∃ f, s.job? j = some x ∧ x.id = j ∧ x.chain =
    none ∧ jobSettled s x = true ∧ x.refused = some f ∧ layFlag x.dst = false :=
  ⟨7, jobOf (lay (wnd 0x21000)) (none) 0 (some ⟨.access, 0, 0, 1⟩),
    { s1 with jobs := [jobOf (lay (wnd 0x21000)) (none) 0 (some ⟨.access, 0, 0, 1⟩)] }, ⟨.access, 0, 0, 1⟩,
    by decide +kernel⟩

theorem witness_chainChannels_0 : ∃ (c : ClusterId) (x : Cmd) (d : BitVec 4) (a b : GSrc) (w : W32) (g : Guard)
    (ch : Chain) (s : State), nextCopy s c = some x ∧ clusterOf x.tid.core = c ∧ x.ins = .chain d a b w g ∧
    (s.cluster c).chain (bits x.b 0 2) = ch :=
  ⟨k0, cmdBy u0 (.chain 3 (r 2) (r 4) 0 g0) 0 1 [], 3, r 2, r 4, 0, g0, chainOf 2 none, chained (chainOf 2 none)
    (copying (cmdBy u0 (.chain 3 (r 2) (r 4) 0 g0) 0 1 []) s0), by decide +kernel⟩

theorem witness_chainChannels_1 : ∃ (c : ClusterId) (n : Nat) (ch : Chain) (p : Phys) (s : State), n < 4 ∧
    (s.cluster c).chain n = ch ∧ ch.state = 1 ∧ chainPlace ch.tid ch.at_ = some p ∧ ch.job = none ∧ copyPick s c =
    some (.chain n) ∧ homeRefusal s ch.tid (s.th ch.tid).ctxh (p.plus 0) ch.at_ 64 .engRead = none ∧ homeRefusal s
    ch.tid (s.th ch.tid).ctxh (p.plus 64) (ch.at_ + 64) 64 .engRead = none ∧ s.peek (p.plus 120) 1 % 2 = 0 :=
  ⟨k0, 1, chainOf 1 none, p2, chained (chainOf 1 none) (sysm s0), by decide +kernel⟩

theorem witness_chainChannels_2 : ∃ (c : ClusterId) (n : Nat) (ch : Chain) (p : Phys) (s : State), ∃ src dst, n
    < 4 ∧ (s.cluster c).chain n = ch ∧ ch.state = 1 ∧ chainPlace ch.tid ch.at_ = some p ∧ ch.job = none ∧ copyPick s
    c = some (.chain n) ∧ homeRefusal s ch.tid (s.th ch.tid).ctxh (p.plus 0) ch.at_ 64 .engRead = none ∧ homeRefusal
    s ch.tid (s.th ch.tid).ctxh (p.plus 64) (ch.at_ + 64) 64 .engRead = none ∧ s.peek (p.plus 120) 8 = 1 ∧
    s.peekWords p 8 = src ∧ s.peekWords (p.plus 64) 8 = dst ∧ layBad false true src = false ∧ layBad true true dst =
    false ∧ layElems src = layElems dst ∧ layEsize src = layEsize dst ∧ layZero src = false :=
  ⟨k0, 1, chainOf 1 none, p2, chained (chainOf 1 none) (chainRec (sysm s0)), lay (wnd 0x30000), (lay (wnd
    0x31000)).set 7 1, by decide +kernel⟩

theorem witness_chainChannels_3 : ∃ (c : ClusterId) (n : Nat) (ch : Chain) (p : Phys) (s : State), ∃ j x, n < 4
    ∧ (s.cluster c).chain n = ch ∧ ch.state = 1 ∧ chainPlace ch.tid ch.at_ = some p ∧ ch.job = some j ∧ s.job? j =
    some x ∧ x.id = j ∧ jobSettled s x = true ∧ x.refused = none ∧ layFlag x.dst = false ∧ (∀ ls, homeRefusal
    (dropJob j (dropAccs (·.ofJob j) s)) ch.tid (s.th ch.tid).ctxh (p.plus 64) (ch.at_ + 64) 64 (.engWrite ls) =
    none) :=
  ⟨k0, 1, chainOf 1 (some 7), p2, chained (chainOf 1 (some 7)) (sysm
    { s0 with jobs := [jobOf (lay (wnd 0x21000)) (some (k0, 1)) 1 (none)] }), 7, jobOf (lay (wnd 0x21000)) (some
    (k0, 1)) 1 (none), by decide +kernel, by decide +kernel, by decide +kernel, by decide +kernel,
    by decide +kernel, by exact ⟨by decide +kernel, by decide +kernel, by decide +kernel, by decide +kernel,
    by decide +kernel, engWrite_taken (by decide +kernel) rfl (by decide +kernel) (by decide +kernel)
    (by decide +kernel)⟩⟩

theorem witness_messageCommands_0 : ∃ (c : ClusterId) (ep : Nat) (x : Cmd) (d : BitVec 4) (a b : GSrc) (w : W32)
    (g : Guard) (s : State), nextMessage s c = some x ∧ clusterOf x.tid.core = c ∧ x.ins = .rring d a b w g ∧ ep <
    Config.endpoints ∧ endpointFree s (dieOfCluster c) ep = true ∧ (x.b.toNat < 2 ∨ 4096 < x.b.toNat ∨ x.a.toNat %
    64 ≠ 0) :=
  ⟨k0, 9, cmdOf (.rring 3 (r 2) (r 4) 0 g0) (wnd 0x20000) 1 [], 3, r 2, r 4, 0, g0, sending (cmdOf (.rring 3 (r 2)
    (r 4) 0 g0) (wnd 0x20000) 1 []) (held s1), by decide +kernel, by decide +kernel, by decide +kernel,
    by decide +kernel, by decide +kernel, .inl (by decide +kernel)⟩

theorem witness_messageCommands_1 : ∃ (c : ClusterId) (ep : Nat) (x : Cmd) (d : BitVec 4) (a b : GSrc) (w : W32)
    (g : Guard) (s : State), ∃ p i, ∃ f, nextMessage s c = some x ∧ clusterOf x.tid.core = c ∧ x.ins = .rring d a b
    w g ∧ ep < Config.endpoints ∧ endpointFree s (dieOfCluster c) ep = true ∧ 2 ≤ x.b.toNat ∧ x.b.toNat ≤ 4096 ∧
    x.a.toNat % 64 = 0 ∧ ringPlace x.tid.core x.a x.b.toNat = some p ∧ ringLease s x.ctx p x.a x.b.toNat = .ok i ∧
    ringWordRefusal s x.tid x.ctx (p.plus (64 * x.b.toNat)) (leBytes 0 8) = some f :=
  ⟨k0, 9, cmdOf (.rring 3 (r 2) (r 4) 0 g0) (wnd 0x20000) 4 [], 3, r 2, r 4, 0, g0, { sending (cmdOf (.rring 3 (r
    2) (r 4) 0 g0) (wnd 0x20000) 4 []) (held s1) with poisoned := [(p2.plus 256).key] }, p2, 1, ⟨.poison, cwd
    0x20100, cwd 0x20100, 0⟩, by decide +kernel⟩

theorem witness_messageCommands_2 : ∃ (c : ClusterId) (ep : Nat) (x : Cmd) (d : BitVec 4) (a b : GSrc) (w : W32)
    (g : Guard) (s : State), ∃ p i, nextMessage s c = some x ∧ clusterOf x.tid.core = c ∧ x.ins = .rring d a b w g ∧
    ep < Config.endpoints ∧ endpointFree s (dieOfCluster c) ep = true ∧ 2 ≤ x.b.toNat ∧ x.b.toNat ≤ 4096 ∧ x.a.toNat
    % 64 = 0 ∧ ringPlace x.tid.core x.a x.b.toNat = some p ∧ ringLease s x.ctx p x.a x.b.toNat = .ok i ∧
    ringWordRefusal s x.tid x.ctx (p.plus (64 * x.b.toNat)) (leBytes 0 8) = none :=
  ⟨k0, 9, cmdOf (.rring 3 (r 2) (r 4) 0 g0) (wnd 0x20000) 4 [], 3, r 2, r 4, 0, g0, sending (cmdOf (.rring 3 (r 2)
    (r 4) 0 g0) (wnd 0x20000) 4 []) (held s1), p2, 1, by decide +kernel⟩

theorem witness_messageCommands_3 : ∃ (c : ClusterId) (i : Nat) (x : Cmd) (d : BitVec 4) (a b : GSrc) (w : W32)
    (g : Guard) (s : State), nextMessage s c = some x ∧ clusterOf x.tid.core = c ∧ x.ins = .post d a b w g ∧
    badDescriptorPost x = true :=
  ⟨k0, 4, cmdOf (.post 3 (r 2) (r 4) 0 g0) 0 100 [], 3, r 2, r 4, 0, g0, sending (cmdOf (.post 3 (r 2) (r 4) 0 g0)
    0 100 []) (held s1), by decide +kernel⟩

theorem witness_messageCommands_4 : ∃ (c : ClusterId) (i : Nat) (x : Cmd) (d : BitVec 4) (a b : GSrc) (w : W32)
    (g : Guard) (s : State), nextMessage s c = some x ∧ clusterOf x.tid.core = c ∧ x.ins = .post d a b w g ∧
    badDescriptorPost x = false ∧ ownEndpoint s (dieOfCluster c) x.ctx (bits (wordAt x.recw 2) 0 8) = false :=
  ⟨k0, 4, cmdOf (.post 3 (r 2) (r 4) 0 g0) 0 100 ([5, 0, 9, 0, 0, 0, 0, 0] ++ lay (wnd 0x21000)), 3, r 2, r 4, 0,
    g0, sending (cmdOf (.post 3 (r 2) (r 4) 0 g0) 0 100 ([5, 0, 9, 0, 0, 0, 0, 0] ++ lay (wnd 0x21000))) (held s1),
    by decide +kernel⟩

theorem witness_messageCommands_5 : ∃ (c : ClusterId) (i : Nat) (x : Cmd) (d : BitVec 4) (a b : GSrc) (w : W32)
    (g : Guard) (s : State), nextMessage s c = some x ∧ clusterOf x.tid.core = c ∧ x.ins = .post d a b w g ∧
    badDescriptorPost x = false ∧ ownEndpoint s (dieOfCluster c) x.ctx (bits (wordAt x.recw 2) 0 8) = true ∧
    postedCount (s.die (dieOfCluster c)) < Config.postedReceives ∧ someEntry s (dieOfCluster c) = true ∧ entryReady
    s (dieOfCluster c) i = true :=
  ⟨k0, 4, cmdOf (.post 3 (r 2) (r 4) 0 g0) 0 100 ([5, 0, 9, 0, 0, 0, 0, 0] ++ lay (wnd 0x21000)), 3, r 2, r 4, 0,
    g0, sending (cmdOf (.post 3 (r 2) (r 4) 0 g0) 0 100 ([5, 0, 9, 0, 0, 0, 0, 0] ++ lay (wnd 0x21000))) (ringAt
    (ep9 []) (held s1)), by decide +kernel⟩

theorem witness_messageCommands_6 : ∃ (c : ClusterId) (x : Cmd) (d : BitVec 4) (a b : GSrc) (w : W32) (g :
    Guard) (s : State), nextMessage s c = some x ∧ clusterOf x.tid.core = c ∧ x.ins = .send d a b w g ∧ (layBad
    false false x.recw = true ∨ 2 ^ 24 < layBytes x.recw) :=
  ⟨k0, cmdOf (.send 3 (r 2) (r 4) 5 g0) 0 0 [], 3, r 2, r 4, 5, g0, sending (cmdOf (.send 3 (r 2) (r 4) 5 g0) 0 0
    []) (held s1), by decide +kernel⟩

theorem witness_messageCommands_7 : ∃ (c : ClusterId) (x : Cmd) (d : BitVec 4) (a b : GSrc) (w : W32) (g :
    Guard) (s : State), nextMessage s c = some x ∧ clusterOf x.tid.core = c ∧ x.ins = .send d a b w g ∧ layBad false
    false x.recw = false ∧ layBytes x.recw ≤ 2 ^ 24 ∧ bits x.b 44 4 = 0 ∧ bits x.b 40 2 = 0 ∧ bits x.b 48 16 ≠
    c.node ∧ pathLive s c.node x.ctx (bits x.b 48 16) = false :=
  ⟨k0, { sendX with b := 1#64 <<< 48 }, 3, r 2, r 4, 5, g0, sending ({ sendX with b := 1#64 <<< 48 }) (held s1),
    by decide +kernel⟩

theorem witness_messageCommands_8 : ∃ (c : ClusterId) (x : Cmd) (d : BitVec 4) (a b : GSrc) (w : W32) (g :
    Guard) (s : State), nextMessage s c = some x ∧ clusterOf x.tid.core = c ∧ x.ins = .send d a b w g ∧ layBad false
    false x.recw = false ∧ layBytes x.recw ≤ 2 ^ 24 ∧ bits x.b 44 4 = 0 ∧ bits x.b 40 2 = 0 ∧ (bits x.b 48 16 =
    c.node ∨ pathLive s c.node x.ctx (bits x.b 48 16) = true) ∧ (s.pkg c.node).deadLinks.contains (bits x.b 48 16) =
    true :=
  ⟨k0, sendX, 3, r 2, r 4, 5, g0, (sending (sendX) (held s1)).modPkg 0 fun q => { q with deadLinks := [0] },
    by decide +kernel, by decide +kernel, by decide +kernel, by decide +kernel, by decide +kernel, by exact
    ⟨by decide +kernel, by decide +kernel, .inl (by decide +kernel), by decide +kernel⟩⟩

theorem witness_messageCommands_9 : ∃ (c : ClusterId) (x : Cmd) (d : BitVec 4) (a b : GSrc) (w : W32) (g :
    Guard) (s : State), nextMessage s c = some x ∧ clusterOf x.tid.core = c ∧ x.ins = .send d a b w g ∧ layBad false
    false x.recw = false ∧ layBytes x.recw ≤ 2 ^ 24 ∧ bits x.b 44 4 = 0 ∧ bits x.b 40 2 = 0 ∧ (bits x.b 48 16 =
    c.node ∨ pathLive s c.node x.ctx (bits x.b 48 16) = true) ∧ (s.pkg c.node).deadLinks.contains (bits x.b 48 16) =
    false :=
  ⟨k0, sendX, 3, r 2, r 4, 5, g0, sending (sendX) (held s1), by decide +kernel⟩

theorem witness_messageCommands_10 : ∃ (c : ClusterId) (x : Cmd) (d : BitVec 4) (a b : GSrc) (w : W32) (g :
    Guard) (e : Endpoint) (s : State), nextMessage s c = some x ∧ clusterOf x.tid.core = c ∧ x.ins = .rprobe d a b w
    g ∧ s.endpoint (dieOfCluster c) (w.toNat % 256) = e ∧ (e.live = false ∨ e.ctx ≠ x.ctx) :=
  ⟨k0, cmdOf (.rprobe 3 (r 2) (r 4) 9 g0) 5 (BitVec.allOnes 64) [], 3, r 2, r 4, 9, g0, Endpoint.reset, sending
    (cmdOf (.rprobe 3 (r 2) (r 4) 9 g0) 5 (BitVec.allOnes 64) []) (held s1), by decide +kernel, by decide +kernel,
    by decide +kernel, by decide +kernel, .inl rfl⟩

theorem witness_messageCommands_11 : ∃ (c : ClusterId) (x : Cmd) (d : BitVec 4) (a b : GSrc) (w : W32) (g :
    Guard) (e : Endpoint) (s : State), ∃ p q, nextMessage s c = some x ∧ clusterOf x.tid.core = c ∧ x.ins = .rprobe
    d a b w g ∧ s.endpoint (dieOfCluster c) (w.toNat % 256) = e ∧ e.live = true ∧ e.ctx = x.ctx ∧ 2 ≤ e.n ∧ p =
    physOfKey e.head ∧ q.key + 64 * e.n = p.key ∧ q = { p with off := p.off - 64 * e.n } ∧ s.isPoisoned p = true :=
  ⟨k0, cmdOf (.rprobe 3 (r 2) (r 4) 9 g0) 5 (BitVec.allOnes 64) [], 3, r 2, r 4, 9, g0, ep9 [], { sending (cmdOf
    (.rprobe 3 (r 2) (r 4) 9 g0) 5 (BitVec.allOnes 64) []) (ringAt (ep9 []) (held s1)) with poisoned := [(p2.plus
    256).key] }, p2.plus 256, p2, by decide +kernel⟩

theorem witness_messageCommands_13 : ∃ (c : ClusterId) (x : Cmd) (d : BitVec 4) (a b : GSrc) (w : W32) (g :
    Guard) (e : Endpoint) (s : State), ∃ p q, nextMessage s c = some x ∧ clusterOf x.tid.core = c ∧ x.ins = .rprobe
    d a b w g ∧ s.endpoint (dieOfCluster c) (w.toNat % 256) = e ∧ e.live = true ∧ e.ctx = x.ctx ∧ 2 ≤ e.n ∧ p =
    physOfKey e.head ∧ q.key + 64 * e.n = p.key ∧ q = { p with off := p.off - 64 * e.n } ∧ s.isPoisoned p = false ∧
    s.peek p 4 % e.n ≠ s.peek (p.plus 4) 4 % e.n ∧ s.isPoisoned (q.plus (64 * (s.peek p 4 % e.n))) = true :=
  ⟨k0, cmdOf (.rprobe 3 (r 2) (r 4) 9 g0) 5 (BitVec.allOnes 64) [], 3, r 2, r 4, 9, g0, ep9 [], { State.poke
    (sending (cmdOf (.rprobe 3 (r 2) (r 4) 9 g0) 5 (BitVec.allOnes 64) []) (ringAt (ep9 []) (held s1))) (p2.plus
    260) [1] with poisoned := [(p2).key] }, p2.plus 256, p2, by decide +kernel⟩

theorem witness_messageCommands_12 : ∃ (c : ClusterId) (x : Cmd) (d : BitVec 4) (a b : GSrc) (w : W32) (g :
    Guard) (e : Endpoint) (s : State), ∃ p q, nextMessage s c = some x ∧ clusterOf x.tid.core = c ∧ x.ins = .rprobe
    d a b w g ∧ s.endpoint (dieOfCluster c) (w.toNat % 256) = e ∧ e.live = true ∧ e.ctx = x.ctx ∧ 2 ≤ e.n ∧ p =
    physOfKey e.head ∧ q.key + 64 * e.n = p.key ∧ q = { p with off := p.off - 64 * e.n } ∧ s.isPoisoned p = false ∧
    s.peek p 4 % e.n = s.peek (p.plus 4) 4 % e.n :=
  ⟨k0, cmdOf (.rprobe 3 (r 2) (r 4) 9 g0) 5 (BitVec.allOnes 64) [], 3, r 2, r 4, 9, g0, ep9 [], sending (cmdOf
    (.rprobe 3 (r 2) (r 4) 9 g0) 5 (BitVec.allOnes 64) []) (ringAt (ep9 []) (held s1)), p2.plus 256, p2,
    by decide +kernel⟩

theorem witness_messageCommands_14 : ∃ (c : ClusterId) (x : Cmd) (d : BitVec 4) (a b : GSrc) (w : W32) (g :
    Guard) (e : Endpoint) (s : State), ∃ p q, nextMessage s c = some x ∧ clusterOf x.tid.core = c ∧ x.ins = .rprobe
    d a b w g ∧ s.endpoint (dieOfCluster c) (w.toNat % 256) = e ∧ e.live = true ∧ e.ctx = x.ctx ∧ 2 ≤ e.n ∧ p =
    physOfKey e.head ∧ q.key + 64 * e.n = p.key ∧ q = { p with off := p.off - 64 * e.n } ∧ s.isPoisoned p = false ∧
    s.peek p 4 % e.n ≠ s.peek (p.plus 4) 4 % e.n ∧ s.isPoisoned (q.plus (64 * (s.peek p 4 % e.n))) = false ∧
    (BitVec.ofNat 64 (s.peek (q.plus (64 * (s.peek p 4 % e.n))) 8) ^^^ x.a) &&& x.b &&& 0xFFFFFFE0FFFFFFFF#64 = 0 :=
  ⟨k0, cmdOf (.rprobe 3 (r 2) (r 4) 9 g0) 5 (BitVec.allOnes 64) [], 3, r 2, r 4, 9, g0, ep9 [], State.poke
    (State.poke (sending (cmdOf (.rprobe 3 (r 2) (r 4) 9 g0) 5 (BitVec.allOnes 64) []) (ringAt (ep9 []) (held s1)))
    (p2.plus 260) [1]) p2 [5], p2.plus 256, p2, by decide +kernel⟩

theorem witness_messageDecision_0 : ∃ (j : Nat) (m : Msg) (e : Endpoint) (again : Bool) (s : State), s.msg? j =
    some m ∧ m.id = j ∧ m.phase = .offered again ∧ s.endpoint m.dest m.ep = e ∧ (e.live = false ∨ e.gen ≠ m.gen) :=
  ⟨7, msg7 (.offered false) none [] 0, Endpoint.reset, false, messages (msg7 (.offered false) none [] 0) s1,
    by decide +kernel⟩

theorem witness_messageDecision_1 : ∃ (j : Nat) (m : Msg) (e : Endpoint) (again : Bool) (s : State), ∃ r, s.msg?
    j = some m ∧ m.id = j ∧ m.phase = .offered again ∧ s.endpoint m.dest m.ep = e ∧ e.live = true ∧ e.gen = m.gen ∧
    inTime s m = true ∧ e.posted.find? (·.takes s m.key) = some r :=
  ⟨7, msg7 (.offered false) none [] 0, ep9 [recv0 0 (lay (wnd 0x21000))], false, ringAt (ep9 [recv0 0 (lay (wnd
    0x21000))]) (messages (msg7 (.offered false) none [] 0) s1), recv0 0 (lay (wnd 0x21000)), by decide +kernel⟩

theorem witness_messageDecision_2 : ∃ (j : Nat) (m : Msg) (e : Endpoint) (again : Bool) (s : State), s.msg? j =
    some m ∧ m.id = j ∧ m.phase = .offered again ∧ s.endpoint m.dest m.ep = e ∧ e.live = true ∧ e.gen = m.gen ∧
    inTime s m = true ∧ e.posted.find? (·.takes s m.key) = none ∧ ringPoisoned s e = true :=
  ⟨7, msg7 (.offered false) none [] 0, ep9 [], false, { ringAt (ep9 []) (messages (msg7 (.offered false) none []
    0) s1) with poisoned := [(p2.plus 256).key] }, by decide +kernel⟩

theorem witness_messageDecision_3 : ∃ (j : Nat) (m : Msg) (e : Endpoint) (again : Bool) (s : State), s.msg? j =
    some m ∧ m.id = j ∧ m.phase = .offered again ∧ s.endpoint m.dest m.ep = e ∧ e.live = true ∧ e.gen = m.gen ∧
    inTime s m = true ∧ e.posted.find? (·.takes s m.key) = none ∧ ringPoisoned s e = false ∧ ringRoom s e <
    m.entries :=
  ⟨7, msg7 (.offered false) none [] 0, { ep9 [] with resv := 3 }, false, ringAt { ep9 [] with resv := 3 }
    (messages (msg7 (.offered false) none [] 0) s1), by decide +kernel⟩

theorem witness_messageDecision_4 : ∃ (j : Nat) (m : Msg) (e : Endpoint) (again : Bool) (s : State), s.msg? j =
    some m ∧ m.id = j ∧ m.phase = .offered again ∧ s.endpoint m.dest m.ep = e ∧ e.live = true ∧ e.gen = m.gen ∧
    inTime s m = true ∧ e.posted.find? (·.takes s m.key) = none ∧ ringPoisoned s e = false ∧ m.entries ≤ ringRoom s
    e :=
  ⟨7, msg7 (.offered false) none [] 0, ep9 [], false, ringAt (ep9 []) (messages (msg7 (.offered false) none [] 0)
    s1), by decide +kernel⟩

theorem witness_messageDecision_5 : ∃ (j : Nat) (m : Msg) (s : State), s.msg? j = some m ∧ m.id = j ∧ m.phase =
    .refused ∧ s.taper m.cmd.tid.core.node < m.firstOffer + m.tmo :=
  ⟨7, msg7 .refused none [] 0, messages (msg7 .refused none [] 0) s1, by decide +kernel⟩

theorem witness_messageDecision_6 : ∃ (j : Nat) (m : Msg) (s : State), s.msg? j = some m ∧ m.id = j ∧ (m.phase =
    .refused ∨ m.phase = .waiting true) ∧ m.firstOffer + m.tmo ≤ s.taper m.cmd.tid.core.node :=
  ⟨7, msg7 .refused none [] 0, (messages (msg7 .refused none [] 0) s1).modPkg 0 fun q => { q with taper := 10 },
    by decide +kernel⟩

theorem witness_messageDecision_7 : ∃ (h : DieId) (ep : Nat) (s : State), (s.endpoint h ep).headMoved = true :=
  ⟨h0, 9, ringAt { ep9 [] with headMoved := true } z, by decide +kernel⟩

theorem witness_messageEnds_0 : ∃ (j entry : Nat) (m : Msg) (e : Endpoint) (p : Phys) (s : State), ∃ f, s.msg? j
    = some m ∧ m.id = j ∧ m.phase = .ringing entry ∧ m.headerOut = true ∧ s.accs.any (·.ofMsg j) = false ∧ (∀ x ∈
    s.msgs, x.dest = m.dest → x.ep = m.ep → x.gen = m.gen → x.order < m.order → ∀ n, x.phase ≠ .ringing n) ∧
    s.endpoint m.dest m.ep = e ∧ e.live = true ∧ e.gen = m.gen ∧ p = physOfKey e.head ∧ ringWordRefusal s e.tid
    e.ctx (p.plus 4) (leBytes ((s.peek (p.plus 4) 4 + m.entries) % e.n) 4) = some f :=
  ⟨7, 0, msg7 (.ringing 0) none [] 0, ep9 [], p2.plus 256,
    { ringAt (ep9 []) (messages (msg7 (.ringing 0) none [] 0) s1) with poisoned := [(p2.plus 256).key] }, ⟨.poison,
    cwd 0x20104, cwd 0x20100, 0⟩, by decide +kernel, by decide +kernel, by decide +kernel, by decide +kernel,
    by decide +kernel, by exact ⟨fun _ _ _ _ _ h => absurd h (Nat.not_lt_zero _), by decide +kernel⟩⟩

theorem witness_messageEnds_1 : ∃ (j entry : Nat) (m : Msg) (e : Endpoint) (p : Phys) (s : State), s.msg? j =
    some m ∧ m.id = j ∧ m.phase = .ringing entry ∧ m.headerOut = true ∧ s.accs.any (·.ofMsg j) = false ∧ (∀ x ∈
    s.msgs, x.dest = m.dest → x.ep = m.ep → x.gen = m.gen → x.order < m.order → ∀ n, x.phase ≠ .ringing n) ∧
    s.endpoint m.dest m.ep = e ∧ e.live = true ∧ e.gen = m.gen ∧ p = physOfKey e.head ∧ ringWordRefusal s e.tid
    e.ctx (p.plus 4) (leBytes ((s.peek (p.plus 4) 4 + m.entries) % e.n) 4) = none :=
  ⟨7, 0, msg7 (.ringing 0) none [] 0, ep9 [], p2.plus 256, ringAt (ep9 []) (messages (msg7 (.ringing 0) none [] 0)
    s1), by decide +kernel, by decide +kernel, by decide +kernel, by decide +kernel, by decide +kernel, by exact
    ⟨fun _ _ _ _ _ h => absurd h (Nat.not_lt_zero _), by decide +kernel⟩⟩

theorem witness_messageEnds_2 : ∃ (j : Nat) (m : Msg) (r : Posted) (s : State), s.msg? j = some m ∧ m.id = j ∧
    m.phase = .landing ∧ m.posted = some r ∧ m.payloadDone s = true ∧ r.done = 0 ∧ layFlag r.dest = false :=
  ⟨7, msg7 .landing (some (recv0 0 (lay (wnd 0x21000)))) [0] 8, recv0 0 (lay (wnd 0x21000)), messages (msg7
    .landing (some (recv0 0 (lay (wnd 0x21000)))) [0] 8) s1, by decide +kernel⟩

theorem witness_messageEnds_3 : ∃ (j : Nat) (m : Msg) (r : Posted) (s : State), ∃ p, s.msg? j = some m ∧ m.id =
    j ∧ m.phase = .landing ∧ m.posted = some r ∧ m.payloadDone s = true ∧ r.done ≠ 0 ∧ layFlag r.dest = false ∧
    donePlace r.tid.core r.done = some p ∧ (∀ ls, homeRefusal (dropAccs (·.ofMsg j) s) r.tid r.ctx p r.done 16
    (.engWrite ls) = none) :=
  ⟨7, msg7 .landing (some (recv0 (wnd 0x22000) (lay (wnd 0x21000)))) [0] 8, recv0 (wnd 0x22000) (lay (wnd
    0x21000)), messages (msg7 .landing (some (recv0 (wnd 0x22000) (lay (wnd 0x21000)))) [0] 8) s1, scratchAt c0
    0x22000, by decide +kernel, by decide +kernel, by decide +kernel, by decide +kernel, by decide +kernel, by exact
    ⟨by decide +kernel, by decide +kernel, by decide +kernel, engWrite_taken (by decide +kernel) rfl
    (by decide +kernel) (by decide +kernel) (by decide +kernel)⟩⟩

theorem witness_messageEnds_4 : ∃ (j : Nat) (m : Msg) (r : Posted) (s : State), ∃ p, s.msg? j = some m ∧ m.id =
    j ∧ m.phase = .landing ∧ m.posted = some r ∧ m.payloadDone s = true ∧ r.done = 0 ∧ layFlag r.dest = true ∧
    (wordAt r.dest 6).toNat % 8 = 0 ∧ classify r.tid.core (wordAt r.dest 6) = .place p ∧ p.isScratch = true ∧
    homeRefusal (dropAccs (·.ofMsg j) s) r.tid r.ctx p (wordAt r.dest 6) 8 .raise = none :=
  ⟨7, msg7 .landing (some (recv0 0 (layF (wnd 0x21000) (wnd 0x22000)))) [0] 8, recv0 0 (layF (wnd 0x21000) (wnd
    0x22000)), messages (msg7 .landing (some (recv0 0 (layF (wnd 0x21000) (wnd 0x22000)))) [0] 8) s1, scratchAt c0
    0x22000, by decide +kernel⟩

theorem witness_messageEnds_5 : ∃ (j : Nat) (m : Msg) (r : Posted) (s : State), ∃ p q, s.msg? j = some m ∧ m.id
    = j ∧ m.phase = .landing ∧ m.posted = some r ∧ m.payloadDone s = true ∧ r.done ≠ 0 ∧ donePlace r.tid.core r.done
    = some p ∧ layFlag r.dest = true ∧ (wordAt r.dest 6).toNat % 8 = 0 ∧ classify r.tid.core (wordAt r.dest 6) =
    .place q ∧ q.isScratch = true ∧ (q.key + 8 ≤ p.key ∨ p.key + 16 ≤ q.key) ∧ (∀ ls, homeRefusal (dropAccs (·.ofMsg
    j) s) r.tid r.ctx p r.done 16 (.engWrite ls) = none) ∧ homeRefusal (writeDone m r (dropAccs (·.ofMsg j) s))
    r.tid r.ctx q (wordAt r.dest 6) 8 .raise = none :=
  ⟨7, msg7 .landing (some (recv0 (wnd 0x22000) (layF (wnd 0x21000) (wnd 0x23000)))) [0] 8, recv0 (wnd 0x22000)
    (layF (wnd 0x21000) (wnd 0x23000)), messages (msg7 .landing (some (recv0 (wnd 0x22000) (layF (wnd 0x21000) (wnd
    0x23000)))) [0] 8) s1, scratchAt c0 0x22000, scratchAt c0 0x23000, by decide +kernel, by decide +kernel,
    by decide +kernel, by decide +kernel, by decide +kernel, by exact ⟨by decide +kernel, by decide +kernel,
    by decide +kernel, by decide +kernel, by decide +kernel, by exact ⟨by decide +kernel, .inr (by decide +kernel),
    engWrite_taken (by decide +kernel) rfl (by decide +kernel) (by decide +kernel) (by decide +kernel),
    by decide +kernel⟩⟩⟩

theorem witness_messageEnds_6 : ∃ (j : Nat) (m : Msg) (s : State), s.msg? j = some m ∧ m.id = j ∧ m.phase =
    .settled ∧ answerHeld s m.dest.node m.cmd.tid.core.node = true :=
  ⟨7, { msg7 .settled none [] 8 with dest := ⟨1, 0⟩ }, (messages { msg7 .settled none [] 8 with dest := ⟨1, 0⟩ }
    s1).modPkg 1 fun q => { q with relock := some [0] }, by decide +kernel⟩

theorem witness_messageEnds_7 : ∃ (j : Nat) (m : Msg) (s : State), s.msg? j = some m ∧ m.id = j ∧ m.phase =
    .settled ∧ answerHeld s m.dest.node m.cmd.tid.core.node = false :=
  ⟨7, msg7 .settled none [] 8, messages (msg7 .settled none [] 8) s1, by decide +kernel⟩

theorem witness_matrixGangs_0 : ∃ (c : CoreId) (x : Cmd) (s : State), mxHead s c = some x ∧ x.gang = true ∧
    mustScrub s c x = false ∧ mxReady s c x = true ∧ (s.cluster (clusterOf c)).arrived.contains c.core = false ∧
    (s.cluster (clusterOf c)).arrived.length + 1 < 8 :=
  ⟨c0, mxCmd mmaI 0, gangOf (fun _ => mmaI) [], by decide +kernel⟩

theorem witness_matrixGangs_1 : ∃ (c : CoreId) (x : Cmd) (xs : List Cmd) (s : State), mxHead s c = some x ∧
    x.gang = true ∧ mustScrub s c x = false ∧ mxReady s c x = true ∧ (s.cluster (clusterOf c)).arrived.contains
    c.core = false ∧ (s.cluster (clusterOf c)).arrived.length + 1 = 8 ∧ ((s.cluster (clusterOf c)).arrived ++
    [c.core]).filterMap (fun i => (s.core (coreIn (clusterOf c) i)).matrixQ.head?) = xs ∧ gangAgrees xs = true :=
  ⟨coreIn k0 7, mxCmd mmaI 7, mxAll mmaI, gangOf (fun _ => mmaI) [0, 1, 2, 3, 4, 5, 6], by decide +kernel⟩

theorem witness_matrixGangs_2 : ∃ (c : CoreId) (x : Cmd) (xs : List Cmd) (s : State), mxHead s c = some x ∧
    x.gang = true ∧ mustScrub s c x = false ∧ mxReady s c x = true ∧ (s.cluster (clusterOf c)).arrived.contains
    c.core = false ∧ (s.cluster (clusterOf c)).arrived.length + 1 = 8 ∧ ((s.cluster (clusterOf c)).arrived ++
    [c.core]).filterMap (fun i => (s.core (coreIn (clusterOf c) i)).matrixQ.head?) = xs ∧ gangAgrees xs = false :=
  ⟨coreIn k0 7, mxCmd (.mwld 3 0 g0) 7, (List.range 8).map fun k => mxCmd (if k = 7 then .mwld 3 0 g0 else mmaI)
    k, gangOf (fun k => if k = 7 then .mwld 3 0 g0 else mmaI) [0, 1, 2, 3, 4, 5, 6], by decide +kernel⟩

theorem witness_matrixGangs_3 : ∃ (c : ClusterId) (s : State), gangLate s c = true :=
  ⟨k0, (gangOf (fun _ => mmaI) [0]).modPkg 0 fun q => { q with taper := 1 }, by decide +kernel⟩

theorem witness_matrixGangs_4 : ∃ (c : ClusterId) (xs : List Cmd) (x : Cmd) (s : State), gangReady s c 0 = some
    xs ∧ OnCores c xs ∧ xs.head? = some x ∧ ((s.cluster c).mma.any fun g => !g.shut) = false ∧ (fmtServed s c.node
    (x.wf 10 3) = false ∨ (∃ i, i < 8 ∧ mmaBad (s.slice (coreIn c i)) x = true)) :=
  ⟨k0, mxAll mmaI, mxCmd mmaI 0, gangOf (fun _ => mmaI) [0, 1, 2, 3, 4, 5, 6, 7], by decide +kernel, onCores_of _
    _ (fun _ => rfl) 8, by decide +kernel, by decide +kernel, .inr ⟨0, by decide +kernel, by decide +kernel⟩⟩

theorem witness_matrixGangs_5 : ∃ (c : ClusterId) (xs : List Cmd) (x : Cmd) (s : State), gangReady s c 0 = some
    xs ∧ OnCores c xs ∧ xs.head? = some x ∧ ((s.cluster c).mma.any fun g => !g.shut) = false ∧ fmtServed s c.node
    (x.wf 10 3) = true ∧ (∀ i, i < 8 → mmaBad (s.slice (coreIn c i)) x = false) :=
  ⟨k0, mxAll mmaI, mxCmd mmaI 0, loaded (gangOf (fun _ => mmaI) [0, 1, 2, 3, 4, 5, 6, 7]), by decide +kernel,
    onCores_of _ _ (fun _ => rfl) 8, by decide +kernel⟩

theorem witness_matrixGangs_6 : ∃ (c : ClusterId) (xs : List Cmd) (s : State), gangReady s c 1 = some xs ∧
    OnCores c xs ∧ (xs.all fun x => fmtServed s c.node (x.wf 8 3)) = true :=
  ⟨k0, mxAll (.mwld 3 0 g0), gangOf (fun _ => .mwld 3 0 g0) [0, 1, 2, 3, 4, 5, 6, 7], by decide +kernel,
    onCores_of _ _ (fun _ => rfl) 8, by decide +kernel⟩

theorem witness_matrixGangs_7 : ∃ (c : ClusterId) (xs : List Cmd) (s : State), gangReady s c 6 = some xs :=
  ⟨k0, mxAll (.mtest 3 0 g0), gangOf (fun _ => .mtest 3 0 g0) [0, 1, 2, 3, 4, 5, 6, 7], by decide +kernel⟩

theorem witness_matrixCompletions_0 : ∃ (c : ClusterId) (g : Gang) (gs : List Gang) (s : State), (s.cluster
    c).mma = g :: gs ∧ g.shut = true ∧ (s.cluster c).testFails = [] :=
  ⟨k0, gang7 mmaI 0, [], inCluster (fun k => { k with mma := [gang7 mmaI 0] }) z, by decide +kernel⟩

theorem witness_matrixCompletions_1 : ∃ (c : ClusterId) (g : Gang) (gs : List Gang) (s : State), (s.cluster
    c).mwld = g :: gs ∧ g.settled = 8 * 224 :=
  ⟨k0, gang7 (.mwld 3 0 g0) 1792, [], inCluster (fun k => { k with mwld := [gang7 (.mwld 3 0 g0) 1792] }) z,
    by decide +kernel⟩

theorem witness_matrixCompletions_2 : ∃ (c : ClusterId) (g : Gang) (s : State), (s.cluster c).mtest = some g ∧
    (s.cluster c).testFails = [] ∧ (s.cluster c).mxFailed = false :=
  ⟨k0, gang7 (.mtest 3 0 g0) 0, inCluster (fun k => { k with mtest := some (gang7 (.mtest 3 0 g0) 0) }) z,
    by decide +kernel⟩

theorem witness_matrixCompletions_3 : ∃ (c : ClusterId) (bad : Option (Nat × Nat)) (s : State), 0 < (s.cluster
    c).testsDue ∧ (s.cluster c).mxFailed = false ∧ (s.cluster c).testFails = [] ∧ (s.cluster c).mma = [] ∧ (∀ i g,
    bad = some (i, g) → i < 8 ∧ g < 10 ∧ g = (s.slice (coreIn c i)).groupMap.getD (s.slice (coreIn c i)).nextTest 0
    ∧ (s.slice (coreIn c i)).spare.isSome = true) :=
  ⟨k0, some (3, 0), inCluster (fun k => { k with testsDue := 1 }) z, by decide +kernel, by decide +kernel,
    by decide +kernel, by decide +kernel, fun _ _ h => by cases h; decide +kernel⟩

theorem witness_sliceCommands_0 : ∃ (c : CoreId) (x : Cmd) (s : State), mxNext s c 2 = some x ∧ x.tid.core = c ∧
    x.wf 4 1 = 1 ∧ x.wf 0 4 ≠ 3 ∧ x.wf 0 4 ≠ 12 :=
  ⟨c0, mxCmd (.mzero 3 0x11 g0) 0, sliceOf (.mzero 3 0x11 g0), by decide +kernel⟩

theorem witness_sliceCommands_1 : ∃ (c : CoreId) (x : Cmd) (s : State), mxNext s c 2 = some x ∧ x.tid.core = c ∧
    (x.wf 4 1 = 0 ∨ x.wf 0 4 = 3 ∨ x.wf 0 4 = 12) :=
  ⟨c0, mxCmd (.mzero 3 0x13 g0) 0, sliceOf (.mzero 3 0x13 g0), by decide +kernel⟩

theorem witness_sliceCommands_2 : ∃ (c : CoreId) (x : Cmd) (s : State), mxNext s c 4 = some x ∧ x.tid.core = c
    :=
  ⟨c0, mxCmd (.magr 3 (r 2) (r 4) 0 g0) 0, sliceOf (.magr 3 (r 2) (r 4) 0 g0), by decide +kernel⟩

theorem witness_sliceCommands_3 : ∃ (c : CoreId) (x : Cmd) (s : State), mxNext s c 5 = some x ∧ x.tid.core = c
    :=
  ⟨c0, mxCmd (.mstat 3 0 g0) 0, sliceOf (.mstat 3 0 g0), by decide +kernel⟩

theorem witness_sliceCommands_4 : ∃ (c : CoreId) (x : Cmd) (s : State), mxNext s c 3 = some x ∧ x.tid.core = c ∧
    ((0 < x.wf 0 6 ∧ strideOf x.b < 32 * outBytes (x.wf 10 3)) ∨ (x.wf 8 2 ≠ 0 ∧ (x.wf 6 1 = 1 ∨ (s.slice
    c).cpair.map Fin.val ≠ some (x.wf 7 1)))) :=
  ⟨c0, mxCmd (.mdrain 3 (r 2) (r 4) 0x01 g0) 0, sliceOf (.mdrain 3 (r 2) (r 4) 0x01 g0), by decide +kernel,
    by decide +kernel, .inl (by decide +kernel)⟩

theorem witness_sliceCommands_5 : ∃ (c : CoreId) (x : Cmd) (s : State), mxNext s c 3 = some x ∧ x.tid.core = c ∧
    (x.wf 8 2 = 0 ∨ (x.wf 6 1 = 0 ∧ (s.slice c).cpair.map Fin.val = some (x.wf 7 1))) ∧ (x.wf 0 6 = 0 ∨ 32 *
    outBytes (x.wf 10 3) ≤ strideOf x.b) :=
  ⟨c0, mxCmd (.mdrain 3 (r 2) (r 4) 0 g0) 0, sliceOf (.mdrain 3 (r 2) (r 4) 0 g0), by decide +kernel,
    by decide +kernel, .inl (by decide +kernel), .inl (by decide +kernel)⟩

theorem witness_sliceCommands_6 : ∃ (c : CoreId) (d : Drain) (s : State), (s.cluster (clusterOf c)).drain?
    c.core = some d ∧ d.left = [] :=
  ⟨c0, ⟨mxCmd (.mdrain 3 (r 2) (r 4) 0x01 g0) 0, [], 64, none, 0, 0, 0⟩, inCluster (fun k =>
    { k with drains := [(0, ⟨mxCmd (.mdrain 3 (r 2) (r 4) 0x01 g0) 0, [], 64, none, 0, 0, 0⟩)] }) z,
    by decide +kernel⟩

theorem witness_sliceCommands_7 : ∃ (c : CoreId) (x : Cmd) (s : State), mxHead s c = some x ∧ mustScrub s c x =
    true ∧ sliceIdle s c = true :=
  ⟨c0, mxCmd (.mzero 3 0x13 g0) 0, (sliceOf (.mzero 3 0x13 g0)).modSlice c0 fun q => { q with lastCtx := some 5 },
    by decide +kernel⟩

theorem witness_matrixSums_0 : ∃ (xs : List Machine.Num), xs ≠ [] ∧ (∀ x ∈ xs, isFin x = true) :=
  ⟨[.fin false 3 0, .fin true 1 0], by decide +kernel⟩

theorem witness_matrixSums_1 : ∃ (xs : List Machine.Num), xs ≠ [] ∧ (∀ x ∈ xs, isFin x = true) :=
  ⟨[.fin false 3 0, .fin true 1 2], by decide +kernel⟩

theorem witness_matrixSums_2 : ∃ (xs : List Machine.Num), xs ≠ [] ∧ (∀ x ∈ xs, isFin x = true) ∧ (xs.map
    numVal).sum = 0 :=
  ⟨[.fin false 1 0, .fin true 1 0], by decide +kernel, by decide +kernel, by norm_num [numVal]⟩

theorem witness_matrixSums_3 : ∃ (ps qs : List (Option Machine.Num)), ps.Perm qs :=
  ⟨[none, some (.inf false)], [some (.inf false), none], .swap _ _ _⟩

theorem witness_matrixSums_4 : ∃ (ps : List (Option Machine.Num)), none ∈ ps :=
  ⟨[none], by decide +kernel⟩

theorem witness_matrixSums_5 : ∃ (ps : List (Option Machine.Num)), some (.inf false) ∈ ps ∧ some (.inf true) ∈
    ps :=
  ⟨[some (.inf false), some (.inf true)], by decide +kernel⟩

theorem witness_matrixSums_6 : ∃ (ps : List (Option Machine.Num)), none ∉ ps ∧ some (.inf false) ∈ ps ∧ some
    (.inf true) ∉ ps :=
  ⟨[some (.inf false), some (.fin true 1 0)], by decide +kernel⟩

theorem witness_matrixSums_7 : ∃ (ps : List (Option Machine.Num)), none ∉ ps ∧ some (.inf true) ∈ ps ∧ some
    (.inf false) ∉ ps :=
  ⟨[some (.inf true)], by decide +kernel⟩

theorem witness_matrixSums_8 : ∃ (t : Tile) (i j : Nat) (x : W32), i < 64 ∧ j < 32 :=
  ⟨Tile.reset, 63, 31, 5, by decide +kernel⟩

theorem witness_matrixSums_9 : ∃ (t : Tile) (i j : Nat) (x : W32), ∃ k l, i < 64 ∧ j < 32 ∧ l < 32 ∧ (k, l) ≠
    (i, j) :=
  ⟨Tile.reset, 63, 31, 5, 62, 31, by decide +kernel⟩

theorem witness_matrixSums_10 : ∃ (t : Tile) (i j : Nat) (x : W32), i < 64 ∧ j < 32 ∧ t.nan = true :=
  ⟨{ Tile.reset with nan := true }, 0, 0, 5, by decide +kernel⟩

theorem witness_matrixSums_11 : ∃ (t : Tile) (i j : Nat) (x : W32), i < 64 ∧ j < 32 ∧ t.inf = true :=
  ⟨{ Tile.reset with inf := true }, 0, 0, 5, by decide +kernel⟩

theorem witness_matrixSums_12 : ∃ (t : Tile) (i j : Nat) (x : W32), i < 64 ∧ j < 32 :=
  ⟨Tile.reset, 0, 0, 5, by decide +kernel⟩

theorem witness_matrixRows_0 : ∃ (k : Nat) (a : Acc) (c : ClusterId) (i : Nat) (p : Phys) (g : Gang) (got : Map
    (List Byte)) (s : State), RowArrives s k a c i p g ∧ a.refusal p s = none ∧ got = g.got.set i (s.bytes p a.len)
    ∧ got.length + g.refused.length < 8 :=
  ⟨20, rowAcc, k0, 0, p2, gangRow [1, 2, 3] [], (gangRow [1, 2, 3] []).got.set 0 ((rowState (gangRow [1, 2, 3]
    [])).bytes p2 64), rowState (gangRow [1, 2, 3] []), by decide +kernel⟩

theorem witness_matrixRows_1 : ∃ (k : Nat) (a : Acc) (c : ClusterId) (i : Nat) (p : Phys) (g : Gang) (got : Map
    (List Byte)) (s : State), RowArrives s k a c i p g ∧ a.refusal p s = none ∧ got = g.got.set i (s.bytes p a.len)
    ∧ 8 ≤ got.length + g.refused.length ∧ g.refused ≠ [] :=
  ⟨20, rowAcc, k0, 0, p2, gangRow [1, 2, 3, 4, 5, 6] [(7, .access)], (gangRow [1, 2, 3, 4, 5, 6] [(7,
    .access)]).got.set 0 ((rowState (gangRow [1, 2, 3, 4, 5, 6] [(7, .access)])).bytes p2 64), rowState (gangRow [1,
    2, 3, 4, 5, 6] [(7, .access)]), by decide +kernel⟩

theorem witness_matrixRows_2 : ∃ (k : Nat) (a : Acc) (c : ClusterId) (i : Nat) (p : Phys) (g : Gang) (got : Map
    (List Byte)) (s : State), RowArrives s k a c i p g ∧ a.refusal p s = none ∧ got = g.got.set i (s.bytes p a.len)
    ∧ got.length = 8 ∧ g.refused = [] :=
  ⟨20, rowAcc, k0, 0, p2, gangRow [1, 2, 3, 4, 5, 6, 7] [], (gangRow [1, 2, 3, 4, 5, 6, 7] []).got.set 0
    ((rowState (gangRow [1, 2, 3, 4, 5, 6, 7] [])).bytes p2 64), rowState (gangRow [1, 2, 3, 4, 5, 6, 7] []),
    by decide +kernel⟩

theorem witness_matrixRows_3 : ∃ (k : Nat) (a : Acc) (c : ClusterId) (i : Nat) (p : Phys) (g : Gang) (f :
    FaultInfo) (s : State), RowArrives s k a c i p g ∧ a.refusal p s = some f :=
  ⟨20, rowAcc, k0, 0, p2, gangRow [1] [], ⟨.stale, 0, wnd 0x20000, 1⟩,
    { rowState (gangRow [1] []) with sysMem := [] }, by decide +kernel⟩

theorem witness_matrixRows_4 : ∃ (tile i j : Nat) (ps : List (Option Machine.Num)) (x : Slice), tile < 4 ∧ i <
    64 ∧ j < 32 :=
  ⟨1, 2, 3, [some (.fin false 1 0), some (.fin true 3 0)], Slice.reset, by decide +kernel⟩

theorem witness_matrixRows_5 : ∃ (tile i j : Nat) (ps : List (Option Machine.Num)) (x : Slice), ∃ m, tile < 4 ∧
    i < 64 ∧ j < 32 ∧ m ≠ tile :=
  ⟨1, 2, 3, [some (.fin false 1 0), some (.fin true 3 0)], Slice.reset, 0, by decide +kernel⟩

theorem witness_matrixRows_6 : ∃ (tile i j : Nat) (ps : List (Option Machine.Num)) (x : Slice), tile < 4 ∧ i <
    64 ∧ j < 32 :=
  ⟨1, 2, 3, [some (.fin false 1 0), some (.fin true 3 0)], Slice.reset, by decide +kernel⟩

theorem witness_matrixRows_7 : ∃ (tile i j : Nat) (ps : List (Option Machine.Num)) (x : Slice), tile < 3 ∧ i <
    64 ∧ j < 32 :=
  ⟨1, 2, 3, [some (.fin false 1 0), some (.fin true 3 0)], Slice.reset, by decide +kernel⟩

theorem witness_matrixRows_8 : ∃ (tile i j : Nat) (ps : List (Option Machine.Num)) (x : Slice), tile < 3 ∧ i <
    64 ∧ j < 32 :=
  ⟨1, 2, 3, [some (.fin false 1 0), some (.fin true 3 0)], Slice.reset, by decide +kernel⟩

theorem witness_matrixRows_9 : ∃ (tile i j : Nat) (ps : List (Option Machine.Num)) (x : Slice), ∃ m, tile < 3 ∧
    i < 64 ∧ j < 32 ∧ m ≠ tile ∧ m ≠ tile + 1 :=
  ⟨1, 2, 3, [some (.fin false 1 0), some (.fin true 3 0)], Slice.reset, 0, by decide +kernel⟩

theorem witness_matrixRows_10 : ∃ (tile i j : Nat) (ps : List (Option Machine.Num)) (x : Slice), tile < 3 ∧ i <
    64 ∧ j < 32 :=
  ⟨1, 2, 3, [some (.fin false 1 0), some (.fin true 3 0)], Slice.reset, by decide +kernel⟩

theorem witness_matrixRows_11 : ∃ (tile af i : Nat) (row : List Machine.Num) (x : Slice), ∃ j, tile < 4 ∧ i < 64
    ∧ j < 32 :=
  ⟨3, 0, 63, [.fin false 1 0], Slice.reset, 31, by decide +kernel⟩

theorem witness_matrixRows_12 : ∃ (tile af i : Nat) (row : List Machine.Num) (x : Slice), ∃ r j, tile < 4 ∧ i <
    64 ∧ j < 32 ∧ r ≠ i :=
  ⟨3, 0, 63, [.fin false 1 0], Slice.reset, 62, 31, by decide +kernel⟩

theorem witness_matrixRows_13 : ∃ (tile af i : Nat) (row : List Machine.Num) (x : Slice), ∃ m, tile < 4 ∧ i < 64
    ∧ m ≠ tile :=
  ⟨3, 0, 63, [.fin false 1 0], Slice.reset, 0, by decide +kernel⟩

theorem witness_matrixRows_14 : ∃ (tile af i : Nat) (row : List Machine.Num) (x : Slice), tile < 4 ∧ i < 64 :=
  ⟨3, 0, 63, [.fin false 1 0], Slice.reset, by decide +kernel⟩

theorem witness_preemptChoice_0 : ∃ (c : Cmd) (s : State), reqEntry c s = none :=
  ⟨ask (.preempt 3 (r 2) 0 g0), s0, by decide +kernel⟩

theorem witness_preemptChoice_1 : ∃ (c : Cmd) (m : Team) (n k bb bs limit : Nat) (s : State), reqEntry c s =
    some m ∧ n = m.members.length ∧ k = (if savesMatrix s (reqCluster c) (reqTeam c) m.ctx then 328192 else 0) ∧ bb
    = (16384 + 7680 * n + k + 63) / 64 ∧ bs = (16384 + 8192 * n + k + 63) / 64 ∧ limit = reqDeadline c * clockMHz
    (s.pkg (reqCluster c).node) (s.die (dieOfCluster (reqCluster c))) ∧ c.tid ∈ m.members :=
  ⟨ask (.preempt 3 (r 2) 0 g0), teamIn .running [u0] none, _, _, _, _, _, withTeam (teamIn .running [u0] none)
    (sysm s0), by decide +kernel, rfl, rfl, rfl, rfl, by exact ⟨rfl, by decide +kernel⟩⟩

theorem witness_preemptChoice_2 : ∃ (c : Cmd) (m : Team) (n k bb bs limit : Nat) (s : State), reqEntry c s =
    some m ∧ n = m.members.length ∧ k = (if savesMatrix s (reqCluster c) (reqTeam c) m.ctx then 328192 else 0) ∧ bb
    = (16384 + 7680 * n + k + 63) / 64 ∧ bs = (16384 + 8192 * n + k + 63) / 64 ∧ limit = reqDeadline c * clockMHz
    (s.pkg (reqCluster c).node) (s.die (dieOfCluster (reqCluster c))) ∧ c.tid ∉ m.members ∧ ¬ permitsPolicy m.cls
    (reqPolicy c) :=
  ⟨ask (.preempt 3 (r 2) 0 g0), { teamIn .running [u1] none with gridf := 0 }, _, _, _, _, _, withTeam
    ({ teamIn .running [u1] none with gridf := 0 }) (sysm s0), by decide +kernel, rfl, rfl, rfl, rfl, by exact ⟨rfl,
    by decide +kernel⟩⟩

theorem witness_preemptChoice_3 : ∃ (c : Cmd) (m : Team) (n k bb bs limit : Nat) (s : State), reqEntry c s =
    some m ∧ n = m.members.length ∧ k = (if savesMatrix s (reqCluster c) (reqTeam c) m.ctx then 328192 else 0) ∧ bb
    = (16384 + 7680 * n + k + 63) / 64 ∧ bs = (16384 + 8192 * n + k + 63) / 64 ∧ limit = reqDeadline c * clockMHz
    (s.pkg (reqCluster c).node) (s.die (dieOfCluster (reqCluster c))) ∧ c.tid ∉ m.members ∧ permitsPolicy m.cls
    (reqPolicy c) ∧ m.state ≠ .running :=
  ⟨ask (.preempt 3 (r 2) 0 g0), teamIn .preempting [u1] none, _, _, _, _, _, withTeam (teamIn .preempting [u1]
    none) (sysm s0), by decide +kernel, rfl, rfl, rfl, rfl, by exact ⟨rfl, by decide +kernel⟩⟩

theorem witness_preemptChoice_4 : ∃ (c : Cmd) (m : Team) (n k bb bs limit : Nat) (s : State), reqEntry c s =
    some m ∧ n = m.members.length ∧ k = (if savesMatrix s (reqCluster c) (reqTeam c) m.ctx then 328192 else 0) ∧ bb
    = (16384 + 7680 * n + k + 63) / 64 ∧ bs = (16384 + 8192 * n + k + 63) / 64 ∧ limit = reqDeadline c * clockMHz
    (s.pkg (reqCluster c).node) (s.die (dieOfCluster (reqCluster c))) ∧ c.tid ∉ m.members ∧ permitsPolicy m.cls
    (reqPolicy c) ∧ m.state = .running ∧ reqSize c < 16384 + 8192 * n + k :=
  ⟨{ ask (.preempt 3 (r 2) 0 g0) with recw := [supervisorCtx 0 0, 3, 0x200000000 + 100, wnd 0x20000, 0x1000, 0, 0,
    0] }, teamIn .running [u1] none, _, _, _, _, _, withTeam (teamIn .running [u1] none) (sysm s0),
    by decide +kernel, rfl, rfl, rfl, rfl, by exact ⟨rfl, by decide +kernel⟩⟩

theorem witness_preemptChoice_5 : ∃ (c : Cmd) (m : Team) (n k bb bs limit : Nat) (s : State), ∃ st, reqEntry c s
    = some m ∧ n = m.members.length ∧ k = (if savesMatrix s (reqCluster c) (reqTeam c) m.ctx then 328192 else 0) ∧
    bb = (16384 + 7680 * n + k + 63) / 64 ∧ bs = (16384 + 8192 * n + k + 63) / 64 ∧ limit = reqDeadline c * clockMHz
    (s.pkg (reqCluster c).node) (s.die (dieOfCluster (reqCluster c))) ∧ c.tid ∉ m.members ∧ permitsPolicy m.cls
    (reqPolicy c) ∧ m.state = .running ∧ 16384 + 8192 * n + k ≤ reqSize c ∧ areaRefusal s c (reqArea c) (reqSize c)
    = some st :=
  ⟨ask (.preempt 3 (r 2) 0 g0), teamIn .running [u1] none, _, _, _, _, _, withTeam (teamIn .running [u1] none)
    (s0), .stale, by decide +kernel, rfl, rfl, rfl, rfl, by exact ⟨rfl, by decide +kernel⟩⟩

theorem witness_preemptChoice_6 : ∃ (c : Cmd) (m : Team) (n k bb bs limit : Nat) (s : State), reqEntry c s =
    some m ∧ n = m.members.length ∧ k = (if savesMatrix s (reqCluster c) (reqTeam c) m.ctx then 328192 else 0) ∧ bb
    = (16384 + 7680 * n + k + 63) / 64 ∧ bs = (16384 + 8192 * n + k + 63) / 64 ∧ limit = reqDeadline c * clockMHz
    (s.pkg (reqCluster c).node) (s.die (dieOfCluster (reqCluster c))) ∧ c.tid ∉ m.members ∧ permitsPolicy m.cls
    (reqPolicy c) ∧ m.state = .running ∧ 16384 + 8192 * n + k ≤ reqSize c ∧ areaRefusal s c (reqArea c) (reqSize c)
    = none :=
  ⟨ask (.preempt 3 (r 2) 0 g0), teamIn .running [u1] none, _, _, _, _, _, withTeam (teamIn .running [u1] none)
    (sysm s0), by decide +kernel, rfl, rfl, rfl, rfl, by exact ⟨rfl, by decide +kernel⟩⟩

theorem witness_preemptStarts_0 : ∃ (c : ClusterId) (x : Cmd) (d : BitVec 4) (a : GSrc) (w : W32) (g : Guard) (s
    : State), ∃ st, nextLaunch s c = some x ∧ clusterOf x.tid.core = c ∧ x.ins = .preempt d a w g ∧ reqRefusal false
    x s = some st :=
  ⟨k0, cmdBy u0 (.preempt 3 (r 2) 0 g0) 0 0 [0, 128], 3, r 2, 0, g0, launching (cmdBy u0 (.preempt 3 (r 2) 0 g0) 0
    0 [0, 128]) (s0), .malformed, by decide +kernel⟩

theorem witness_preemptStarts_1 : ∃ (c : ClusterId) (x : Cmd) (d : BitVec 4) (a : GSrc) (w : W32) (g : Guard) (s
    : State), ∃ st, nextLaunch s c = some x ∧ clusterOf x.tid.core = c ∧ x.ins = .preempt d a w g ∧ reqRefusal false
    x s = none ∧ preemptChoice x (dequeue .launch x s) = .error st :=
  ⟨k0, ask (.preempt 3 (r 2) 0 g0), 3, r 2, 0, g0, launching (ask (.preempt 3 (r 2) 0 g0)) (s0), .noTeam,
    by decide +kernel⟩

theorem witness_preemptStarts_2 : ∃ (c : ClusterId) (x : Cmd) (d : BitVec 4) (a : GSrc) (w : W32) (g : Guard) (s
    : State), ∃ m r, nextLaunch s c = some x ∧ clusterOf x.tid.core = c ∧ x.ins = .preempt d a w g ∧ reqRefusal
    false x s = none ∧ preemptChoice x (dequeue .launch x s) = .ok (m, r) ∧ (∀ q ∈ s.preempts, q.id ≠ s.nextId) :=
  ⟨k0, ask (.preempt 3 (r 2) 0 g0), 3, r 2, 0, g0, launching (ask (.preempt 3 (r 2) 0 g0)) (withTeam (teamIn
    .running [u1] none) (sysm s0)), teamIn .running [u1] none, 2, by decide +kernel⟩

theorem witness_preemptStarts_3 : ∃ (tid : Tid) (p : Preempt) (s : State), s.preempts.find? (fun p =>
    p.draining.any fun d => decide (d.1 = tid) && fallbackDue s p d) = some p ∧ (∀ q ∈ s.preempts, q.id = p.id → q =
    p) :=
  ⟨u1, pre7 false [(u1, some 0)] 0, (preempting (pre7 false [(u1, some 0)] 0) (teamIn .preempting [u1] none)
    s1).modPkg 0 fun q => { q with taper := 100 }, by decide +kernel⟩

theorem witness_preemptCompletes_0 : ∃ (c : ClusterId) (n : Nat) (p : Preempt) (s : State), Preempting s c n
    false p ∧ answerHeld s c.node p.cmd.tid.core.node = false ∧ (p.abandoned = true ∨ teamAt s c n = none ∨ ∃ m,
    teamAt s c n = some m ∧ m.state ≠ .preempting) :=
  ⟨k0, 3, pre7x, preempting pre7x (teamIn .running [u1] none) s1, by decide +kernel, by decide +kernel, .inl rfl⟩

theorem witness_preemptCompletes_1 : ∃ (c : ClusterId) (n : Nat) (p : Preempt) (m : Team) (s : State),
    Preempting s c n false p ∧ p.abandoned = false ∧ teamAt s c n = some m ∧ answerHeld s c.node p.cmd.tid.core.node
    = false ∧ m.state = .preempting ∧ p.draining = [] ∧ m.members = [] ∧ teamForks s c n = false :=
  ⟨k0, 3, pre7 false [] 0, teamIn .preempting [] none, preempting (pre7 false [] 0) (teamIn .preempting [] none)
    z, by decide +kernel⟩

theorem witness_preemptCompletes_2 : ∃ (c : ClusterId) (n : Nat) (p : Preempt) (m : Team) (s : State),
    Preempting s c n false p ∧ p.abandoned = false ∧ teamAt s c n = some m ∧ m.state = .preempting ∧ p.draining = []
    ∧ m.members ≠ [] ∧ (m.members.all (savable s)) = true ∧ m.saved = none :=
  ⟨k0, 3, pre7 false [] 0, teamIn .preempting [u1] none, preempting (pre7 false [] 0) (teamIn .preempting [u1]
    none) (me (fun t => { t with hold := .preempted }) s1), by decide +kernel⟩

theorem witness_preemptCompletes_3 : ∃ (c : ClusterId) (n : Nat) (p : Preempt) (m : Team) (s : State), ∃ v,
    Preempting s c n false p ∧ p.abandoned = false ∧ teamAt s c n = some m ∧ m.state = .preempting ∧ p.draining = []
    ∧ m.members ≠ [] ∧ (m.members.all (savable s)) = true ∧ m.saved = some v ∧ p.next = p.units + 1 ∧ answerHeld s
    c.node p.cmd.tid.core.node = false ∧ (∀ tid ∈ m.members, tidKey tid ≠ tidKey p.cmd.tid) :=
  ⟨k0, 3, pre7 false [] 384, teamIn .preempting [u1] (some (save7 Thread.reset)), preempting (pre7 false [] 384)
    (teamIn .preempting [u1] (some (save7 Thread.reset))) (me (fun t => { t with hold := .preempted }) s1), save7
    Thread.reset, by decide +kernel⟩

theorem witness_signalsAndResumes_0 : ∃ (c : ClusterId) (x : Cmd) (d : BitVec 4) (a : GSrc) (w : W32) (g :
    Guard) (s : State), ∃ st, nextLaunch s c = some x ∧ clusterOf x.tid.core = c ∧ x.ins = .signal d a w g ∧
    reqRefusal true x s = some st :=
  ⟨k0, cmdBy u0 (.signal 3 (r 2) 0 g0) 0 0 [0, 128], 3, r 2, 0, g0, launching (cmdBy u0 (.signal 3 (r 2) 0 g0) 0 0
    [0, 128]) (s0), .malformed, by decide +kernel⟩

theorem witness_signalsAndResumes_1 : ∃ (c : ClusterId) (x : Cmd) (d : BitVec 4) (a : GSrc) (w : W32) (g :
    Guard) (s : State), nextLaunch s c = some x ∧ clusterOf x.tid.core = c ∧ x.ins = .signal d a w g ∧ reqRefusal
    true x s = none ∧ 2 ≤ w.toNat % 4 :=
  ⟨k0, sig (.signal 3 (r 2) 2 g0), 3, r 2, 2, g0, launching (sig (.signal 3 (r 2) 2 g0)) (s0), by decide +kernel⟩

theorem witness_signalsAndResumes_2 : ∃ (c : ClusterId) (x : Cmd) (d : BitVec 4) (a : GSrc) (w : W32) (g :
    Guard) (s : State), nextLaunch s c = some x ∧ clusterOf x.tid.core = c ∧ x.ins = .signal d a w g ∧ reqRefusal
    true x s = none ∧ w.toNat % 4 < 2 ∧ reqEntry x s = none :=
  ⟨k0, sig (.signal 3 (r 2) 1 g0), 3, r 2, 1, g0, launching (sig (.signal 3 (r 2) 1 g0)) (s0), by decide +kernel⟩

theorem witness_signalsAndResumes_3 : ∃ (c : ClusterId) (x : Cmd) (d : BitVec 4) (a : GSrc) (w : W32) (g :
    Guard) (s : State), ∃ m, nextLaunch s c = some x ∧ clusterOf x.tid.core = c ∧ x.ins = .signal d a w g ∧
    reqRefusal true x s = none ∧ w.toNat % 4 < 2 ∧ reqEntry x s = some m ∧ m.state ≠ .saved :=
  ⟨k0, sig (.signal 3 (r 2) 0 g0), 3, r 2, 0, g0, launching (sig (.signal 3 (r 2) 0 g0)) (withTeam (teamIn
    .running [u1] none) s0), teamIn .running [u1] none, by decide +kernel⟩

theorem witness_signalsAndResumes_4 : ∃ (c : ClusterId) (x : Cmd) (d : BitVec 4) (a : GSrc) (w : W32) (g :
    Guard) (s : State), ∃ m, nextLaunch s c = some x ∧ clusterOf x.tid.core = c ∧ x.ins = .signal d a w g ∧
    reqRefusal true x s = none ∧ w.toNat % 4 = 1 ∧ reqEntry x s = some m ∧ m.state = .saved ∧ (∀ tid ∈ m.members,
    tidKey tid ≠ tidKey x.tid) :=
  ⟨k0, sig (.signal 3 (r 2) 1 g0), 3, r 2, 1, g0, launching (sig (.signal 3 (r 2) 1 g0)) (withTeam (teamIn .saved
    [] (some (save7 Thread.reset))) s0), teamIn .saved [] (some (save7 Thread.reset)), by decide +kernel⟩

theorem witness_signalsAndResumes_5 : ∃ (c : ClusterId) (x : Cmd) (d : BitVec 4) (a : GSrc) (w : W32) (g :
    Guard) (s : State), ∃ m v, nextLaunch s c = some x ∧ clusterOf x.tid.core = c ∧ x.ins = .signal d a w g ∧
    reqRefusal true x s = none ∧ w.toNat % 4 = 0 ∧ reqEntry x s = some m ∧ m.state = .saved ∧ m.complete = true ∧
    m.saved = some v :=
  ⟨k0, sig (.signal 3 (r 2) 0 g0), 3, r 2, 0, g0, launching (sig (.signal 3 (r 2) 0 g0)) (withTeam (teamIn .saved
    [] (some (save7 Thread.reset))) s0), teamIn .saved [] (some (save7 Thread.reset)), save7 Thread.reset,
    by decide +kernel⟩

theorem witness_signalsAndResumes_6 : ∃ (c : ClusterId) (n : Nat) (p : Preempt) (m : Team) (v : Saved) (l : List
    (Tid × Tid × Thread)) (s : State), Preempting s c n true p ∧ p.cluster = c ∧ p.team = n ∧ teamAt s c n = some m
    ∧ m.saved = some v ∧ p.next = p.units ∧ (v.matrix.all fun e => sliceIdle s (coreIn c e.1)) = true ∧ resumeSlots
    s v = some l ∧ (l.map fun e => tidKey e.2.1).Nodup ∧ (∀ e ∈ l, tidKey e.2.1 ≠ tidKey p.cmd.tid) :=
  ⟨k0, 3, pre7 true [] 383, teamIn .resuming [] (some (save7 Thread.reset)), save7 Thread.reset, [(u1, u1,
    Thread.reset)], up (preempting (pre7 true [] 383) (teamIn .resuming [] (some (save7 Thread.reset))) z),
    by decide +kernel⟩

theorem witness_signalsAndResumes_7 : ∃ (c : ClusterId) (n : Nat) (p : Preempt) (m : Team) (s : State),
    Preempting s c n true p ∧ p.cluster = c ∧ p.team = n ∧ p.deadline ≤ s.taper c.node ∧ teamAt s c n = some m ∧
    m.state = .resuming :=
  ⟨k0, 3, pre7 true [] 0, teamIn .resuming [] (some (save7 Thread.reset)), (preempting (pre7 true [] 0) (teamIn
    .resuming [] (some (save7 Thread.reset))) z).modPkg 0 fun q => { q with taper := 100 }, by decide +kernel⟩

theorem witness_launchCommands_0 : ∃ (c : ClusterId) (x : Cmd) (d : BitVec 4) (a b : GSrc) (w : W32) (g : Guard)
    (s : State), ∃ st, nextLaunch s c = some x ∧ clusterOf x.tid.core = c ∧ x.ins = .launch d a b w g ∧ NoneStarts s
    c ∧ launchRefusal s x = some st :=
  ⟨k0, launchX 0, 3, r 2, r 4, 0, g0, launching (launchX 0) (s0), .busy, by decide +kernel⟩

theorem witness_launchCommands_1 : ∃ (c : ClusterId) (x : Cmd) (d : BitVec 4) (a b : GSrc) (w : W32) (g : Guard)
    (s : State), nextLaunch s c = some x ∧ clusterOf x.tid.core = c ∧ x.ins = .launch d a b w g ∧ NoneStarts s c ∧
    launchRefusal s x = none ∧ (drained s x.tid x.id .group = false ∨ headersFit s x = false) :=
  ⟨k0, launchX 0, 3, r 2, r 4, 0, g0, launching (launchX 0) ({ phase 4 (sysm s0) with accs :=
    [{ accAt p2 (.load true) (wnd 0x20000) 8 with id := 5, tid := u0 }] }), by decide +kernel⟩

theorem witness_launchCommands_2 : ∃ (c : ClusterId) (x : Cmd) (d : BitVec 4) (a b : GSrc) (w : W32) (g : Guard)
    (s : State), ∃ p, nextLaunch s c = some x ∧ clusterOf x.tid.core = c ∧ x.ins = .launch d a b w g ∧ NoneStarts s
    c ∧ launchRefusal s x = none ∧ drained s x.tid x.id .group = true ∧ headersFit s x = true ∧ rootRecord
    x.tid.core (wordAt x.recw 7) 64 = some p ∧ (∀ ls, homeRefusal s x.tid x.ctx p (wordAt x.recw 7) 64 (.engWrite
    ls) = none) :=
  ⟨k0, launchX 0, 3, r 2, r 4, 0, g0, launching (launchX 0) (phase 4 (sysm s0)), p2, by decide +kernel,
    by decide +kernel, by decide +kernel, by decide +kernel, by decide +kernel, by exact ⟨by decide +kernel,
    by decide +kernel, by decide +kernel, engWrite_taken (by decide +kernel) rfl (by decide +kernel)
    (by decide +kernel) (by decide +kernel)⟩⟩

theorem witness_launchCommands_3 : ∃ (c : ClusterId) (x : Cmd) (d : BitVec 4) (a b : GSrc) (w : W32) (g : Guard)
    (p : Phys) (s : State), (s.cluster c).launching.find? (launchReady s) = some x ∧ clusterOf x.tid.core = c ∧
    x.ins = .launch d a b w g ∧ rootRecord x.tid.core (wordAt x.recw 7) 64 = some p ∧ (∀ ls, homeRefusal s x.tid
    x.ctx p (wordAt x.recw 7) 64 (.engWrite ls) = none) ∧ (∃ l, liveCtx s x.a = .ok l) :=
  ⟨k0, launchX 0, 3, r 2, r 4, 0, g0, p2, inCluster (fun k => { k with launching := [launchX 0] }) (phase 4 (sysm
    s0)), by decide +kernel, by decide +kernel, by decide +kernel, by decide +kernel, engWrite_taken
    (by decide +kernel) rfl (by decide +kernel) (by decide +kernel) (by decide +kernel), ⟨_, rfl⟩⟩

theorem witness_launchCommands_4 : ∃ (c : ClusterId) (x : Cmd) (d : BitVec 4) (a b : GSrc) (w : W32) (g : Guard)
    (p : Phys) (s : State), (s.cluster c).launching.find? (launchReady s) = some x ∧ clusterOf x.tid.core = c ∧
    x.ins = .launch d a b w g ∧ rootRecord x.tid.core (wordAt x.recw 7) 64 = some p ∧ (∀ ls, homeRefusal s x.tid
    x.ctx p (wordAt x.recw 7) 64 (.engWrite ls) = none) ∧ (∃ e, liveCtx s x.a = .error e) ∧ hdrStatic x.recw = false
    :=
  ⟨k0, dead0, 3, r 2, r 4, 0, g0, p2, inCluster (fun k => { k with launching := [dead0] }) (phase 4 (sysm s0)),
    by decide +kernel, by decide +kernel, by decide +kernel, by decide +kernel, engWrite_taken (by decide +kernel)
    rfl (by decide +kernel) (by decide +kernel) (by decide +kernel), by exact ⟨⟨_, rfl⟩, by decide +kernel⟩⟩

theorem witness_launchCommands_5 : ∃ (r gid n : Nat) (g : Grid) (s : State), s.grid? r gid = some g ∧ g.acking =
    true ∧ g.sentTo.contains n = true ∧ g.acked.look n = none ∧ g.gone.contains n = false ∧ (s.pkg
    r).deadLinks.contains n = false ∧ (n = r ∨ crosses s r n = false) ∧ ackOrder s r g n = true ∧ g.freed = false :=
  ⟨0, 5, 0, { grid5 0 with acked := [], acking := true, ackT := 9 }, gridIn
    { grid5 0 with acked := [], acking := true, ackT := 9 } z, by decide +kernel, by decide +kernel,
    by decide +kernel, by decide +kernel, by decide +kernel, by exact ⟨by decide +kernel, .inl rfl,
    by decide +kernel⟩⟩

theorem witness_launchCommands_7 : ∃ (r gid : Nat) (g : Grid) (s : State), s.grid? r gid = some g ∧ g.acking =
    true ∧ g.ackT ≤ s.taper r ∧ g.freed = true :=
  ⟨0, 5, { grid5 0 with acked := [], acking := true, ackT := 9, freed := true }, (gridIn
    { grid5 0 with acked := [], acking := true, ackT := 9, freed := true } z).modPkg 0 fun q =>
    { q with taper := 9 }, by decide +kernel⟩

theorem witness_launchCommands_6 : ∃ (r gid : Nat) (g : Grid) (s : State), s.grid? r gid = some g ∧ g.acking =
    true ∧ g.ackT ≤ s.taper r ∧ g.freed = false :=
  ⟨0, 5, { grid5 0 with acked := [], acking := true, ackT := 9 }, (gridIn
    { grid5 0 with acked := [], acking := true, ackT := 9 } z).modPkg 0 fun q => { q with taper := 9 },
    by decide +kernel⟩

theorem witness_launchCommands_8 : ∃ (c : ClusterId) (x : Cmd) (d : BitVec 4) (a : GSrc) (w : W32) (g : Guard)
    (s : State), nextLaunch s c = some x ∧ clusterOf x.tid.core = c ∧ x.ins = .lstat d a w g ∧ (s.grid? c.node (bits
    x.a 32 24) = none ∨ (∃ y, s.grid? c.node (bits x.a 32 24) = some y ∧ y.freed = true)) :=
  ⟨k0, cmdBy u0 (.lstat 3 (r 2) 1 g0) 0x500000000 0 [], 3, r 2, 1, g0, launching (cmdBy u0 (.lstat 3 (r 2) 1 g0)
    0x500000000 0 []) s0, by decide +kernel, by decide +kernel, by decide +kernel, .inl rfl⟩

theorem witness_launchCommands_9 : ∃ (c : ClusterId) (x : Cmd) (d : BitVec 4) (a : GSrc) (w : W32) (g : Guard)
    (s : State), ∃ y, nextLaunch s c = some x ∧ clusterOf x.tid.core = c ∧ x.ins = .lstat d a w g ∧ s.grid? c.node
    (bits x.a 32 24) = some y ∧ y.freed = false :=
  ⟨k0, cmdBy u0 (.lstat 3 (r 2) 1 g0) 0x500000000 0 [], 3, r 2, 1, g0, launching (cmdBy u0 (.lstat 3 (r 2) 1 g0)
    0x500000000 0 []) (gridIn (grid5 0) s0), grid5 0, by decide +kernel⟩

theorem witness_dealing_0 : ∃ (r gid n : Nat) (h : DieId) (g : Grid) (s : State), s.grid? r gid = some g ∧
    hdrStatic g.hdr = false ∧ 0 < n ∧ (dealClusters s g h.node).any (fun x => decide (x.1 = h.die)) = true ∧ mayDeal
    s g h.node = true ∧ g.next + n ≤ g.size ∧ ((g.reserve.filter fun x => decide (x.1.node = h.node)).map fun x =>
    x.2.2).sum + n ≤ 4 * hdrChunk g.hdr * ((dealClusters s g h.node).length * 8) ∧ (∀ x ∈ g.reserve, x.1 ≠ h) :=
  ⟨0, 5, 1, h0, grid5 0, gridIn (grid5 0) parted, by decide +kernel⟩

theorem witness_dealing_1 : ∃ (r gid b k : Nat) (h : DieId) (g : Grid) (c : CoreId) (s : State), s.grid? r gid =
    some g ∧ mayDeal s g h.node = true ∧ launchOrder s r g h.node = true ∧ g.reserve.find? (fun x => decide (x.1 =
    h)) = some (h, b, k) ∧ hungryCore s r g h = some c :=
  ⟨0, 5, 0, 1, h0, { grid5 0 with reserve := [(h0, 0, 1)], next := 1 }, c0, gridIn
    { grid5 0 with reserve := [(h0, 0, 1)], next := 1 } parted, by decide +kernel⟩

theorem witness_dealing_2 : ∃ (r gid j : Nat) (cl : ClusterId) (g : Grid) (c : CoreId) (s : State), s.grid? r
    gid = some g ∧ g.slots[j]? = some (cl, true) ∧ c = coreIn cl (g.slotNext.get 0 j % 8) ∧ hdrStatic g.hdr = true ∧
    g.acking = false ∧ 0 < g.slotLeft j ∧ mayDeal s g cl.node = true ∧ launchOrder s r g cl.node = true ∧ holdsGrid
    s c r gid = false ∧ coreRuns s c = true ∧ eligible s g.from_ g.hdr cl = true ∧ (s.core c).inbox.length <
    Config.inboxEntries :=
  ⟨0, 5, 0, k0, grid5 (2 ^ 43), c0, gridIn (grid5 (2 ^ 43)) parted, by decide +kernel⟩

theorem witness_dealing_3 : ∃ (n k : Nat) (x : Report) (g : Grid) (s : State), (s.reports.find? (fun x => decide
    (x.id = k ∧ x.node = n)) = some x) ∧ (∀ y ∈ s.reports, y.node = n → y.root = x.root → k ≤ y.id) ∧ (s.pkg
    x.root).deadLinks.contains n = false ∧ (n = x.root ∨ crosses s n x.root = false) ∧ s.grid? x.root x.gid = some g
    ∧ g.ended = none ∧ g.gone.contains n = false :=
  ⟨0, 8, ⟨8, 0, 5, 0, 1, 1, []⟩, grid5 0, { gridIn (grid5 0) z with reports := [⟨8, 0, 5, 0, 1, 1, []⟩] },
    by decide +kernel, by decide +kernel, by decide +kernel, .inl rfl, by decide +kernel⟩

theorem witness_dealing_4 : ∃ (r gid : Nat) (g h : Grid) (s : State), s.grid? r gid = some g ∧ g.gid = gid ∧
    g.ended = none ∧ g.completed + g.faulted + g.lost + g.cancelled = g.size ∧ h = endedAt g (s.taper r) :=
  ⟨0, 5, { grid5 0 with next := 1, dealt := 1, completed := 1 },
    { grid5 0 with next := 1, dealt := 1, completed := 1, ended := some 0, status := 1 }, gridIn
    { grid5 0 with next := 1, dealt := 1, completed := 1 } z, by decide +kernel⟩

theorem witness_dealing_5 : ∃ (r gid e : Nat) (g : Grid) (s : State), s.grid? r gid = some g ∧ g.ended = some e
    ∧ g.freed = false ∧ e + 64 ≤ s.taper r :=
  ⟨0, 5, 0, { grid5 0 with next := 1, dealt := 1, completed := 1, ended := some 0, status := 1 }, (gridIn
    { grid5 0 with next := 1, dealt := 1, completed := 1, ended := some 0, status := 1 } z).modPkg 0 fun q =>
    { q with taper := 64 }, by decide +kernel⟩

theorem witness_dealing_6 : ∃ (k : Nat) (x : Notice) (g : Grid) (s : State), s.notices.find? (fun x => decide
    (x.id = k)) = some x ∧ ((hHome x.ctx).node = x.node ∨ crosses s (hHome x.ctx).node x.node = false) ∧ s.grid?
    x.node g.gid = some g ∧ noticed s x = [(x.node, g)] ∧ hdrStatic g.hdr = false :=
  ⟨8, ⟨8, 0, supervisorCtx 0 0⟩, grid5 0, { gridIn (grid5 0) z with notices := [⟨8, 0, supervisorCtx 0 0⟩] },
    by decide +kernel, .inl rfl, by decide +kernel⟩

theorem witness_dealing_7 : ∃ (c d : CoreId) (i : Nat) (s : State), s.taper c.node % 64 = 0 ∧ s.taper c.node ≠ 0
    ∧ (s.core c).exchanged ≠ s.taper c.node ∧ coreRuns s c = true ∧ lowestLoad s (loadNeighbours s c) = some d ∧
    passable (s.core c).inbox = some i ∧ (s.core d).figure + 2 ≤ (s.core c).figure ∧ recordEligible s (nth []
    (s.core c).inbox i) (clusterOf d) = true ∧ (s.core d).inbox.length < Config.inboxEntries ∧ coreKey c ≠ coreKey d
    :=
  ⟨c0, ⟨0, 0, 1, 0⟩, 1, ((gridIn (grid5 0) (parted.modCore c0 fun c => { c with figure := 2, inbox := [[0x300,
    supervisorCtx 0 0, 0, 0x100000001, 5, 1, 5, 0], [0x300, supervisorCtx 0 0, 0, 0x100000001, 5, 1, 5, 0]]
    })).modPkg 0 fun q => { q with taper := 64 }), by decide +kernel⟩

theorem witness_hostPort_0 : ∃ (n : Nat) (o : BitVec 33) (s : State), ∃ p, hostPlace s n o = some p :=
  ⟨0, 0x7E000, z, scratchAt c0 0x7E000, by decide +kernel⟩

theorem witness_hostPort_1 : ∃ (n : Nat) (o : BitVec 33) (s : State), ∃ p, ∃ x : W64, hostPlace s n o = some p
    :=
  ⟨0, 0x7E000, z, scratchAt c0 0x7E000, 5, by decide +kernel⟩

theorem witness_hostPort_2 : ∃ (n : Nat) (o : BitVec 33) (s : State), hostPlace s n o = none :=
  ⟨0, 0x7E004, z, by decide +kernel⟩

theorem witness_hostPort_3 : ∃ (n : Nat) (o : BitVec 33) (s : State), ∃ x : W64, hostPlace s n o = none :=
  ⟨0, 0x10000, z, 5, by decide +kernel⟩

theorem witness_hostPort_4 : ∃ (n : Nat) (r : List W64) (s : State), (s.pkg n).fifo[(s.pkg n).copied]? = some r
    ∧ r.length = 8 ∧ (hostTail s n % 32 + 1) % 32 ≠ hostHead s n % 32 :=
  ⟨0, [1, 2, 3, 4, 5, 6, 7, 8], booting fun q => { q with fifo := [[1, 2, 3, 4, 5, 6, 7, 8]] }, by decide +kernel⟩

theorem witness_hostPort_5 : ∃ (n : Nat) (s : State), (s.pkg n).phase ≠ 0 :=
  ⟨0, phase 1 z, by decide +kernel⟩

theorem witness_hostRecords_1 : ∃ (n i : Nat) (r w : List W64) (u : State) (c : Cmd) (s : State), hostRecord s n
    = some r ∧ hostKind r = 1 ∧ hostHeader s (serviceSlot (hostDie n r)) (wordAt r 2) = some w ∧ wordAt r 3 = 0 ∧
    someEntry s (hostDie n r) = true ∧ entryReady s (hostDie n r) i = true ∧ serviceRuns s (hostDie n r) = true ∧
    drained s (serviceSlot (hostDie n r)) s.nextId .group = true ∧ launchWaits s (serviceSlot (hostDie n r)) = false
    ∧ hostFree s (serviceSlot (hostDie n r)) r = true ∧ u = createLease (hostDie n r) i .ctx (if bits (wordAt r 4) 0
    32 = 0 then 2 ^ 32 - 1 else bits (wordAt r 4) 0 32) (handleOf (hostDie n r) .ctx i (s.lease (hostDie n r)
    i).gen) (supervisorCtx n (hostDie n r).die) (.ctx 0 0 0) s.fresh ∧ c = ⟨s.nextId, serviceSlot (hostDie n r),
    supervisorCtx n (hostDie n r).die, 0, .launch 0 ⟨false, 0⟩ ⟨false, 0⟩ (BitVec.ofNat 32 (recHseq r)) Guard.none,
    handleOf (hostDie n r) .ctx i (s.lease (hostDie n r) i).gen, wordAt r 2, w, 0, .known true, 0⟩ ∧ headersFit s c
    = true ∧ launchRefusal u c = none :=
  ⟨0, 4, hostRec 1, head0 0, _, _, hostWith (hostRec 1) (headed z), by decide +kernel, by decide +kernel,
    by decide +kernel, by decide +kernel, by decide +kernel, by exact ⟨by decide +kernel, by decide +kernel,
    by decide +kernel, by decide +kernel, by decide +kernel, by exact ⟨rfl, rfl, by decide +kernel⟩⟩⟩

theorem witness_hostRecords_0 : ∃ (n i : Nat) (r w : List W64) (u : State) (c : Cmd) (s : State), hostRecord s n
    = some r ∧ hostKind r = 1 ∧ hostHeader s (serviceSlot (hostDie n r)) (wordAt r 2) = some w ∧ wordAt r 3 = 0 ∧
    someEntry s (hostDie n r) = true ∧ entryReady s (hostDie n r) i = true ∧ serviceRuns s (hostDie n r) = true ∧
    drained s (serviceSlot (hostDie n r)) s.nextId .group = true ∧ launchWaits s (serviceSlot (hostDie n r)) = false
    ∧ hostFree s (serviceSlot (hostDie n r)) r = true ∧ u = createLease (hostDie n r) i .ctx (if bits (wordAt r 4) 0
    32 = 0 then 2 ^ 32 - 1 else bits (wordAt r 4) 0 32) (handleOf (hostDie n r) .ctx i (s.lease (hostDie n r)
    i).gen) (supervisorCtx n (hostDie n r).die) (.ctx 0 0 0) s.fresh ∧ c = ⟨s.nextId, serviceSlot (hostDie n r),
    supervisorCtx n (hostDie n r).die, 0, .launch 0 ⟨false, 0⟩ ⟨false, 0⟩ (BitVec.ofNat 32 (recHseq r)) Guard.none,
    handleOf (hostDie n r) .ctx i (s.lease (hostDie n r) i).gen, wordAt r 2, w, 0, .known true, 0⟩ ∧ headersFit s c
    = true ∧ (launchRefusal u c = some .full ∨ launchRefusal u c = some .busy) :=
  ⟨0, 4, hostRec 1, head0 0, _, _, (hostWith (hostRec 1) (headed z)).modPkg 0 fun q =>
    { q with grids := (List.range 256).map fun i => (i, grid5 0) }, by decide +kernel, by decide +kernel,
    by decide +kernel, by decide +kernel, by decide +kernel, by exact ⟨by decide +kernel, by decide +kernel,
    by decide +kernel, by decide +kernel, by decide +kernel, by exact ⟨rfl, rfl, by decide +kernel, .inl
    (by decide +kernel)⟩⟩⟩

theorem witness_hostRecords_2 : ∃ (n i : Nat) (r : List W64) (s : State), hostRecord s n = some r ∧ hostKind r =
    1 ∧ serviceRuns s (hostDie n r) = true ∧ hostHeader s (serviceSlot (hostDie n r)) (wordAt r 2) = none ∧ wordAt r
    3 = 0 ∧ hostFree s (serviceSlot (hostDie n r)) r = true ∧ someEntry s (hostDie n r) = true ∧ entryReady s
    (hostDie n r) i = true :=
  ⟨0, 4, hostRec 1, hostWith (hostRec 1) z, by decide +kernel⟩

theorem witness_hostRecords_3 : ∃ (n i : Nat) (r : List W64) (s : State), hostRecord s n = some r ∧ hostKind r =
    1 ∧ serviceRuns s (hostDie n r) = true ∧ hostFree s (serviceSlot (hostDie n r)) r = true ∧ ((wordAt r 3 ≠ 0 ∧
    ((wordAt r 3).toNat % 64 ≠ 0 ∨ ∃ ws, hostDescriptor s (serviceSlot (hostDie n r)) (wordAt r 3) = some ws ∧
    badDescriptor ws = true)) ∨ (wordAt r 3 = 0 ∧ someEntry s (hostDie n r) = false)) ∧ hostHeader s (serviceSlot
    (hostDie n r)) (wordAt r 2) = none :=
  ⟨0, 4, (hostRec 1).set 3 1, hostWith ((hostRec 1).set 3 1) z, by decide +kernel, by decide +kernel,
    by decide +kernel, by decide +kernel, .inl ⟨by decide +kernel, .inl (by decide +kernel)⟩, by decide +kernel⟩

theorem witness_hostRecords_4 : ∃ (n i : Nat) (r : List W64) (s : State), ∃ w p, hostRecord s n = some r ∧
    hostKind r = 1 ∧ serviceRuns s (hostDie n r) = true ∧ hostFree s (serviceSlot (hostDie n r)) r = true ∧ ((wordAt
    r 3 ≠ 0 ∧ ((wordAt r 3).toNat % 64 ≠ 0 ∨ ∃ ws, hostDescriptor s (serviceSlot (hostDie n r)) (wordAt r 3) = some
    ws ∧ badDescriptor ws = true)) ∨ (wordAt r 3 = 0 ∧ someEntry s (hostDie n r) = false)) ∧ hostHeader s
    (serviceSlot (hostDie n r)) (wordAt r 2) = some w ∧ rootRecord (serviceSlot (hostDie n r)).core (wordAt w 7) 64
    = some p ∧ (∀ ls, homeRefusal s (serviceSlot (hostDie n r)) (supervisorCtx n (hostDie n r).die) p (wordAt w 7)
    64 (.engWrite ls) = none) ∧ (p.key + 64 ≤ (scratchAt ⟨n, 0, 0, 0⟩ 0x7E800).key ∨ (scratchAt ⟨n, 0, 0, 0⟩
    0x7E800).key + 4 ≤ p.key) :=
  ⟨0, 4, (hostRec 1).set 3 1, hostWith ((hostRec 1).set 3 1) (headed z), head0 0, p2, by decide +kernel,
    by decide +kernel, by decide +kernel, by decide +kernel, .inl ⟨by decide +kernel, .inl (by decide +kernel)⟩,
    by exact ⟨by decide +kernel, by decide +kernel, engWrite_taken (by decide +kernel) rfl (by decide +kernel)
    (by decide +kernel) (by decide +kernel), .inl (by decide +kernel)⟩⟩

theorem witness_hostRecords_5 : ∃ (n i : Nat) (r : List W64) (s : State), hostRecord s n = some r ∧ hostKind r =
    1 ∧ hostFree s (serviceSlot (hostDie n r)) r = false :=
  ⟨0, 4, hostRec 1, { hostWith (hostRec 1) (headed z) with nextId := 9, accs :=
    [{ accAt p2 (.load true) (wnd 0x20000) 8 with tid := u0 }] }, by decide +kernel⟩

theorem witness_hostRecords_6 : ∃ (n i : Nat) (r : List W64) (s : State), ∃ w, hostRecord s n = some r ∧
    hostKind r = 1 ∧ hostHeader s (serviceSlot (hostDie n r)) (wordAt r 2) = some w ∧ wordAt r 3 = 0 ∧ someEntry s
    (hostDie n r) = true ∧ (launchWaits s (serviceSlot (hostDie n r)) = true ∨ drained s (serviceSlot (hostDie n r))
    s.nextId .group = false) :=
  ⟨0, 4, hostRec 1, inCluster (fun k => { k with launchQ := [launchX 0] }) (hostWith (hostRec 1) (headed z)),
    head0 0, by decide +kernel, by decide +kernel, by decide +kernel, by decide +kernel, by decide +kernel, .inl
    (by decide +kernel)⟩

theorem witness_hostRecords_7 : ∃ (n : Nat) (r : List W64) (s : State), ∃ g, hostRecord s n = some r ∧ hostKind
    r = 2 ∧ hostGrid s n (wordAt r 2) = some g ∧ renewalWaits s (serviceSlot (hostDie n r)) g.ctx = true :=
  ⟨0, hostRec 2, { hostWith (hostRec 2) (gridIn grid6 z) with leaseReqs := [⟨7, u0, 0, .rnw 3 (r 2) (r 4) g0,
    handleOf h0 .ctx 1 1, 0, 0x308, none⟩] }, grid6, by decide +kernel⟩

theorem witness_hostRecords_8 : ∃ (n : Nat) (r : List W64) (s : State), hostRecord s n = some r ∧ hostKind r = 2
    ∧ serviceRuns s (hostDie n r) = true ∧ hostGrid s n (wordAt r 2) = none :=
  ⟨0, hostRec 2, hostWith (hostRec 2) z, by decide +kernel⟩

theorem witness_hostRecords_9 : ∃ (n i : Nat) (r : List W64) (g : Grid) (h : DieId) (l : Lease) (s : State),
    hostRecord s n = some r ∧ hostKind r = 2 ∧ hostGrid s n (wordAt r 2) = some g ∧ present s g.ctx = .live h i l ∧
    i ≠ 0 ∧ l.heldBy (supervisorCtx n (hostDie n r).die) = true ∧ serviceRuns s (hostDie n r) = true ∧ renewalWaits
    s (serviceSlot (hostDie n r)) g.ctx = false :=
  ⟨0, 1, hostRec 2, grid6, h0, ctx1, hostWith (hostRec 2) ((gridIn grid6 z).modLease h0 1 fun _ => ctx1),
    by decide +kernel⟩

theorem witness_hostRecords_10 : ∃ (n : Nat) (r : List W64) (s : State), hostRecord s n = some r ∧ hostKind r =
    3 ∧ serviceRuns s (hostDie n r) = true ∧ (∀ w ∈ s.regWrites, w.tid ≠ serviceSlot (hostDie n r)) :=
  ⟨0, hostRec 3, hostWith (hostRec 3) z, by decide +kernel⟩

theorem witness_hostRecords_11 : ∃ (n : Nat) (r : List W64) (s : State), hostRecord s n = some r ∧ (3 < hostKind
    r ∨ hostKind r = 0) :=
  ⟨0, hostRec 4, hostWith (hostRec 4) z, by decide +kernel⟩

theorem witness_hostRecords_12 : ∃ (n : Nat) (r : List W64) (s : State), ∃ i : Nat, hostRecord s n = some r ∧
    (hostKind r = 1 ∨ hostKind r = 2 ∨ hostKind r = 3) ∧ serviceRuns s (hostDie n r) = false :=
  ⟨0, hostRec 0x11, dieOff (hostRec 0x11), 4, by decide +kernel⟩

theorem witness_hostRecords_13 : ∃ (n : Nat) (r : List W64) (s : State), hostRecord s n = some r ∧ (hostKind r =
    1 ∨ hostKind r = 2 ∨ hostKind r = 3) ∧ serviceRuns s (hostDie n r) = false :=
  ⟨0, hostRec 0x12, dieOff (hostRec 0x12), by decide +kernel⟩

theorem witness_hostRecords_14 : ∃ (n : Nat) (r : List W64) (s : State), hostRecord s n = some r ∧ (hostKind r =
    1 ∨ hostKind r = 2 ∨ hostKind r = 3) ∧ serviceRuns s (hostDie n r) = false :=
  ⟨0, hostRec 0x13, dieOff (hostRec 0x13), by decide +kernel⟩

theorem witness_hostRecords_15 : ∃ (n : Nat) (r : List W64) (s : State), hostRecord s n = some r ∧ hostKind r =
    3 ∧ (∃ w ∈ s.regWrites, w.tid = serviceSlot (hostDie n r)) :=
  ⟨0, hostRec 3, { hostWith (hostRec 3) z with regWrites := [⟨1, serviceSlot h0, 0x51, 0, 0⟩] },
    by decide +kernel⟩

theorem witness_bootAndReset_0 : ∃ (n : Nat) (s : State), darkLate s n = true :=
  ⟨0, booting fun q => { q with darkNow := true, taper := 100000 }, by decide +kernel⟩

theorem witness_bootAndReset_1 : ∃ (n : Nat) (s : State), darkLate s n = false :=
  ⟨0, z, by decide +kernel⟩

theorem witness_bootAndReset_4 : ∃ (n : Nat) (done : Bool) (d : Device) (s : State), (d = .flashSlot n done ∨ d
    = .flashMarker n done) ∧ (s.pkg n).flash.valid (s.pkg n).slotB = true ∧ (s.pkg n).flash.marker ≠ none :=
  ⟨0, false, .flashSlot 0 false, booting fun q =>
    { q with flash := ⟨true, true, (true, 1, false), (true, 0, true)⟩ }, .inl rfl, by decide +kernel⟩

theorem witness_bootAndReset_2 : ∃ (n : Nat) (s : State), (s.pkg n).booted = false ∧ (s.pkg n).phase = 0 ∧
    (s.pkg n).reason = 0 :=
  ⟨0, z, by decide +kernel⟩

theorem witness_bootAndReset_3 : ∃ (n : Nat) (ok : Bool) (s : State), (s.pkg n).booted = true ∧ (s.pkg n).reason
    = 0 ∧ (s.pkg n).phase < 4 :=
  ⟨0, false, booting fun q => { q with booted := true, phase := 1 }, by decide +kernel⟩

theorem witness_bootAndReset_5 : ∃ (n why : Nat) (s : State), (s.pkg n).reason = 0 ∧ 1 ≤ (s.pkg n).phase ∧ (why
    = 5 ∨ (why = 4 ∧ (s.pkg n).phase = 1)) :=
  ⟨0, 4, booting fun q => { q with booted := true, phase := 1 }, by decide +kernel⟩

theorem witness_strands_0 : ∃ (n k : Nat) (ok : Bool) (s : State), k < 1024 ∧ (s.strand n k).up = true ∧ (ok =
    true ∨ (s.strand n k).retries < 15) :=
  ⟨0, 0, false, strand0 id z, by decide +kernel⟩

theorem witness_strands_1 : ∃ (n k : Nat) (ok : Bool) (s : State), k < 1024 ∧ (s.strand n k).up = true ∧ ok =
    false ∧ 15 ≤ (s.strand n k).retries :=
  ⟨0, 0, false, strand0 (fun x => { x with retries := 15 }) z, by decide +kernel⟩

theorem witness_strands_2 : ∃ (n k w : Nat) (x : Strand) (s : State), (s.pkg n).strands.look k = some x ∧ w < 8
    :=
  ⟨0, 0, 7, (strand0 noisy z).strand 0 0, strand0 noisy z, by decide +kernel⟩

theorem witness_strands_3 : ∃ (n k w : Nat) (x : Strand) (s : State), (s.pkg n).strands.look k = some x ∧ w < 8
    :=
  ⟨0, 0, 7, (strand0 noisy z).strand 0 0, strand0 noisy z, by decide +kernel⟩

theorem witness_strands_6 : ∃ (n k w m j : Nat) (s : State), k < 1024 ∧ w < 8 ∧ (s.strand n k).up = true ∧
    (s.strand n k).active.getLsbD w = true ∧ (s.strand n k).risen.getLsbD w = true ∧ (s.strand n k).peer.toNat = m ∧
    (s.strand n k).far = j ∧ j < 1024 ∧ (m, j) ≠ (n, k) ∧ (s.strand m j).up = true ∧ waves (s.strand m j).active =
    [w] ∧ (s.strand m j).parked ≠ 0 ∧ (waves (s.strand n k).active ≠ [w] ∨ (s.strand n k).parked ≠ 0) :=
  ⟨0, 0, 7, 1, 5, (strand0 noisy z).modPkg 1 fun q => { q with strands := [(5,
    { Strand.reset with up := true, active := 0x80, parked := 1, peer := 0, far := 0 })] }, by decide +kernel,
    by decide +kernel, by decide +kernel, by decide +kernel, by decide +kernel, by exact ⟨by decide +kernel,
    by decide +kernel, by decide +kernel, by decide +kernel, by decide +kernel, by exact ⟨by decide +kernel,
    by decide +kernel, .inl (by decide +kernel)⟩⟩⟩

theorem witness_strands_4 : ∃ (n k w m j : Nat) (s : State), k < 1024 ∧ w < 8 ∧ (s.strand n k).up = true ∧
    (s.strand n k).active.getLsbD w = true ∧ (s.strand n k).risen.getLsbD w = true ∧ (s.strand n k).peer.toNat = m ∧
    (s.strand n k).far = j ∧ waves (s.strand n k).active ≠ [w] ∧ (¬ (j < 1024 ∧ waves (s.strand m j).active = [w]))
    :=
  ⟨0, 0, 7, 1, 5, strand0 noisy z, by decide +kernel⟩

theorem witness_strands_5 : ∃ (n k w m j : Nat) (s : State), k < 1024 ∧ w < 8 ∧ (s.strand n k).up = true ∧
    (s.strand n k).active.getLsbD w = true ∧ (s.strand n k).risen.getLsbD w = true ∧ (s.strand n k).peer.toNat = m ∧
    (s.strand n k).far = j ∧ waves (s.strand n k).active = [w] ∧ (s.strand n k).parked ≠ 0 ∧ (¬ (j < 1024 ∧ waves
    (s.strand m j).active = [w])) :=
  ⟨0, 0, 7, 1, 5, strand0 (fun x => { noisy x with active := 0x80, parked := 1 }) z, by decide +kernel⟩

theorem witness_strands_7 : ∃ (n k w m j : Nat) (s : State), k < 1024 ∧ w < 8 ∧ (s.strand n k).up = true ∧
    (s.strand n k).active.getLsbD w = true ∧ (s.strand n k).risen.getLsbD w = true ∧ (s.strand n k).peer.toNat = m ∧
    (s.strand n k).far = j ∧ (waves (s.strand n k).active = [w] ∧ (s.strand n k).parked = 0 ∨ j < 1024 ∧ waves
    (s.strand m j).active = [w] ∧ (s.strand m j).parked = 0) :=
  ⟨0, 0, 7, 1, 5, strand0 (fun x => { noisy x with active := 0x80 }) z, by decide +kernel⟩

theorem witness_strands_8 : ∃ (n k w m j : Nat) (ok : Bool) (s : State), k < 1024 ∧ w < 8 ∧ (s.strand n
    k).retrain.getLsbD w = true ∧ (s.strand n k).peer.toNat = m ∧ (s.strand n k).far = j ∧ (m, j) ≠ (n, k) :=
  ⟨0, 0, 7, 1, 5, true, strand0 (fun x => { x with retrain := 0x80 }) z, by decide +kernel⟩

theorem witness_strands_9 : ∃ (n k : Nat) (s : State), k < 1024 ∧ (s.strand n k).up = true ∧ (s.strand n
    k).parked ≠ 0 ∧ (s.strand n k).wake.toNat ≤ (s.strand n k).queue :=
  ⟨0, 0, strand0 (fun x => { x with parked := 1, queue := 255 }) z, by decide +kernel⟩

theorem witness_strands_10 : ∃ (n k : Nat) (s : State), k < 1024 ∧ (s.strand n k).woken = true ∧ 64 ≤ (s.strand
    n k).below :=
  ⟨0, 0, strand0 (fun x => { x with woken := true, below := 64 }) z, by decide +kernel⟩

theorem witness_strands_11 : ∃ (n k : Nat) (s : State), k < 1024 ∧ (s.strand n k).up = true :=
  ⟨0, 0, strand0 id z, by decide +kernel⟩

theorem witness_strands_12 : ∃ (n k p : Nat) (s : State), k < 1024 ∧ p ≠ n ∧ n < 65536 ∧ (s.strand n k).up =
    false ∧ (s.strand n k).peer.toNat = p ∧ (s.strand n k).far < 1024 ∧ s.group.contains p = true ∧ (s.strand n
    k).retired ≠ BitVec.allOnes 8 ∧ (s.pkg n).changing.contains k = false :=
  ⟨0, 0, 1, strand0 (fun x => { x with up := false }) z, by decide +kernel⟩

theorem witness_links_0 : ∃ (k : Nat) (a : Acc) (l : Leg) (s : State), s.acc? k = some a ∧ a.leg s = some l ∧
    waitsBefore s a.arrived k l = true :=
  ⟨7, farAcc (.thread 7 0), leg01, { outward (.thread 7 0) with accs :=
    [{ farAcc (.thread 6 0) with id := 6, arrived := 6 }, farAcc (.thread 7 0)] }, by decide +kernel⟩

theorem witness_links_1 : ∃ (k : Nat) (m : Msg) (s : State), s.acc? k = none ∧ s.msg? k = some m ∧ waitsBefore s
    m.arrived k (m.leg s) = true :=
  ⟨7, farMsg, { strand0 id (phase 3 (messages farMsg s1)) with accs :=
    [{ farAcc (.thread 6 0) with id := 6, arrived := 0 }] }, by decide +kernel⟩

theorem witness_links_14 : ∃ (n : Nat) (l : List Nat) (s : State), (s.pkg n).relock = some l ∧ darkLate s n =
    false :=
  ⟨0, [1], booting fun q => { q with relock := some [1] }, by decide +kernel⟩

theorem witness_links_2 : ∃ (k : Nat) (a : Acc) (l : Leg) (s : State), FirstToSend s k a l ∧ 3 ≤ (s.pkg
    l.node).phase ∧ pathLive s l.node l.ctx l.peer = true ∧ (s.pkg l.node).deadLinks.contains l.peer = false ∧
    (crosses s l.node l.peer = true ∨ (s.capOf l).full (a.op.payload a.len) = true) :=
  ⟨7, farAcc (.thread 7 0), leg01, phase 3 ((outward (.thread 7 0)).modPkg 0 fun q =>
    { q with caps := [(256, ⟨65536, 65536, 32768, [], none, 0⟩)] }), by decide +kernel, by decide +kernel,
    by decide +kernel, by decide +kernel, .inr (by decide +kernel)⟩

theorem witness_links_3 : ∃ (k : Nat) (a : Acc) (l : Leg) (s : State), FirstToSend s k a l ∧ 3 ≤ (s.pkg
    l.node).phase ∧ pathLive s l.node l.ctx l.peer = true ∧ (s.pkg l.node).deadLinks.contains l.peer = false ∧
    crosses s l.node l.peer = false ∧ ((s.capOf l).out = 0 ∨ (s.capOf l).out + a.op.payload a.len ≤ (s.capOf
    l).bytes) ∧ (s.capOf l).flits < 32768 :=
  ⟨7, farAcc (.thread 7 0), leg01, phase 3 (outward (.thread 7 0)), by decide +kernel, by decide +kernel,
    by decide +kernel, by decide +kernel, by decide +kernel, by exact ⟨.inl (by decide +kernel), by decide +kernel⟩⟩

theorem witness_links_4 : ∃ (k : Nat) (a : Acc) (l : Leg) (s : State), ∃ (pid lane : Nat) (q : Pending) (f :
    FaultInfo), FirstToSend s k a l ∧ a.agent = .thread pid lane ∧ a.op ≠ .join ∧ (s.th a.tid).pend? pid = some q ∧
    q.left = 1 ∧ q.refused = [] ∧ q.vector = false ∧ q.void = false ∧ (∃ v, q.val = .g v) ∧ (((s.pkg l.node).phase <
    3 ∧ f = ⟨.access, a.ea, 0, 2⟩) ∨ (3 ≤ (s.pkg l.node).phase ∧ pathLive s l.node l.ctx l.peer = false ∧ f =
    ⟨.lapsed, 0, a.ea, 4⟩) ∨ (3 ≤ (s.pkg l.node).phase ∧ pathLive s l.node l.ctx l.peer = true ∧ (s.pkg
    l.node).deadLinks.contains l.peer = true ∧ f = ⟨.path, a.ea, 0, 0⟩)) :=
  ⟨7, farAcc (.thread 7 0), leg01, outward (.thread 7 0), 7, 0, pend 7 (some (.g 3)) none (.g 0), ⟨.access,
    0x200000, 0, 2⟩, by decide +kernel, by decide +kernel, by decide +kernel, by decide +kernel, by decide +kernel,
    by exact ⟨by decide +kernel, by decide +kernel, by decide +kernel, ⟨0, rfl⟩, .inl (by decide +kernel)⟩⟩

theorem witness_links_5 : ∃ (k : Nat) (m : Msg) (s : State), s.acc? k = none ∧ s.msg? k = some m ∧ m.id = k ∧
    m.atFabric s = true ∧ waitsBefore s m.arrived k (m.leg s) = false ∧ 3 ≤ (s.pkg m.cmd.tid.core.node).phase ∧
    pathLive s m.cmd.tid.core.node m.cmd.ctx m.dest.node = false :=
  ⟨7, farMsg, phase 3 (messages farMsg s1), by decide +kernel⟩

theorem witness_links_6 : ∃ (k : Nat) (m : Msg) (s : State), s.acc? k = none ∧ s.msg? k = some m ∧ m.id = k ∧
    m.atFabric s = true ∧ waitsBefore s m.arrived k (m.leg s) = false ∧ 3 ≤ (s.pkg m.cmd.tid.core.node).phase ∧
    pathLive s m.cmd.tid.core.node m.cmd.ctx m.dest.node = true ∧ (s.pkg m.cmd.tid.core.node).deadLinks.contains
    m.dest.node = false ∧ crosses s m.cmd.tid.core.node m.dest.node = false ∧ (s.capOf (m.leg s)).full 0 = false :=
  ⟨7, farMsg, strand0 id (phase 3 (messages farMsg s1)), by decide +kernel⟩

theorem witness_links_7 : ∃ (n p part rtt : Nat) (c : Cap) (base : Nat) (s : State), s.cap n p part = c ∧
    c.flits ≠ 0 ∧ rtt ≠ 0 ∧ (s.pkg n).deadLinks.contains p = false ∧ base = ((rtt :: c.samples).take 256).foldl min
    rtt ∧ (∀ a ∈ s.accs, a.ofPerformed = false) :=
  ⟨0, 1, 0, 5, ⟨65536, 8, 1, [], none, 0⟩, 5, peerCap z, by decide +kernel⟩

theorem witness_links_8 : ∃ (n p part rtt pid lane : Nat) (a : Acc) (x : W64) (pl : Phys) (q : Pending) (d :
    BitVec 4) (s : State), (s.cap n p part).flits ≠ 0 ∧ rtt ≠ 0 ∧ (s.pkg n).deadLinks.contains p = false ∧
    (s.accs.filter fun a => onWay s n p part a && a.ofPerformed) = [a] ∧ a.agent = .performed pid lane (.g x) ∧
    a.place = some pl ∧ (s.th a.tid).pend? pid = some q ∧ q.left = 1 ∧ q.refused = [] ∧ q.dst = some (.g d) ∧ q.also
    = none ∧ q.val = .g 0 ∧ d ≠ 0 ∧ (∀ w ∈ s.waits, w.tid = a.tid → w.seq ≠ pid) :=
  ⟨0, 1, 0, 5, 7, 0, farAcc (.performed 7 0 (.g 9)), 9, far1, pend 7 (some (.g 3)) none (.g 0), 3, peerCap
    (outward (.performed 7 0 (.g 9))), by decide +kernel⟩

theorem witness_links_9 : ∃ (n p : Nat) (s : State), linkDown s n p = true ∧ (s.pkg n).deadLinks.contains p =
    false ∧ OnlyAccesses s ∧ (∀ a ∈ s.accs, a.toPeer s n p = false) :=
  ⟨0, 1, strand0 (fun x => { x with up := false }) z, by decide +kernel⟩

theorem witness_links_10 : ∃ (n p : Nat) (s : State), ∃ a pid lane q, linkDown s n p = true ∧ (s.pkg
    n).deadLinks.contains p = false ∧ OnlyAccesses s ∧ s.accs.filter (Acc.toPeer s n p) = [a] ∧ a.agent = .thread
    pid lane ∧ a.op ≠ .join ∧ (s.th a.tid).pend? pid = some q ∧ q.left = 1 ∧ q.refused = [] ∧ q.vector = false ∧
    q.void = false ∧ (∃ v, q.val = .g v) :=
  ⟨0, 1, { strand0 (fun x => { x with up := false }) (awaits [pend 7 (some (.g 3)) none (.g 0)] s1) with accs :=
    [farAcc (.thread 7 0)] }, farAcc (.thread 7 0), 7, 0, pend 7 (some (.g 3)) none (.g 0), by decide +kernel,
    by decide +kernel, by decide +kernel, by decide +kernel, by decide +kernel, by exact ⟨by decide +kernel,
    by decide +kernel, by decide +kernel, by decide +kernel, by decide +kernel, by exact ⟨by decide +kernel, ⟨0,
    rfl⟩⟩⟩⟩

theorem witness_links_11 : ∃ (fs : List Nat) (s : State), fs ≠ [] ∧ (∀ f ∈ fs, (s.strand (f / 128) (8 * (f %
    128))).far < 1024) ∧ (s.packages.any fun p => p.2.darkNow) = false :=
  ⟨[0], strand0 id z, by decide +kernel⟩

theorem witness_links_12 : ∃ (n : Nat) (s : State), (s.pkg n).changing ≠ [] ∧ (s.pkg n).darkNow = false ∧
    drainedCircuits s = true :=
  ⟨0, booting fun q => { q with changing := [0] }, by decide +kernel⟩

theorem witness_links_13 : ∃ (ps : List (Nat × Nat)) (s : State), (s.packages.any fun p => (decide (p.2.changing
    ≠ []) && !p.2.darkNow) || p.2.relock.isSome) = false ∧ circuitsOk s ps = true :=
  ⟨[(0, 128)], z, by decide +kernel⟩

theorem witness_deferredPredicate_0 : ∃ (i : Instr) (g : Guard) (rs : List (RegRef × Bool)) (d : BitVec 4) (s :
    State), deferForm i = some (g, rs, d) ∧ d ≠ 0 ∧ s.me.passes g ∧ s.me.full (.q d) = true ∧ s.me.deferredQ = [] ∧
    (∀ r ∈ rs, (s.me.full r.1 = true → s.me.bad r.1 = false) ∧ (s.me.full r.1 = false → r.2 = false)) ∧ (∃ r ∈ rs,
    s.me.full r.1 = false) :=
  ⟨.qand 2 3 4 g0, g0, _, 2, empty [.q 3, .q 4] s1, rfl, by decide +kernel, by decide +kernel, by decide +kernel,
    by decide +kernel, by exact ⟨by decide +kernel, ⟨(.q 4, false), by decide +kernel, by decide +kernel⟩⟩⟩

theorem witness_stepRuns_0 : ∃ (s : State) (e : Act), dueEvent s = some e :=
  ⟨held (z.modPkg 0 fun q => { q with taper := 2000 }), execLeaseLapse h0 1, rfl⟩

theorem witness_stepRuns_1 : ∃ (s : State) (c : CoreId) (late : List Nat) (rest : List Turn) (u : State), ∃ tid
    i t, dueEvent s = none ∧ dueAnywhere s = none ∧ dueSlots s = none ∧ s.sched = .issue c late :: rest ∧ u =
    { s with sched := rest } ∧ c.wf = true ∧ choose u c late = .word tid ∧ fetchInstr (s.th tid) = some i ∧ exec i
    (select tid u) = .next t ∧ stayed tid u t = false :=
  ⟨issue0 (at1 0x048218A0), c0, [], [], { issue0 (at1 0x048218A0) with sched := [] }, u1, .div 4 (r 2) (r 3) g0,
    after (.div 4 (r 2) (r 3) g0) (select u1 { issue0 (at1 0x048218A0) with sched := [] }), by decide +kernel,
    by decide +kernel, by decide +kernel, rfl, rfl, by exact ⟨by decide +kernel, by decide +kernel,
    by decide +kernel, rfl, by decide +kernel⟩⟩

theorem witness_stepRuns_2 : ∃ (s : State) (c : CoreId) (late : List Nat) (rest : List Turn) (u : State), ∃ tid
    i t, dueEvent s = none ∧ dueAnywhere s = none ∧ dueSlots s = none ∧ s.sched = .issue c late :: rest ∧ u =
    { s with sched := rest } ∧ c.wf = true ∧ choose u c late = .word tid ∧ fetchInstr (s.th tid) = some i ∧ exec i
    (select tid u) = .next t ∧ stayed tid u t = true :=
  ⟨issue0 (empty [.g 2] (at1 0x048218A0)), c0, [], [],
    { issue0 (empty [.g 2] (at1 0x048218A0)) with sched := [] }, u1, .div 4 (r 2) (r 3) g0, after (.div 4 (r 2) (r
    3) g0) (select u1 { issue0 (empty [.g 2] (at1 0x048218A0)) with sched := [] }), by decide +kernel,
    by decide +kernel, by decide +kernel, rfl, rfl, by exact ⟨by decide +kernel, by decide +kernel,
    by decide +kernel, rfl, by decide +kernel⟩⟩

theorem witness_stepRuns_3 : ∃ (s : State) (c : CoreId) (late : List Nat) (rest : List Turn) (u : State), ∃ tid,
    dueEvent s = none ∧ dueAnywhere s = none ∧ dueSlots s = none ∧ s.sched = .issue c late :: rest ∧ u =
    { s with sched := rest } ∧ c.wf = true ∧ choose u c late = .word tid ∧ fetchInstr (s.th tid) = none ∧ stayed tid
    u (illegalWord (select tid u)) = false :=
  ⟨issue0 (at1 0x048218B0), c0, [], [], { issue0 (at1 0x048218B0) with sched := [] }, u1, by decide +kernel,
    by decide +kernel, by decide +kernel, rfl, rfl, by decide +kernel⟩

theorem witness_stepRuns_4 : ∃ (s : State) (c : CoreId) (late : List Nat) (rest : List Turn) (u : State), ∃ tid,
    dueEvent s = none ∧ dueAnywhere s = none ∧ dueSlots s = none ∧ s.sched = .issue c late :: rest ∧ u =
    { s with sched := rest } ∧ c.wf = true ∧ choose u c late = .upkeep tid :=
  ⟨issue0 (fetching ⟨0x300, .transfer 7, 0⟩), c0, [], [],
    { issue0 (fetching ⟨0x300, .transfer 7, 0⟩) with sched := [] }, u1, by decide +kernel, by decide +kernel,
    by decide +kernel, rfl, rfl, by decide +kernel⟩

theorem witness_stepRuns_5 : ∃ (s : State) (c : CoreId) (late : List Nat) (rest : List Turn) (u : State),
    dueEvent s = none ∧ dueAnywhere s = none ∧ dueSlots s = none ∧ s.sched = .issue c late :: rest ∧ u =
    { s with sched := rest } ∧ c.wf = true ∧ choose u c late = .nothing :=
  ⟨issue0 z, c0, [], [], { issue0 z with sched := [] }, rfl, rfl, rfl, rfl, rfl, by decide +kernel⟩

theorem witness_stepRuns_6 : ∃ (s : State) (e : Instr) (rest : List Turn), dueEvent s = none ∧ s.sched = .event
    e :: rest ∧ (inBoundaryCycle e = true ∨ (dueAnywhere s = none ∧ (dueSlots s = none ∨ (∃ c stk, e =
    .forkRecordStart c stk) ∨ (dueFork s = none ∧ ((∃ c i x, e = .teamPlace c i x) ∨ ∃ c n, e = .resumePlace c
    n))))) :=
  ⟨due (.patrolScrubError 0) z, .patrolScrubError 0, [], rfl, rfl, .inr ⟨rfl, .inl rfl⟩⟩

theorem witness_stepRuns_7 : ∃ (s : State) (d : Device) (rest : List Turn), dueEvent s = none ∧ s.sched =
    .device d :: rest ∧ dueAnywhere s = none ∧ dueSlots s = none :=
  ⟨{ z with sched := [.device (.flashSlot 0 false)] }, .flashSlot 0 false, [], rfl, rfl, rfl, rfl⟩

theorem witness_stepRuns_8 : ∃ (s : State) (a : Act), dueEvent s = none ∧ dueAnywhere s = some a ∧ (∀ e rest,
    s.sched = .event e :: rest → inBoundaryCycle e = false) :=
  ⟨lateWait, execWaitTimeout u1, rfl, rfl, fun _ _ h => nomatch h⟩

theorem witness_stepRuns_9 : ∃ (s : State) (a : Act), dueEvent s = none ∧ dueAnywhere s = none ∧ dueFork s =
    some a ∧ (∀ e rest, s.sched = .event e :: rest → inBoundaryCycle e = false ∧ ∀ c stk, e ≠ .forkRecordStart c
    stk) :=
  ⟨forky, execForkRecordStart c0 (forkPick forky c0), rfl, rfl, dueFork_forky, fun _ _ h => nomatch h⟩

theorem witness_stepRuns_10 : ∃ (s : State) (a : Act), dueEvent s = none ∧ dueAnywhere s = none ∧ dueFork s =
    none ∧ dueTeam s = some a ∧ (∀ e rest, s.sched = .event e :: rest → inBoundaryCycle e = false ∧ (∀ c stk, e ≠
    .forkRecordStart c stk) ∧ (∀ c i x, e ≠ .teamPlace c i x) ∧ ∀ c n, e ≠ .resumePlace c n) :=
  ⟨dropping, ownPlace dropping c0, rfl, rfl, rfl, dueTeam_dropping, fun _ _ h => nomatch h⟩

theorem witness_stepRuns_11 : ∃ (s : State), dueEvent s = none ∧ dueAnywhere s = none ∧ dueSlots s = none ∧
    s.sched = [] :=
  ⟨z, rfl, rfl, rfl, rfl⟩

theorem witness_stepRuns_12 : ∃ (t : Thread) (b : Block) (i : Instr), t.block = some b ∧ decode t.curWord
    (b.words.getD (t.wordIx + 1) 0) = .ok i ∧ (isWide t.curWord = true → t.wordIx + 1 < t.blockLen) ∧
    (Instr.isControl i = true → t.wordIx + 1 = t.blockLen) :=
  ⟨(at1 0x048218A0).me, ⟨hdrOf 0 1, [0x048218A0], false⟩, .div 4 (r 2) (r 3) g0, by decide +kernel⟩

theorem witness_roundRobin_0 : ∃ (s : State) (c : CoreId), ∃ j, j < 16 ∧ (∀ i, i < j → ready s ⟨c, ((s.core
    c).last.toNat + 1 + i) % 16⟩ = false) ∧ ready s ⟨c, ((s.core c).last.toNat + 1 + j) % 16⟩ = true ∧ (∀ k, k < 16
    → ready s ⟨c, k⟩ = true → upkeepDue s ⟨c, k⟩ = false) :=
  ⟨at1 0, c0, 1, by decide +kernel⟩

theorem witness_roundRobin_1 : ∃ (s : State) (c : CoreId), (∀ k, k < 16 → ready s ⟨c, k⟩ = false) :=
  ⟨z, c0, by decide +kernel⟩

theorem witness_headerChecks_0 : ∃ (s : State) (c : CoreId) (a : W64) (via : Via) (h : W64) (n : Nat), h =
    BitVec.ofNat 64 (s.peek (scratchAt c a.toNat) 8) ∧ n = (h.extractLsb' 0 7).toNat ∧ (s.core c).xb.toNat ≤ a.toNat
    :=
  ⟨s1, c0, 0x80000, .transfer 7, _, _, rfl, rfl, by decide +kernel⟩

theorem witness_headerChecks_1 : ∃ (s : State) (c : CoreId) (a : W64) (via : Via) (h : W64) (n : Nat), h =
    BitVec.ofNat 64 (s.peek (scratchAt c a.toNat) 8) ∧ n = (h.extractLsb' 0 7).toNat ∧ a.toNat < (s.core c).xb.toNat
    ∧ s.isPoisoned (scratchAt c a.toNat) = true :=
  ⟨{ s1 with poisoned := [(scratchAt c0 0x300).key] }, c0, 0x300, .transfer 7, _, _, rfl, rfl, by decide +kernel⟩

theorem witness_headerChecks_2 : ∃ (s : State) (c : CoreId) (a : W64) (via : Via) (h : W64) (n : Nat), h =
    BitVec.ofNat 64 (s.peek (scratchAt c a.toNat) 8) ∧ n = (h.extractLsb' 0 7).toNat ∧ a.toNat < (s.core c).xb.toNat
    ∧ s.isPoisoned (scratchAt c a.toNat) = false ∧ ¬ GoodHeader via h :=
  ⟨s1, c0, 0x308, .transfer 7, _, _, rfl, rfl, by decide +kernel, by decide +kernel, fun h => absurd h.1
    (by decide +kernel)⟩

theorem witness_headerChecks_3 : ∃ (s : State) (c : CoreId) (a : W64) (via : Via) (h : W64) (n : Nat), h =
    BitVec.ofNat 64 (s.peek (scratchAt c a.toNat) 8) ∧ n = (h.extractLsb' 0 7).toNat ∧ a.toNat < (s.core c).xb.toNat
    ∧ s.isPoisoned (scratchAt c a.toNat) = false ∧ GoodHeader via h ∧ (s.core c).xb.toNat < a.toNat + 8 + 4 * n :=
  ⟨put 0xFFF8 (hdrOf 0 1) s1, c0, 0xFFF8, .transfer 7, _, _, rfl, rfl, by decide +kernel, by decide +kernel,
    ⟨by decide +kernel, by decide +kernel, by decide +kernel, (show _ = _ by decide +kernel)⟩, by decide +kernel⟩

theorem witness_headerChecks_4 : ∃ (s : State) (c : CoreId) (a : W64) (via : Via) (h : W64) (n : Nat), h =
    BitVec.ofNat 64 (s.peek (scratchAt c a.toNat) 8) ∧ n = (h.extractLsb' 0 7).toNat ∧ a.toNat < (s.core c).xb.toNat
    ∧ s.isPoisoned (scratchAt c a.toNat) = false ∧ GoodHeader via h ∧ a.toNat + 8 + 4 * n ≤ (s.core c).xb.toNat ∧ (∀
    k, k < 8 + 4 * n → s.isPoisoned (scratchAt c (a.toNat + k)) = false) :=
  ⟨s1, c0, 0x300, .transfer 7, _, _, rfl, rfl, by decide +kernel, by decide +kernel, ⟨by decide +kernel,
    by decide +kernel, by decide +kernel, (show _ = _ by decide +kernel)⟩, by decide +kernel⟩

theorem witness_headerChecks_5 : ∃ (s : State) (c : CoreId) (a : W64) (via : Via) (h : W64) (n : Nat), ∃ k, h =
    BitVec.ofNat 64 (s.peek (scratchAt c a.toNat) 8) ∧ n = (h.extractLsb' 0 7).toNat ∧ a.toNat < (s.core c).xb.toNat
    ∧ s.isPoisoned (scratchAt c a.toNat) = false ∧ GoodHeader via h ∧ a.toNat + 8 + 4 * n ≤ (s.core c).xb.toNat ∧ k
    < 8 + 4 * n ∧ s.isPoisoned (scratchAt c (a.toNat + k)) = true ∧ (∀ j, j < k → s.isPoisoned (scratchAt c (a.toNat
    + j)) = false) :=
  ⟨{ put 0x338 (hdrOf 0 1) s1 with poisoned := [(scratchAt c0 0x340).key] }, c0, 0x338, .transfer 7, _, _, 8, rfl,
    rfl, by decide +kernel, by decide +kernel, ⟨by decide +kernel, by decide +kernel, by decide +kernel, (show _ = _
    by decide +kernel)⟩, by decide +kernel⟩

theorem witness_headerFetch_0 : ∃ (tid : Tid) (s : State), ∃ f, ∃ b k, (s.th tid).faultDue = false ∧ (s.th
    tid).fetch = some f ∧ f.via = .transfer k ∧ fetchAt s tid.core f.target f.via = .block b :=
  ⟨u1, fetching ⟨0x300, .transfer 7, 0⟩, ⟨0x300, .transfer 7, 0⟩, blkOf 0, 7, by decide +kernel⟩

theorem witness_headerFetch_1 : ∃ (tid : Tid) (s : State), ∃ f, ∃ b w cmp, (s.th tid).faultDue = false ∧ (s.th
    tid).fetch = some f ∧ (f.via = .resume w cmp ∨ f.via = .saved w cmp) ∧ fetchAt s tid.core f.target f.via =
    .block b :=
  ⟨u1, fetching ⟨0x300, .resume 0 true, 0⟩, ⟨0x300, .resume 0 true, 0⟩, blkOf 0, 0, true, by decide +kernel,
    by decide +kernel, .inl rfl, by decide +kernel⟩

theorem witness_headerFetch_2 : ∃ (tid : Tid) (s : State), ∃ f, ∃ b k, (s.th tid).faultDue = false ∧ (s.th
    tid).fetch = some f ∧ f.via = .transfer k ∧ ((s.core tid.core).xb.toNat ≤ f.target.toNat ∨ fetchAt s tid.core
    f.target f.via = .overlay) ∧ (s.th tid).inHandler = false ∧ fetchAt s tid.core ((s.core tid.core).ovh.setWidth
    64) .overlayEntry = .block b :=
  ⟨u1, fetching ⟨0x80000, .transfer 7, 0⟩, ⟨0x80000, .transfer 7, 0⟩, blkOf 2, 7, by decide +kernel,
    by decide +kernel, by decide +kernel, .inl (by decide +kernel), by decide +kernel⟩

theorem witness_headerFetch_3 : ∃ (tid : Tid) (s : State), ∃ f, ∃ b h k, (s.th tid).faultDue = false ∧ (s.th
    tid).fetch = some f ∧ f.via = .transfer k ∧ fetchAt s tid.core f.target f.via = .bad h ∧ (s.th tid).inHandler =
    false ∧ fetchAt s tid.core ((s.th tid).tvb.setWidth 64) .trapEntry = .block b :=
  ⟨u1, fetching ⟨0x308, .transfer 7, 0⟩, ⟨0x308, .transfer 7, 0⟩, blkOf 1, 0, 7, by decide +kernel⟩

theorem witness_headerFetch_4 : ∃ (tid : Tid) (s : State), ∃ b, (s.th tid).faultDue = false ∧ (s.th tid).fetch =
    none ∧ (s.th tid).mismatch = false ∧ (s.th tid).pjoin = none ∧ fetchAt s tid.core (BitVec.ofNat 64 (s.th
    tid).nh) (.transfer 0) = .block b :=
  ⟨u1, put 0x310 (hdrOf 0 1) s1, blkOf 0, by decide +kernel⟩

theorem witness_checkedBlock_0 : ∃ (tid : Tid) (s : State), (s.th tid).faultDue = false ∧ (s.th tid).fetch =
    none ∧ (s.th tid).mismatch = true ∧ (s.th tid).inHandler = false ∧ (s.th tid).rword = 0 ∧ (s.th tid).ckr = false
    ∧ (s.th tid).restarts ≠ 2 :=
  ⟨u1, checked false, by decide +kernel⟩

theorem witness_checkedBlock_1 : ∃ (tid : Tid) (s : State), ∃ b h, (s.th tid).faultDue = false ∧ (s.th
    tid).fetch = none ∧ (s.th tid).mismatch = true ∧ (s.th tid).inHandler = false ∧ (s.th tid).rword = 0 ∧ (s.th
    tid).ckr = true ∧ (s.th tid).block = some h ∧ fetchAt s tid.core ((s.th tid).tvb.setWidth 64) .trapEntry =
    .block b :=
  ⟨u1, checked true, blkOf 1, ⟨hdrOf 0 1 + 0x0800000000000000, [0], true⟩, by decide +kernel⟩

theorem witness_illegalWords_0 : ∃ (s : State) (b blk : Block), s.me.block = some blk ∧ CanTrap s b :=
  ⟨s1, blkOf 1, blkOf 0, by decide +kernel⟩

theorem witness_requestPort_0 : ∃ (k : Nat) (a : Acc) (pid n : Nat) (ws : List W32) (p : Phys) (s : State),
    s.acc? k = some a ∧ a.agent = .thread pid n ∧ a.op = .port ws ∧ a.place = some p ∧ mayAccept s a p = true ∧
    NeedsAnswer s a.tid pid ∧ (s.core a.tid.core).inbox.length < 32 :=
  ⟨7, portAcc, 7, 0, [1], port0, { awaits [pend 7 none none (.g 0)] s1 with accs := [portAcc] },
    by decide +kernel, by decide +kernel, by decide +kernel, by decide +kernel, by decide +kernel, by exact ⟨⟨pend 7
    none none (.g 0), by decide +kernel⟩, by decide +kernel⟩⟩

theorem witness_requestPort_1 : ∃ (k : Nat) (a : Acc) (pid n : Nat) (ws : List W32) (p : Phys) (s : State),
    s.acc? k = some a ∧ a.agent = .thread pid n ∧ a.op = .port ws ∧ a.place = some p ∧ mayAccept s a p = true ∧
    NeedsAnswer s a.tid pid ∧ 32 ≤ (s.core a.tid.core).inbox.length :=
  ⟨7, portAcc, 7, 0, [1], port0, { awaits [pend 7 none none (.g 0)] (s1.modCore c0 fun c =>
    { c with inbox := List.replicate 32 [] }) with accs := [portAcc] }, by decide +kernel, by decide +kernel,
    by decide +kernel, by decide +kernel, by decide +kernel, by exact ⟨⟨pend 7 none none (.g 0), by decide +kernel⟩,
    by decide +kernel⟩⟩

theorem witness_encodeDecode_0 : ∃ (i : Instr) (w : W32) (w1 : Option W32) (x : W32), i.wf = true ∧ encode i =
    some (w, w1) :=
  ⟨.div 4 (r 2) (r 3) g0, 0x048218A0, none, 0, by decide +kernel⟩

theorem witness_decodeEncode_0 : ∃ (i : Instr) (w w1 : W32), decode w w1 = .ok i :=
  ⟨.div 4 (r 2) (r 3) g0, 0x048218A0, 0, by decide +kernel⟩

theorem witness_stepKeepsCanonical_0 : ∃ s t : State, s.canonical ∧ step s = .next t :=
  ⟨z, _, by decide +kernel, rfl⟩


/-! ### The spec's own example words -/

/-- R68's worked encodings: (Q3) ADD G3, G1!, G2 and its three neighbours that raise ILLEGAL. -/
theorem test_decode_add :
    decode 0x04711003 0 = .ok (.add 3 ⟨true, 1⟩ ⟨false, 2⟩ ⟨false, 3⟩) ∧ decode 0x06711003 0 = .error .field ∧
    decode 0x04711010 0 = .error .illFormed ∧ decode 0x04711343 0 = .error .selector := by decide +kernel

/-- R68: LI G5, #0x12345678; VADD.F32 V1, V2, LV, M1; VCMPLT.I32 M2, V0, V1, and the same word naming M0. -/
theorem test_decode_worked :
    decode 0x38A00000 0x12345678 = .ok (.li 5 g0 0x12345678) ∧ decode 0xC022C009 0 = .ok (.vadd 1 2 24 1 false .f32) ∧
    decode 0xC0400A40 0 = .ok (.vcmplt 2 0 1 0 false .i32) ∧ decode 0xC0000A40 0 = .error .illFormed := by decide +kernel

/-- R92, R98, R101, R141, R143, R145, R146: LD.WX G2, [G3+8]; TRAP #7; RFT; WAITF [G3], G4, Q1; LDCW G2, [G3], G4, Q5;
BAR J1, G7, Q2; LLOCK G5, [G6], G7, Q3. -/
theorem test_decode_system :
    decode 0x8043A040 0 = .ok (.ld 2 (r 3) .w true 2 g0) ∧ decode 0x580000E0 0 = .ok (.trap 7 g0) ∧
    decode 0x5C000000 0 = .ok (.rft g0) ∧ decode 0x70032080 0 = .ok (.waitf (r 3) (r 4) 1 g0) ∧
    decode 0x884322C0 0 = .ok (.ldcw 2 (r 3) (r 4) 5 g0) ∧ decode 0x74013900 0 = .ok (.bar 1 (r 7) 2 g0) ∧
    decode 0x74A639C0 0 = .ok (.llock 5 (r 6) (r 7) 3 g0) := by decide +kernel

/-- R124, R125, R126, R128: LRANGE G5, G6, G7, Q2; RNW G0, G9, G0; LIFE G4, G9; BIND G3, G8, G9. R181, R188: VPACK.K4 V7, V8;
MAND M1, M2, M3; MPOPC G4, M2. -/
theorem test_decode_leases :
    decode 0x78A63900 0 = .ok (.lrange 5 (r 6) (r 7) 2 g0) ∧ decode 0x7C090000 0 = .ok (.rnw 0 (r 9) (r 0) g0) ∧
    decode 0x7C890020 0 = .ok (.life 4 (r 9) g0) ∧ decode 0x7C684880 0 = .ok (.bind 3 (r 8) (r 9) g0) ∧
    decode 0xD4E82801 0 = .ok (.vpack 7 8 5 false) ∧ decode 0xDC221800 0 = .ok (.mand 1 2 3 false) ∧
    decode 0xDC8200A0 0 = .ok (.mpopc 4 2 false) := by decide +kernel

/-! ### Ill-formed instructions -/

/-- Table 2-5: the guard 0b10000, and Q0 and M0 as destinations. -/
theorem test_wf_destinations :
    Instr.wf (.add 1 (r 2) (r 3) ⟨true, 0⟩) = false ∧ Instr.wf (.cmpeq 0 (r 2) (r 3) g0) = false ∧
    Instr.wf (.mset 0 (r 2)) = false := by decide +kernel

/-- Table 2-5, R51: vector fields 26 and up, LL as an ALU destination, LV as a load's. -/
theorem test_wf_vector_fields :
    Instr.wf (.vadd 1 26 3 0 false .i32) = false ∧ Instr.wf (.vadd 25 2 3 0 false .i32) = false ∧
    Instr.wf (.vld 24 (r 2) 0 0 false) = false ∧ Instr.wf (.vst 26 (r 2) 0 0 false) = false := by decide +kernel

/-- R79, R92: a field past bit 63, and a doubleword that is sign-extended. -/
theorem test_wf_scalar_limits :
    Instr.wf (.ext 1 (r 2) 63 1 g0) = false ∧ Instr.wf (.ld 1 (r 2) .d true 0 g0) = false := by decide +kernel

/-- R176, R184, R181, R180, R179, R182, R183: types and control values that the vector instructions do not take. -/
theorem test_wf_vector_controls :
    Instr.wf (.vcmpeq 1 2 3 0 false .bf16) = false ∧ Instr.wf (.vred 1 2 3 0 false .f32) = false ∧
    Instr.wf (.vscan 1 2 6 0 false .i32) = false ∧ Instr.wf (.vpack 1 2 6 false) = false ∧
    Instr.wf (.vpack 1 2 13 false) = false ∧ Instr.wf (.vpack 1 2 24 false) = false ∧
    Instr.wf (.vcvt 1 2 0 0 false .i32) = false ∧ Instr.wf (.vrcp 1 2 0 false .i32) = false ∧
    Instr.wf (.vunpk 1 2 6 false) = false ∧ Instr.wf (.vscale 1 2 3 0 false .i32) = false := by decide +kernel

/-- R70: a number of no system register, and a write of a register that is RO. -/
theorem test_wf_system_registers :
    Instr.wf (.srd 1 0x7FF g0) = false ∧ Instr.wf (.swr (r 1) 0x7FF g0) = false ∧
    Instr.wf (.swr (r 1) 0x000 g0) = false := by decide +kernel

/-- The second word of the 64-bit instructions (R290 to R296, R255, R260, R262, R263, R265, R270, R330, R331, R368). -/
theorem test_wf_second_words :
    Instr.wf (.mma 1 (r 2) (r 3) 0x1C00 g0) = false ∧ Instr.wf (.mwld 1 0x20 g0) = false ∧
    Instr.wf (.mzero 1 0x20 g0) = false ∧ Instr.wf (.mdrain 1 (r 2) (r 3) 0x1400 g0) = false ∧
    Instr.wf (.magr 1 (r 2) (r 3) 1 g0) = false ∧ Instr.wf (.mstat 1 0x10 g0) = false ∧ Instr.wf (.mtest 1 1 g0) = false ∧
    Instr.wf (.cpy 1 (r 2) (r 3) 1 g0) = false ∧ Instr.wf (.chain 1 (r 2) (r 3) 1 g0) = false ∧
    Instr.wf (.cstat 1 0x10 g0) = false ∧ Instr.wf (.post 1 (r 2) (r 3) 1 g0) = false ∧
    Instr.wf (.rring 1 (r 2) (r 3) 1 g0) = false ∧ Instr.wf (.rprobe 1 (r 2) (r 3) 0x100 g0) = false ∧
    Instr.wf (.lstat 1 (r 2) 0x10 g0) = false ∧ Instr.wf (.preempt 1 (r 2) 1 g0) = false ∧
    Instr.wf (.signal 1 (r 2) 3 g0) = false := by decide +kernel

/-- Table 2-9: a die, a cluster, a core and a slot that no package has. -/
theorem test_wf_places :
    Instr.wf (.smokeEnd ⟨0, 4⟩ 0) = false ∧ Instr.wf (.cpyStart ⟨0, 0, 44⟩) = false ∧
    Instr.wf (.engineGuardResolve ⟨0, 0, 0, 8⟩ .copy 0) = false ∧ Instr.wf (.regionRestart ⟨c0, 16⟩) = false := by decide +kernel

/-! ### Single steps -/

/-- The vector value that the youngest pending instruction brings. -/
def coming (s : State) : Lanes := match s.me.pending.getLast? with | some ⟨_, _, _, _, _, _, _, .v x _, _, _, _, _, _, _⟩ => x | _ => Lanes.zero
/-- The value that the youngest pending instruction brings a G register. -/
def comingG (s : State) : W64 := match s.me.pending.getLast? with | some ⟨_, _, _, _, _, _, _, .g x, _, _, _, _, _, _⟩ => x | _ => 0
/-- Vector registers with values. -/
def vs (l : List (BitVec 5 × Lanes)) (s : State) : State := me (fun t => l.foldl (fun t e => t.wV e.1 e.2) t) s
/-- Lanes that are 0 but for some. -/
def lanes (l : List (Nat × W32)) : Lanes := l.foldl (fun x e => x.set! e.1 e.2) Lanes.zero

/-- R79's example: EXTU and EXT of bits [19:8] of 0xABCDEF. -/
theorem test_ext_example :
    (after (.extu 2 (r 3) 8 11 g0) (gs [(3, 0xABCDEF)] s1)).me.rG 2 = 0xBCD ∧
    (after (.ext 2 (r 3) 8 11 g0) (gs [(3, 0xABCDEF)] s1)).me.rG 2 = 0xFFFFFFFFFFFFFBCD := by decide +kernel

/-- R81's example: LI and LIU of 0x80000000. -/
theorem test_li_example :
    (after (.li 5 g0 0x80000000) s1).me.rG 5 = 0xFFFFFFFF80000000 ∧
    (after (.liu 5 g0 0x80000000) s1).me.rG 5 = 0x80000000 := by decide +kernel

/-- R77: the most negative number by −1, and any number by 0. -/
theorem test_div_edges :
    comingG (after (.div 4 (r 2) (r 3) g0) (gs [(2, 0x8000000000000000), (3, -1)] s1)) = 0x8000000000000000 ∧
    comingG (after (.rem 4 (r 2) (r 3) g0) (gs [(2, 7), (3, 0)] s1)) = 7 := by decide +kernel

/-- R181's example: the K4 block of R163 (x0 = 0.3, x3 = 10.0, x7 = 2.5). -/
theorem test_vpack_k4_example :
    coming (after (.vpack 7 8 5 false) (vs [(8, lanes [(0, 0x3E99999A), (3, 0x41200000), (7, 0x40200000)])] s1)) =
      lanes [(0, 0x60008001), (63, 0x005A007E)] := by decide +kernel

/-- R181's example: VPACK.E2M1 of the same register. -/
theorem test_vpack_e2m1_example :
    coming (after (.vpack 7 8 4 false) (vs [(8, lanes [(0, 0x3E99999A), (3, 0x41200000), (7, 0x40200000)])] s1)) =
      lanes [(0, 0x20006000), (63, 0x00000080)] := by decide +kernel

/-- R80's example: ANDI G1, G1, #-16 clears bits [3:0] alone. -/
theorem test_andi_example :
    (after (.andi 1 (r 1) 0x7F0 g0) (gs [(1, 0x123456789ABCDEFF)] s1)).me.rG 1 = 0x123456789ABCDEF0 := by decide +kernel

/-- R98: TRAP #7 saves NH and 7, and enters the handler. -/
theorem test_trap_example :
    (after (.trap 7 g0) s1).me.tinfo[0] = 7 ∧ (after (.trap 7 g0) s1).me.tpc = 0x310 ∧
    (after (.trap 7 g0) s1).me.bh = 0x100 := by decide +kernel

/-- Table 4-1's example: a RANGE lease of die 1 of node 2, index 0x123, generation 7. -/
theorem test_handle_example : handleOf ⟨2, 1⟩ .range 0x123 7 = 0x0002040001230007 := by decide +kernel

/-- R157's example: INT16 −2 in memory is the bytes FE, FF, once its home has accepted the store. -/
theorem test_store_halfword :
    let t := after (.memoryAccessAccept 2) (after (.st (r 2) (r 3) .h 0 g0) (gs [(2, -2), (3, wnd 0x20000)] (sysm s1)))
    t.bytes (scratchAt c0 0x20000) 3 = [0xFE, 0xFF, 0] := by decide +kernel

/-- R96: SRD of ETO reads its value at reset, 1,000,000 ticks (Table 2-8). -/
theorem test_srd_eto : (after (.srd 5 0x01A g0) s1).me.rG 5 = 0xF4240 := by decide +kernel

/-- A word stored where the next step fetches it is decoded and run: ADDI G1, G0, #5 (0x1820_00A0). -/
theorem test_step_runs_a_word :
    (match step (z.withFetchWord 32 0x182000A0) with | .next t => t.me.rG 1 | _ => 0) = 5 := by decide +kernel

/-! ### Every word instruction, from the opcode table's encoding -/

theorem test_decode_major_01 :
    decode 0x05323017 0 = .ok (.add 9 ⟨true, 2⟩ ⟨false, 6⟩ ⟨true, 7⟩) ∧
    decode 0x05323025 0 = .ok (.sub 9 ⟨true, 2⟩ ⟨false, 6⟩ ⟨false, 5⟩) ∧
    decode 0x05323045 0 = .ok (.mul 9 ⟨true, 2⟩ ⟨false, 6⟩ ⟨false, 5⟩) ∧
    decode 0x05323077 0 = .ok (.mulh 9 ⟨true, 2⟩ ⟨false, 6⟩ ⟨true, 7⟩) ∧
    decode 0x05323085 0 = .ok (.mulhu 9 ⟨true, 2⟩ ⟨false, 6⟩ ⟨false, 5⟩) ∧
    decode 0x053230A5 0 = .ok (.div 9 ⟨true, 2⟩ ⟨false, 6⟩ ⟨false, 5⟩) ∧
    decode 0x053230D7 0 = .ok (.divu 9 ⟨true, 2⟩ ⟨false, 6⟩ ⟨true, 7⟩) ∧
    decode 0x053230E5 0 = .ok (.rem 9 ⟨true, 2⟩ ⟨false, 6⟩ ⟨false, 5⟩) ∧
    decode 0x05323105 0 = .ok (.remu 9 ⟨true, 2⟩ ⟨false, 6⟩ ⟨false, 5⟩) ∧
    decode 0x05323137 0 = .ok (.and 9 ⟨true, 2⟩ ⟨false, 6⟩ ⟨true, 7⟩) ∧
    decode 0x05323145 0 = .ok (.or 9 ⟨true, 2⟩ ⟨false, 6⟩ ⟨false, 5⟩) ∧
    decode 0x05323165 0 = .ok (.xor 9 ⟨true, 2⟩ ⟨false, 6⟩ ⟨false, 5⟩) ∧
    decode 0x05323197 0 = .ok (.andn 9 ⟨true, 2⟩ ⟨false, 6⟩ ⟨true, 7⟩) ∧
    decode 0x053231A5 0 = .ok (.orn 9 ⟨true, 2⟩ ⟨false, 6⟩ ⟨false, 5⟩) ∧
    decode 0x053231C5 0 = .ok (.shl 9 ⟨true, 2⟩ ⟨false, 6⟩ ⟨false, 5⟩) ∧
    decode 0x053231F7 0 = .ok (.shr 9 ⟨true, 2⟩ ⟨false, 6⟩ ⟨true, 7⟩) ∧
    decode 0x05323205 0 = .ok (.sra 9 ⟨true, 2⟩ ⟨false, 6⟩ ⟨false, 5⟩) ∧
    decode 0x05323225 0 = .ok (.rol 9 ⟨true, 2⟩ ⟨false, 6⟩ ⟨false, 5⟩) ∧
    decode 0x05323257 0 = .ok (.ror 9 ⟨true, 2⟩ ⟨false, 6⟩ ⟨true, 7⟩) ∧
    decode 0x05323265 0 = .ok (.min 9 ⟨true, 2⟩ ⟨false, 6⟩ ⟨false, 5⟩) ∧
    decode 0x05323285 0 = .ok (.max 9 ⟨true, 2⟩ ⟨false, 6⟩ ⟨false, 5⟩) ∧
    decode 0x053232B7 0 = .ok (.minu 9 ⟨true, 2⟩ ⟨false, 6⟩ ⟨true, 7⟩) ∧
    decode 0x053232C5 0 = .ok (.maxu 9 ⟨true, 2⟩ ⟨false, 6⟩ ⟨false, 5⟩) ∧
    decode 0x053232E5 0 = .ok (.lea1 9 ⟨true, 2⟩ ⟨false, 6⟩ ⟨false, 5⟩) ∧
    decode 0x05323317 0 = .ok (.lea2 9 ⟨true, 2⟩ ⟨false, 6⟩ ⟨true, 7⟩) ∧
    decode 0x05323325 0 = .ok (.lea3 9 ⟨true, 2⟩ ⟨false, 6⟩ ⟨false, 5⟩) := by
  decide +kernel

theorem test_decode_major_02 :
    decode 0x09320005 0 = .ok (.clz 9 ⟨true, 2⟩ ⟨false, 5⟩) ∧
    decode 0x09320037 0 = .ok (.ctz 9 ⟨true, 2⟩ ⟨true, 7⟩) ∧
    decode 0x09320045 0 = .ok (.popc 9 ⟨true, 2⟩ ⟨false, 5⟩) ∧
    decode 0x09320065 0 = .ok (.brev 9 ⟨true, 2⟩ ⟨false, 5⟩) ∧
    decode 0x09320097 0 = .ok (.bswap 9 ⟨true, 2⟩ ⟨true, 7⟩) ∧
    decode 0x093200A5 0 = .ok (.sextb 9 ⟨true, 2⟩ ⟨false, 5⟩) ∧
    decode 0x093200C5 0 = .ok (.sexth 9 ⟨true, 2⟩ ⟨false, 5⟩) ∧
    decode 0x093200F7 0 = .ok (.sextw 9 ⟨true, 2⟩ ⟨true, 7⟩) ∧
    decode 0x09320105 0 = .ok (.zextb 9 ⟨true, 2⟩ ⟨false, 5⟩) ∧
    decode 0x09320125 0 = .ok (.zexth 9 ⟨true, 2⟩ ⟨false, 5⟩) ∧
    decode 0x09320157 0 = .ok (.zextw 9 ⟨true, 2⟩ ⟨true, 7⟩) ∧
    decode 0x09320165 0 = .ok (.abs 9 ⟨true, 2⟩ ⟨false, 5⟩) ∧
    decode 0x09320185 0 = .ok (.neg 9 ⟨true, 2⟩ ⟨false, 5⟩) ∧
    decode 0x093201B7 0 = .ok (.not 9 ⟨true, 2⟩ ⟨true, 7⟩) := by
  decide +kernel

theorem test_decode_major_03 :
    decode 0x0D325125 0 = .ok (.ext 9 ⟨true, 2⟩ 0x14 9 ⟨false, 5⟩) := by
  decide +kernel

theorem test_decode_major_04 :
    decode 0x11321145 0 = .ok (.extu 9 ⟨true, 2⟩ 4 0xa ⟨false, 5⟩) := by
  decide +kernel

theorem test_decode_major_05 :
    decode 0x153287D7 0 = .ok (.ins 9 ⟨true, 2⟩ 0x21 0x1e ⟨true, 7⟩) := by
  decide +kernel

theorem test_decode_major_06 :
    decode 0x1932B465 0 = .ok (.addi 9 ⟨true, 2⟩ 0x5a3 ⟨false, 5⟩) := by
  decide +kernel

theorem test_decode_major_07 :
    decode 0x1D32B465 0 = .ok (.andi 9 ⟨true, 2⟩ 0x5a3 ⟨false, 5⟩) := by
  decide +kernel

theorem test_decode_major_08 :
    decode 0x2132B477 0 = .ok (.ori 9 ⟨true, 2⟩ 0x5a3 ⟨true, 7⟩) := by
  decide +kernel

theorem test_decode_major_09 :
    decode 0x2532B465 0 = .ok (.xori 9 ⟨true, 2⟩ 0x5a3 ⟨false, 5⟩) := by
  decide +kernel

theorem test_decode_major_0A :
    decode 0x29320065 0 = .ok (.shli 9 ⟨true, 2⟩ 3 ⟨false, 5⟩) := by
  decide +kernel

theorem test_decode_major_0B :
    decode 0x2D320077 0 = .ok (.shri 9 ⟨true, 2⟩ 3 ⟨true, 7⟩) := by
  decide +kernel

theorem test_decode_major_0C :
    decode 0x31320065 0 = .ok (.srai 9 ⟨true, 2⟩ 3 ⟨false, 5⟩) := by
  decide +kernel

theorem test_decode_major_0D :
    decode 0x3532B465 0 = .ok (.muli 9 ⟨true, 2⟩ 0x5a3 ⟨false, 5⟩) := by
  decide +kernel

theorem test_decode_major_0E :
    decode 0x39200013 0xFFFF8001 = .ok (.li 9 ⟨true, 3⟩ 0xffff8001) ∧
    decode 0x39210005 0x80000001 = .ok (.liu 9 ⟨false, 5⟩ 0x80000001) ∧
    decode 0x39220013 0xDEADBEEF = .ok (.lih 9 ⟨true, 3⟩ 0xdeadbeef) ∧
    decode 0x39230005 0x7FFFFFFC = .ok (.addl 9 ⟨false, 5⟩ 0x7ffffffc) := by
  decide +kernel

theorem test_decode_major_0F :
    decode 0x3D323005 0 = .ok (.cmpeq 9 ⟨true, 2⟩ ⟨false, 6⟩ ⟨false, 5⟩) ∧
    decode 0x3D323025 0 = .ok (.cmpne 9 ⟨true, 2⟩ ⟨false, 6⟩ ⟨false, 5⟩) ∧
    decode 0x3D323057 0 = .ok (.cmplt 9 ⟨true, 2⟩ ⟨false, 6⟩ ⟨true, 7⟩) ∧
    decode 0x3D323065 0 = .ok (.cmple 9 ⟨true, 2⟩ ⟨false, 6⟩ ⟨false, 5⟩) ∧
    decode 0x3D323085 0 = .ok (.cmpltu 9 ⟨true, 2⟩ ⟨false, 6⟩ ⟨false, 5⟩) ∧
    decode 0x3D3230B7 0 = .ok (.cmpleu 9 ⟨true, 2⟩ ⟨false, 6⟩ ⟨true, 7⟩) ∧
    decode 0x3D3230C5 0 = .ok (.tstz 9 ⟨true, 2⟩ ⟨false, 6⟩ ⟨false, 5⟩) ∧
    decode 0x3D3230E5 0 = .ok (.tstnz 9 ⟨true, 2⟩ ⟨false, 6⟩ ⟨false, 5⟩) := by
  decide +kernel

theorem test_decode_major_10 :
    decode 0x4132A317 0 = .ok (.cmpeqi 9 ⟨true, 2⟩ 0xa3 ⟨true, 7⟩) ∧
    decode 0x4132A325 0 = .ok (.cmpnei 9 ⟨true, 2⟩ 0xa3 ⟨false, 5⟩) ∧
    decode 0x4132A345 0 = .ok (.cmplti 9 ⟨true, 2⟩ 0xa3 ⟨false, 5⟩) ∧
    decode 0x4132A377 0 = .ok (.cmplei 9 ⟨true, 2⟩ 0xa3 ⟨true, 7⟩) ∧
    decode 0x4132A385 0 = .ok (.cmpltui 9 ⟨true, 2⟩ 0xa3 ⟨false, 5⟩) ∧
    decode 0x4132A3A5 0 = .ok (.cmpleui 9 ⟨true, 2⟩ 0xa3 ⟨false, 5⟩) ∧
    decode 0x4132A3D7 0 = .ok (.cmpgti 9 ⟨true, 2⟩ 0xa3 ⟨true, 7⟩) ∧
    decode 0x4132A3E5 0 = .ok (.cmpgtui 9 ⟨true, 2⟩ 0xa3 ⟨false, 5⟩) := by
  decide +kernel

theorem test_decode_major_11 :
    decode 0x45253005 0 = .ok (.qand 9 5 6 ⟨false, 5⟩) ∧
    decode 0x45253037 0 = .ok (.qor 9 5 6 ⟨true, 7⟩) ∧
    decode 0x45253045 0 = .ok (.qxor 9 5 6 ⟨false, 5⟩) ∧
    decode 0x45253065 0 = .ok (.qandn 9 5 6 ⟨false, 5⟩) ∧
    decode 0x45320097 0 = .ok (.qmovg 9 ⟨true, 2⟩ ⟨true, 7⟩) ∧
    decode 0x452000A5 0 = .ok (.getq 9 ⟨false, 5⟩) ∧
    decode 0x441200C5 0 = .ok (.setq ⟨true, 2⟩ ⟨false, 5⟩) := by
  decide +kernel

theorem test_decode_major_12 :
    decode 0x49323177 0 = .ok (.sel 9 ⟨true, 2⟩ ⟨false, 6⟩ 0xb ⟨true, 7⟩) := by
  decide +kernel

theorem test_decode_major_13 :
    decode 0x4C002565 0 = .ok (.br 0x12b ⟨false, 5⟩) := by
  decide +kernel

theorem test_decode_major_14 :
    decode 0x50002565 0 = .ok (.call 0x12b ⟨false, 5⟩) := by
  decide +kernel

theorem test_decode_major_15 :
    decode 0x54120017 0 = .ok (.jmp ⟨true, 2⟩ ⟨true, 7⟩) ∧
    decode 0x55320025 0 = .ok (.jcall 9 ⟨true, 2⟩ ⟨false, 5⟩) ∧
    decode 0x54120045 0 = .ok (.ret ⟨true, 2⟩ ⟨false, 5⟩) ∧
    decode 0x54000077 0 = .ok (.exit ⟨true, 7⟩) := by
  decide +kernel

theorem test_decode_major_16 :
    decode 0x5800B465 0 = .ok (.trap 0x5a3 ⟨false, 5⟩) := by
  decide +kernel

theorem test_decode_major_17 :
    decode 0x5C000005 0 = .ok (.rft ⟨false, 5⟩) ∧
    decode 0x5C123037 0 = .ok (.sys ⟨true, 2⟩ ⟨false, 6⟩ ⟨true, 7⟩) ∧
    decode 0x5C000045 0 = .ok (.brk ⟨false, 5⟩) ∧
    decode 0x5C123065 0 = .ok (.tlbi ⟨true, 2⟩ ⟨false, 6⟩ ⟨false, 5⟩) := by
  decide +kernel

theorem test_decode_major_18 :
    decode 0x61200277 0 = .ok (.srd 9 0x13 ⟨true, 7⟩) := by
  decide +kernel

theorem test_decode_major_19 :
    decode 0x64120325 0 = .ok (.swr ⟨true, 2⟩ 0x19 ⟨false, 5⟩) := by
  decide +kernel

theorem test_decode_major_1A :
    decode 0x6A402565 0 = .ok (.fork ⟨true, 2⟩ 0x12b ⟨false, 5⟩) := by
  decide +kernel

theorem test_decode_major_1B :
    decode 0x6C120017 0 = .ok (.jinit ⟨true, 2⟩ ⟨true, 7⟩) ∧
    decode 0x6C120025 0 = .ok (.join ⟨true, 2⟩ ⟨false, 5⟩) := by
  decide +kernel

theorem test_decode_major_1C :
    decode 0x70123585 0 = .ok (.waitf ⟨true, 2⟩ ⟨false, 6⟩ 0xb ⟨false, 5⟩) ∧
    decode 0x733235B7 0 = .ok (.waitm ⟨true, 9⟩ ⟨true, 2⟩ ⟨false, 6⟩ 0xb ⟨true, 7⟩) ∧
    decode 0x701235C5 0 = .ok (.waitt ⟨true, 2⟩ ⟨false, 6⟩ 0xb ⟨false, 5⟩) ∧
    decode 0x701235E5 0 = .ok (.waitid ⟨true, 2⟩ ⟨false, 6⟩ 0xb ⟨false, 5⟩) := by
  decide +kernel

theorem test_decode_major_1D :
    decode 0x74023597 0 = .ok (.bar 2 ⟨false, 6⟩ 0xb ⟨true, 7⟩) ∧
    decode 0x753235A5 0 = .ok (.recvw 9 ⟨true, 2⟩ ⟨false, 6⟩ 0xb ⟨false, 5⟩) ∧
    decode 0x753235C5 0 = .ok (.llock 9 ⟨true, 2⟩ ⟨false, 6⟩ 0xb ⟨false, 5⟩) := by
  decide +kernel

theorem test_decode_major_1E :
    decode 0x79323597 0 = .ok (.lrange 9 ⟨true, 2⟩ ⟨false, 6⟩ 0xb ⟨true, 7⟩) ∧
    decode 0x793235A5 0 = .ok (.lgroup 9 ⟨true, 2⟩ ⟨false, 6⟩ 0xb ⟨false, 5⟩) ∧
    decode 0x793235C5 0 = .ok (.lpath 9 ⟨true, 2⟩ ⟨false, 6⟩ 0xb ⟨false, 5⟩) ∧
    decode 0x793235F7 0 = .ok (.lctx 9 ⟨true, 2⟩ ⟨false, 6⟩ 0xb ⟨true, 7⟩) := by
  decide +kernel

theorem test_decode_major_1F :
    decode 0x7D323005 0 = .ok (.rnw 9 ⟨true, 2⟩ ⟨false, 6⟩ ⟨false, 5⟩) ∧
    decode 0x7D320025 0 = .ok (.life 9 ⟨true, 2⟩ ⟨false, 5⟩) ∧
    decode 0x7D323057 0 = .ok (.linfo 9 ⟨true, 2⟩ ⟨false, 6⟩ ⟨true, 7⟩) ∧
    decode 0x7C520065 0 = .ok (.gjoin 2 ⟨true, 2⟩ ⟨false, 5⟩) ∧
    decode 0x7D323085 0 = .ok (.bind 9 ⟨true, 2⟩ ⟨false, 6⟩ ⟨false, 5⟩) := by
  decide +kernel

theorem test_decode_major_20 :
    decode 0x8132B0B7 0 = .ok (.ld 9 ⟨true, 2⟩ .w true 0x85 ⟨true, 7⟩) := by
  decide +kernel

theorem test_decode_major_21 :
    decode 0x8732CFC5 0 = .ok (.st ⟨true, 9⟩ ⟨true, 2⟩ .d 0x7e ⟨false, 5⟩) := by
  decide +kernel

theorem test_decode_major_22 :
    decode 0x89323585 0 = .ok (.ldsw 9 ⟨true, 2⟩ ⟨false, 6⟩ 0xb ⟨false, 5⟩) ∧
    decode 0x893235B7 0 = .ok (.ldsd 9 ⟨true, 2⟩ ⟨false, 6⟩ 0xb ⟨true, 7⟩) ∧
    decode 0x893235C5 0 = .ok (.ldcw 9 ⟨true, 2⟩ ⟨false, 6⟩ 0xb ⟨false, 5⟩) ∧
    decode 0x893235E5 0 = .ok (.ldcd 9 ⟨true, 2⟩ ⟨false, 6⟩ 0xb ⟨false, 5⟩) := by
  decide +kernel

theorem test_decode_major_23 :
    decode 0x8C123017 0 = .ok (.stfw ⟨true, 2⟩ ⟨false, 6⟩ ⟨true, 7⟩) ∧
    decode 0x8C123025 0 = .ok (.stfd ⟨true, 2⟩ ⟨false, 6⟩ ⟨false, 5⟩) ∧
    decode 0x8C120045 0 = .ok (.sete ⟨true, 2⟩ ⟨false, 5⟩) ∧
    decode 0x8C120077 0 = .ok (.setf ⟨true, 2⟩ ⟨true, 7⟩) := by
  decide +kernel

theorem test_decode_major_24 :
    decode 0x91323025 0 = .ok (.aadd 9 ⟨true, 2⟩ ⟨false, 6⟩ true ⟨false, 5⟩) ∧
    decode 0x91323065 0 = .ok (.aand 9 ⟨true, 2⟩ ⟨false, 6⟩ true ⟨false, 5⟩) ∧
    decode 0x913230B7 0 = .ok (.aor 9 ⟨true, 2⟩ ⟨false, 6⟩ true ⟨true, 7⟩) ∧
    decode 0x913230E5 0 = .ok (.axor 9 ⟨true, 2⟩ ⟨false, 6⟩ true ⟨false, 5⟩) ∧
    decode 0x91323125 0 = .ok (.amin 9 ⟨true, 2⟩ ⟨false, 6⟩ true ⟨false, 5⟩) ∧
    decode 0x91323177 0 = .ok (.amax 9 ⟨true, 2⟩ ⟨false, 6⟩ true ⟨true, 7⟩) ∧
    decode 0x913231A5 0 = .ok (.aminu 9 ⟨true, 2⟩ ⟨false, 6⟩ true ⟨false, 5⟩) ∧
    decode 0x913231E5 0 = .ok (.amaxu 9 ⟨true, 2⟩ ⟨false, 6⟩ true ⟨false, 5⟩) ∧
    decode 0x91323237 0 = .ok (.axchg 9 ⟨true, 2⟩ ⟨false, 6⟩ true ⟨true, 7⟩) ∧
    decode 0x91323265 0 = .ok (.acas 9 ⟨true, 2⟩ ⟨false, 6⟩ true ⟨false, 5⟩) := by
  decide +kernel

theorem test_decode_major_25 :
    decode 0x94123025 0 = .ok (.redadd ⟨true, 2⟩ ⟨false, 6⟩ true ⟨false, 5⟩) ∧
    decode 0x94123077 0 = .ok (.redand ⟨true, 2⟩ ⟨false, 6⟩ true ⟨true, 7⟩) ∧
    decode 0x941230A5 0 = .ok (.redor ⟨true, 2⟩ ⟨false, 6⟩ true ⟨false, 5⟩) ∧
    decode 0x941230E5 0 = .ok (.redxor ⟨true, 2⟩ ⟨false, 6⟩ true ⟨false, 5⟩) ∧
    decode 0x94123137 0 = .ok (.redmin ⟨true, 2⟩ ⟨false, 6⟩ true ⟨true, 7⟩) ∧
    decode 0x94123165 0 = .ok (.redmax ⟨true, 2⟩ ⟨false, 6⟩ true ⟨false, 5⟩) ∧
    decode 0x941231A5 0 = .ok (.redminu ⟨true, 2⟩ ⟨false, 6⟩ true ⟨false, 5⟩) ∧
    decode 0x941231F7 0 = .ok (.redmaxu ⟨true, 2⟩ ⟨false, 6⟩ true ⟨true, 7⟩) := by
  decide +kernel

theorem test_decode_major_26 :
    decode 0x9B323005 0 = .ok (.stflw ⟨true, 9⟩ ⟨true, 2⟩ ⟨false, 6⟩ ⟨false, 5⟩) ∧
    decode 0x9B323025 0 = .ok (.stfld ⟨true, 9⟩ ⟨true, 2⟩ ⟨false, 6⟩ ⟨false, 5⟩) := by
  decide +kernel

theorem test_decode_major_27 :
    decode 0x9C0000B7 0 = .ok (.fence .group ⟨true, 7⟩) ∧
    decode 0x9C000165 0 = .ok (.fencesc .die ⟨false, 5⟩) ∧
    decode 0x9C1202A5 0 = .ok (.rel ⟨true, 2⟩ .group ⟨false, 5⟩) := by
  decide +kernel

theorem test_decode_major_30 :
    decode 0xC285300C 0 = .ok (.vadd 0x14 5 6 1 true .i32) ∧
    decode 0xC285302D 0 = .ok (.vsub 0x14 5 6 1 true .f32) ∧
    decode 0xC285304E 0 = .ok (.vmul 0x14 5 6 1 true .bf16) ∧
    decode 0xC285306F 0 = .ok (.vmin 0x14 5 6 1 true .f16) ∧
    decode 0xC285308C 0 = .ok (.vmax 0x14 5 6 1 true .i32) ∧
    decode 0xC28500AD 0 = .ok (.vabs 0x14 5 1 true .f32) ∧
    decode 0xC28500CE 0 = .ok (.vneg 0x14 5 1 true .bf16) ∧
    decode 0xC28530EF 0 = .ok (.vand 0x14 5 6 1 true .f16) ∧
    decode 0xC285310C 0 = .ok (.vor 0x14 5 6 1 true .i32) ∧
    decode 0xC285312D 0 = .ok (.vxor 0x14 5 6 1 true .f32) ∧
    decode 0xC285314E 0 = .ok (.vandn 0x14 5 6 1 true .bf16) ∧
    decode 0xC285316C 0 = .ok (.vshl 0x14 5 6 1 true) ∧
    decode 0xC285318C 0 = .ok (.vshr 0x14 5 6 1 true) ∧
    decode 0xC28531AC 0 = .ok (.vsra 0x14 5 6 1 true) ∧
    decode 0xC28501CE 0 = .ok (.vmov 0x14 5 1 true .bf16) ∧
    decode 0xC28531EF 0 = .ok (.vsel 0x14 5 6 1 true .f16) ∧
    decode 0xC045320D 0 = .ok (.vcmpeq 2 5 6 1 true .f32) ∧
    decode 0xC045322C 0 = .ok (.vcmpne 2 5 6 1 true .i32) ∧
    decode 0xC045324D 0 = .ok (.vcmplt 2 5 6 1 true .f32) ∧
    decode 0xC045326C 0 = .ok (.vcmple 2 5 6 1 true .i32) := by
  decide +kernel

theorem test_decode_major_31 :
    decode 0xC68531D8 0 = .ok (.vfma 0x14 5 6 7 1 true .i32) ∧
    decode 0xC68531DB 0 = .ok (.vfms 0x14 5 6 7 1 true .f32) := by
  decide +kernel

theorem test_decode_major_32 :
    decode 0xCA85300E 0 = .ok (.vadds 0x14 5 ⟨false, 6⟩ 1 true .bf16) ∧
    decode 0xCA85302F 0 = .ok (.vsubs 0x14 5 ⟨false, 6⟩ 1 true .f16) ∧
    decode 0xCA85304C 0 = .ok (.vmuls 0x14 5 ⟨false, 6⟩ 1 true .i32) ∧
    decode 0xCA85306D 0 = .ok (.vmins 0x14 5 ⟨false, 6⟩ 1 true .f32) ∧
    decode 0xCA85308E 0 = .ok (.vmaxs 0x14 5 ⟨false, 6⟩ 1 true .bf16) ∧
    decode 0xCA8530AC 0 = .ok (.vshls 0x14 5 ⟨false, 6⟩ 1 true) ∧
    decode 0xCA8530CC 0 = .ok (.vshrs 0x14 5 ⟨false, 6⟩ 1 true) ∧
    decode 0xCA8530EC 0 = .ok (.vsras 0x14 5 ⟨false, 6⟩ 1 true) ∧
    decode 0xC845310D 0 = .ok (.vcmpeqs 2 5 ⟨false, 6⟩ 1 true .f32) ∧
    decode 0xC845312D 0 = .ok (.vcmplts 2 5 ⟨false, 6⟩ 1 true .f32) ∧
    decode 0xCA80314C 0 = .ok (.vbcast 0x14 ⟨false, 6⟩ 1 true .i32) := by
  decide +kernel

theorem test_decode_major_33 :
    decode 0xCE85000D 0 = .ok (.vrcp 0x14 5 1 true .f32) ∧
    decode 0xCE85002E 0 = .ok (.vrsq 0x14 5 1 true .bf16) ∧
    decode 0xCE85004F 0 = .ok (.vsqrt 0x14 5 1 true .f16) ∧
    decode 0xCE85006D 0 = .ok (.vexp2 0x14 5 1 true .f32) ∧
    decode 0xCE85008E 0 = .ok (.vlog2 0x14 5 1 true .bf16) := by
  decide +kernel

theorem test_decode_major_34 :
    decode 0xD285500E 0 = .ok (.vcvt 0x14 5 0xa 1 true .bf16) := by
  decide +kernel

theorem test_decode_major_35 :
    decode 0xD6855805 0 = .ok (.vpack 0x14 5 0xb true) ∧
    decode 0xD6852025 0 = .ok (.vunpk 0x14 5 4 true) ∧
    decode 0xD685304D 0 = .ok (.vscale 0x14 5 6 1 true .f32) := by
  decide +kernel

theorem test_decode_major_36 :
    decode 0xDA85200C 0 = .ok (.vred 0x14 5 4 1 true .i32) ∧
    decode 0xDA85102D 0 = .ok (.vscan 0x14 5 2 1 true .f32) ∧
    decode 0xDA85304C 0 = .ok (.vperm 0x14 5 6 1 true .i32) ∧
    decode 0xD9253065 0 = .ok (.vextr 9 5 ⟨false, 6⟩ true .f32) ∧
    decode 0xDA92308A 0 = .ok (.vins 0x14 ⟨true, 2⟩ ⟨false, 6⟩ 1 .bf16) ∧
    decode 0xDA8530AF 0 = .ok (.vrot 0x14 5 ⟨false, 6⟩ 1 true .f16) := by
  decide +kernel

theorem test_decode_major_37 :
    decode 0xDC411004 0 = .ok (.mand 2 1 2 true) ∧
    decode 0xDC411024 0 = .ok (.mor 2 1 2 true) ∧
    decode 0xDC411044 0 = .ok (.mxor 2 1 2 true) ∧
    decode 0xDC411064 0 = .ok (.mandn 2 1 2 true) ∧
    decode 0xDC410084 0 = .ok (.mnot 2 1 true) ∧
    decode 0xDD2100A4 0 = .ok (.mpopc 9 1 true) ∧
    decode 0xDD2100C4 0 = .ok (.mfirst 9 1 true) ∧
    decode 0xDC5200E0 0 = .ok (.mset 2 ⟨true, 2⟩) := by
  decide +kernel

theorem test_decode_major_38 :
    decode 0xE29295B0 0 = .ok (.vld 0x14 ⟨true, 2⟩ 0x12b 1 true) := by
  decide +kernel

theorem test_decode_major_39 :
    decode 0xE69295B0 0 = .ok (.vst 0x14 ⟨true, 2⟩ 0x12b 1 true) := by
  decide +kernel

theorem test_decode_major_3A :
    decode 0xEA92300C 0 = .ok (.vldt 0x14 ⟨true, 2⟩ ⟨false, 6⟩ 1 true) ∧
    decode 0xEA92302C 0 = .ok (.vstt 0x14 ⟨true, 2⟩ ⟨false, 6⟩ 1 true) ∧
    decode 0xEA92304C 0 = .ok (.vldx 0x14 ⟨true, 2⟩ 6 1 true) ∧
    decode 0xEA92306C 0 = .ok (.vstx 0x14 ⟨true, 2⟩ 6 1 true) ∧
    decode 0xEA92308C 0 = .ok (.vstfl 0x14 ⟨true, 2⟩ ⟨false, 6⟩ 1 true) := by
  decide +kernel

theorem test_decode_major_3B :
    decode 0xEC0998D3 0x87F = .ok (.mma 9 ⟨true, 3⟩ ⟨false, 6⟩ 0x87f ⟨true, 3⟩) ∧
    decode 0xEC290005 0x403 = .ok (.mwld 9 0x403 ⟨false, 5⟩) ∧
    decode 0xEC490013 0x15 = .ok (.mzero 9 0x15 ⟨true, 3⟩) ∧
    decode 0xEC6998C5 0x6C25 = .ok (.mdrain 9 ⟨true, 3⟩ ⟨false, 6⟩ 0x6c25 ⟨false, 5⟩) ∧
    decode 0xEC8998D3 0 = .ok (.magr 9 ⟨true, 3⟩ ⟨false, 6⟩ 0 ⟨true, 3⟩) ∧
    decode 0xECA90005 0xB = .ok (.mstat 9 0xb ⟨false, 5⟩) ∧
    decode 0xECC90013 0x37000000 = .ok (.mtest 9 0x37000000 ⟨true, 3⟩) := by
  decide +kernel

theorem test_decode_major_3C :
    decode 0xF00998C5 0 = .ok (.cpy 9 ⟨true, 3⟩ ⟨false, 6⟩ 0 ⟨false, 5⟩) ∧
    decode 0xF02998D3 0 = .ok (.chain 9 ⟨true, 3⟩ ⟨false, 6⟩ 0 ⟨true, 3⟩) ∧
    decode 0xF0490005 0x9 = .ok (.cstat 9 9 ⟨false, 5⟩) := by
  decide +kernel

theorem test_decode_major_3D :
    decode 0xF40998D3 0xC8 = .ok (.send 9 ⟨true, 3⟩ ⟨false, 6⟩ 0xc8 ⟨true, 3⟩) ∧
    decode 0xF42998C5 0 = .ok (.post 9 ⟨true, 3⟩ ⟨false, 6⟩ 0 ⟨false, 5⟩) ∧
    decode 0xF44998D3 0 = .ok (.rring 9 ⟨true, 3⟩ ⟨false, 6⟩ 0 ⟨true, 3⟩) ∧
    decode 0xF46998C5 0xA7 = .ok (.rprobe 9 ⟨true, 3⟩ ⟨false, 6⟩ 0xa7 ⟨false, 5⟩) := by
  decide +kernel

theorem test_decode_major_3E :
    decode 0xF80998D3 0x300 = .ok (.launch 9 ⟨true, 3⟩ ⟨false, 6⟩ 0x300 ⟨true, 3⟩) ∧
    decode 0xF8299805 0x6 = .ok (.lstat 9 ⟨true, 3⟩ 6 ⟨false, 5⟩) ∧
    decode 0xF8499813 0 = .ok (.preempt 9 ⟨true, 3⟩ 0 ⟨true, 3⟩) ∧
    decode 0xF8699805 0x2 = .ok (.signal 9 ⟨true, 3⟩ 2 ⟨false, 5⟩) := by
  decide +kernel

end Sys2Proof.Tests
end

section

namespace Sys2Proof

/-! ### Fields of a word -/

theorem wfield_eq (w : W32) (lo n : Nat) : wfield w lo n = w.toNat / 2 ^ lo % 2 ^ n := by
  simp [wfield, BitVec.extractLsb'_toNat, Nat.shiftRight_eq_div_pow]

theorem extractLsb'_eq_iff (w : W32) (lo n : Nat) (x : BitVec n) : w.extractLsb' lo n = x ↔ wfield w lo n = x.toNat := by
  simp [wfield, BitVec.toNat_eq]

theorem getLsbD_eq_iff (w : W32) (p : Nat) (b : Bool) : w.getLsbD p = b ↔ wfield w p 1 = b.toNat := by
  rw [wfield_eq, BitVec.getLsbD, Nat.testBit_eq_decide_div_mod_eq]
  cases b <;> simp

/-- A field is its upper bits over its lower bits. -/
theorem wfield_add (w : W32) (lo m n : Nat) : wfield w lo (m + n) = wfield w (lo + m) n * 2 ^ m + wfield w lo m := by
  have h := Nat.mod_mul (x := w.toNat / 2 ^ lo) (a := 2 ^ m) (b := 2 ^ n)
  simp only [wfield_eq, pow_add, h, ← Nat.div_div_eq_div_mul]
  ring

theorem wfield_lt (w : W32) (lo n : Nat) : wfield w lo n < 2 ^ n := by
  rw [wfield_eq]; exact Nat.mod_lt _ (by positivity)

/-! ### What the readers of `decode` read -/

theorem gsrc_eq_iff (w : W32) (lo : Nat) (a : GSrc) : gsrc w lo = a ↔ wfield w lo 5 = a.bits := by
  obtain ⟨e, r⟩ := a
  have hr := r.isLt
  have hf := wfield_lt w lo 4
  simp only [gsrc, GSrc.mk.injEq, getLsbD_eq_iff, extractLsb'_eq_iff, GSrc.bits, wfield_add w lo 4 1]
  omega

theorem guard_eq_iff (w : W32) (g : Guard) : guard w = g ↔ wfield w 0 5 = g.bits := by
  obtain ⟨e, r⟩ := g
  have hr := r.isLt
  have hf := wfield_lt w 0 4
  simp only [guard, Guard.mk.injEq, getLsbD_eq_iff, extractLsb'_eq_iff, Guard.bits, wfield_add w 0 4 1, Nat.zero_add]
  omega

/-- A five-bit field whose top bit is 0. -/
theorem fourBits_eq_ok_iff (w : W32) (lo : Nat) (d : BitVec 4) :
    (if w.getLsbD (lo + 4) then Except.error DecodeError.field else .ok (w.extractLsb' lo 4)) = .ok d ↔
      wfield w lo 5 = d.toNat := by
  have hd := d.isLt
  have hf := wfield_lt w lo 4
  have hb := getLsbD_eq_iff w (lo + 4) false
  have hl := wfield_lt w (lo + 4) 1
  rw [wfield_add w lo 4 1]
  by_cases h : w.getLsbD (lo + 4) = true
  · simp [h] at hb ⊢; omega
  · simp [h, extractLsb'_eq_iff] at hb ⊢; omega

theorem gdst_eq_ok_iff (w : W32) (d : BitVec 4) : gdst w = .ok d ↔ wfield w 21 5 = d.toNat :=
  fourBits_eq_ok_iff w 21 d

theorem tokenReg_eq_ok_iff (w : W32) (d : BitVec 4) : tokenReg w = .ok d ↔ wfield w 16 5 = d.toNat :=
  fourBits_eq_ok_iff w 16 d

theorem qfield_eq_ok_iff (w : W32) (lo : Nat) (d : BitVec 4) : qfield w lo = .ok d ↔ wfield w lo 5 = d.toNat :=
  fourBits_eq_ok_iff w lo d

theorem mask_eq_ok_iff (w : W32) (lo : Nat) (k : BitVec 2) : mask w lo = .ok k ↔ wfield w lo 5 = k.toNat := by
  have hk := k.isLt
  have hl := wfield_lt w lo 2
  have h0 := extractLsb'_eq_iff w (lo + 2) 3 0#3
  simp only [BitVec.toNat_zero] at h0
  rw [wfield_add w lo 2 3]
  unfold mask
  split <;> rename_i h <;> rw [show (0 : BitVec 3) = 0#3 from rfl, h0] at h
  · simp [extractLsb'_eq_iff]; omega
  · simp; omega

theorem vtype_eq_iff (w : W32) (lo : Nat) (t : VType) : vtype w lo = t ↔ wfield w lo 2 = t.bits := by
  have hl := wfield_lt w lo 2
  unfold vtype
  split <;> cases t <;> simp_all [VType.bits] <;> omega

theorem memSize_eq_iff (w : W32) (z : MemSize) : memSize w = z ↔ wfield w 14 2 = z.bits := by
  have hl := wfield_lt w 14 2
  unfold memSize
  split <;> cases z <;> simp_all [MemSize.bits] <;> omega

theorem scope_eq_ok_iff (w : W32) (s : Scope) : scope w = .ok s ↔ wfield w 5 3 = s.bits := by
  unfold scope
  split <;> cases s <;> simp [Scope.bits] <;> omega

theorem typeF32_eq_ok_iff (w : W32) (u : Unit) : typeF32 w = .ok u ↔ wfield w 0 2 = 1 := by
  have h := extractLsb'_eq_iff w 0 2 1
  simp only [typeF32, h]
  split <;> simp_all

theorem mbz_eq_ok_iff (w : W32) (m : Nat) (u : Unit) :
    mbz w m = .ok u ↔ ∀ i < 32, m.testBit i = true → w.getLsbD i = false := by
  have h : w &&& BitVec.ofNat 32 m = 0 ↔ ∀ i < 32, m.testBit i = true → w.getLsbD i = false := by
    rw [BitVec.eq_of_getLsbD_eq_iff]
    refine forall_congr' fun i => forall_congr' fun hi => ?_
    simp only [BitVec.getLsbD_and, BitVec.getLsbD_ofNat, hi]
    cases w.getLsbD i <;> simp
  rw [← h, mbz]
  split <;> simp_all

/-- Must-be-zero bits [lo+n-1:lo]: the field there is 0. -/
theorem mbz_block_eq_ok_iff (w : W32) (lo n : Nat) (u : Unit) :
    mbz w ((2 ^ n - 1) <<< lo) = .ok u ↔ wfield w lo n = 0 := by
  have h := extractLsb'_eq_iff w lo n 0
  simp only [BitVec.ofNat_eq_ofNat, BitVec.toNat_ofNat, Nat.zero_mod] at h
  rw [mbz_eq_ok_iff, ← h, BitVec.eq_of_getLsbD_eq_iff]
  simp only [Nat.testBit_shiftLeft, Nat.testBit_two_pow_sub_one, BitVec.getLsbD_extractLsb']
  constructor
  · intro h i hi
    by_cases h32 : lo + i < 32
    · simpa [hi] using h (lo + i) h32
    · simp [BitVec.getLsbD_of_ge _ _ (Nat.le_of_not_lt h32)]
  · intro h i hi hb
    simp only [ge_iff_le, Bool.and_eq_true, decide_eq_true_eq] at hb
    simpa [hb, Nat.add_sub_cancel' hb.1] using h (i - lo) hb.2

theorem mbz_or_eq_ok_iff (w : W32) (m n : Nat) (u : Unit) :
    mbz w (m ||| n) = .ok u ↔ mbz w m = .ok u ∧ mbz w n = .ok u := by
  simp only [mbz_eq_ok_iff, Nat.testBit_or, Bool.or_eq_true]
  grind

theorem mbz_3 (w : W32) (u : Unit) : mbz w 0x3 = .ok u ↔ wfield w 0 2 = 0 :=
  mbz_block_eq_ok_iff w 0 2 u
theorem mbz_4 (w : W32) (u : Unit) : mbz w 0x4 = .ok u ↔ wfield w 2 1 = 0 :=
  mbz_block_eq_ok_iff w 2 1 u
theorem mbz_f (w : W32) (u : Unit) : mbz w 0xf = .ok u ↔ wfield w 0 4 = 0 :=
  mbz_block_eq_ok_iff w 0 4 u
theorem mbz_18 (w : W32) (u : Unit) : mbz w 0x18 = .ok u ↔ wfield w 3 2 = 0 :=
  mbz_block_eq_ok_iff w 3 2 u
theorem mbz_1b (w : W32) (u : Unit) : mbz w 0x1b = .ok u ↔ wfield w 3 2 = 0 ∧ wfield w 0 2 = 0 := by
  simp only [← mbz_block_eq_ok_iff w 3 2 u, ← mbz_block_eq_ok_iff w 0 2 u, ← mbz_or_eq_ok_iff]; rfl
theorem mbz_400 (w : W32) (u : Unit) : mbz w 0x400 = .ok u ↔ wfield w 10 1 = 0 :=
  mbz_block_eq_ok_iff w 10 1 u
theorem mbz_7e0 (w : W32) (u : Unit) : mbz w 0x7e0 = .ok u ↔ wfield w 5 6 = 0 :=
  mbz_block_eq_ok_iff w 5 6 u
theorem mbz_2000 (w : W32) (u : Unit) : mbz w 0x2000 = .ok u ↔ wfield w 13 1 = 0 :=
  mbz_block_eq_ok_iff w 13 1 u
theorem mbz_c018 (w : W32) (u : Unit) : mbz w 0xc018 = .ok u ↔ wfield w 14 2 = 0 ∧ wfield w 3 2 = 0 := by
  simp only [← mbz_block_eq_ok_iff w 14 2 u, ← mbz_block_eq_ok_iff w 3 2 u, ← mbz_or_eq_ok_iff]; rfl
theorem mbz_f800 (w : W32) (u : Unit) : mbz w 0xf800 = .ok u ↔ wfield w 11 5 = 0 :=
  mbz_block_eq_ok_iff w 11 5 u
theorem mbz_f81b (w : W32) (u : Unit) : mbz w 0xf81b = .ok u ↔ wfield w 11 5 = 0 ∧ wfield w 3 2 = 0 ∧ wfield w 0 2 = 0 := by
  simp only [← mbz_block_eq_ok_iff w 11 5 u, ← mbz_block_eq_ok_iff w 3 2 u, ← mbz_block_eq_ok_iff w 0 2 u, ← mbz_or_eq_ok_iff];
    rfl
theorem mbz_f81f (w : W32) (u : Unit) : mbz w 0xf81f = .ok u ↔ wfield w 11 5 = 0 ∧ wfield w 0 5 = 0 := by
  simp only [← mbz_block_eq_ok_iff w 11 5 u, ← mbz_block_eq_ok_iff w 0 5 u, ← mbz_or_eq_ok_iff]; rfl
theorem mbz_ffe0 (w : W32) (u : Unit) : mbz w 0xffe0 = .ok u ↔ wfield w 5 11 = 0 :=
  mbz_block_eq_ok_iff w 5 11 u
theorem mbz_1f0000 (w : W32) (u : Unit) : mbz w 0x1f0000 = .ok u ↔ wfield w 16 5 = 0 :=
  mbz_block_eq_ok_iff w 16 5 u
theorem mbz_1ff800 (w : W32) (u : Unit) : mbz w 0x1ff800 = .ok u ↔ wfield w 11 10 = 0 :=
  mbz_block_eq_ok_iff w 11 10 u
theorem mbz_3e00000 (w : W32) (u : Unit) : mbz w 0x3e00000 = .ok u ↔ wfield w 21 5 = 0 :=
  mbz_block_eq_ok_iff w 21 5 u
theorem mbz_3e0f800 (w : W32) (u : Unit) : mbz w 0x3e0f800 = .ok u ↔ wfield w 21 5 = 0 ∧ wfield w 11 5 = 0 := by
  simp only [← mbz_block_eq_ok_iff w 21 5 u, ← mbz_block_eq_ok_iff w 11 5 u, ← mbz_or_eq_ok_iff]; rfl
theorem mbz_3ff0000 (w : W32) (u : Unit) : mbz w 0x3ff0000 = .ok u ↔ wfield w 16 10 = 0 :=
  mbz_block_eq_ok_iff w 16 10 u
theorem mbz_3fff800 (w : W32) (u : Unit) : mbz w 0x3fff800 = .ok u ↔ wfield w 11 15 = 0 :=
  mbz_block_eq_ok_iff w 11 15 u

/-- What each group of must-be-zero bits asks. -/
theorem mbz_iffs (w : W32) (u : Unit) :
    (mbz w 0x3 = .ok u ↔ wfield w 0 2 = 0) ∧
    (mbz w 0x4 = .ok u ↔ wfield w 2 1 = 0) ∧
    (mbz w 0xf = .ok u ↔ wfield w 0 4 = 0) ∧
    (mbz w 0x18 = .ok u ↔ wfield w 3 2 = 0) ∧
    (mbz w 0x1b = .ok u ↔ wfield w 3 2 = 0 ∧ wfield w 0 2 = 0) ∧
    (mbz w 0x400 = .ok u ↔ wfield w 10 1 = 0) ∧
    (mbz w 0x7e0 = .ok u ↔ wfield w 5 6 = 0) ∧
    (mbz w 0x2000 = .ok u ↔ wfield w 13 1 = 0) ∧
    (mbz w 0xc018 = .ok u ↔ wfield w 14 2 = 0 ∧ wfield w 3 2 = 0) ∧
    (mbz w 0xf800 = .ok u ↔ wfield w 11 5 = 0) ∧
    (mbz w 0xf81b = .ok u ↔ wfield w 11 5 = 0 ∧ wfield w 3 2 = 0 ∧ wfield w 0 2 = 0) ∧
    (mbz w 0xf81f = .ok u ↔ wfield w 11 5 = 0 ∧ wfield w 0 5 = 0) ∧
    (mbz w 0xffe0 = .ok u ↔ wfield w 5 11 = 0) ∧
    (mbz w 0x1f0000 = .ok u ↔ wfield w 16 5 = 0) ∧
    (mbz w 0x1ff800 = .ok u ↔ wfield w 11 10 = 0) ∧
    (mbz w 0x3e00000 = .ok u ↔ wfield w 21 5 = 0) ∧
    (mbz w 0x3e0f800 = .ok u ↔ wfield w 21 5 = 0 ∧ wfield w 11 5 = 0) ∧
    (mbz w 0x3ff0000 = .ok u ↔ wfield w 16 10 = 0) ∧
    (mbz w 0x3fff800 = .ok u ↔ wfield w 11 15 = 0) :=
  ⟨mbz_3 w u, mbz_4 w u, mbz_f w u, mbz_18 w u, mbz_1b w u, mbz_400 w u, mbz_7e0 w u, mbz_2000 w u, mbz_c018 w u, mbz_f800 w u,
    mbz_f81b w u, mbz_f81f w u, mbz_ffe0 w u, mbz_1f0000 w u, mbz_1ff800 w u, mbz_3e00000 w u, mbz_3e0f800 w u, mbz_3ff0000 w u,
    mbz_3fff800 w u⟩

theorem bind_eq_ok_iff {α β : Type} (x : Except DecodeError α) (f : α → Except DecodeError β) (b : β) :
    (x >>= f) = .ok b ↔ ∃ a, x = .ok a ∧ f a = .ok b := by
  cases x <;> simp [bind, Except.bind]

theorem pure_eq_ok_iff {α : Type} (a b : α) : (pure a : Except DecodeError α) = .ok b ↔ a = b := by
  simp [pure, Except.pure]

theorem word_eq_some_iff (n : Nat) (w1 : Option W32) (w : W32) (x : Option W32) :
    word n w1 = some (w, x) ↔ n % 2 ^ 32 = w.toNat ∧ w1 = x := by
  simp [word, BitVec.toNat_eq]


/-- A word is its fields on the grid of Table 2-4: [31:26], [25:21], [20:16], [15:11], [10:5], [4:0]. -/
theorem toNat_eq_fields (w : W32) : w.toNat = wfield w 26 6 * 0x4000000 + wfield w 21 5 * 0x200000 + wfield w 16 5 * 0x10000 +
    wfield w 11 5 * 0x800 + wfield w 5 6 * 0x20 + wfield w 0 5 := by
  have h := wfield_add w 0 26 6
  rw [wfield_add w 0 21 5, wfield_add w 0 16 5, wfield_add w 0 11 5, wfield_add w 0 5 6] at h
  simp only [Nat.zero_add] at h
  have hw : wfield w 0 (26 + 6) = w.toNat := by rw [wfield_eq, pow_zero, Nat.div_one]; exact Nat.mod_eq_of_lt w.isLt
  omega

theorem word_eq_some_of {n : Nat} {w : W32} (x : Option W32) (h : n = w.toNat) : word n x = some (w, x) := by
  simp [word, h]

/-! ### Fields of a number -/

/-- Bits [lo+len-1:lo] of a number. -/
def bitsAt (n lo len : Nat) : Nat := n / 2 ^ lo % 2 ^ len

/-- A number with a value added at bit lo. -/
def putAt (n lo v : Nat) : Nat :=
  match lo with
  | 0 => n + v
  | lo + 1 => n + v * 2 ^ (lo + 1)

theorem putAt_eq (n lo v : Nat) : putAt n lo v = n + v * 2 ^ lo := by
  cases lo <;> simp [putAt]

theorem putAt_div (n lo v : Nat) : putAt n lo v / 2 ^ lo = n / 2 ^ lo + v := by
  rw [putAt_eq, Nat.add_mul_div_right _ _ (Nat.two_pow_pos _)]

theorem bitsAt_putAt_below {n lo v lo' len' : Nat} (h : lo' + len' ≤ lo) : bitsAt (putAt n lo v) lo' len' = bitsAt n lo' len' :=
  by
  have hd : 2 ^ (lo' + len') ∣ v * 2 ^ lo := (Nat.pow_dvd_pow 2 h).mul_left _
  simp only [bitsAt, ← Nat.mod_mul_right_div_self, ← pow_add, putAt_eq]
  rw [Nat.add_mod, Nat.mod_eq_zero_of_dvd hd, Nat.add_zero, Nat.mod_mod]

section
variable {n lo len v : Nat} (h0 : bitsAt n lo len = 0) (hv : v < 2 ^ len)
include h0 hv

theorem bitsAt_putAt_self : bitsAt (putAt n lo v) lo len = v := by
  rw [bitsAt, putAt_div, Nat.add_mod, show n / 2 ^ lo % 2 ^ len = 0 from h0, Nat.zero_add, Nat.mod_mod, Nat.mod_eq_of_lt hv]

theorem putAt_div_above {lo' : Nat} (h : lo + len ≤ lo') : putAt n lo v / 2 ^ lo' = n / 2 ^ lo' := by
  obtain ⟨k, hk⟩ := Nat.dvd_of_mod_eq_zero h0
  obtain ⟨d, rfl⟩ := Nat.exists_eq_add_of_le h
  simp only [pow_add, ← Nat.div_div_eq_div_mul, putAt_div, hk, Nat.mul_add_div (Nat.two_pow_pos _), Nat.div_eq_of_lt hv,
    Nat.add_zero, Nat.mul_div_cancel_left _ (Nat.two_pow_pos _)]

end

/-- A field's place in a word: its lowest bit and its length. -/
abbrev Place := Nat × Nat

/-- The two places have no bit in common. -/
def Place.apart (p q : Place) : Bool := decide (p.1 + p.2 ≤ q.1) || decide (q.1 + q.2 ≤ p.1)

theorem Place.apart_comm (p q : Place) : p.apart q = q.apart p := Bool.or_comm _ _

theorem bitsAt_putAt_apart {n v : Nat} {p q : Place} (h0 : bitsAt n p.1 p.2 = 0) (hv : v < 2 ^ p.2) (h : p.apart q = true) :
    bitsAt (putAt n p.1 v) q.1 q.2 = bitsAt n q.1 q.2 := by
  rcases Bool.or_eq_true _ _ ▸ h with h | h
  · rw [bitsAt, putAt_div_above h0 hv (of_decide_eq_true h), bitsAt]
  · exact bitsAt_putAt_below (of_decide_eq_true h)

/-- A number with values added at several places, in order. -/
def putAll (n : Nat) : List Place → List Nat → Nat
  | p :: ps, v :: vs => putAll (putAt n p.1 v) ps vs
  | _, _ => n

/-- The places lie in a word, the number's bits there are 0, and no two places overlap. -/
def spaced (n : Nat) : List Place → Bool
  | [] => true
  | p :: ps => decide (p.1 + p.2 ≤ 32) && decide (bitsAt n p.1 p.2 = 0) && ps.all p.apart && spaced n ps

/-- Every value fits into its place. -/
def Fit : List Place → List Nat → Prop
  | p :: ps, v :: vs => v < 2 ^ p.2 ∧ Fit ps vs
  | _, _ => True

/-- Reading each place gives its value. -/
def Stand (read : Nat → Nat → Nat) : List Place → List Nat → Prop
  | p :: ps, v :: vs => read p.1 p.2 = v ∧ Stand read ps vs
  | _, _ => True

theorem spaced_putAt {n v : Nat} {p : Place} (h0 : bitsAt n p.1 p.2 = 0) (hv : v < 2 ^ p.2) {ps : List Place}
    (hp : ps.all p.apart = true) (hs : spaced n ps = true) : spaced (putAt n p.1 v) ps = true := by
  induction ps with
  | nil => rfl
  | cons q qs ih =>
    simp only [spaced, List.all_cons, Bool.and_eq_true, decide_eq_true_eq] at hp hs ⊢
    obtain ⟨⟨⟨h32, hq⟩, hqs⟩, hs⟩ := hs
    exact ⟨⟨⟨h32, (bitsAt_putAt_apart h0 hv hp.1).trans hq⟩, hqs⟩, ih hp.2 hs⟩

/-- What spaced places with fitting values do to a number: the values stand at their places, the bits elsewhere are as before,
and a word's number stays one. -/
theorem putAll_spec {ps : List Place} {vs : List Nat} {n : Nat} (hs : spaced n ps = true) (hf : Fit ps vs) :
    Stand (bitsAt (putAll n ps vs)) ps vs ∧ (∀ q : Place, ps.all q.apart = true → bitsAt (putAll n ps vs) q.1 q.2 = bitsAt n q.1
      q.2) ∧
      (n < 2 ^ 32 → putAll n ps vs < 2 ^ 32) := by
  induction ps, vs using Fit.induct generalizing n with
  | case1 p ps v vs ih =>
    simp only [spaced, Bool.and_eq_true, decide_eq_true_eq] at hs
    obtain ⟨⟨⟨h32, h0⟩, hp⟩, hs⟩ := hs
    obtain ⟨hst, hap, hlt⟩ := ih (spaced_putAt h0 hf.1 hp hs) hf.2
    refine ⟨⟨(hap p hp).trans (bitsAt_putAt_self h0 hf.1), hst⟩, fun q hq => ?_, fun hn => hlt ?_⟩
    · rw [List.all_cons, Bool.and_eq_true, Place.apart_comm] at hq
      exact (hap q hq.2).trans (bitsAt_putAt_apart h0 hf.1 hq.1)
    · have h := putAt_div_above h0 hf.1 h32
      rw [Nat.div_eq_of_lt hn] at h
      exact Nat.lt_of_div_eq_zero (Nat.two_pow_pos _) h
  | case2 ps vs h =>
    have e : ∀ m, putAll m ps vs = m := fun m => putAll.eq_2 m ps vs fun p ps' v vs' => h p ps' v vs'
    rw [e]
    exact ⟨by rw [Stand.eq_2 _ _ _ fun p ps' v vs' => h p ps' v vs']; trivial, fun q _ => rfl, id⟩

theorem toNat_of_word {n : Nat} {w : W32} {x y : Option W32} (h : word n x = some (w, y)) (hn : n < 2 ^ 32) :
    w.toNat = n ∧ y = x := by
  rw [word_eq_some_iff, Nat.mod_eq_of_lt hn] at h
  exact ⟨h.1.symm, h.2.symm⟩

/-- A row's word: its fields read as the values put in, and outside them it reads as the row's fixed bits. -/
theorem fields_of_word {base : Nat} (ps : List Place) (vs : List Nat) {w : W32} {x y : Option W32}
    (h : word (putAll base ps vs) x = some (w, y)) (hb : base < 2 ^ 32 ∧ spaced base ps = true) (hf : Fit ps vs) :
    y = x ∧ (∀ q : Place, ps.all q.apart = true → wfield w q.1 q.2 = bitsAt base q.1 q.2) ∧ Stand (wfield w) ps vs := by
  obtain ⟨hst, hap, hlt⟩ := putAll_spec hb.2 hf
  obtain ⟨hw, hx⟩ := toNat_of_word h (hlt hb.1)
  have hr : wfield w = bitsAt (putAll base ps vs) := by
    funext lo len
    rw [wfield_eq, hw, bitsAt]
  rw [hr]
  exact ⟨hx, hap, hst⟩

theorem nibble_lt (d : BitVec 4) : d.toNat < 2 ^ 5 := d.isLt.trans (by decide)
theorem pair_lt (k : BitVec 2) : k.toNat < 2 ^ 5 := k.isLt.trans (by decide)
theorem bool_lt (b : Bool) : b.toNat < 2 ^ 1 := Nat.lt_succ_of_le b.toNat_le
theorem eBit_add_nibble_lt (e : Bool) (r : BitVec 4) : e.toNat * 0x10 + r.toNat < 2 ^ 5 := by
  have he := e.toNat_le
  have hr := r.isLt
  omega
theorem gsrc_bits_lt (a : GSrc) : a.bits < 2 ^ 5 := eBit_add_nibble_lt a.e a.r
theorem guard_bits_lt (g : Guard) : g.bits < 2 ^ 5 := eBit_add_nibble_lt g.neg g.q
theorem memSize_bits_lt (z : MemSize) : z.bits < 2 ^ 2 := by cases z <;> decide
theorem vtype_bits_lt (t : VType) : t.bits < 2 ^ 2 := by cases t <;> decide
theorem scope_bits_lt (s : Scope) : s.bits < 2 ^ 3 := by cases s <;> decide

section
variable {w : W32} {lo : Nat}

theorem gsrc_of {a : GSrc} (h : wfield w lo 5 = a.bits) : gsrc w lo = a := (gsrc_eq_iff w lo a).2 h
theorem guard_of {g : Guard} (h : wfield w 0 5 = g.bits) : guard w = g := (guard_eq_iff w g).2 h
theorem gdst_of {d : BitVec 4} (h : wfield w 21 5 = d.toNat) : gdst w = .ok d := (gdst_eq_ok_iff w d).2 h
theorem tokenReg_of {d : BitVec 4} (h : wfield w 16 5 = d.toNat) : tokenReg w = .ok d := (tokenReg_eq_ok_iff w d).2 h
theorem qfield_of {d : BitVec 4} (h : wfield w lo 5 = d.toNat) : qfield w lo = .ok d := (qfield_eq_ok_iff w lo d).2 h
theorem mask_of {k : BitVec 2} (h : wfield w lo 5 = k.toNat) : mask w lo = .ok k := (mask_eq_ok_iff w lo k).2 h
theorem scope_of {s : Scope} (h : wfield w 5 3 = s.bits) : scope w = .ok s := (scope_eq_ok_iff w s).2 h
theorem memSize_of {z : MemSize} (h : wfield w 14 2 = z.bits) : memSize w = z := (memSize_eq_iff w z).2 h
theorem vtype_of {t : VType} (h : wfield w lo 2 = t.bits) : vtype w lo = t := (vtype_eq_iff w lo t).2 h
theorem bit_of {b : Bool} (h : wfield w lo 1 = b.toNat) : w.getLsbD lo = b := (getLsbD_eq_iff w lo b).2 h
theorem extract_of {n : Nat} {x : BitVec n} (h : wfield w lo n = x.toNat) : w.extractLsb' lo n = x := (extractLsb'_eq_iff w lo n
  x).2 h

end

/-! ### A row's word decodes to its instruction

Each group of rows names the places of its fields and their values; the rest of the word is the row's fixed bits, from which the
  major,
the selector and the must-be-zero bits are read. -/

/-- The rows of majors 0x01 to 0x27. -/
theorem decodeRaw_encode_scalar {i : Instr} (hi : i.ctorIdx < 144) {w : W32} {y : Option W32} (x : W32) (h : encode i = some (w,
  y)) :
    decodeRaw w (y.getD x) = .ok i := by
  cases i with
  | add d a b g | sub d a b g | mul d a b g | mulh d a b g | mulhu d a b g | div d a b g | divu d a b g | rem d a b g
  | remu d a b g | and d a b g | or d a b g | xor d a b g | andn d a b g | orn d a b g | shl d a b g | shr d a b g
  | sra d a b g | rol d a b g | ror d a b g | min d a b g | max d a b g | minu d a b g | maxu d a b g | lea1 d a b g
  | lea2 d a b g | lea3 d a b g | rnw d a b g | linfo d a b g | bind d a b g =>
    obtain ⟨rfl, hbase, hd, ha, hb, hg, -⟩ := fields_of_word [(21, 5), (16, 5), (11, 5), (0, 5)] [d.toNat, a.bits, b.bits,
      g.bits] h
      (by decide) ⟨nibble_lt d, gsrc_bits_lt a, gsrc_bits_lt b, guard_bits_lt g, trivial⟩
    rw [decodeRaw, decode01, decode1F, hbase (26, 6) rfl, hbase (5, 6) rfl, gdst_of hd, gsrc_of ha, gsrc_of hb, guard_of hg];
      rfl
  | clz d a g | ctz d a g | popc d a g | brev d a g | bswap d a g | sextb d a g | sexth d a g | sextw d a g | zextb d a g
  | zexth d a g | zextw d a g | abs d a g | neg d a g | not d a g | jcall d a g | life d a g =>
    obtain ⟨rfl, hbase, hd, ha, hg, -⟩ := fields_of_word [(21, 5), (16, 5), (0, 5)] [d.toNat, a.bits, g.bits] h
      (by decide) ⟨nibble_lt d, gsrc_bits_lt a, guard_bits_lt g, trivial⟩
    rw [decodeRaw, decode02, decode15, decode1F, hbase (26, 6) rfl, hbase (5, 6) rfl, (mbz_f800 w ()).2 (hbase (11, 5) rfl),
      gdst_of hd, gsrc_of ha, guard_of hg]; rfl
  | ext d a p l g | extu d a p l g | ins d a p l g =>
    obtain ⟨rfl, hbase, hd, ha, hp, hl, hg, -⟩ := fields_of_word [(21, 5), (16, 5), (10, 6), (5, 5), (0, 5)] [d.toNat, a.bits,
      p.toNat, l.toNat, g.bits] h
      (by decide) ⟨nibble_lt d, gsrc_bits_lt a, p.isLt, l.isLt, guard_bits_lt g, trivial⟩
    rw [decodeRaw, decode03, decode04, decode05, hbase (26, 6) rfl, gdst_of hd, gsrc_of ha, extract_of hp, extract_of hl,
      guard_of hg]; rfl
  | addi d a i g | andi d a i g | ori d a i g | xori d a i g | muli d a i g =>
    obtain ⟨rfl, hbase, hd, ha, hi, hg, -⟩ := fields_of_word [(21, 5), (16, 5), (5, 11), (0, 5)] [d.toNat, a.bits, i.toNat,
      g.bits] h
      (by decide) ⟨nibble_lt d, gsrc_bits_lt a, i.isLt, guard_bits_lt g, trivial⟩
    rw [decodeRaw, decode06, decode07, decode08, decode09, decode0D, hbase (26, 6) rfl, gdst_of hd, gsrc_of ha, extract_of hi,
      guard_of hg]; rfl
  | shli d a s g | shri d a s g | srai d a s g =>
    obtain ⟨rfl, hbase, hd, ha, hs, hg, -⟩ := fields_of_word [(21, 5), (16, 5), (5, 6), (0, 5)] [d.toNat, a.bits, s.toNat,
      g.bits] h
      (by decide) ⟨nibble_lt d, gsrc_bits_lt a, s.isLt, guard_bits_lt g, trivial⟩
    rw [decodeRaw, decode0A, decode0B, decode0C, hbase (26, 6) rfl, (mbz_f800 w ()).2 (hbase (11, 5) rfl), gdst_of hd, gsrc_of
      ha, extract_of hs, guard_of hg]; rfl
  | li d g imm | liu d g imm | lih d g imm | addl d g imm =>
    obtain ⟨rfl, hbase, hd, hg, -⟩ := fields_of_word [(21, 5), (0, 5)] [d.toNat, g.bits] h
      (by decide) ⟨nibble_lt d, guard_bits_lt g, trivial⟩
    rw [decodeRaw, decode0E, hbase (26, 6) rfl, hbase (16, 5) rfl, (mbz_ffe0 w ()).2 (hbase (5, 11) rfl), gdst_of hd, guard_of
      hg]; rfl
  | cmpeq d a b g | cmpne d a b g | cmplt d a b g | cmple d a b g | cmpltu d a b g | cmpleu d a b g | tstz d a b g
  | tstnz d a b g =>
    obtain ⟨rfl, hbase, hd, ha, hb, hg, -⟩ := fields_of_word [(21, 5), (16, 5), (11, 5), (0, 5)] [d.toNat, a.bits, b.bits,
      g.bits] h
      (by decide) ⟨nibble_lt d, gsrc_bits_lt a, gsrc_bits_lt b, guard_bits_lt g, trivial⟩
    rw [decodeRaw, decode0F, hbase (26, 6) rfl, hbase (5, 6) rfl, qfield_of hd, gsrc_of ha, gsrc_of hb, guard_of hg]; rfl
  | cmpeqi d a i g | cmpnei d a i g | cmplti d a i g | cmplei d a i g | cmpltui d a i g | cmpleui d a i g | cmpgti d a i g
  | cmpgtui d a i g =>
    obtain ⟨rfl, hbase, hd, ha, hi, hg, -⟩ := fields_of_word [(21, 5), (16, 5), (8, 8), (0, 5)] [d.toNat, a.bits, i.toNat,
      g.bits] h
      (by decide) ⟨nibble_lt d, gsrc_bits_lt a, i.isLt, guard_bits_lt g, trivial⟩
    rw [decodeRaw, decode10, hbase (26, 6) rfl, hbase (5, 3) rfl, qfield_of hd, gsrc_of ha, extract_of hi, guard_of hg]; rfl
  | qand d a b g | qor d a b g | qxor d a b g | qandn d a b g =>
    obtain ⟨rfl, hbase, hd, ha, hb, hg, -⟩ := fields_of_word [(21, 5), (16, 5), (11, 5), (0, 5)] [d.toNat, a.toNat, b.toNat,
      g.bits] h
      (by decide) ⟨nibble_lt d, nibble_lt a, nibble_lt b, guard_bits_lt g, trivial⟩
    rw [decodeRaw, decode11, hbase (26, 6) rfl, hbase (5, 6) rfl, qfield_of hd, qfield_of ha, qfield_of hb, guard_of hg]; rfl
  | qmovg d a g =>
    obtain ⟨rfl, hbase, hd, ha, hg, -⟩ := fields_of_word [(21, 5), (16, 5), (0, 5)] [d.toNat, a.bits, g.bits] h
      (by decide) ⟨nibble_lt d, gsrc_bits_lt a, guard_bits_lt g, trivial⟩
    rw [decodeRaw, decode11, hbase (26, 6) rfl, hbase (5, 6) rfl, (mbz_f800 w ()).2 (hbase (11, 5) rfl), qfield_of hd, gsrc_of
      ha, guard_of hg]; rfl
  | getq d g =>
    obtain ⟨rfl, hbase, hd, hg, -⟩ := fields_of_word [(21, 5), (0, 5)] [d.toNat, g.bits] h
      (by decide) ⟨nibble_lt d, guard_bits_lt g, trivial⟩
    rw [decodeRaw, decode11, hbase (26, 6) rfl, hbase (5, 6) rfl, (mbz_1ff800 w ()).2 (hbase (11, 10) rfl), gdst_of hd,
      guard_of hg]; rfl
  | setq a g | jmp a g | ret a g | jinit a g | join a g | sete a g | setf a g =>
    obtain ⟨rfl, hbase, ha, hg, -⟩ := fields_of_word [(16, 5), (0, 5)] [a.bits, g.bits] h
      (by decide) ⟨gsrc_bits_lt a, guard_bits_lt g, trivial⟩
    rw [decodeRaw, decode11, decode15, decode1B, decode23, hbase (26, 6) rfl, hbase (5, 6) rfl, (mbz_3e0f800 w ()).2 ⟨hbase
      (21, 5) rfl, hbase (11, 5) rfl⟩, gsrc_of ha, guard_of hg]; rfl
  | sel d a b q g =>
    obtain ⟨rfl, hbase, hd, ha, hb, hq, hg, -⟩ := fields_of_word [(21, 5), (16, 5), (11, 5), (5, 4), (0, 5)] [d.toNat, a.bits,
      b.bits, q.toNat, g.bits] h
      (by decide) ⟨nibble_lt d, gsrc_bits_lt a, gsrc_bits_lt b, q.isLt, guard_bits_lt g, trivial⟩
    rw [decodeRaw, decode12, hbase (26, 6) rfl, hbase (9, 2) rfl, gdst_of hd, gsrc_of ha, gsrc_of hb, extract_of hq, guard_of
      hg]; rfl
  | br o g | call o g =>
    obtain ⟨rfl, hbase, ho, hg, -⟩ := fields_of_word [(5, 21), (0, 5)] [o.toNat, g.bits] h
      (by decide) ⟨o.isLt, guard_bits_lt g, trivial⟩
    rw [decodeRaw, decode13, decode14, hbase (26, 6) rfl, extract_of ho, guard_of hg]; rfl
  | exit g | rft g | brk g =>
    obtain ⟨rfl, hbase, hg, -⟩ := fields_of_word [(0, 5)] [g.bits] h
      (by decide) ⟨guard_bits_lt g, trivial⟩
    rw [decodeRaw, decode15, decode17, hbase (26, 6) rfl, hbase (5, 6) rfl, (mbz_3fff800 w ()).2 (hbase (11, 15) rfl), guard_of
      hg]; rfl
  | trap i g =>
    obtain ⟨rfl, hbase, hi, hg, -⟩ := fields_of_word [(5, 11), (0, 5)] [i.toNat, g.bits] h
      (by decide) ⟨i.isLt, guard_bits_lt g, trivial⟩
    rw [decodeRaw, decode16, hbase (26, 6) rfl, (mbz_3ff0000 w ()).2 (hbase (16, 10) rfl), extract_of hi, guard_of hg]; rfl
  | sys a b g | tlbi a b g | stfw a b g | stfd a b g =>
    obtain ⟨rfl, hbase, ha, hb, hg, -⟩ := fields_of_word [(16, 5), (11, 5), (0, 5)] [a.bits, b.bits, g.bits] h
      (by decide) ⟨gsrc_bits_lt a, gsrc_bits_lt b, guard_bits_lt g, trivial⟩
    rw [decodeRaw, decode17, decode23, hbase (26, 6) rfl, hbase (5, 6) rfl, (mbz_3e00000 w ()).2 (hbase (21, 5) rfl), gsrc_of
      ha, gsrc_of hb, guard_of hg]; rfl
  | srd d n g =>
    obtain ⟨rfl, hbase, hd, hn, hg, -⟩ := fields_of_word [(21, 5), (5, 11), (0, 5)] [d.toNat, n.toNat, g.bits] h
      (by decide) ⟨nibble_lt d, n.isLt, guard_bits_lt g, trivial⟩
    rw [decodeRaw, decode18, hbase (26, 6) rfl, (mbz_1f0000 w ()).2 (hbase (16, 5) rfl), gdst_of hd, extract_of hn, guard_of
      hg]; rfl
  | swr a n g =>
    obtain ⟨rfl, hbase, ha, hn, hg, -⟩ := fields_of_word [(16, 5), (5, 11), (0, 5)] [a.bits, n.toNat, g.bits] h
      (by decide) ⟨gsrc_bits_lt a, n.isLt, guard_bits_lt g, trivial⟩
    rw [decodeRaw, decode19, hbase (26, 6) rfl, (mbz_3e00000 w ()).2 (hbase (21, 5) rfl), gsrc_of ha, extract_of hn, guard_of
      hg]; rfl
  | fork a o g =>
    obtain ⟨rfl, hbase, ha, ho, hg, -⟩ := fields_of_word [(21, 5), (5, 16), (0, 5)] [a.bits, o.toNat, g.bits] h
      (by decide) ⟨gsrc_bits_lt a, o.isLt, guard_bits_lt g, trivial⟩
    rw [decodeRaw, decode1A, hbase (26, 6) rfl, gsrc_of ha, extract_of ho, guard_of hg]; rfl
  | waitf a b q g | waitt a b q g | waitid a b q g =>
    obtain ⟨rfl, hbase, ha, hb, hq, hg, -⟩ := fields_of_word [(16, 5), (11, 5), (7, 4), (0, 5)] [a.bits, b.bits, q.toNat,
      g.bits] h
      (by decide) ⟨gsrc_bits_lt a, gsrc_bits_lt b, q.isLt, guard_bits_lt g, trivial⟩
    rw [decodeRaw, decode1C, hbase (26, 6) rfl, hbase (5, 2) rfl, (mbz_3e00000 w ()).2 (hbase (21, 5) rfl), gsrc_of ha, gsrc_of
      hb, extract_of hq, guard_of hg]; rfl
  | waitm d a b q g =>
    obtain ⟨rfl, hbase, hd, ha, hb, hq, hg, -⟩ := fields_of_word [(21, 5), (16, 5), (11, 5), (7, 4), (0, 5)] [d.bits, a.bits,
      b.bits, q.toNat, g.bits] h
      (by decide) ⟨gsrc_bits_lt d, gsrc_bits_lt a, gsrc_bits_lt b, q.isLt, guard_bits_lt g, trivial⟩
    rw [decodeRaw, decode1C, hbase (26, 6) rfl, hbase (5, 2) rfl, gsrc_of hd, gsrc_of ha, gsrc_of hb, extract_of hq, guard_of
      hg]; rfl
  | bar j b q g =>
    obtain ⟨rfl, hbase, hj, hb, hq, hg, -⟩ := fields_of_word [(16, 5), (11, 5), (7, 4), (0, 5)] [j.toNat, b.bits, q.toNat,
      g.bits] h
      (by decide) ⟨pair_lt j, gsrc_bits_lt b, q.isLt, guard_bits_lt g, trivial⟩
    rw [decodeRaw, decode1D, hbase (26, 6) rfl, hbase (5, 2) rfl, (mbz_3e00000 w ()).2 (hbase (21, 5) rfl), mask_of hj, gsrc_of
      hb, extract_of hq, guard_of hg]; rfl
  | recvw d a b q g | llock d a b q g | lrange d a b q g | lgroup d a b q g | lpath d a b q g | lctx d a b q g
  | ldsw d a b q g | ldsd d a b q g | ldcw d a b q g | ldcd d a b q g =>
    obtain ⟨rfl, hbase, hd, ha, hb, hq, hg, -⟩ := fields_of_word [(21, 5), (16, 5), (11, 5), (7, 4), (0, 5)] [d.toNat, a.bits,
      b.bits, q.toNat, g.bits] h
      (by decide) ⟨nibble_lt d, gsrc_bits_lt a, gsrc_bits_lt b, q.isLt, guard_bits_lt g, trivial⟩
    rw [decodeRaw, decode1D, decode1E, decode22, hbase (26, 6) rfl, hbase (5, 2) rfl, gdst_of hd, gsrc_of ha, gsrc_of hb,
      extract_of hq, guard_of hg]; rfl
  | gjoin j a g =>
    obtain ⟨rfl, hbase, hj, ha, hg, -⟩ := fields_of_word [(21, 5), (16, 5), (0, 5)] [j.toNat, a.bits, g.bits] h
      (by decide) ⟨pair_lt j, gsrc_bits_lt a, guard_bits_lt g, trivial⟩
    rw [decodeRaw, decode1F, hbase (26, 6) rfl, hbase (5, 6) rfl, (mbz_f800 w ()).2 (hbase (11, 5) rfl), mask_of hj, gsrc_of
      ha, guard_of hg]; rfl
  | ld d a z x o g =>
    obtain ⟨rfl, hbase, hd, ha, hz, hx, ho, hg, -⟩ := fields_of_word [(21, 5), (16, 5), (14, 2), (13, 1), (5, 8), (0, 5)]
      [d.toNat, a.bits, z.bits, x.toNat, o.toNat, g.bits] h
      (by decide) ⟨nibble_lt d, gsrc_bits_lt a, memSize_bits_lt z, bool_lt x, o.isLt, guard_bits_lt g, trivial⟩
    rw [decodeRaw, decode20, hbase (26, 6) rfl, gdst_of hd, gsrc_of ha, memSize_of hz, bit_of hx, extract_of ho, guard_of hg];
      rfl
  | st d a z o g =>
    obtain ⟨rfl, hbase, hd, ha, hz, ho, hg, -⟩ := fields_of_word [(21, 5), (16, 5), (14, 2), (5, 8), (0, 5)] [d.bits, a.bits,
      z.bits, o.toNat, g.bits] h
      (by decide) ⟨gsrc_bits_lt d, gsrc_bits_lt a, memSize_bits_lt z, o.isLt, guard_bits_lt g, trivial⟩
    rw [decodeRaw, decode21, hbase (26, 6) rfl, (mbz_2000 w ()).2 (hbase (13, 1) rfl), gsrc_of hd, gsrc_of ha, memSize_of hz,
      extract_of ho, guard_of hg]; rfl
  | aadd d a b z g | aand d a b z g | aor d a b z g | axor d a b z g | amin d a b z g | amax d a b z g | aminu d a b z g
  | amaxu d a b z g | axchg d a b z g | acas d a b z g =>
    obtain ⟨rfl, hbase, hd, ha, hb, hz, hg, -⟩ := fields_of_word [(21, 5), (16, 5), (11, 5), (5, 1), (0, 5)] [d.toNat, a.bits,
      b.bits, z.toNat, g.bits] h
      (by decide) ⟨nibble_lt d, gsrc_bits_lt a, gsrc_bits_lt b, bool_lt z, guard_bits_lt g, trivial⟩
    rw [decodeRaw, decode24, hbase (26, 6) rfl, hbase (6, 5) rfl, gdst_of hd, gsrc_of ha, gsrc_of hb, bit_of hz, guard_of hg];
      rfl
  | redadd a b z g | redand a b z g | redor a b z g | redxor a b z g | redmin a b z g | redmax a b z g | redminu a b z g
  | redmaxu a b z g =>
    obtain ⟨rfl, hbase, ha, hb, hz, hg, -⟩ := fields_of_word [(16, 5), (11, 5), (5, 1), (0, 5)] [a.bits, b.bits, z.toNat,
      g.bits] h
      (by decide) ⟨gsrc_bits_lt a, gsrc_bits_lt b, bool_lt z, guard_bits_lt g, trivial⟩
    rw [decodeRaw, decode25, hbase (26, 6) rfl, hbase (6, 5) rfl, (mbz_3e00000 w ()).2 (hbase (21, 5) rfl), gsrc_of ha, gsrc_of
      hb, bit_of hz, guard_of hg]; rfl
  | stflw d a b g | stfld d a b g =>
    obtain ⟨rfl, hbase, hd, ha, hb, hg, -⟩ := fields_of_word [(21, 5), (16, 5), (11, 5), (0, 5)] [d.bits, a.bits, b.bits,
      g.bits] h
      (by decide) ⟨gsrc_bits_lt d, gsrc_bits_lt a, gsrc_bits_lt b, guard_bits_lt g, trivial⟩
    rw [decodeRaw, decode26, hbase (26, 6) rfl, hbase (5, 6) rfl, gsrc_of hd, gsrc_of ha, gsrc_of hb, guard_of hg]; rfl
  | fence s g | fencesc s g =>
    obtain ⟨rfl, hbase, hs, hg, -⟩ := fields_of_word [(5, 3), (0, 5)] [s.bits, g.bits] h
      (by decide) ⟨scope_bits_lt s, guard_bits_lt g, trivial⟩
    rw [decodeRaw, decode27, hbase (26, 6) rfl, hbase (8, 3) rfl, (mbz_3fff800 w ()).2 (hbase (11, 15) rfl), scope_of hs,
      guard_of hg]; rfl
  | rel a s g =>
    obtain ⟨rfl, hbase, ha, hs, hg, -⟩ := fields_of_word [(16, 5), (5, 3), (0, 5)] [a.bits, s.bits, g.bits] h
      (by decide) ⟨gsrc_bits_lt a, scope_bits_lt s, guard_bits_lt g, trivial⟩
    rw [decodeRaw, decode27, hbase (26, 6) rfl, hbase (8, 3) rfl, (mbz_3e0f800 w ()).2 ⟨hbase (21, 5) rfl, hbase (11, 5) rfl⟩,
      gsrc_of ha, scope_of hs, guard_of hg]; rfl
  | _ => exact absurd hi (by simp [Instr.ctorIdx])

/-- The rows of majors 0x30 to 0x3A. -/
theorem decodeRaw_encode_vector {i : Instr} (hi : 144 ≤ i.ctorIdx ∧ i.ctorIdx < 207) {w : W32} {y : Option W32} (x : W32) (h :
  encode i = some (w, y)) :
    decodeRaw w (y.getD x) = .ok i := by
  cases i with
  | vadd v a b m e t | vsub v a b m e t | vmul v a b m e t | vmin v a b m e t | vmax v a b m e t | vand v a b m e t
  | vor v a b m e t | vxor v a b m e t | vandn v a b m e t | vsel v a b m e t | vscale v a b m e t | vperm v a b m e t =>
    obtain ⟨rfl, hbase, hv, ha, hb, hm, he, ht, -⟩ := fields_of_word [(21, 5), (16, 5), (11, 5), (3, 2), (2, 1), (0, 2)]
      [v.toNat, a.toNat, b.toNat, m.toNat, e.toNat, t.bits] h
      (by decide) ⟨v.isLt, a.isLt, b.isLt, m.isLt, bool_lt e, vtype_bits_lt t, trivial⟩
    rw [decodeRaw, decode30, decode35, decode36, hbase (26, 6) rfl, hbase (5, 6) rfl, extract_of hv, extract_of ha, extract_of
      hb, extract_of hm, bit_of he, vtype_of ht]; rfl
  | vabs v a m e t | vneg v a m e t | vmov v a m e t | vrcp v a m e t | vrsq v a m e t | vsqrt v a m e t | vexp2 v a m e t
  | vlog2 v a m e t =>
    obtain ⟨rfl, hbase, hv, ha, hm, he, ht, -⟩ := fields_of_word [(21, 5), (16, 5), (3, 2), (2, 1), (0, 2)] [v.toNat, a.toNat,
      m.toNat, e.toNat, t.bits] h
      (by decide) ⟨v.isLt, a.isLt, m.isLt, bool_lt e, vtype_bits_lt t, trivial⟩
    rw [decodeRaw, decode30, decode33, hbase (26, 6) rfl, hbase (5, 6) rfl, (mbz_f800 w ()).2 (hbase (11, 5) rfl), extract_of
      hv, extract_of ha, extract_of hm, bit_of he, vtype_of ht]; rfl
  | vshl v a b m e | vshr v a b m e | vsra v a b m e =>
    obtain ⟨rfl, hbase, hv, ha, hb, hm, he, -⟩ := fields_of_word [(21, 5), (16, 5), (11, 5), (3, 2), (2, 1)] [v.toNat, a.toNat,
      b.toNat, m.toNat, e.toNat] h
      (by decide) ⟨v.isLt, a.isLt, b.isLt, m.isLt, bool_lt e, trivial⟩
    rw [decodeRaw, decode30, hbase (26, 6) rfl, hbase (5, 6) rfl, (mbz_3 w ()).2 (hbase (0, 2) rfl), extract_of hv, extract_of
      ha, extract_of hb, extract_of hm, bit_of he]; rfl
  | vcmpeq k a b m e t | vcmpne k a b m e t | vcmplt k a b m e t | vcmple k a b m e t =>
    obtain ⟨rfl, hbase, hk, ha, hb, hm, he, ht, -⟩ := fields_of_word [(21, 5), (16, 5), (11, 5), (3, 2), (2, 1), (0, 2)]
      [k.toNat, a.toNat, b.toNat, m.toNat, e.toNat, t.bits] h
      (by decide) ⟨pair_lt k, a.isLt, b.isLt, m.isLt, bool_lt e, vtype_bits_lt t, trivial⟩
    rw [decodeRaw, decode30, hbase (26, 6) rfl, hbase (5, 6) rfl, mask_of hk, extract_of ha, extract_of hb, extract_of hm,
      bit_of he, vtype_of ht]; rfl
  | vfma v a b c m e t | vfms v a b c m e t =>
    obtain ⟨rfl, hbase, hv, ha, hb, hc, hm, he, ht, -⟩ := fields_of_word [(21, 5), (16, 5), (11, 5), (6, 5), (4, 2), (3, 1),
      (1, 2)] [v.toNat, a.toNat, b.toNat, c.toNat, m.toNat, e.toNat, t.bits] h
      (by decide) ⟨v.isLt, a.isLt, b.isLt, c.isLt, m.isLt, bool_lt e, vtype_bits_lt t, trivial⟩
    rw [decodeRaw, decode31, hbase (26, 6) rfl, hbase (0, 1) rfl, extract_of hv, extract_of ha, extract_of hb, extract_of hc,
      extract_of hm, bit_of he, vtype_of ht]; rfl
  | vadds v a b m e t | vsubs v a b m e t | vmuls v a b m e t | vmins v a b m e t | vmaxs v a b m e t | vrot v a b m e t =>
    obtain ⟨rfl, hbase, hv, ha, hb, hm, he, ht, -⟩ := fields_of_word [(21, 5), (16, 5), (11, 5), (3, 2), (2, 1), (0, 2)]
      [v.toNat, a.toNat, b.bits, m.toNat, e.toNat, t.bits] h
      (by decide) ⟨v.isLt, a.isLt, gsrc_bits_lt b, m.isLt, bool_lt e, vtype_bits_lt t, trivial⟩
    rw [decodeRaw, decode32, decode36, hbase (26, 6) rfl, hbase (5, 6) rfl, extract_of hv, extract_of ha, gsrc_of hb,
      extract_of hm, bit_of he, vtype_of ht]; rfl
  | vshls v a b m e | vshrs v a b m e | vsras v a b m e =>
    obtain ⟨rfl, hbase, hv, ha, hb, hm, he, -⟩ := fields_of_word [(21, 5), (16, 5), (11, 5), (3, 2), (2, 1)] [v.toNat, a.toNat,
      b.bits, m.toNat, e.toNat] h
      (by decide) ⟨v.isLt, a.isLt, gsrc_bits_lt b, m.isLt, bool_lt e, trivial⟩
    rw [decodeRaw, decode32, hbase (26, 6) rfl, hbase (5, 6) rfl, (mbz_3 w ()).2 (hbase (0, 2) rfl), extract_of hv, extract_of
      ha, gsrc_of hb, extract_of hm, bit_of he]; rfl
  | vcmpeqs k a b m e t | vcmplts k a b m e t =>
    obtain ⟨rfl, hbase, hk, ha, hb, hm, he, ht, -⟩ := fields_of_word [(21, 5), (16, 5), (11, 5), (3, 2), (2, 1), (0, 2)]
      [k.toNat, a.toNat, b.bits, m.toNat, e.toNat, t.bits] h
      (by decide) ⟨pair_lt k, a.isLt, gsrc_bits_lt b, m.isLt, bool_lt e, vtype_bits_lt t, trivial⟩
    rw [decodeRaw, decode32, hbase (26, 6) rfl, hbase (5, 6) rfl, mask_of hk, extract_of ha, gsrc_of hb, extract_of hm, bit_of
      he, vtype_of ht]; rfl
  | vbcast v b m e t =>
    obtain ⟨rfl, hbase, hv, hb, hm, he, ht, -⟩ := fields_of_word [(21, 5), (11, 5), (3, 2), (2, 1), (0, 2)] [v.toNat, b.bits,
      m.toNat, e.toNat, t.bits] h
      (by decide) ⟨v.isLt, gsrc_bits_lt b, m.isLt, bool_lt e, vtype_bits_lt t, trivial⟩
    rw [decodeRaw, decode32, hbase (26, 6) rfl, hbase (5, 6) rfl, (mbz_1f0000 w ()).2 (hbase (16, 5) rfl), extract_of hv,
      gsrc_of hb, extract_of hm, bit_of he, vtype_of ht]; rfl
  | vcvt v a c m e t =>
    obtain ⟨rfl, hbase, hv, ha, hc, hm, he, ht, -⟩ := fields_of_word [(21, 5), (16, 5), (11, 5), (3, 2), (2, 1), (0, 2)]
      [v.toNat, a.toNat, c.toNat, m.toNat, e.toNat, t.bits] h
      (by decide) ⟨v.isLt, a.isLt, c.isLt, m.isLt, bool_lt e, vtype_bits_lt t, trivial⟩
    rw [decodeRaw, decode34, hbase (26, 6) rfl, hbase (5, 6) rfl, extract_of hv, extract_of ha, extract_of hc, extract_of hm,
      bit_of he, vtype_of ht]; rfl
  | vpack v a c e =>
    obtain ⟨rfl, hbase, hv, ha, hc, he, -⟩ := fields_of_word [(21, 5), (16, 5), (11, 5), (2, 1)] [v.toNat, a.toNat, c.toNat,
      e.toNat] h
      (by decide) ⟨v.isLt, a.isLt, c.isLt, bool_lt e, trivial⟩
    rw [decodeRaw, decode35, hbase (26, 6) rfl, hbase (5, 6) rfl, (mbz_18 w ()).2 (hbase (3, 2) rfl), (typeF32_eq_ok_iff w
      ()).2 (hbase (0, 2) rfl), extract_of hv, extract_of ha, extract_of hc, bit_of he]; rfl
  | vunpk v a c e =>
    obtain ⟨rfl, hbase, hv, ha, hc, he, -⟩ := fields_of_word [(21, 5), (16, 5), (11, 3), (2, 1)] [v.toNat, a.toNat, c.toNat,
      e.toNat] h
      (by decide) ⟨v.isLt, a.isLt, c.isLt, bool_lt e, trivial⟩
    rw [decodeRaw, decode35, hbase (26, 6) rfl, hbase (5, 6) rfl, (mbz_c018 w ()).2 ⟨hbase (14, 2) rfl, hbase (3, 2) rfl⟩,
      (typeF32_eq_ok_iff w ()).2 (hbase (0, 2) rfl), extract_of hv, extract_of ha, extract_of hc, bit_of he]; rfl
  | vred v a o m e t | vscan v a o m e t =>
    obtain ⟨rfl, hbase, hv, ha, ho, hm, he, ht, -⟩ := fields_of_word [(21, 5), (16, 5), (11, 5), (3, 2), (2, 1), (0, 2)]
      [v.toNat, a.toNat, o.toNat, m.toNat, e.toNat, t.bits] h
      (by decide) ⟨v.isLt, a.isLt, o.isLt, m.isLt, bool_lt e, vtype_bits_lt t, trivial⟩
    rw [decodeRaw, decode36, hbase (26, 6) rfl, hbase (5, 6) rfl, extract_of hv, extract_of ha, extract_of ho, extract_of hm,
      bit_of he, vtype_of ht]; rfl
  | vextr d a b e t =>
    obtain ⟨rfl, hbase, hd, ha, hb, he, ht, -⟩ := fields_of_word [(21, 5), (16, 5), (11, 5), (2, 1), (0, 2)] [d.toNat, a.toNat,
      b.bits, e.toNat, t.bits] h
      (by decide) ⟨nibble_lt d, a.isLt, gsrc_bits_lt b, bool_lt e, vtype_bits_lt t, trivial⟩
    rw [decodeRaw, decode36, hbase (26, 6) rfl, hbase (5, 6) rfl, (mbz_18 w ()).2 (hbase (3, 2) rfl), gdst_of hd, extract_of
      ha, gsrc_of hb, bit_of he, vtype_of ht]; rfl
  | vins v a b m t =>
    obtain ⟨rfl, hbase, hv, ha, hb, hm, ht, -⟩ := fields_of_word [(21, 5), (16, 5), (11, 5), (3, 2), (0, 2)] [v.toNat, a.bits,
      b.bits, m.toNat, t.bits] h
      (by decide) ⟨v.isLt, gsrc_bits_lt a, gsrc_bits_lt b, m.isLt, vtype_bits_lt t, trivial⟩
    rw [decodeRaw, decode36, hbase (26, 6) rfl, hbase (5, 6) rfl, (mbz_4 w ()).2 (hbase (2, 1) rfl), extract_of hv, gsrc_of ha,
      gsrc_of hb, extract_of hm, vtype_of ht]; rfl
  | mand k a b e | mor k a b e | mxor k a b e | mandn k a b e =>
    obtain ⟨rfl, hbase, hk, ha, hb, he, -⟩ := fields_of_word [(21, 5), (16, 5), (11, 5), (2, 1)] [k.toNat, a.toNat, b.toNat,
      e.toNat] h
      (by decide) ⟨pair_lt k, pair_lt a, pair_lt b, bool_lt e, trivial⟩
    rw [decodeRaw, decode37, hbase (26, 6) rfl, hbase (5, 6) rfl, (mbz_1b w ()).2 ⟨hbase (3, 2) rfl, hbase (0, 2) rfl⟩, mask_of
      hk, mask_of ha, mask_of hb, bit_of he]; rfl
  | mnot k a e =>
    obtain ⟨rfl, hbase, hk, ha, he, -⟩ := fields_of_word [(21, 5), (16, 5), (2, 1)] [k.toNat, a.toNat, e.toNat] h
      (by decide) ⟨pair_lt k, pair_lt a, bool_lt e, trivial⟩
    rw [decodeRaw, decode37, hbase (26, 6) rfl, hbase (5, 6) rfl, (mbz_f81b w ()).2 ⟨hbase (11, 5) rfl, hbase (3, 2) rfl, hbase
      (0, 2) rfl⟩, mask_of hk, mask_of ha, bit_of he]; rfl
  | mpopc d a e | mfirst d a e =>
    obtain ⟨rfl, hbase, hd, ha, he, -⟩ := fields_of_word [(21, 5), (16, 5), (2, 1)] [d.toNat, a.toNat, e.toNat] h
      (by decide) ⟨nibble_lt d, pair_lt a, bool_lt e, trivial⟩
    rw [decodeRaw, decode37, hbase (26, 6) rfl, hbase (5, 6) rfl, (mbz_f81b w ()).2 ⟨hbase (11, 5) rfl, hbase (3, 2) rfl, hbase
      (0, 2) rfl⟩, gdst_of hd, mask_of ha, bit_of he]; rfl
  | mset k a =>
    obtain ⟨rfl, hbase, hk, ha, -⟩ := fields_of_word [(21, 5), (16, 5)] [k.toNat, a.bits] h
      (by decide) ⟨pair_lt k, gsrc_bits_lt a, trivial⟩
    rw [decodeRaw, decode37, hbase (26, 6) rfl, hbase (5, 6) rfl, (mbz_f81f w ()).2 ⟨hbase (11, 5) rfl, hbase (0, 5) rfl⟩,
      mask_of hk, gsrc_of ha]; rfl
  | vld v a o m e | vst v a o m e =>
    obtain ⟨rfl, hbase, hv, ha, ho, hm, he, -⟩ := fields_of_word [(21, 5), (16, 5), (7, 9), (5, 2), (4, 1)] [v.toNat, a.bits,
      o.toNat, m.toNat, e.toNat] h
      (by decide) ⟨v.isLt, gsrc_bits_lt a, o.isLt, m.isLt, bool_lt e, trivial⟩
    rw [decodeRaw, decode38, decode39, hbase (26, 6) rfl, (mbz_f w ()).2 (hbase (0, 4) rfl), extract_of hv, gsrc_of ha,
      extract_of ho, extract_of hm, bit_of he]; rfl
  | vldt v a b m e | vstt v a b m e | vstfl v a b m e =>
    obtain ⟨rfl, hbase, hv, ha, hb, hm, he, -⟩ := fields_of_word [(21, 5), (16, 5), (11, 5), (3, 2), (2, 1)] [v.toNat, a.bits,
      b.bits, m.toNat, e.toNat] h
      (by decide) ⟨v.isLt, gsrc_bits_lt a, gsrc_bits_lt b, m.isLt, bool_lt e, trivial⟩
    rw [decodeRaw, decode3A, hbase (26, 6) rfl, hbase (5, 6) rfl, (mbz_3 w ()).2 (hbase (0, 2) rfl), extract_of hv, gsrc_of ha,
      gsrc_of hb, extract_of hm, bit_of he]; rfl
  | vldx v a b m e | vstx v a b m e =>
    obtain ⟨rfl, hbase, hv, ha, hb, hm, he, -⟩ := fields_of_word [(21, 5), (16, 5), (11, 5), (3, 2), (2, 1)] [v.toNat, a.bits,
      b.toNat, m.toNat, e.toNat] h
      (by decide) ⟨v.isLt, gsrc_bits_lt a, b.isLt, m.isLt, bool_lt e, trivial⟩
    rw [decodeRaw, decode3A, hbase (26, 6) rfl, hbase (5, 6) rfl, (mbz_3 w ()).2 (hbase (0, 2) rfl), extract_of hv, gsrc_of ha,
      extract_of hb, extract_of hm, bit_of he]; rfl
  | _ => exact absurd hi (by simp [Instr.ctorIdx])

/-- The rows of majors 0x3B to 0x3E. -/
theorem decodeRaw_encode_engine {i : Instr} (hi : 207 ≤ i.ctorIdx ∧ i.ctorIdx < 225) {w : W32} {y : Option W32} (x : W32) (h :
  encode i = some (w, y)) :
    decodeRaw w (y.getD x) = .ok i := by
  cases i with
  | mma d a b u g | mdrain d a b u g | magr d a b u g | cpy d a b u g | chain d a b u g | send d a b u g | post d a b u g
  | rring d a b u g | rprobe d a b u g | launch d a b u g =>
    obtain ⟨rfl, hbase, hd, ha, hb, hg, -⟩ := fields_of_word [(16, 5), (11, 5), (5, 5), (0, 5)] [d.toNat, a.bits, b.bits,
      g.bits] h
      (by decide) ⟨nibble_lt d, gsrc_bits_lt a, gsrc_bits_lt b, guard_bits_lt g, trivial⟩
    rw [decodeRaw, decode3B, decode3C, decode3D, decode3E, hbase (26, 6) rfl, hbase (21, 5) rfl, (mbz_400 w ()).2 (hbase (10,
      1) rfl), tokenReg_of hd, gsrc_of ha, gsrc_of hb, guard_of hg]; rfl
  | mwld d u g | mzero d u g | mstat d u g | mtest d u g | cstat d u g =>
    obtain ⟨rfl, hbase, hd, hg, -⟩ := fields_of_word [(16, 5), (0, 5)] [d.toNat, g.bits] h
      (by decide) ⟨nibble_lt d, guard_bits_lt g, trivial⟩
    rw [decodeRaw, decode3B, decode3C, hbase (26, 6) rfl, hbase (21, 5) rfl, (mbz_ffe0 w ()).2 (hbase (5, 11) rfl), tokenReg_of
      hd, guard_of hg]; rfl
  | lstat d a u g | preempt d a u g | signal d a u g =>
    obtain ⟨rfl, hbase, hd, ha, hg, -⟩ := fields_of_word [(16, 5), (11, 5), (0, 5)] [d.toNat, a.bits, g.bits] h
      (by decide) ⟨nibble_lt d, gsrc_bits_lt a, guard_bits_lt g, trivial⟩
    rw [decodeRaw, decode3E, hbase (26, 6) rfl, hbase (21, 5) rfl, (mbz_7e0 w ()).2 (hbase (5, 6) rfl), tokenReg_of hd, gsrc_of
      ha, guard_of hg]; rfl
  | _ => exact absurd hi (by simp [Instr.ctorIdx])

/-- What the readers of `decode` ask of a word, in terms of its fields. -/
theorem read_iffs (w : W32) :
    (∀ d, gdst w = .ok d ↔ wfield w 21 5 = d.toNat) ∧ (∀ d, tokenReg w = .ok d ↔ wfield w 16 5 = d.toNat) ∧
    (∀ lo d, qfield w lo = .ok d ↔ wfield w lo 5 = d.toNat) ∧ (∀ lo k, mask w lo = .ok k ↔ wfield w lo 5 = k.toNat) ∧
    (∀ s, scope w = .ok s ↔ wfield w 5 3 = s.bits) ∧ ∀ u, typeF32 w = .ok u ↔ wfield w 0 2 = 1 :=
  ⟨gdst_eq_ok_iff w, tokenReg_eq_ok_iff w, qfield_eq_ok_iff w, mask_eq_ok_iff w, scope_eq_ok_iff w, typeF32_eq_ok_iff w⟩

/-- The values that `decode` reads, as numbers, are the word's fields. -/
theorem read_bits (w : W32) :
    (∀ lo, (gsrc w lo).bits = wfield w lo 5) ∧ (guard w).bits = wfield w 0 5 ∧ (∀ lo, (vtype w lo).bits = wfield w lo 2) ∧
    (memSize w).bits = wfield w 14 2 ∧ (∀ lo n, (w.extractLsb' lo n).toNat = wfield w lo n) ∧
    ∀ p, (w.getLsbD p).toNat = wfield w p 1 :=
  ⟨fun lo => ((gsrc_eq_iff w lo _).1 rfl).symm, ((guard_eq_iff w _).1 rfl).symm, fun lo => ((vtype_eq_iff w lo _).1 rfl).symm,
    ((memSize_eq_iff w _).1 rfl).symm, fun _ _ => rfl, fun p => ((getLsbD_eq_iff w p _).1 rfl).symm⟩

/-! ### A decoded word is the word of its instruction

A word is the sum of its fields (`toNat_eq_fields`, and the divisions of them that a group of majors needs); the reads that
  `decode`
makes of it are all of them, so that the row's sum is the word. -/

theorem subfields_register (w : W32) :
    wfield w 5 11 = wfield w 11 5 * 64 + wfield w 5 6 ∧
    wfield w 16 10 = wfield w 21 5 * 32 + wfield w 16 5 ∧
    wfield w 11 15 = wfield w 16 10 * 32 + wfield w 11 5 ∧
    wfield w 11 10 = wfield w 16 5 * 32 + wfield w 11 5 :=
  ⟨wfield_add w 5 6 5, wfield_add w 16 5 5, wfield_add w 11 5 10, wfield_add w 11 5 5⟩

/-- The majors whose rows hold register fields, a selector and a guard. -/
theorem encode_of_decodeRaw_register {w x : W32} {i : Instr} (hm : wfield w 26 6 ∈ [0x01, 0x02, 0x0A, 0x0B, 0x0C, 0x0E, 0x0F,
  0x11, 0x15, 0x17, 0x1B, 0x1F, 0x23, 0x26])
    (h : decodeRaw w x = .ok i) : encode i = some (w, if isWide w then some x else none) := by
  simp only [List.mem_cons, List.not_mem_nil, or_false] at hm
  unfold decodeRaw decode01 decode02 decode0A decode0B decode0C decode0E decode0F decode11 decode15 decode17 decode1B decode1F
    decode23 decode26 at h
  split at h <;> rename_i hmaj <;> (try split at h) <;> (try (cases h; done)) <;> (try omega)
  all_goals
    have hw := toNat_eq_fields w
    have hsub := subfields_register w
    simp only [bind_eq_ok_iff, pure_eq_ok_iff, read_iffs, mbz_iffs, exists_const] at *
    repeat obtain ⟨_, h⟩ := h
    simp only [isWide, hmaj]
    refine word_eq_some_of _ ?_
    simp only [read_bits]
    omega

theorem subfields_subfield (w : W32) :
    wfield w 11 15 = wfield w 16 10 * 32 + wfield w 11 5 ∧
    wfield w 16 10 = wfield w 21 5 * 32 + wfield w 16 5 ∧
    wfield w 5 11 = wfield w 11 5 * 64 + wfield w 5 6 ∧
    wfield w 5 16 = wfield w 16 5 * 2048 + wfield w 5 11 ∧
    wfield w 5 21 = wfield w 21 5 * 65536 + wfield w 5 16 ∧
    wfield w 5 6 = wfield w 7 4 * 4 + wfield w 5 2 ∧
    wfield w 5 6 = wfield w 6 5 * 2 + wfield w 5 1 ∧
    wfield w 11 5 = wfield w 14 2 * 8 + wfield w 11 3 ∧
    wfield w 11 3 = wfield w 13 1 * 4 + wfield w 11 2 ∧
    wfield w 5 8 = wfield w 11 2 * 64 + wfield w 5 6 ∧
    wfield w 8 8 = wfield w 11 5 * 8 + wfield w 8 3 ∧
    wfield w 5 6 = wfield w 8 3 * 8 + wfield w 5 3 ∧
    wfield w 10 6 = wfield w 11 5 * 2 + wfield w 10 1 ∧
    wfield w 5 6 = wfield w 10 1 * 32 + wfield w 5 5 ∧
    wfield w 5 6 = wfield w 9 2 * 16 + wfield w 5 4 :=
  ⟨wfield_add w 11 5 10, wfield_add w 16 5 5, wfield_add w 5 6 5, wfield_add w 5 11 5, wfield_add w 5 16 5, wfield_add w 5 2 4,
    wfield_add w 5 1 5, wfield_add w 11 3 2, wfield_add w 11 2 1, wfield_add w 5 6 2, wfield_add w 8 3 5, wfield_add w 5 3 3,
    wfield_add w 10 1 5, wfield_add w 5 5 1, wfield_add w 5 4 2⟩

/-- The scalar majors with immediates, sizes, scopes or predicates between the selector and the guard. -/
theorem encode_of_decodeRaw_subfield {w x : W32} {i : Instr} (hm : wfield w 26 6 ∈ [0x03, 0x04, 0x05, 0x06, 0x07, 0x08, 0x09,
  0x0D, 0x12, 0x13, 0x14, 0x16, 0x18, 0x19, 0x1A, 0x1D, 0x20, 0x21, 0x24, 0x25, 0x27])
    (h : decodeRaw w x = .ok i) : encode i = some (w, if isWide w then some x else none) := by
  simp only [List.mem_cons, List.not_mem_nil, or_false] at hm
  unfold decodeRaw decode03 decode04 decode05 decode06 decode07 decode08 decode09 decode0D decode12 decode13 decode14 decode16
    decode18 decode19 decode1A decode1D decode20 decode21 decode24 decode25 decode27 at h
  split at h <;> rename_i hmaj <;> (try split at h) <;> (try (cases h; done)) <;> (try omega)
  all_goals
    have hw := toNat_eq_fields w
    have hsub := subfields_subfield w
    simp only [bind_eq_ok_iff, pure_eq_ok_iff, read_iffs, mbz_iffs, exists_const] at *
    repeat obtain ⟨_, h⟩ := h
    simp only [isWide, hmaj]
    refine word_eq_some_of _ ?_
    simp only [read_bits]
    omega

theorem subfields_exhausted (w : W32) :
    wfield w 5 6 = wfield w 7 4 * 4 + wfield w 5 2 ∧
    wfield w 8 8 = wfield w 11 5 * 8 + wfield w 8 3 ∧
    wfield w 5 6 = wfield w 8 3 * 8 + wfield w 5 3 ∧
    wfield w 5 6 = wfield w 6 5 * 2 + wfield w 5 1 ∧
    wfield w 4 2 = wfield w 5 1 * 2 + wfield w 4 1 ∧
    wfield w 0 5 = wfield w 4 1 * 16 + wfield w 0 4 ∧
    wfield w 0 4 = wfield w 3 1 * 8 + wfield w 0 3 ∧
    wfield w 0 3 = wfield w 1 2 * 2 + wfield w 0 1 ∧
    wfield w 0 1 < 2 ∧
    wfield w 5 2 < 4 ∧
    wfield w 5 3 < 8 :=
  ⟨wfield_add w 5 2 4, wfield_add w 8 3 5, wfield_add w 5 3 3, wfield_add w 5 1 5, wfield_add w 4 1 1, wfield_add w 0 4 1,
    wfield_add w 0 3 1, wfield_add w 0 1 2, wfield_lt w 0 1, wfield_lt w 5 2, wfield_lt w 5 3⟩

/-- The majors that have a row for every value of their selector. -/
theorem encode_of_decodeRaw_exhausted {w x : W32} {i : Instr} (hm : wfield w 26 6 ∈ [0x10, 0x1C, 0x1E, 0x22, 0x31])
    (h : decodeRaw w x = .ok i) : encode i = some (w, if isWide w then some x else none) := by
  simp only [List.mem_cons, List.not_mem_nil, or_false] at hm
  unfold decodeRaw decode10 decode1C decode1E decode22 decode31 at h
  split at h <;> rename_i hmaj <;> (try split at h) <;> (try (cases h; done)) <;> (try omega)
  all_goals
    have hw := toNat_eq_fields w
    have hsub := subfields_exhausted w
    simp only [bind_eq_ok_iff, pure_eq_ok_iff, read_iffs, mbz_iffs, exists_const, imp_false] at *
    repeat obtain ⟨_, h⟩ := h
    simp only [isWide, hmaj]
    refine word_eq_some_of _ ?_
    simp only [read_bits]
    omega

theorem subfields_vector (w : W32) :
    wfield w 0 5 = wfield w 3 2 * 8 + wfield w 0 3 ∧
    wfield w 0 3 = wfield w 2 1 * 4 + wfield w 0 2 ∧
    wfield w 11 5 = wfield w 14 2 * 8 + wfield w 11 3 ∧
    wfield w 5 6 = wfield w 7 4 * 4 + wfield w 5 2 ∧
    wfield w 7 9 = wfield w 11 5 * 16 + wfield w 7 4 ∧
    wfield w 0 5 = wfield w 4 1 * 16 + wfield w 0 4 :=
  ⟨wfield_add w 0 3 2, wfield_add w 0 2 1, wfield_add w 11 3 2, wfield_add w 5 2 4, wfield_add w 7 4 5, wfield_add w 0 4 1⟩

/-- The vector majors. -/
theorem encode_of_decodeRaw_vector {w x : W32} {i : Instr} (hm : wfield w 26 6 ∈ [0x30, 0x32, 0x33, 0x34, 0x35, 0x36, 0x37, 0x38,
  0x39, 0x3A])
    (h : decodeRaw w x = .ok i) : encode i = some (w, if isWide w then some x else none) := by
  simp only [List.mem_cons, List.not_mem_nil, or_false] at hm
  unfold decodeRaw decode30 decode32 decode33 decode34 decode35 decode36 decode37 decode38 decode39 decode3A at h
  split at h <;> rename_i hmaj <;> (try split at h) <;> (try (cases h; done)) <;> (try omega)
  all_goals
    have hw := toNat_eq_fields w
    have hsub := subfields_vector w
    simp only [bind_eq_ok_iff, pure_eq_ok_iff, read_iffs, mbz_iffs, exists_const] at *
    repeat obtain ⟨_, h⟩ := h
    simp only [isWide, hmaj]
    refine word_eq_some_of _ ?_
    simp only [read_bits]
    omega

theorem subfields_engine (w : W32) :
    wfield w 10 6 = wfield w 11 5 * 2 + wfield w 10 1 ∧
    wfield w 5 6 = wfield w 10 1 * 32 + wfield w 5 5 ∧
    wfield w 5 11 = wfield w 11 5 * 64 + wfield w 5 6 :=
  ⟨wfield_add w 10 1 5, wfield_add w 5 5 1, wfield_add w 5 6 5⟩

/-- The majors of format E. -/
theorem encode_of_decodeRaw_engine {w x : W32} {i : Instr} (hm : wfield w 26 6 ∈ [0x3B, 0x3C, 0x3D, 0x3E])
    (h : decodeRaw w x = .ok i) : encode i = some (w, if isWide w then some x else none) := by
  simp only [List.mem_cons, List.not_mem_nil, or_false] at hm
  unfold decodeRaw decode3B decode3C decode3D decode3E at h
  split at h <;> rename_i hmaj <;> (try split at h) <;> (try (cases h; done)) <;> (try omega)
  all_goals
    have hw := toNat_eq_fields w
    have hsub := subfields_engine w
    simp only [bind_eq_ok_iff, pure_eq_ok_iff, read_iffs, mbz_iffs, exists_const] at *
    repeat obtain ⟨_, h⟩ := h
    simp only [isWide, hmaj]
    refine word_eq_some_of _ ?_
    simp only [read_bits]
    omega

theorem major_of_decodeRaw {w x : W32} {i : Instr} (h : decodeRaw w x = .ok i) :
    wfield w 26 6 ∈ [0x01, 0x02, 0x0A, 0x0B, 0x0C, 0x0E, 0x0F, 0x11, 0x15, 0x17, 0x1B, 0x1F, 0x23, 0x26] ∨ wfield w 26 6 ∈ [0x03,
      0x04, 0x05, 0x06, 0x07, 0x08, 0x09, 0x0D, 0x12, 0x13, 0x14, 0x16, 0x18, 0x19, 0x1A, 0x1D, 0x20, 0x21, 0x24, 0x25, 0x27] ∨
      wfield w 26 6 ∈ [0x10, 0x1C, 0x1E, 0x22, 0x31] ∨ wfield w 26 6 ∈ [0x30, 0x32, 0x33, 0x34, 0x35, 0x36, 0x37, 0x38, 0x39,
      0x3A] ∨ wfield w 26 6 ∈ [0x3B, 0x3C, 0x3D, 0x3E] := by
  unfold decodeRaw at h
  split at h <;> rename_i hm <;> (try (cases h; done)) <;> simp [hm]

theorem encode_of_decodeRaw {w x : W32} {i : Instr} (h : decodeRaw w x = .ok i) :
    encode i = some (w, if isWide w then some x else none) := by
  rcases major_of_decodeRaw h with hm | hm | hm | hm | hm
  · exact encode_of_decodeRaw_register hm h
  · exact encode_of_decodeRaw_subfield hm h
  · exact encode_of_decodeRaw_exhausted hm h
  · exact encode_of_decodeRaw_vector hm h
  · exact encode_of_decodeRaw_engine hm h

theorem decode_eq_ok_iff (w x : W32) (i : Instr) : decode w x = .ok i ↔ decodeRaw w x = .ok i ∧ i.wf = true := by
  unfold decode
  cases decodeRaw w x with
  | error e => simp
  | ok j =>
    simp only [Except.ok.injEq]
    split <;> rename_i hj
    · exact ⟨fun h => ⟨Except.ok.inj h, Except.ok.inj h ▸ hj⟩, fun h => congrArg _ h.1⟩
    · exact ⟨nofun, fun h => absurd (h.1 ▸ h.2) hj⟩

/-- Only the 225 rows that are instructions have words; they are the first of `Instr`. -/
theorem ctorIdx_of_encode {i : Instr} {p : W32 × Option W32} (h : encode i = some p) : i.ctorIdx < 225 := by
  cases i <;> cases h <;> exact of_decide_eq_true rfl

theorem decodeRaw_of_encode {i : Instr} {w : W32} {y : Option W32} (x : W32) (h : encode i = some (w, y)) :
    decodeRaw w (y.getD x) = .ok i := by
  have hi := ctorIdx_of_encode h
  by_cases h1 : i.ctorIdx < 144
  · exact decodeRaw_encode_scalar h1 x h
  by_cases h2 : i.ctorIdx < 207
  · exact decodeRaw_encode_vector ⟨Nat.le_of_not_lt h1, h2⟩ x h
  · exact decodeRaw_encode_engine ⟨Nat.le_of_not_lt h2, hi⟩ x h

/-- Settles O58: a row's word reads, place by place, as the values that were put there, and its fixed bits choose the row
(`decodeRaw_of_encode`); the limits of step 1 of R69 hold by assumption. -/
theorem encodeDecode : Obligations.EncodeDecode := by
  intro i w w1 x hwf h
  exact (decode_eq_ok_iff _ _ _).2 ⟨decodeRaw_of_encode x h, hwf⟩

/-- Settles O59: what `decode` reads of a word are all its fields, and the row's sum of them is the word (`encode_of_decodeRaw`).
  -/
theorem decodeEncode : Obligations.DecodeEncode := by
  intro i w w1 h
  obtain ⟨hraw, hwf⟩ := (decode_eq_ok_iff _ _ _).1 h
  exact ⟨hwf, encode_of_decodeRaw hraw⟩

end Sys2Proof

end

section
/-!
What the checks of R69, a trap, an implicit block and a stop do to the machine (R47, R48, R61, R66, R97, R310), and the statements
about guards, operands and traps.
-/

open Sys2Proof Sys2Proof.Machine Sys2Proof.Claims

namespace Sys2Proof.Machine

/-! ### Threads with the same registers -/

theorem Thread.sameBut_of_registers {x y : Thread} (rs : List RegRef) (hg : y.g = x.g) (hq : y.q = x.q) (hm : y.m = x.m)
    (hv : y.v = x.v) : Thread.sameBut rs x y :=
  fun r hr => Thread.sameReg_congr hg hq hm hv (Thread.sameBut_refl x rs r hr)

/-- A change of the issuing thread alone touches no memory. -/
theorem SameMemory.modMe (s : State) (f : Thread → Thread) : SameMemory s (s.modMe f) := ⟨fun _ => rfl, rfl, rfl⟩

@[simp] theorem State.begin_cur (s : State) : s.begin.cur = s.cur := rfl
theorem State.me_begin (s : State) : s.begin.me = s.me.enterRegion := s.me_modMe _

/-! ### Taking a trap (R97) -/

/-- A thread that has taken a trap and stands at the first word of the block `b` at `tvb`. -/
def Thread.takeTrap (f : FaultInfo) (tpc t3 : W64) (dly : Option (BitVec 19)) (b : Block) (tvb : BitVec 19) (t : Thread) : Thread :=
  { t with
    tcause := BitVec.ofNat 64 f.cause.code, tpc := tpc, tinfo := #v[f.t0, f.t1, f.t2, t3], inHandler := true
    deferred := dly.isSome, res := dly.getD t.res, bh := tvb, pc := tvb + 8, block := some b, fetch := none, crc := 0xFFFFF
    blocked := none, hold := .none, joinHeld := t.pjoin.isSome, restarted := false }

theorem enterTrap_eq_takeTrap {tid : Tid} {s : State} {b : Block} (hin : (s.th tid).inHandler = false)
    (hb : fetchAt s tid.core ((s.th tid).tvb.setWidth 64) .trapEntry = .block b) (f : FaultInfo) (tpc t3 : W64)
    (dly : Option (BitVec 19)) :
    enterTrap tid f tpc t3 dly s = s.modTh tid (Thread.takeTrap f tpc t3 dly b (s.th tid).tvb) := by
  have hc : ({ b with compare := b.compare && true } : Block) = b := by simp
  simp only [enterTrap, hin, Bool.false_eq_true, if_false, enterHandler, hb]
  refine congrArg (s.modTh tid) (funext fun t => ?_)
  simp only [Thread.enter, hc, Thread.takeTrap]
  rfl

theorem trapped_trapAt {s : State} {b : Block} (h : CanTrap s b) (f : FaultInfo) (tpc : W64) :
    Trapped f tpc b s (trapAt f tpc s) := by
  have e : trapAt f tpc s = s.modMe (Thread.takeTrap f tpc (s.me.bh.setWidth 64) none b s.me.tvb) :=
    enterTrap_eq_takeTrap h.1 h.2 f tpc _ none
  rw [e]
  unfold Trapped
  rw [State.me_modMe]
  exact ⟨OnlyThread.modMe _ _, SameMemory.modMe _ _, rfl, rfl, rfl, rfl, rfl, rfl, rfl, rfl, rfl, rfl⟩

theorem trapped_trap {s : State} {b : Block} (h : CanTrap s b) (f : FaultInfo) :
    Trapped f (s.me.pc.setWidth 64) b s (trap f s) := trapped_trapAt h f _

/-! ### An implicit block (R47, R48) -/

theorem blocks_block (regs : List Await) (s : State) : Blocks regs s (block regs s) := by
  unfold Blocks
  rw [block, State.me_modMe]
  exact ⟨OnlyThread.modMe _ _, SameMemory.modMe _ _, rfl, rfl⟩

/-! ### A thread that stops (R310) -/

/-- What a stop leaves alone, and the record that it makes due. -/
def Stops (event : Nat) (f : FaultInfo) (tpc : W64) (s t : State) : Prop :=
  SameMemory s t ∧ Thread.sameBut [] s.me t.me ∧ t.me.life = .stopped ∧
    (∃ counts, t.me.stop = some ⟨event, f, tpc, s.me.bh.setWidth 64, counts⟩) ∧
    t.me.tcause = s.me.tcause ∧ t.me.tpc = s.me.tpc ∧ t.me.tinfo = s.me.tinfo ∧ t.me.inHandler = s.me.inHandler ∧
    t.me.pc = s.me.pc ∧ t.me.bh = s.me.bh ∧ (∀ k, k ≠ tidKey s.cur → t.threads.look k = s.threads.look k) ∧
    (t.core s.cur.core).halted = (decide (s.cur.slot = 0) || (s.core s.cur.core).halted)

/-- A stopped thread with its record due. -/
def Thread.stopWith (x : StopInfo) (t : Thread) : Thread :=
  { t with life := .stopped, stop := some x, pjoin := none, fetch := none, blocked := none, hold := .none }

@[simp] theorem dropWaits_threads (tid : Tid) (s : State) : (dropWaits tid s).threads = s.threads := rfl
@[simp] theorem dropWaits_cur (tid : Tid) (s : State) : (dropWaits tid s).cur = s.cur := rfl
@[simp] theorem dropWaits_th (tid : Tid) (s : State) (u : Tid) : (dropWaits tid s).th u = s.th u := rfl

theorem State.me_modTh_of_cur {s : State} {tid : Tid} (h : s.cur = tid) (f : Thread → Thread) :
    (s.modTh tid f).me = f (s.th tid) := by rw [State.me, State.modTh_cur, h, State.th_modTh]

theorem stopThread_eq (tid : Tid) (event : Nat) (f : FaultInfo) (tpc t3 : W64) (s : State) :
    ∃ counts, stopThread tid event f tpc t3 s =
      if tid.slot = 0 then
        ((dropWaits tid s).modTh tid (Thread.stopWith ⟨event, f, tpc, t3, counts⟩)).modCore tid.core
          fun c => { c with halted := true }
      else (dropWaits tid s).modTh tid (Thread.stopWith ⟨event, f, tpc, t3, counts⟩) := ⟨_, rfl⟩

theorem stops_stopThread (event : Nat) (f : FaultInfo) (tpc : W64) (s : State) :
    Stops event f tpc s (stopThread s.cur event f tpc (s.me.bh.setWidth 64) s) := by
  obtain ⟨counts, e⟩ := stopThread_eq s.cur event f tpc (s.me.bh.setWidth 64) s
  have hme := State.me_modTh_of_cur (dropWaits_cur s.cur s) (Thread.stopWith ⟨event, f, tpc, s.me.bh.setWidth 64, counts⟩)
  have hlook : ∀ k, k ≠ tidKey s.cur → ((dropWaits s.cur s).modTh s.cur
      (Thread.stopWith ⟨event, f, tpc, s.me.bh.setWidth 64, counts⟩)).threads.look k = s.threads.look k :=
    fun k hk => State.modTh_look _ hk
  by_cases h0 : s.cur.slot = 0
  · rw [e, if_pos h0]
    refine ⟨⟨fun _ => rfl, rfl, rfl⟩, ?_⟩
    rw [show ∀ (x : State) c g, (x.modCore c g).me = x.me from fun _ _ _ => rfl, hme]
    exact ⟨Thread.sameBut_of_registers _ rfl rfl rfl rfl, rfl, ⟨_, rfl⟩, rfl, rfl, rfl, rfl, rfl, rfl, hlook, by simp [h0]⟩
  · rw [e, if_neg h0]
    refine ⟨⟨fun _ => rfl, rfl, rfl⟩, ?_⟩
    rw [hme, decide_eq_false h0, Bool.false_or]
    exact ⟨Thread.sameBut_of_registers _ rfl rfl rfl rfl, rfl, ⟨_, rfl⟩, rfl, rfl, rfl, rfl, rfl, rfl, hlook, rfl⟩

/-- A trap that enters no handler stops the thread (R61). -/
theorem stops_trapAt {s : State} (h : s.me.inHandler = true ∨ fetchAt s s.cur.core (s.me.tvb.setWidth 64) .trapEntry = .overlay ∨
      ∃ x, fetchAt s s.cur.core (s.me.tvb.setWidth 64) .trapEntry = .bad x) (f : FaultInfo) (tpc : W64) :
    Stops (if s.me.inHandler = true ∧ f.cause = .poison then 2 else 0) f tpc s (trapAt f tpc s) := by
  have hme : s.th s.cur = s.me := rfl
  by_cases hin : s.me.inHandler = true
  · have e : trapAt f tpc s = stopThread s.cur (if f.cause = .poison then 2 else 0) f tpc (s.me.bh.setWidth 64) s := by
      simp only [trapAt, enterTrap, hme, hin, if_true]
    simpa only [e, hin, true_and] using stops_stopThread _ f tpc s
  · have e : trapAt f tpc s = stopThread s.cur 0 f tpc (s.me.bh.setWidth 64) s := by
      rcases h with h | h | ⟨x, h⟩
      · exact absurd h hin
      · simp only [trapAt, enterTrap, hme, hin, enterHandler, h, Bool.false_eq_true, if_false]
      · simp only [trapAt, enterTrap, hme, hin, enterHandler, h, Bool.false_eq_true, if_false]
    simpa only [e, hin, false_and, if_false, Bool.false_eq_true] using stops_stopThread 0 f tpc s

/-! ### The gate's other outcomes (R47, R48, R66, R69, R313) -/

theorem Thread.gate_guardEmpty {t : Thread} {g : Guard} (h : t.full (.q g.q) = false) (slot : Nat) (priv : Bool) (srcs : List Src)
    (dsts : List RegRef) : t.gate slot g priv srcs dsts = .wait [⟨.q g.q, g.q.toNat, .guard⟩] := by
  unfold Thread.gate
  rw [if_pos (by simp [h])]

theorem Thread.gate_privilege {t : Thread} {slot : Nat} {g : Guard} (hg : t.passes g) (hs : slot ≠ 0) (srcs : List Src)
    (dsts : List RegRef) : t.gate slot g true srcs dsts = .privilege := by
  unfold Thread.gate
  rw [if_neg (by simp [hg.1]), if_neg (by simp [hg.2.1]), if_neg hg.2.2, if_pos ⟨rfl, hs⟩]

/-- A true guard leaves the sources and destinations to decide. -/
theorem Thread.gate_of_passes {t : Thread} {g : Guard} (hg : t.passes g) (slot : Nat) (srcs : List Src) (dsts : List RegRef) :
    t.gate slot g false srcs dsts =
      match srcs.find? (fun x => x.e && !t.full x.ref) with
      | some x => .empty x
      | none =>
        match srcs.find? (fun x => t.full x.ref && t.bad x.ref) with
        | some x => .poison x
        | none =>
          let waits := (srcs.filter (fun x => !t.full x.ref && !x.viaDest)).map Src.await ++
            (dsts.filter (fun r => !t.full r)).map destAwait
          if waits = [] then .go else .wait waits := by
  unfold Thread.gate
  rw [if_neg (by simp [hg.1]), if_neg (by simp [hg.2.1]), if_neg hg.2.2, if_neg (by simp)] <;> rfl

/-! ### Instructions that a thread executes itself -/

/-- Steps 2 to 4 of R69, with the state `u` in which an instruction that they let go on leaves the machine. -/
def gateTo (n : Nat) (g : Guard) (priv : Bool) (srcs : List Src) (dsts : List RegRef) (u s : State) : State :=
  match s.me.gate s.cur.slot g priv srcs dsts with
  | .wait regs => block regs s
  | .skip => retire n false s.begin
  | .privilege => trap (causeOf .privilege s.me.word64) s
  | .empty x => trap (causeOf .empty x.await.tinfo) s
  | .poison x => trap (poisonRead x) s
  | .go => u

/-- Every instruction that a thread executes itself passes the checks of R69 with its own guard. -/
theorem exec_eq_gateTo {i : Instr} {g : Guard} {n : Nat} (s : State) (h : guardForm i = some (g, n)) :
    ∃ priv srcs dsts u, exec i s = .next (gateTo n g priv srcs dsts u s) := by
  cases i
  all_goals cases h
  all_goals exact ⟨_, _, _, _, rfl⟩

theorem retires_begin (n : Nat) (s : State) : Retires n [] s (retire n false s.begin) := by
  have e : retire n false s.begin = s.modMe fun t => Thread.retire n false (id t.enterRegion) := by
    simp only [retire, State.begin, State.modMe_modMe, id]
  rw [e]
  exact Retires.modMe (Thread.sameBut_refl _ _) rfl rfl

/-- The two-source ALU instructions pass the checks of R69 with both sources and their destination. -/
theorem exec_twoSource {i : Instr} {d : BitVec 4} {a b : GSrc} {g : Guard} (s : State) (h : twoSource i = some (d, a, b, g)) :
    ∃ u, exec i s = .next (gateTo 1 g false [srcG a, srcG b] (destG d) u s) := by
  cases i
  all_goals cases h
  all_goals exact ⟨_, rfl⟩

/-- A supervisor's instructions pass the checks of R69 with their own guard, as slot 0 only. -/
theorem exec_supervisor {i : Instr} {g : Guard} (s : State) (h : supervisorForm i = some g) :
    ∃ n srcs dsts u, exec i s = .next (gateTo n g true srcs dsts u s) := by
  cases i
  case swr a r g' =>
    simp only [supervisorForm, Option.ite_none_right_eq_some, Option.some.injEq] at h
    obtain ⟨hr, rfl⟩ := h
    rw [← hr]
    exact ⟨_, _, _, _, rfl⟩
  all_goals cases h
  all_goals exact ⟨_, _, _, _, rfl⟩

end Sys2Proof.Machine

/-- Settles O6: the guard is looked at first, and a false one retires the word. -/
theorem falseGuard : Obligations.FalseGuard := by
  intro i g n s hi hg
  obtain ⟨priv, srcs, dsts, u, he⟩ := exec_eq_gateTo s hi
  refine ⟨_, he, ?_⟩
  simp only [gateTo, Thread.gate_skip hg]
  exact retires_begin n s

end

section
/-!
The statements about guards, operands and traps (R47, R48, R61, R66, R69, R70, R97 to R100, R313).
-/

open Sys2Proof Sys2Proof.Machine Sys2Proof.Claims

namespace Sys2Proof.Machine

/-! ### What the checks of R69 lead to -/

section
variable {n : Nat} {g : Guard} {priv : Bool} {srcs : List Src} {dsts : List RegRef} {u s : State}

theorem gateTo_wait {regs : List Await} (h : s.me.gate s.cur.slot g priv srcs dsts = .wait regs) :
    gateTo n g priv srcs dsts u s = block regs s := by simp only [gateTo, h]
theorem gateTo_empty {x : Src} (h : s.me.gate s.cur.slot g priv srcs dsts = .empty x) :
    gateTo n g priv srcs dsts u s = trap (causeOf .empty x.await.tinfo) s := by simp only [gateTo, h]
theorem gateTo_poison {x : Src} (h : s.me.gate s.cur.slot g priv srcs dsts = .poison x) :
    gateTo n g priv srcs dsts u s = trap (poisonRead x) s := by simp only [gateTo, h]
theorem gateTo_privilege (h : s.me.gate s.cur.slot g priv srcs dsts = .privilege) :
    gateTo n g priv srcs dsts u s = trap (causeOf .privilege s.me.word64) s := by simp only [gateTo, h]

end

/-! ### How TINFO0 names a G source (R47) -/

theorem tinfo_srcG {a : GSrc} (he : a.e = true) : (srcG a).await.tinfo = BitVec.ofNat 64 (16 + a.r.toNat) := by
  simp [Await.tinfo, Src.await, srcG, he, RegRef.cls, Role.code]

theorem poisonRead_srcG (a : GSrc) :
    poisonRead (srcG a) = ⟨.poison, BitVec.ofNat 64 ((if a.e then 16 else 0) + a.r.toNat), 0, 1⟩ := by
  simp [poisonRead, srcG, RegRef.cls]

/-! ### The gate of two sources and a destination, behind a true guard -/

section
variable {t : Thread} {g : Guard} {a b : GSrc} {slot : Nat} {dsts : List RegRef}

theorem Thread.gate_empty_fst (hg : t.passes g) (he : a.e = true) (hf : t.full (.g a.r) = false) :
    t.gate slot g false [srcG a, srcG b] dsts = .empty (srcG a) := by
  rw [Thread.gate_of_passes hg]
  simp [srcG, he, hf]

theorem Thread.gate_empty_snd (hg : t.passes g) (ha : a.e = true → t.full (.g a.r) = true) (he : b.e = true)
    (hf : t.full (.g b.r) = false) : t.gate slot g false [srcG a, srcG b] dsts = .empty (srcG b) := by
  have e : (a.e && !t.full (.g a.r)) = false := by
    cases h : a.e
    · rfl
    · simp [ha h]
  rw [Thread.gate_of_passes hg]
  simp [srcG, e, he, hf]

theorem Thread.gate_poison_fst (hg : t.passes g) (ha : t.full (.g a.r) = true) (hb : t.full (.g b.r) = true)
    (hp : t.bad (.g a.r) = true) : t.gate slot g false [srcG a, srcG b] dsts = .poison (srcG a) := by
  rw [Thread.gate_of_passes hg]
  simp [srcG, ha, hb, hp]

theorem Thread.gate_poison_snd (hg : t.passes g) (ha : t.full (.g a.r) = true) (hb : t.full (.g b.r) = true)
    (hp : t.bad (.g a.r) = false) (hq : t.bad (.g b.r) = true) :
    t.gate slot g false [srcG a, srcG b] dsts = .poison (srcG b) := by
  rw [Thread.gate_of_passes hg]
  simp [srcG, ha, hb, hp, hq]

/-- The registers that an instruction of two sources waits for, in the order of R47 and R48. -/
def Thread.awaited (t : Thread) (a b : GSrc) (d : BitVec 4) : List Await :=
  (if t.full (.g a.r) then [] else [⟨.g a.r, a.r.toNat, .source⟩]) ++
    (if t.full (.g b.r) then [] else [⟨.g b.r, b.r.toNat, .source⟩]) ++
    (if t.full (.g d) then [] else [⟨.g d, d.toNat, .dest⟩])

/-- With no poisoned source and no empty one under E = 1 the instruction waits for what is empty. -/
theorem Thread.gate_awaited {d : BitVec 4} (hg : t.passes g) (ha : t.full (.g a.r) = true → t.bad (.g a.r) = false)
    (hb : t.full (.g b.r) = true → t.bad (.g b.r) = false) (hea : t.full (.g a.r) = false → a.e = false)
    (heb : t.full (.g b.r) = false → b.e = false) (hw : t.awaited a b d ≠ []) :
    t.gate slot g false [srcG a, srcG b] (destG d) = .wait (t.awaited a b d) := by
  have e1 : [srcG a, srcG b].find? (fun x => x.e && !t.full x.ref) = none := by
    simpa [srcG] using ⟨fun h => by_contra fun hf => by simp [hea (by simpa using hf)] at h,
      fun h => by_contra fun hf => by simp [heb (by simpa using hf)] at h⟩
  have e2 : [srcG a, srcG b].find? (fun x => t.full x.ref && t.bad x.ref) = none := by
    simpa [srcG] using ⟨ha, hb⟩
  have e3 : ([srcG a, srcG b].filter (fun x => !t.full x.ref && !x.viaDest)).map Src.await ++
      ((destG d).filter (fun r => !t.full r)).map destAwait = t.awaited a b d := by
    have hx : ∀ (x : GSrc), (t.full (.g x.r) = false → x.e = false) →
        ([srcG x].filter (fun x => !t.full x.ref && !x.viaDest)).map Src.await =
          if t.full (.g x.r) then [] else [⟨.g x.r, x.r.toNat, .source⟩] := by
      intro x hx
      cases hf : t.full (.g x.r)
      · simp [srcG, hf, Src.await, hx hf]
      · simp [srcG, hf]
    have hd : ((destG d).filter (fun r => !t.full r)).map destAwait =
        if t.full (.g d) then [] else [⟨.g d, d.toNat, .dest⟩] := by
      cases hf : t.full (.g d) <;> simp [destG, hf, destAwait, RegRef.ix]
    rw [Thread.awaited, hd, ← hx a hea, ← hx b heb, ← List.map_append, ← List.filter_append]
    rfl
  rw [Thread.gate_of_passes hg, e1, e2, e3]
  simp only [if_neg hw]

end

end Sys2Proof.Machine

/-- R47 and R48: what empty operands make an instruction of two sources do. -/
theorem emptyOperands : Claims.EmptyOperands := by
  intro i d a b g s hi
  obtain ⟨u, he⟩ := exec_twoSource s hi
  have waits : s.me.passes g → (s.me.full (.g a.r) = true → s.me.bad (.g a.r) = false) →
      (s.me.full (.g b.r) = true → s.me.bad (.g b.r) = false) → (s.me.full (.g a.r) = false → a.e = false) →
      (s.me.full (.g b.r) = false → b.e = false) → s.me.awaited a b d ≠ [] →
      ∃ t, exec i s = .next t ∧ Blocks (s.me.awaited a b d) s t := fun hg ha hb hea heb hw =>
    ⟨_, he, by rw [gateTo_wait (Thread.gate_awaited hg ha hb hea heb hw)]; exact blocks_block _ s⟩
  refine ⟨fun hq => ⟨_, he, ?_⟩, fun hg hea hf blk hc => ⟨_, he, ?_⟩, fun hg ha heb hf blk hc => ⟨_, he, ?_⟩,
    fun hg hea heb ha hb hd => ?_, fun hg hs hd => ?_, fun hg ha hb hea heb hw => ?_⟩
  · rw [gateTo_wait (Thread.gate_guardEmpty hq _ _ _ _)]
    exact blocks_block _ s
  · rw [gateTo_empty (Thread.gate_empty_fst hg hea hf), tinfo_srcG hea]
    exact trapped_trap hc _
  · rw [gateTo_empty (Thread.gate_empty_snd hg ha heb hf), tinfo_srcG heb]
    exact trapped_trap hc _
  · have e : s.me.awaited a b d = [⟨.g a.r, a.r.toNat, .source⟩, ⟨.g b.r, b.r.toNat, .source⟩, ⟨.g d, d.toNat, .dest⟩] := by
      simp [Thread.awaited, ha, hb, hd]
    rw [← e]
    exact waits hg (by simp [ha]) (by simp [hb]) (fun _ => hea) (fun _ => heb) (by simp [e])
  · have ha := hs (.g a.r) (by simp)
    have hb := hs (.g b.r) (by simp)
    have e : s.me.awaited a b d = [⟨.g d, d.toNat, .dest⟩] := by simp [Thread.awaited, ha.1, hb.1, hd]
    rw [← e]
    exact waits hg (fun _ => ha.2) (fun _ => hb.2) (by simp [ha.1]) (by simp [hb.1]) (by simp [e])
  · refine waits hg ha hb hea heb ?_
    rcases hw with h | h <;> simp [Thread.awaited, h]

/-- R313: what a poisoned source makes an instruction of two sources do. -/
theorem poisonedSource : Claims.PoisonedSource := by
  intro i d a b g s blk hi hg ha hb hc
  obtain ⟨u, he⟩ := exec_twoSource s hi
  refine ⟨fun hp => ⟨_, he, ?_⟩, fun hp hq => ⟨_, he, ?_⟩⟩
  · rw [gateTo_poison (Thread.gate_poison_fst hg ha hb hp), poisonRead_srcG]
    exact trapped_trap hc _
  · rw [gateTo_poison (Thread.gate_poison_snd hg ha hb hp hq), poisonRead_srcG]
    exact trapped_trap hc _

/-- Settles O7: the guard, then the sources under E = 1, then poison, then what is still empty. -/
theorem operandTraps : Obligations.OperandTraps := ⟨emptyOperands, poisonedSource⟩

namespace Sys2Proof.Machine

/-! ### Instructions that trap before they have any effect -/

theorem Thread.readable_nil {t : Thread} : t.readable [] := fun _ h => absurd h List.not_mem_nil
theorem Thread.allFull_nil {t : Thread} : t.allFull [] := fun _ h => absurd h List.not_mem_nil
theorem Thread.readable_one {t : Thread} {r : RegRef} (h : t.full r = true ∧ t.bad r = false) : t.readable [r] :=
  List.forall_mem_singleton.2 h
theorem Thread.readable_pair {t : Thread} {r k : RegRef} (hr : t.full r = true ∧ t.bad r = false)
    (hk : t.full k = true ∧ t.bad k = false) : t.readable [r, k] := List.forall_mem_cons.2 ⟨hr, Thread.readable_one hk⟩
theorem Thread.allFull_one {t : Thread} {r : RegRef} (h : t.full r = true) : t.allFull [r] := List.forall_mem_singleton.2 h

/-- A control transfer whose checks pass and whose block does not mismatch does what its body says. -/
theorem control_go {g : Guard} {srcs : List Src} {dsts : List RegRef} {body : State → State} {s : State}
    (hg : s.me.passes g) (hs : s.me.readable (srcs.map (·.ref))) (hd : s.me.allFull dsts)
    (hc : (s.me.advance 1).mismatch = false) : control g srcs dsts body s = body s := controlHold_go hg hs hd rfl hc

theorem exec_privileged {i : Instr} {g : Guard} {s : State} (hi : supervisorForm i = some g) (hg : s.me.passes g)
    (hs : s.cur.slot ≠ 0) : exec i s = .next (trap (causeOf .privilege s.me.word64) s) := by
  obtain ⟨n, srcs, dsts, u, he⟩ := exec_supervisor s hi
  rw [he, gateTo_privilege (Thread.gate_privilege hg hs _ _)]

/-- An instruction that traps before it has any effect takes that trap. -/
theorem exec_raised {i : Instr} {f : FaultInfo} {tpc : W64} {s : State} (h : raised s i = some (f, tpc)) :
    exec i s = .next (trapAt f tpc s) := by
  unfold raised at h
  split at h
  next g =>
    simp only [decide_eq_true_eq, Option.ite_none_right_eq_some, Option.some.injEq, Prod.mk.injEq] at h
    obtain ⟨⟨hg, hm⟩, rfl, rfl⟩ := h
    exact congrArg _ (control_go hg Thread.readable_nil Thread.allFull_nil hm)
  next n g =>
    simp only [decide_eq_true_eq, Option.ite_none_right_eq_some, Option.some.injEq, Prod.mk.injEq] at h
    obtain ⟨⟨hg, hm⟩, rfl, rfl⟩ := h
    exact congrArg _ (control_go hg Thread.readable_nil Thread.allFull_nil hm)
  next a b g =>
    simp only [decide_eq_true_eq, Option.ite_none_right_eq_some, Option.some.injEq, Prod.mk.injEq] at h
    obtain ⟨⟨hg, hm, ha, hpa, hb, hpb⟩, rfl, rfl⟩ := h
    exact congrArg _ (control_go (srcs := [srcG a, srcG b]) hg (Thread.readable_pair ⟨ha, hpa⟩ ⟨hb, hpb⟩) Thread.allFull_nil hm)
  next =>
    split at h
    next g hi =>
      simp only [Option.ite_none_right_eq_some, Option.some.injEq, Prod.mk.injEq] at h
      obtain ⟨⟨hg, hs⟩, rfl, rfl⟩ := h
      exact exec_privileged hi hg hs
    next d a b g _ hi =>
      obtain ⟨u, he⟩ := exec_twoSource s hi
      by_cases hx : s.me.passes g ∧ s.me.full (.g a.r) = false ∧ a.e = true
      · rw [if_pos hx] at h
        cases h
        rw [he, gateTo_empty (Thread.gate_empty_fst hx.1 hx.2.2 hx.2.1), tinfo_srcG hx.2.2]
        rfl
      · rw [if_neg hx] at h
        simp only [Option.ite_none_right_eq_some, Option.some.injEq, Prod.mk.injEq] at h
        obtain ⟨⟨hg, ha, hp, hb⟩, rfl, rfl⟩ := h
        rw [he, gateTo_poison (Thread.gate_poison_fst hg ha hb hp), poisonRead_srcG]
        rfl
    next => cases h

end Sys2Proof.Machine

/-- R69, R70, R209 and R260: a supervisor's instructions in a user slot. -/
theorem privilege : Claims.Privilege := by
  intro i g s blk hi hg hs hc
  exact ⟨_, exec_privileged hi hg hs, trapped_trap hc _⟩

/-- R61 and R310: a trap that enters no handler. -/
theorem doubleEntry : Claims.DoubleEntry := by
  intro i f tpc s hi h
  exact ⟨_, exec_raised hi, stops_trapAt h f tpc⟩

/-- Settles O8: such a trap is `trapAt` of the thread as it stands, which stops it where no handler can be entered. -/
theorem doubleEntriesAndPrivilege : Obligations.DoubleEntriesAndPrivilege := ⟨doubleEntry, privilege⟩

end

section
/-!
Registers that are marked empty or full (R44, R46, R48, R50): what a change of one full bit leaves alone.
-/

open Sys2Proof Sys2Proof.Machine Sys2Proof.Claims

namespace Sys2Proof.Machine

section
variable (t : Thread) (f : Bool)

theorem Thread.setFull_g_eq (r : BitVec 4) : t.setFull f (.g r) = { t with g := (t.setFull f (.g r)).g } := by
  by_cases h : r = 0#4 <;> simp [Thread.setFull, h]
theorem Thread.setFull_q_eq (r : BitVec 4) : t.setFull f (.q r) = { t with q := (t.setFull f (.q r)).q } := by
  by_cases h : r = 0#4 <;> simp [Thread.setFull, h]
theorem Thread.setFull_m_eq (r : BitVec 2) : t.setFull f (.m r) = { t with m := (t.setFull f (.m r)).m } := by
  by_cases h : r = 0#2 <;> simp [Thread.setFull, h]

/-- A change of full bits changes nothing but registers. -/
theorem Thread.setFull_eq (r : RegRef) : t.setFull f r = { t with
    g := (t.setFull f r).g, q := (t.setFull f r).q, m := (t.setFull f r).m, v := (t.setFull f r).v } := by
  cases r with
  | g r => rw [Thread.setFull_g_eq]
  | q r => rw [Thread.setFull_q_eq]
  | m r => rw [Thread.setFull_m_eq]
  | v r => rfl

/-- Another register is as before. -/
theorem Thread.sameReg_setFull {r k : RegRef} (h : k ≠ r) : Thread.sameReg t (t.setFull f r) k := by
  cases r with
  | g r =>
    by_cases h0 : r = 0#4
    · rw [show t.setFull f (.g r) = t by simp [Thread.setFull, h0]]
      exact Thread.sameBut_refl t [] k (by simp)
    · cases k with
      | g k =>
        have : r.toNat ≠ k.toNat := fun e => h (by rw [BitVec.eq_of_toNat_eq e])
        simp [Thread.sameReg, Thread.setFull, Thread.rG, Thread.mark, h0, Vector.getElem_set_ne _ _ this]
      | q k | m k | v k => simp [Thread.sameReg, Thread.setFull, Thread.rQ, Thread.rM, Thread.mark, Thread.vReg, h0]
  | q r =>
    by_cases h0 : r = 0#4
    · rw [show t.setFull f (.q r) = t by simp [Thread.setFull, h0]]
      exact Thread.sameBut_refl t [] k (by simp)
    · cases k with
      | q k =>
        have : r.toNat ≠ k.toNat := fun e => h (by rw [BitVec.eq_of_toNat_eq e])
        simp [Thread.sameReg, Thread.setFull, Thread.rQ, Thread.mark, h0, Vector.getElem_set_ne _ _ this]
      | g k | m k | v k => simp [Thread.sameReg, Thread.setFull, Thread.rG, Thread.rM, Thread.mark, Thread.vReg, h0]
  | m r =>
    by_cases h0 : r = 0#2
    · rw [show t.setFull f (.m r) = t by simp [Thread.setFull, h0]]
      exact Thread.sameBut_refl t [] k (by simp)
    · cases k with
      | m k =>
        have : r.toNat ≠ k.toNat := fun e => h (by rw [BitVec.eq_of_toNat_eq e])
        simp [Thread.sameReg, Thread.setFull, Thread.rM, Thread.mark, h0, Vector.getElem_set_ne _ _ this]
      | g k | q k | v k => simp [Thread.sameReg, Thread.setFull, Thread.rG, Thread.rQ, Thread.mark, Thread.vReg, h0]
  | v r =>
    cases k with
    | v k =>
      have : r.toNat ≠ k.toNat := fun e => h (by rw [BitVec.eq_of_toNat_eq e])
      simp [Thread.sameReg, Thread.setFull, Thread.vReg, List.getD_eq_getElem?_getD, List.getElem?_set_ne this]
    | g k | q k | m k => simp [Thread.sameReg, Thread.setFull, Thread.rG, Thread.rQ, Thread.rM, Thread.mark]

theorem Thread.sameBut_setFull (r : RegRef) : Thread.sameBut [r] t (t.setFull f r) :=
  fun _ hk => t.sameReg_setFull f fun e => hk (List.mem_singleton.2 e)

theorem Thread.full_setFull_g {r : BitVec 4} (h : r ≠ 0) : (t.setFull f (.g r)).full (.g r) = f := by
  have h : r ≠ 0#4 := h
  simp [Thread.setFull, Thread.full, Thread.mark, h]
theorem Thread.full_setFull_q {r : BitVec 4} (h : r ≠ 0) : (t.setFull f (.q r)).full (.q r) = f := by
  have h : r ≠ 0#4 := h
  simp [Thread.setFull, Thread.full, Thread.mark, h]
theorem Thread.full_setFull_v {r : BitVec 5} (h : r.toNat < 26) : (t.setFull f (.v r)).full (.v r) = f := by
  simp [Thread.setFull, Thread.full, Thread.mark, Thread.vReg, List.getD_eq_getElem?_getD, h]

/-- A register of another kind or number has the same full bit. -/
theorem Thread.full_of_sameReg {x y : Thread} {r : RegRef} (h : Thread.sameReg x y r) : y.full r = x.full r := by
  cases r with
  | g r | q r | m r => simp only [Thread.full, h.2]
  | v r =>
    have h : y.vReg r = x.vReg r := h
    simp only [Thread.full, Thread.mark, h]

end

/-- An empty register is none of G0, Q0 and M0. -/
theorem Thread.ne_zero_of_empty_g {t : Thread} {r : BitVec 4} (h : t.full (.g r) = false) : r ≠ 0 := by
  rintro rfl
  exact Bool.eq_false_iff.1 h t.full_g0
theorem Thread.ne_zero_of_empty_q {t : Thread} {r : BitVec 4} (h : t.full (.q r) = false) : r ≠ 0 := by
  rintro rfl
  exact absurd h (by simp [Thread.full, Thread.mark])

end Sys2Proof.Machine
end

section
/-!
Compares and predicate combiners (R49, R82 to R85): what they write at once, and what they write when their sources fill.
-/

open Sys2Proof Sys2Proof.Machine Sys2Proof.Claims

namespace Sys2Proof.Machine

/-! ### One shape for compares and combiners -/

/-- The sources of a compare or combiner; one with an immediate has the first alone. -/
def predicateSources (a b : Src) (bval : Option W64) : List Src := if bval.isSome then [a] else [a, b]

/-- The result of a compare or combiner, of the registers of a thread. -/
def Thread.predicateValue (t : Thread) (op : DefOp) (a b : Src) (bval : Option W64) : Bool :=
  op.eval (t.scalar a.ref) (bval.getD (t.scalar b.ref))

/-- A reference to a G register or a predicate. -/
def RegRef.isScalar : RegRef → Bool
  | .g _ | .q _ => true
  | _ => false

theorem Thread.scalar_q_eq_zero (t : Thread) (q : BitVec 4) : t.scalar (.q q) = 0#64 ↔ t.rQ q = false := by
  cases h : t.rQ q <;> simp [Thread.scalar, h]

/-- Every compare and combiner is `predicate` of an operation, its sources and an immediate. -/
theorem exec_deferForm {i : Instr} {g : Guard} {rs : List (RegRef × Bool)} {d : BitVec 4} (h : deferForm i = some (g, rs, d)) :
    ∃ op a b bval, (∀ s, exec i s = predicate d op a b bval g s) ∧
      rs = (predicateSources a b bval).map (fun x => (x.ref, x.e)) ∧ (∀ r ∈ rs, r.1.isScalar = true) ∧
      ∀ t, predicateForm t i = some (g, rs.map (·.1), d, t.predicateValue op a b bval) := by
  cases i
  all_goals cases h
  case qand a b | qor a b | qxor a b | qandn a b =>
    refine ⟨_, _, _, _, fun s => rfl, rfl, by simp [RegRef.isScalar], fun t => ?_⟩
    simp [predicateForm, Thread.predicateValue, DefOp.eval, QOp.eval, srcQ, Thread.scalar_q_eq_zero]
  all_goals exact ⟨_, _, _, _, fun s => rfl, rfl, by simp [RegRef.isScalar], fun t => rfl⟩

/-- The second source of a compare or combiner, as it is deferred. -/
def Thread.defSnd (t : Thread) (b : Src) (bval : Option W64) : DefSrc :=
  match bval with | some c => DefSrc.val c | none => t.defSrc b.ref

/-- What a compare or combiner does to its thread: it writes its predicate, or defers it. -/
def Thread.predicated (q : BitVec 4) (op : DefOp) (a b : Src) (bval : Option W64) (t : Thread) : Thread :=
  match t.defSrc a.ref, t.defSnd b bval with
  | .val x, .val y => t.wQ q (op.eval x y)
  | _, _ => { t.empty (.q q) with deferredQ := t.deferredQ ++ [⟨q, op, t.defSrc a.ref, t.defSnd b bval⟩] }

/-- A compare or combiner that nothing keeps from issuing. -/
theorem predicate_go {q : BitVec 4} {op : DefOp} {a b : Src} {bval : Option W64} {g : Guard} {s : State} (hg : s.me.passes g)
    (hs : ∀ x ∈ predicateSources a b bval, (s.me.full x.ref = true → s.me.bad x.ref = false) ∧
      (s.me.full x.ref = false → x.e = false)) (hq : s.me.full (.q q) = true) :
    predicate q op a b bval g s =
      .next (s.modMe fun t => Thread.retire 1 false (t.enterRegion.predicated q op a b bval)) := by
  have hr : s.me.readable (((predicateSources a b bval).filter fun x => x.e || s.me.full x.ref).map (·.ref)) := by
    intro r hr
    obtain ⟨x, hx, rfl⟩ := List.mem_map.1 hr
    obtain ⟨hx, he⟩ := List.mem_filter.1 hx
    cases hf : s.me.full x.ref
    · simp [hf, (hs x hx).2 hf] at he
    · exact ⟨rfl, (hs x hx).1 hf⟩
  refine congrArg _ ((gated_go hg (.inl rfl) hr (Thread.allFull_one hq)).trans ?_)
  simp only [retire, State.modMe_modMe]
  rfl

/-! ### What is written at once -/

theorem Thread.sameRest_enterRegion_g (t : Thread) (r : RegRef) : Thread.sameReg t t.enterRegion r :=
  Thread.sameReg_congr t.enterRegion_g t.enterRegion_q t.enterRegion_m t.enterRegion_v (Thread.sameBut_refl t [] r (by simp))

@[simp] theorem Thread.scalar_enterRegion (t : Thread) (r : RegRef) : t.enterRegion.scalar r = t.scalar r := by
  cases r <;> simp [Thread.scalar]
@[simp] theorem Thread.defSrc_enterRegion (t : Thread) (r : RegRef) : t.enterRegion.defSrc r = t.defSrc r := by
  simp [Thread.defSrc]
@[simp] theorem Thread.defSnd_enterRegion (t : Thread) (b : Src) (bval : Option W64) :
    t.enterRegion.defSnd b bval = t.defSnd b bval := by cases bval <;> simp [Thread.defSnd]
@[simp] theorem Thread.deferredQ_enterRegion (t : Thread) : t.enterRegion.deferredQ = t.deferredQ := by
  rw [Thread.enterRegion_eq]

/-- With every source full the predicate is written. -/
theorem Thread.predicated_of_full {t : Thread} {a b : Src} {bval : Option W64}
    (h : ∀ x ∈ predicateSources a b bval, t.full x.ref = true) (q : BitVec 4) (op : DefOp) :
    t.predicated q op a b bval = t.wQ q (t.predicateValue op a b bval) := by
  have ha : t.full a.ref = true := h a (by cases bval <;> simp [predicateSources])
  cases bval with
  | none =>
    have hb : t.full b.ref = true := h b (by simp [predicateSources])
    simp [Thread.predicated, Thread.defSrc, Thread.defSnd, ha, hb, Thread.predicateValue]
  | some c => simp [Thread.predicated, Thread.defSrc, Thread.defSnd, ha, Thread.predicateValue]

/-- An instruction that writes a predicate at once. -/
theorem retires_wQ {s : State} (f : Thread → Thread) (d : BitVec 4) (v : Bool) (h : f s.me.enterRegion = s.me.enterRegion.wQ d v) :
    Retires 1 [.q d] s (s.modMe fun t => Thread.retire 1 false (f t.enterRegion)) ∧
      (s.modMe fun t => Thread.retire 1 false (f t.enterRegion)).me.rQ d = (if d = 0 then true else v) ∧
      (s.modMe fun t => Thread.retire 1 false (f t.enterRegion)).me.full (.q d) = true ∧
      (s.modMe fun t => Thread.retire 1 false (f t.enterRegion)).me.bad (.q d) = false := by
  refine ⟨Retires.modMe ?_ ?_ ?_, ?_⟩
  · rw [h]; exact Thread.sameBut_wQ _ _ _
  · rw [h]; exact Thread.sameRest_wQ _ _ _
  · rw [h]; unfold Thread.wQ; split <;> rfl
  · rw [State.me_modMe, h]
    refine ⟨?_, by simp [Thread.full, Thread.mark_wQ], by simp [Thread.bad, Thread.mark_wQ]⟩
    by_cases hd : d = 0
    · subst hd; simp [Thread.rQ]
    · rw [Thread.rQ_retire, Thread.rQ_wQ, if_pos ⟨rfl, hd⟩, if_neg hd]

/-- What reads full sources and is no deferrable form is QMOVG. -/
theorem predicateForm_cases {t : Thread} {i : Instr} {g : Guard} {rs : List RegRef} {d : BitVec 4} {v : Bool}
    (h : predicateForm t i = some (g, rs, d, v)) :
    (∃ a, i = .qmovg d a g ∧ rs = [.g a.r] ∧ v = decide (t.rG a.r ≠ 0)) ∨ ∃ rs', deferForm i = some (g, rs', d) := by
  cases i
  case qmovg d' a g' =>
    cases h
    exact .inl ⟨a, rfl, rfl, rfl⟩
  all_goals cases h
  all_goals exact .inr ⟨_, rfl⟩

end Sys2Proof.Machine

/-- R82 to R85: a compare or combiner whose sources are full. -/
theorem predicateResults : Claims.PredicateResults := by
  intro i s g rs d v hi hg hs hd
  rcases predicateForm_cases hi with ⟨a, rfl, rfl, rfl⟩ | ⟨rs', hf⟩
  · exact ⟨_, congrArg Host.Outcome.next (simple_go (srcs := [srcG a]) hg hs (Thread.allFull_one hd)),
      retires_wQ (fun t => t.wQ d (t.src a ≠ 0)) d _ (by simp only [Thread.src_enterRegion]; rfl)⟩
  · obtain ⟨op, a, b, bval, he, rfl, -, hv⟩ := exec_deferForm hf
    have hv := (hv s.me).symm.trans hi
    simp only [Option.some.injEq, Prod.mk.injEq, true_and] at hv
    obtain ⟨rfl, rfl⟩ := hv
    have hs : ∀ x ∈ predicateSources a b bval, s.me.full x.ref = true ∧ s.me.bad x.ref = false :=
      fun x hx => hs x.ref (by simpa using ⟨x, hx, rfl⟩)
    refine ⟨_, (he s).trans (predicate_go hg (fun x hx => ⟨fun _ => (hs x hx).2, fun h => ?_⟩) hd),
      retires_wQ (Thread.predicated d op a b bval) d _ ?_⟩
    · simp [(hs x hx).1] at h
    · rw [Thread.predicated_of_full (fun x hx => by simp [(hs x hx).1])]
      simp [Thread.predicateValue]

namespace Sys2Proof.Machine

/-! ### What is written when the sources fill (R49, R84) -/

/-- The value with which a source fills, as a deferred predicate sees it. -/
def RegRef.fillValue (r : RegRef) (x : W64) : W64 :=
  match r with
  | .q _ => if x ≠ 0 then 1 else 0
  | _ => x

/-- The filled register holds its value, and every other one holds what it held. -/
theorem Thread.scalar_holding {t : Thread} {r : RegRef} (hr : r.isScalar = true) (he : t.full r = false) (x : W64) (k : RegRef) :
    (holding r x t).scalar k = if k = r then r.fillValue x else t.scalar k := by
  cases r with
  | g r =>
    have h0 : ¬ r = 0#4 := Thread.ne_zero_of_empty_g he
    cases k with
    | g k => simp [holding, Thread.scalar, Thread.rG_wG, h0, RegRef.fillValue]
    | q k | m k | v k => simp [holding, Thread.scalar, Thread.wG, h0, Thread.rQ]
  | q r =>
    have h0 : ¬ r = 0#4 := Thread.ne_zero_of_empty_q he
    cases k with
    | q k =>
      by_cases hk : k = r
      · simp [holding, Thread.scalar, Thread.rQ_wQ, h0, RegRef.fillValue, hk]
      · simp [holding, Thread.scalar, Thread.rQ_wQ, hk]
    | g k | m k | v k => simp [holding, Thread.scalar, Thread.wQ, h0, Thread.rG]
  | m r | v r => cases hr

theorem Thread.full_holding {t : Thread} {r : RegRef} (hr : r.isScalar = true) (x : W64) (k : RegRef) :
    (holding r x t).full k = if k = r then true else t.full k := by
  cases r with
  | g r =>
    by_cases hk : k = .g r
    · subst hk; simp [holding, Thread.full, Thread.mark_wG]
    · rw [if_neg hk]
      exact Thread.full_of_sameReg (t.sameBut_wG r x k (by simpa using hk))
  | q r =>
    by_cases hk : k = .q r
    · subst hk; simp [holding, Thread.full, Thread.mark_wQ]
    · rw [if_neg hk]
      exact Thread.full_of_sameReg (t.sameBut_wQ r _ k (by simpa using hk))
  | m r | v r => cases hr

theorem Thread.deferredQ_holding (t : Thread) (r : RegRef) (x : W64) : (holding r x t).deferredQ = t.deferredQ := by
  cases r with
  | g r => by_cases h : r = 0#4 <;> simp [holding, Thread.wG, h]
  | q r => by_cases h : r = 0#4 <;> simp [holding, Thread.wQ, h]
  | m r | v r => rfl

/-- A deferred predicate after a register filled. -/
def Deferred.noted (r : RegRef) (v : W64) (d : Deferred) : Deferred := { d with a := d.a.note r v, b := d.b.note r v }

theorem fillSource_eq_filled {t : Thread} {r : RegRef} (hr : r.isScalar = true) (x : W64) :
    fillSource r x t = (holding r x t).filled r := by
  cases r with
  | g r | q r => rfl
  | m r | v r => cases hr

/-- A fill tells the one deferred predicate, which then is evaluated, or waits on. -/
theorem Thread.fillSource_of_deferred {t : Thread} {r : RegRef} {e : Deferred} (hr : r.isScalar = true) (he : t.full r = false)
    (hd : t.deferredQ = [e]) (x : W64) :
    fillSource r x t =
      ({ holding r x t with deferredQ := [e.noted r (r.fillValue x)] } : Thread).settle 1 := by
  rw [fillSource_eq_filled hr, Thread.filled, Thread.scalar_holding hr he, if_pos rfl]
  simp only [Thread.note, Thread.deferredQ_holding, hd]
  rfl

/-- One whose sources are all filled is written. -/
theorem Thread.settle_of_ready {t : Thread} {e : Deferred} {v : Bool} (hd : t.deferredQ = [e]) (hq : e.q ≠ 0)
    (hv : e.ready? = some v) : (t.settle 1).full (.q e.q) = true ∧ (t.settle 1).rQ e.q = v := by
  have hs : t.settle 1 = (({ t with deferredQ := [] } : Thread).wQ e.q v).note (.q e.q) (if v then 1 else 0) := by
    simp [Thread.settle, hd, hv]
  have hm := Thread.mark_wQ ({ t with deferredQ := [] } : Thread) e.q e.q v
  have hr := Thread.rQ_wQ ({ t with deferredQ := [] } : Thread) e.q e.q v
  rw [if_pos rfl] at hm
  rw [if_pos ⟨rfl, hq⟩] at hr
  rw [hs]
  exact ⟨congrArg Prod.fst hm, hr⟩

/-- One that still waits for a source stays. -/
theorem Thread.settle_of_waiting {t : Thread} {e : Deferred} (hd : t.deferredQ = [e]) (hv : e.ready? = none) : t.settle 1 = t := by
  simp [Thread.settle, hd, hv]

/-- A source that is empty and none that is full is told of its register's fill. -/
theorem Thread.note_defSrc {t : Thread} {r : RegRef} (hr : r.isScalar = true) (he : t.full r = false) (x : W64) (k : RegRef) :
    (t.defSrc k).note r (r.fillValue x) = (holding r x t).defSrc k := by
  unfold Thread.defSrc
  rw [Thread.full_holding hr, Thread.scalar_holding hr he]
  by_cases hk : k = r
  · subst hk; simp [he, DefSrc.note]
  · cases hf : t.full k <;> simp [DefSrc.note, hk]

theorem Thread.note_defSnd {t : Thread} {r : RegRef} (hr : r.isScalar = true) (he : t.full r = false) (x : W64) (b : Src)
    (bval : Option W64) : (t.defSnd b bval).note r (r.fillValue x) = (holding r x t).defSnd b bval := by
  cases bval with
  | none => exact Thread.note_defSrc hr he x b.ref
  | some c => rfl

/-- The predicate that a thread defers. -/
def Thread.deferral (t : Thread) (q : BitVec 4) (op : DefOp) (a b : Src) (bval : Option W64) : Deferred :=
  ⟨q, op, t.defSrc a.ref, t.defSnd b bval⟩

theorem Thread.noted_deferral {t : Thread} {r : RegRef} (hr : r.isScalar = true) (he : t.full r = false) (x : W64) (q : BitVec 4)
    (op : DefOp) (a b : Src) (bval : Option W64) :
    (t.deferral q op a b bval).noted r (r.fillValue x) = (holding r x t).deferral q op a b bval := by
  simp only [Deferred.noted, Thread.deferral, Thread.note_defSrc hr he, Thread.note_defSnd hr he]

theorem Thread.ready_deferral {t : Thread} {a b : Src} {bval : Option W64}
    (h : ∀ x ∈ predicateSources a b bval, t.full x.ref = true) (q : BitVec 4) (op : DefOp) :
    (t.deferral q op a b bval).ready? = some (t.predicateValue op a b bval) := by
  have ha : t.full a.ref = true := h a (by cases bval <;> simp [predicateSources])
  cases bval with
  | none =>
    have hb : t.full b.ref = true := h b (by simp [predicateSources])
    simp [Thread.deferral, Thread.defSrc, Thread.defSnd, Deferred.ready?, ha, hb, Thread.predicateValue]
  | some c => simp [Thread.deferral, Thread.defSrc, Thread.defSnd, Deferred.ready?, ha, Thread.predicateValue]

theorem Thread.waiting_deferral {t : Thread} {a b : Src} {bval : Option W64}
    (h : ∃ x ∈ predicateSources a b bval, t.full x.ref = false) (q : BitVec 4) (op : DefOp) :
    (t.deferral q op a b bval).ready? = none := by
  obtain ⟨x, hx, hf⟩ := h
  cases bval with
  | none =>
    rcases List.mem_pair.1 hx with rfl | rfl
    · simp [Thread.deferral, Thread.defSrc, Deferred.ready?, hf]
    · cases ha : t.full a.ref <;> simp [Thread.deferral, Thread.defSrc, Thread.defSnd, Deferred.ready?, ha, hf]
  | some c =>
    obtain rfl := List.mem_singleton.1 hx
    simp [Thread.deferral, Thread.defSrc, Deferred.ready?, hf]

/-- With a source empty the predicate is deferred. -/
theorem Thread.predicated_of_empty {t : Thread} {a b : Src} {bval : Option W64}
    (h : ∃ x ∈ predicateSources a b bval, t.full x.ref = false) (q : BitVec 4) (op : DefOp) :
    t.predicated q op a b bval =
      { t.empty (.q q) with deferredQ := t.deferredQ ++ [t.deferral q op a b bval] } := by
  have hw := t.waiting_deferral h q op
  unfold Thread.predicated
  split
  next x y hx hy => simp [Thread.deferral, Deferred.ready?, hx, hy] at hw
  next => rfl

@[simp] theorem Thread.deferral_enterRegion (t : Thread) (q : BitVec 4) (op : DefOp) (a b : Src) (bval : Option W64) :
    t.enterRegion.deferral q op a b bval = t.deferral q op a b bval := by simp [Thread.deferral]

@[simp] theorem Thread.deferredQ_retire (t : Thread) (n : Nat) (c : Bool) : (t.retire n c).deferredQ = t.deferredQ := by
  rw [Thread.retire_eq]

theorem Thread.full_congr {x y : Thread} (hg : y.g = x.g) (hq : y.q = x.q) (hm : y.m = x.m) (hv : y.v = x.v) (r : RegRef) :
    y.full r = x.full r := congrArg Prod.fst (Thread.mark_congr hg hq hm hv r)

/-- The one predicate that a thread `t` defers is that of `u`, and the same of its registers are empty, but for the predicate's. -/
def DefersOf (d : BitVec 4) (op : DefOp) (a b : Src) (bval : Option W64) (u t : Thread) : Prop :=
  t.deferredQ = [u.deferral d op a b bval] ∧ t.full (.q d) = false ∧ ∀ r, r ≠ .q d → t.full r = u.full r

section
variable {d : BitVec 4} {op : DefOp} {a b : Src} {bval : Option W64} {u t : Thread} {r : RegRef}

/-- The last source fills, and the predicate with it. -/
theorem DefersOf.fill_last (h : DefersOf d op a b bval u t) (hd : d ≠ 0) (hr : r.isScalar = true) (hrd : r ≠ .q d)
    (he : u.full r = false) (hs : ∀ x ∈ predicateSources a b bval, x.ref = r ∨ u.full x.ref = true) (x : W64) :
    (fillSource r x t).full (.q d) = true ∧ (fillSource r x t).rQ d = (holding r x u).predicateValue op a b bval := by
  obtain ⟨hq, -, hf⟩ := h
  have hready : ∀ y ∈ predicateSources a b bval, (holding r x u).full y.ref = true := fun y hy => by
    rw [Thread.full_holding hr]
    rcases hs y hy with h | h <;> simp [h]
  rw [Thread.fillSource_of_deferred hr ((hf r hrd).trans he) hq, Thread.noted_deferral hr he]
  exact Thread.settle_of_ready rfl hd (Thread.ready_deferral hready d op)

/-- One of two sources fills. -/
theorem DefersOf.fill_first (h : DefersOf d op a b bval u t) (hr : r.isScalar = true) (hrd : r ≠ .q d) (he : u.full r = false)
    (hs : ∃ y ∈ predicateSources a b bval, y.ref ≠ r ∧ u.full y.ref = false) (x : W64) :
    DefersOf d op a b bval (holding r x u) (fillSource r x t) := by
  obtain ⟨hq, hqd, hf⟩ := h
  obtain ⟨y, hy, hyr, hye⟩ := hs
  have hwait := (holding r x u).waiting_deferral ⟨y, hy, by rw [Thread.full_holding hr, if_neg hyr, hye]⟩ d op
  rw [Thread.fillSource_of_deferred hr ((hf r hrd).trans he) hq, Thread.noted_deferral hr he, Thread.settle_of_waiting rfl hwait]
  have hfull : ∀ k, ({ holding r x t with deferredQ := [(holding r x u).deferral d op a b bval] } : Thread).full k =
      if k = r then true else t.full k := fun k =>
    (Thread.full_congr rfl rfl rfl rfl k).trans (Thread.full_holding hr x k)
  refine ⟨rfl, ?_, fun k hk => ?_⟩
  · rw [hfull, if_neg (Ne.symm hrd), hqd]
  · rw [hfull, Thread.full_holding hr, hf k hk]

end

theorem Thread.sameReg_trans {x y z : Thread} {r : RegRef} (h : Thread.sameReg x y r) (h' : Thread.sameReg y z r) :
    Thread.sameReg x z r := by
  cases r with
  | g r | q r | m r => exact ⟨h'.1.trans h.1, h'.2.trans h.2⟩
  | v r => exact Eq.trans h' h

/-- Retirement keeps every register. -/
theorem Thread.sameReg_retire (t : Thread) (n : Nat) (c : Bool) (r : RegRef) : Thread.sameReg t (t.retire n c) r :=
  Thread.sameReg_congr (t.retire_g n c) (t.retire_q n c) (t.retire_m n c) (t.retire_v n c) (Thread.sameBut_refl t [] r (by simp))

/-- A thread that defers a predicate and retires the word. -/
theorem Thread.sameBut_predicated_of_empty {t : Thread} {a b : Src} {bval : Option W64}
    (h : ∃ x ∈ predicateSources a b bval, t.full x.ref = false) (d : BitVec 4) (op : DefOp) :
    Thread.sameBut [.q d] t (Thread.retire 1 false (t.enterRegion.predicated d op a b bval)) := by
  intro r hr
  rw [Thread.predicated_of_empty (by simpa using h)]
  have h1 := Thread.sameReg_trans (t.sameRest_enterRegion_g r) (t.enterRegion.sameBut_setFull false (.q d) r hr)
  exact Thread.sameReg_trans (Thread.sameReg_congr rfl rfl rfl rfl h1) (Thread.sameReg_retire _ _ _ r)

theorem Thread.defersOf_predicated {t : Thread} {d : BitVec 4} {op : DefOp} {a b : Src} {bval : Option W64} (hd : d ≠ 0)
    (hq : t.deferredQ = []) (h : ∃ x ∈ predicateSources a b bval, t.full x.ref = false) :
    DefersOf d op a b bval t (Thread.retire 1 false (t.enterRegion.predicated d op a b bval)) := by
  have hs := Thread.sameBut_predicated_of_empty h d op
  refine ⟨?_, ?_, fun r hr => Thread.full_of_sameReg (hs r (by simpa using hr))⟩
  · rw [Thread.predicated_of_empty (by simpa using h), Thread.deferredQ_retire]
    simp [hq]
  · rw [Thread.predicated_of_empty (by simpa using h), Thread.full_retire]
    exact (Thread.full_congr rfl rfl rfl rfl _).trans (t.enterRegion.full_setFull_q false hd)

theorem Thread.predicated_pc (t : Thread) (q : BitVec 4) (op : DefOp) (a b : Src) (bval : Option W64) :
    (t.predicated q op a b bval).pc = t.pc := by
  have h : (t.empty (.q q)).pc = t.pc := by unfold Thread.empty; rw [Thread.setFull_eq]
  have h' : ∀ x, (t.wQ q x).pc = t.pc := fun x => by unfold Thread.wQ; split <;> rfl
  unfold Thread.predicated
  split
  · exact h' _
  · exact h

end Sys2Proof.Machine

/-- R49, R84 and R85: a compare or combiner with an empty source. -/
theorem deferredPredicate : Claims.DeferredPredicate := by
  intro i g rs d s hi hd hg hfd hq hs he
  obtain ⟨op, a, b, bval, hx, rfl, hsc, hv⟩ := exec_deferForm hi
  have hs' : ∀ x ∈ predicateSources a b bval, (s.me.full x.ref = true → s.me.bad x.ref = false) ∧
      (s.me.full x.ref = false → x.e = false) := fun x hx => hs (x.ref, x.e) (List.mem_map_of_mem hx)
  have he' : ∃ x ∈ predicateSources a b bval, s.me.full x.ref = false := by simpa using he
  have hrd : ∀ r, s.me.full r = false → r ≠ .q d := by
    rintro r hr rfl
    exact Bool.eq_false_iff.1 hr hfd
  have hD := Thread.defersOf_predicated (op := op) hd hq he'
  have hme : (s.modMe fun t => Thread.retire 1 false (t.enterRegion.predicated d op a b bval)).me =
      Thread.retire 1 false (s.me.enterRegion.predicated d op a b bval) := s.me_modMe _
  refine ⟨_, (hx s).trans (predicate_go hg hs' hfd), OnlyThread.modMe _ _, SameMemory.modMe _ _, ?_⟩
  rw [hme]
  refine ⟨Thread.sameBut_predicated_of_empty he' d op, ?_, Thread.retire_hold _ _ _, Thread.retire_blocked _ _ _, hD.2.1,
    fun r x hr hall => ?_, fun r q x y hr hq hne hrs => ?_⟩
  · rw [Thread.retire_pc, Thread.predicated_pc, Thread.enterRegion_pc]
    rfl
  · have hrs : ∀ z ∈ predicateSources a b bval, z.ref = r ∨ s.me.full z.ref = true :=
      fun z hz => hall (z.ref, z.e) (List.mem_map_of_mem hz)
    obtain ⟨z, hz, hze⟩ := he'
    have hzr : z.ref = r := (hrs z hz).resolve_right (by simp [hze])
    have hsr : r.isScalar = true := hzr ▸ hsc (z.ref, z.e) (List.mem_map_of_mem hz)
    obtain ⟨hf, hval⟩ := hD.fill_last hd hsr (hrd r hr) hr hrs x
    exact ⟨hf, by rw [hv, Option.map_some, hval]⟩
  · have hmem : ∀ k, k = r ∨ k = q → ∃ z ∈ predicateSources a b bval, z.ref = k := by
      intro k hk
      have : k ∈ ((predicateSources a b bval).map fun z => (z.ref, z.e)).map (·.1) := by
        rcases hrs with h | h <;> rw [h] <;> rcases hk with rfl | rfl <;> simp
      simpa using this
    have hsc' : ∀ k, k = r ∨ k = q → k.isScalar = true := fun k hk => by
      obtain ⟨z, hz, rfl⟩ := hmem k hk
      exact hsc (z.ref, z.e) (List.mem_map_of_mem hz)
    have hall : ∀ z ∈ predicateSources a b bval, z.ref = q ∨ (holding r x s.me).full z.ref = true := by
      intro z hz
      have : z.ref ∈ ((predicateSources a b bval).map fun z => (z.ref, z.e)).map (·.1) := by simpa using ⟨z, hz, rfl⟩
      rw [Thread.full_holding (hsc' r (.inl rfl))]
      rcases hrs with h | h <;> rw [h] at this <;> rcases List.mem_pair.1 this with h | h <;> simp [h]
    obtain ⟨z, hz, hzq⟩ := hmem q (.inr rfl)
    have hD' := hD.fill_first (hsc' r (.inl rfl)) (hrd r hr) hr ⟨z, hz, by rw [hzq]; exact hne.symm, by rw [hzq]; exact hq⟩ x
    have hq' : (holding r x s.me).full q = false := by rw [Thread.full_holding (hsc' r (.inl rfl)), if_neg hne.symm, hq]
    obtain ⟨hf, hval⟩ := hD'.fill_last hd (hsc' q (.inr rfl)) (hrd q hq) hq' hall y
    exact ⟨hD'.2.1, hf, by rw [hv, Option.map_some, hval]⟩

/-- Settles O4: what is full at issue is evaluated at once, and one fill after another completes what is deferred. -/
theorem predicates : Obligations.Predicates := ⟨predicateResults, deferredPredicate⟩

end

section
/-!
Transfers and the thread's end (R58, R59, R88 to R90).
-/

open Sys2Proof Sys2Proof.Machine Sys2Proof.Claims

namespace Sys2Proof.Machine

/-! ### Header fetches that find their block -/

section
variable (t : Thread)

theorem Thread.openNext_eq (h : BitVec 19) : t.openNext h = { t with
    rhdr := (t.openNext h).rhdr, rword := (t.openNext h).rword, restarts := (t.openNext h).restarts
    ckr := (t.openNext h).ckr, prog := (t.openNext h).prog, genCk := (t.openNext h).genCk
    region := (t.openNext h).region } := by
  unfold Thread.openNext
  split <;> rfl

theorem Thread.wG_eq (d : BitVec 4) (x : W64) : t.wG d x = { t with g := (t.wG d x).g } := by
  unfold Thread.wG
  split <;> rfl

@[simp] theorem Thread.rG_enter (a : BitVec 19) (b : Block) (w : Nat) (c : Bool) (r : BitVec 4) :
    (t.enter a b w c).rG r = t.rG r := rfl

theorem Thread.sameReg_openNext (h : BitVec 19) (r : RegRef) : Thread.sameReg t (t.openNext h) r :=
  Thread.sameReg_congr (by rw [Thread.openNext_eq]) (by rw [Thread.openNext_eq]) (by rw [Thread.openNext_eq])
    (by rw [Thread.openNext_eq]) (Thread.sameBut_refl t [] r (by simp))

end

@[simp] theorem State.begin_eq (s : State) : s.begin = s.modMe Thread.enterRegion := rfl

/-- A thread enters the block at its transfer's target. -/
def Thread.arrive (target : W64) (b : Block) (t : Thread) : Thread :=
  (t.openNext (target.setWidth 19)).enter (target.setWidth 19) b 0 true

theorem fetchHeader_transfer {tid : Tid} {s : State} {target src : W64} {kind : Nat} {b : Block} (hk : kind ≠ 7)
    (hb : fetchAt s tid.core target (.transfer kind) = .block b) :
    fetchHeader tid ⟨target, .transfer kind, src⟩ s = s.modTh tid (Thread.arrive target b) := by
  simp only [fetchHeader, hk, if_false, hb, State.modTh_modTh]
  rfl

theorem transfer_block {s : State} {target : W64} {kind : Nat} {b : Block} (hj : s.me.pjoin = none) (hk : kind ≠ 7)
    (hb : fetchAt s s.cur.core target (.transfer kind) = .block b) :
    transfer target kind s = s.modMe (Thread.arrive target b) := by
  have hdue : s.me.joinDue = false := by simp [Thread.joinDue, hj]
  simp only [transfer, hdue, hk, Bool.false_eq_true, if_false]
  exact fetchHeader_transfer hk hb

/-- The issuing thread retires a transfer with its link. -/
def Thread.leave (d : BitVec 4) (t : Thread) : Thread := Thread.retire 1 false (t.enterRegion.wG d t.enterRegion.nh64)

theorem Thread.nh64_enterRegion (t : Thread) : t.enterRegion.nh64 = BitVec.ofNat 64 t.nh := by
  rw [Thread.enterRegion_eq]
  rfl

theorem Thread.leave_eq (d : BitVec 4) (t : Thread) : t.leave d = { t with
    g := (t.leave d).g, pc := (t.leave d).pc, crc := (t.leave d).crc, blocked := none, hold := .none
    rhdr := (t.leave d).rhdr, rword := (t.leave d).rword, restarts := (t.leave d).restarts, ckr := (t.leave d).ckr
    prog := (t.leave d).prog, genCk := (t.leave d).genCk, region := (t.leave d).region
    restarted := (t.leave d).restarted } := by
  unfold Thread.leave
  rw [Thread.wG_eq, Thread.enterRegion_eq]
  rfl

theorem Thread.sameBut_leave (d : BitVec 4) (t : Thread) : Thread.sameBut [.g d] t (t.leave d) := fun r hr =>
  Thread.sameReg_trans (t.sameRest_enterRegion_g r)
    (Thread.sameReg_trans (t.enterRegion.sameBut_wG d _ r hr) (Thread.sameReg_retire _ _ _ r))

theorem Thread.pjoin_leave (d : BitVec 4) (t : Thread) : (t.leave d).pjoin = t.pjoin := by rw [Thread.leave_eq]

/-- A transfer that leaves its block and arrives at its target. -/
theorem entered_of_block {s : State} {target : W64} {kind : Nat} {d : BitVec 4} {b : Block} (hj : s.me.pjoin = none)
    (hk : kind ≠ 7) (hb : fetchAt s s.cur.core target (.transfer kind) = .block b) :
    Entered target b [.g d] s (transfer target kind (s.modMe (Thread.leave d))) ∧
      (d ≠ 0 → (transfer target kind (s.modMe (Thread.leave d))).me.rG d = BitVec.ofNat 64 s.me.nh) := by
  have hme : (s.modMe (Thread.leave d)).me = s.me.leave d := s.me_modMe _
  have e : transfer target kind (s.modMe (Thread.leave d)) = s.modMe fun t => (t.leave d).arrive target b := by
    rw [transfer_block (by rw [hme, Thread.pjoin_leave, hj]) hk (by simpa using hb), State.modMe_modMe]
  rw [e]
  unfold Entered
  rw [State.me_modMe]
  refine ⟨⟨OnlyThread.modMe _ _, SameMemory.modMe _ _, fun r hr => ?_, ?_, rfl, rfl, ?_⟩, fun hd => ?_⟩
  · exact Thread.sameReg_trans (s.me.sameBut_leave d r hr)
      (Thread.sameReg_congr rfl rfl rfl rfl ((s.me.leave d).sameReg_openNext (target.setWidth 19) r))
  · unfold Thread.arrive
    rw [Thread.openNext_eq, Thread.leave_eq]
    rfl
  · simp [Thread.arrive, Thread.enter]
  · have h := ((s.me.leave d).sameReg_openNext (target.setWidth 19) (.g d)).1
    refine h.trans ?_
    rw [Thread.leave, Thread.rG_retire, Thread.rG_wG, if_pos ⟨rfl, hd⟩, Thread.nh64_enterRegion]

/-! ### The thread's end (R90) -/

theorem ended_endThread {s : State} {f : Thread → Thread} (hf : Thread.sameBut [] s.me (f s.me))
    (hp : (f s.me).pending = s.me.pending) : Ended s (endThread s.cur (s.modMe f)) := by
  have hme : (endThread s.cur (s.modMe f)).me = { f s.me with
      life := .ended, pjoin := none, fetch := none, blocked := none, hold := .none } := by
    rw [endThread, State.me_modTh_of_cur (by rfl), dropWaits_th, ← s.me_modMe f]
    rfl
  refine ⟨rfl, fun k hk => ?_, ⟨fun _ => rfl, rfl, rfl⟩, rfl, rfl, ?_⟩
  · rw [endThread, State.modTh_look _ hk, dropWaits_threads, s.modMe_look hk]
  · rw [hme]
    exact ⟨fun r hr => Thread.sameReg_congr rfl rfl rfl rfl (hf r hr), rfl, hp, rfl⟩

theorem ended_leave {s : State} : Ended s (endThread s.cur (s.modMe (Thread.leave 0))) := by
  refine ended_endThread (fun r _ => ?_) (by rw [Thread.leave_eq])
  exact Thread.sameReg_trans (s.me.sameRest_enterRegion_g r) (Thread.sameReg_retire _ _ _ r)

end Sys2Proof.Machine

/-- R88: BR and CALL. -/
theorem displacementTransfers : Claims.DisplacementTransfers := by
  intro i g target kind d s b hi hg hd hm hj hb
  cases i
  case br o g' =>
    cases hi
    refine ⟨_, congrArg Host.Outcome.next (control_go hg Thread.readable_nil Thread.allFull_nil hm), ?_⟩
    have h := entered_of_block (d := 0) hj (by decide) hb
    rw [show s.modMe (Thread.leave 0) = retire 1 false s.begin by simp only [retire, State.begin_eq, State.modMe_modMe]; rfl] at h
    exact h
  case call o g' =>
    cases hi
    refine ⟨_, congrArg Host.Outcome.next (control_go hg Thread.readable_nil (Thread.allFull_one hd) hm), ?_⟩
    have h := entered_of_block (d := 15) hj (by decide) hb
    rw [show s.modMe (Thread.leave 15) = retire 1 false (s.begin.modMe fun t => t.wG 15 t.nh64) by
      simp only [retire, State.begin_eq, State.modMe_modMe]; rfl] at h
    exact h
  all_goals cases hi

namespace Sys2Proof.Machine

/-! ### Register transfers (R59, R89) -/

theorem Thread.src_eq (t : Thread) (a : GSrc) : t.src a = t.rG a.r := rfl

section
variable {s : State} {kind : Nat} {link : Option (BitVec 4)} {a : GSrc}

theorem registerTransfer_align (hj : s.me.pjoin = none) (ha : (s.me.rG a.r).toNat % 8 ≠ 0) :
    registerTransfer kind link a s = trap (causeOf .align (s.me.rG a.r)) s := by
  have h1 : ¬ aligned (s.me.rG a.r) 8 = true := by rw [aligned, decide_eq_true_eq]; exact ha
  have h2 : ¬ s.me.joinDue = true := by simp [Thread.joinDue, hj]
  simp only [registerTransfer, Thread.src_eq]
  exact if_pos ⟨h1, h2⟩

theorem registerTransfer_end (hj : s.me.pjoin = none) (ha : s.me.rG a.r = 0) :
    registerTransfer kind link a s = endThread s.cur (s.modMe (Thread.leave 0)) := by
  have h1 : aligned 0 8 = true := rfl
  have hs : retire 1 false (s.modMe Thread.enterRegion) = s.modMe (Thread.leave 0) := by
    simp only [retire, State.modMe_modMe]
    rfl
  have hjd : (s.modMe (Thread.leave 0)).me.joinDue = false := by
    rw [State.me_modMe, Thread.joinDue, Thread.pjoin_leave, hj]
    rfl
  cases link <;>
    simp only [registerTransfer, Thread.src_eq, ha, h1, not_true, false_and, if_false, if_true, true_or, State.begin_eq, hs,
      transferReg, hjd, Bool.false_eq_true, State.modMe_cur]

theorem registerTransfer_go (hj : s.me.pjoin = none) (h0 : s.me.rG a.r ≠ 0) (ha : (s.me.rG a.r).toNat % 8 = 0) :
    registerTransfer kind link a s = transfer (s.me.rG a.r) kind (s.modMe (Thread.leave (link.getD 0))) := by
  have h1 : aligned (s.me.rG a.r) 8 = true := by rw [aligned, decide_eq_true_eq]; exact ha
  have hs : ∀ d, retire 1 false ((s.modMe Thread.enterRegion).modMe fun t => t.wG d t.nh64) = s.modMe (Thread.leave d) := by
    intro d
    simp only [retire, State.modMe_modMe]
    rfl
  have hs0 : retire 1 false (s.modMe Thread.enterRegion) = s.modMe (Thread.leave 0) := by
    simp only [retire, State.modMe_modMe]
    rfl
  have hjd : ∀ d, (s.modMe (Thread.leave d)).me.joinDue = false := fun d => by
    rw [State.me_modMe, Thread.joinDue, Thread.pjoin_leave, hj]
    rfl
  cases link with
  | none =>
    simp only [registerTransfer, Thread.src_eq, h1, h0, not_true, false_and, if_false, State.begin_eq, hs0, transferReg, hjd, Bool.false_eq_true,
      Option.getD_none]
  | some d =>
    simp only [registerTransfer, Thread.src_eq, h1, h0, not_true, false_and, or_self, if_false, State.begin_eq, hs, transferReg, hjd,
      Bool.false_eq_true, Option.getD_some]

end

/-- A register transfer of any of the three forms. -/
theorem exec_registerForm {i : Instr} {g : Guard} {a : GSrc} {kind : Nat} {d : BitVec 4} (s : State)
    (h : registerForm i = some (g, a, kind, d)) (hd : s.me.full (.g d) = true) : kind ≠ 7 ∧ ∃ link dsts,
      exec i s = .next (control g [srcG a] dsts (registerTransfer kind link a) s) ∧ link.getD 0 = d ∧ s.me.allFull dsts := by
  cases i
  case jmp => cases h; exact ⟨by decide, none, [], rfl, rfl, Thread.allFull_nil⟩
  case jcall => cases h; exact ⟨by decide, some d, [.g d], rfl, rfl, Thread.allFull_one hd⟩
  case ret => cases h; exact ⟨by decide, none, [], rfl, rfl, Thread.allFull_nil⟩
  all_goals cases h

end Sys2Proof.Machine

/-- R59 and R89: JMP, JCALL and RET. -/
theorem registerTransfers : Claims.RegisterTransfers := by
  intro i g a kind d s b hi hg hs hd hm hj
  obtain ⟨hk, link, dsts, he, rfl, hdst⟩ := exec_registerForm s hi hd
  have he := he.trans (congrArg Host.Outcome.next (control_go (srcs := [srcG a]) hg hs hdst hm))
  refine ⟨fun h0 ha hb => ⟨_, he, ?_⟩, fun h0 => ⟨_, he, ?_⟩, fun ha hc => ⟨_, he, ?_⟩⟩
  · rw [registerTransfer_go hj h0 ha]
    exact entered_of_block hj hk hb
  · rw [registerTransfer_end hj h0]
    exact ended_leave
  · rw [registerTransfer_align hj ha]
    exact trapped_trap hc _

/-- R90: EXIT. -/
theorem threadExit : Claims.ThreadExit := by
  intro g s hg hm hj
  have hjd : ¬ s.me.joinDue = true := by simp [Thread.joinDue, hj]
  have hs : retire 1 false s.begin = s.modMe (Thread.leave 0) := by
    simp only [retire, State.begin_eq, State.modMe_modMe]
    rfl
  refine ⟨_, congrArg Host.Outcome.next (control_go hg Thread.readable_nil Thread.allFull_nil hm), ?_⟩
  rw [if_neg hjd, hs]
  exact ended_leave

/-- Settles O10: a transfer leaves its block, with its link, and arrives at the block that its target holds. -/
theorem transfers : Obligations.Transfers := ⟨displacementTransfers, registerTransfers, threadExit⟩

end

section
/-!
Header fetches and words that are no instruction (R53 to R60, R69, R97).
-/

open Sys2Proof Sys2Proof.Machine Sys2Proof.Claims

namespace Sys2Proof.Machine

/-! ### Fields of a header (R54) -/

theorem bits_eq_extractLsb' (x : W64) (lo n : Nat) : bits x lo n = (x.extractLsb' lo n).toNat := by
  simp [bits, BitVec.extractLsb'_toNat, Nat.shiftRight_eq_div_pow]

theorem bits_eq_iff {x : W64} {lo n k : Nat} (hk : k < 2 ^ n) : bits x lo n = k ↔ x.extractLsb' lo n = BitVec.ofNat n k := by
  rw [bits_eq_extractLsb', ← BitVec.toNat_inj, BitVec.toNat_ofNat, Nat.mod_eq_of_lt hk]

theorem bits_one_eq_one (x : W64) (i : Nat) : bits x i 1 = 1 ↔ x.getLsbD i = true := by
  rw [bits, BitVec.getLsbD, Nat.testBit_eq_decide_div_mod_eq, decide_eq_true_eq, pow_one]

/-- A header is bad just when it fails R54. -/
theorem headerBad_iff (via : Via) (h : W64) : headerBad via h = true ↔ ¬ GoodHeader via h := by
  have h62 : bits h 62 2 = 2 ↔ h.extractLsb' 62 2 = 0b10#2 := bits_eq_iff (by decide)
  have hlen : hdrLen h = 0 ↔ h.extractLsb' 0 7 = 0#7 := bits_eq_iff (by decide)
  have hlive : bits h 7 1 = 1 ↔ h.getLsbD 7 = true := bits_one_eq_one h 7
  have h0 : hdrKind h = 0 ↔ h.extractLsb' 60 2 = 0b00#2 := bits_eq_iff (by decide)
  have h1 : hdrKind h = 1 ↔ h.extractLsb' 60 2 = 0b01#2 := bits_eq_iff (by decide)
  have h2 : hdrKind h = 2 ↔ h.extractLsb' 60 2 = 0b10#2 := bits_eq_iff (by decide)
  have h3 : hdrKind h = 3 ↔ h.extractLsb' 60 2 = 0b11#2 := bits_eq_iff (by decide)
  cases via <;>
    simp only [headerBad, GoodHeader, Bool.or_eq_true, decide_eq_true_eq, ← h62, ← hlen, ← h0, ← h1, ← h2, ← h3, hlive, ne_eq,
      Bool.false_eq_true, or_false, ← Bool.not_eq_true] <;>
    grind

/-! ### The words of a block -/

theorem State.length_peekCode (s : State) (p : Phys) (n : Nat) : (s.peekCode p n).length = n := by
  induction n generalizing p with
  | zero => rfl
  | succ n ih => simp [State.peekCode, ih]

theorem State.getElem?_peekCode (s : State) {n k : Nat} (hk : k < n) (p : Phys) :
    (s.peekCode p n)[k]? = some (BitVec.ofNat 32 (s.peek (p.plus (4 * k)) 4)) := by
  induction n generalizing p k with
  | zero => omega
  | succ n ih =>
    cases k with
    | zero => rfl
    | succ k =>
      rw [State.peekCode, List.getElem?_cons_succ, ih (by omega)]
      simp only [Phys.plus, Nat.mul_succ, Nat.add_assoc, Nat.add_comm 4]

/-! ### Poisoned units (R196) -/

theorem Region.base_mod_64 (r : Region) : r.base % 64 = 0 := by
  cases r <;> simp only [Region.base] <;> omega

/-- Bytes of one region in one unit are poisoned together. -/
theorem State.isPoisoned_of_unit (s : State) (p : Phys) {o : Nat} (h : o / 64 = p.off / 64) :
    s.isPoisoned { p with off := o } = s.isPoisoned p := by
  have hb := p.region.base_mod_64
  have e : ∀ x, ((p.node * 4 + p.die) * 2 ^ 40 + p.region.base + x) / 64 =
      ((p.node * 4 + p.die) * 2 ^ 40 + p.region.base) / 64 + x / 64 := fun x => by omega
  simp only [State.isPoisoned, Phys.key, e, h]

/-- The bytes that `firstPoison` passes over are not poisoned. -/
theorem State.firstPoison_spec (s : State) (n : Nat) (p : Phys) :
    match s.firstPoison p n with
    | none => ∀ o, p.off ≤ o → o < (p.off / 64 + n) * 64 → s.isPoisoned { p with off := o } = false
    | some q => q = { p with off := q.off } ∧ p.off ≤ q.off ∧ s.isPoisoned q = true ∧
        ∀ o, p.off ≤ o → o < q.off → s.isPoisoned { p with off := o } = false := by
  induction n generalizing p with
  | zero =>
    intro o h1 h2
    omega
  | succ n ih =>
    rw [State.firstPoison]
    by_cases hp : s.isPoisoned p = true
    · rw [if_pos hp]
      exact ⟨rfl, Nat.le_refl _, hp, fun o h1 h2 => absurd h1 (Nat.not_le.2 h2)⟩
    · rw [if_neg hp]
      have hp : s.isPoisoned p = false := by simpa using hp
      have first : ∀ o, p.off ≤ o → o < (p.off / 64 + 1) * 64 → s.isPoisoned { p with off := o } = false := fun o h1 h2 => by
        rw [s.isPoisoned_of_unit p (by omega), hp]
      have h := ih { p with off := (p.off / 64 + 1) * 64 }
      have e : (p.off / 64 + 1) * 64 / 64 = p.off / 64 + 1 := by omega
      cases hf : s.firstPoison { p with off := (p.off / 64 + 1) * 64 } n with
      | none =>
        simp only [hf, e] at h
        intro o h1 h2
        by_cases ho : o < (p.off / 64 + 1) * 64
        · exact first o h1 ho
        · exact h o (by omega) (by omega)
      | some q =>
        simp only [hf] at h
        obtain ⟨hq, hle, hbad, hall⟩ := h
        refine ⟨hq, by omega, hbad, fun o h1 h2 => ?_⟩
        by_cases ho : o < (p.off / 64 + 1) * 64
        · exact first o h1 ho
        · exact hall o (by omega) h2

/-! ### What a fetch finds -/

section
variable {s : State} {c : CoreId} {a : W64} {via : Via} {h : W64}

theorem fetchAt_overlay (hx : (s.core c).xb.toNat ≤ a.toNat) : fetchAt s c a via = .overlay := by
  simp only [fetchAt, if_pos hx]

theorem fetchAt_poison (hx : a.toNat < (s.core c).xb.toNat) (hp : s.isPoisoned (scratchAt c a.toNat) = true) :
    fetchAt s c a via = .poison (scratchAt c a.toNat) := by
  simp only [fetchAt, if_neg (Nat.not_le.2 hx), hp, if_true]

/-- Below XB, with the header's unit not poisoned, the header decides. -/
theorem fetchAt_header (hx : a.toNat < (s.core c).xb.toNat) (hp : s.isPoisoned (scratchAt c a.toNat) = false)
    (hh : h = BitVec.ofNat 64 (s.peek (scratchAt c a.toNat) 8)) :
    (headerBad via h = true → fetchAt s c a via = .bad h) ∧
    (headerBad via h = false → (s.core c).xb.toNat < a.toNat + 8 + 4 * hdrLen h → fetchAt s c a via = .overlay) ∧
    (headerBad via h = false → a.toNat + 8 + 4 * hdrLen h ≤ (s.core c).xb.toNat →
      (∀ q, s.firstPoison (scratchAt c a.toNat) (hdrLen h / 16 + 3) = some q → q.off < a.toNat + 8 + 4 * hdrLen h →
        fetchAt s c a via = .poison q) ∧
      ((∀ q, s.firstPoison (scratchAt c a.toNat) (hdrLen h / 16 + 3) = some q → a.toNat + 8 + 4 * hdrLen h ≤ q.off) →
        fetchAt s c a via = .block ⟨h, s.peekCode ((scratchAt c a.toNat).plus 8) (hdrLen h), hdrCK h⟩)) := by
  subst hh
  simp only [fetchAt, if_neg (Nat.not_le.2 hx), hp, Bool.false_eq_true, if_false]
  refine ⟨fun hb => by rw [if_pos hb], fun hb hl => by rw [hb, if_neg (by decide), if_pos hl], fun hb hl => ?_⟩
  rw [hb, if_neg (by decide), if_neg (by omega)]
  refine ⟨fun q hq hlt => ?_, fun hall => ?_⟩
  · rw [hq]
    exact if_pos hlt
  · split
    next q hq => rw [if_neg (Nat.not_lt.2 (hall q hq))]
    next => rfl

/-- The poison that a fetch finds first, or that none of the block's bytes is poisoned. -/
theorem firstPoison_of_block (n : Nat) :
    ((∀ k, k < 8 + 4 * n → s.isPoisoned (scratchAt c (a.toNat + k)) = false) →
      ∀ q, s.firstPoison (scratchAt c a.toNat) (n / 16 + 3) = some q → a.toNat + 8 + 4 * n ≤ q.off) ∧
    (∀ k, k < 8 + 4 * n → s.isPoisoned (scratchAt c (a.toNat + k)) = true →
      (∀ j, j < k → s.isPoisoned (scratchAt c (a.toNat + j)) = false) →
      s.firstPoison (scratchAt c a.toNat) (n / 16 + 3) = some (scratchAt c (a.toNat + k))) := by
  have spec := s.firstPoison_spec (n / 16 + 3) (scratchAt c a.toNat)
  have hat : ∀ o, ({ scratchAt c a.toNat with off := o } : Phys) = scratchAt c o := fun _ => rfl
  have hoff : (scratchAt c a.toNat).off = a.toNat := rfl
  refine ⟨fun hall q hq => ?_, fun k hk hbad hall => ?_⟩
  · simp only [hq, hat, hoff] at spec
    obtain ⟨hq', hle, hb, -⟩ := spec
    by_contra hlt
    have := hall (q.off - a.toNat) (by omega)
    rw [Nat.add_sub_cancel' hle, ← hq', hb] at this
    cases this
  · cases hf : s.firstPoison (scratchAt c a.toNat) (n / 16 + 3) with
    | none =>
      simp only [hf, hat, hoff] at spec
      rw [spec (a.toNat + k) (by omega) (by omega)] at hbad
      cases hbad
    | some q =>
      simp only [hf, hat, hoff] at spec
      obtain ⟨hq', hle, hb, hfree⟩ := spec
      have h1 : ¬ a.toNat + k < q.off := fun hlt => by
        rw [hfree _ (by omega) hlt] at hbad
        cases hbad
      have h2 : ¬ q.off < a.toNat + k := fun hlt => by
        have := hall (q.off - a.toNat) (by omega)
        rw [Nat.add_sub_cancel' hle, ← hq', hb] at this
        cases this
      rw [hq', show q.off = a.toNat + k by omega]

end

end Sys2Proof.Machine

/-- R53, R54, R57 and R58: what a fetch finds. -/
theorem headerChecks : Claims.HeaderChecks := by
  intro s c a via h n hh hn
  have hlen : hdrLen h = n := by rw [hn, ← bits_eq_extractLsb']; rfl
  refine ⟨fetchAt_overlay, fetchAt_poison, fun hx hp => ?_⟩
  obtain ⟨hbad, hover, hgood⟩ := fetchAt_header (via := via) hx hp hh
  have good : GoodHeader via h → headerBad via h = false := fun hg => by
    rw [Bool.eq_false_iff, ne_eq, headerBad_iff, not_not]
    exact hg
  rw [hlen] at hover hgood
  obtain ⟨hfree, hfirst⟩ := firstPoison_of_block (s := s) (c := c) (a := a) n
  refine ⟨fun hg => hbad ((headerBad_iff via h).2 hg), fun hg => hover (good hg), fun hg hl => ?_⟩
  obtain ⟨hpoison, hblock⟩ := hgood (good hg) hl
  refine ⟨fun hall => ⟨_, hblock (hfree hall), rfl, ?_, s.length_peekCode _ n, fun k hk => ?_⟩, fun k hk hb hall => ?_⟩
  · rw [← Bool.coe_iff_coe, ← bits_one_eq_one, hdrCK, decide_eq_true_eq]
  · rw [s.getElem?_peekCode hk]
    rfl
  · have hk' : (scratchAt c (a.toNat + k)).off = a.toNat + k := rfl
    exact hpoison _ (hfirst k hk hb hall) (by omega)

/-- R55 and R69: a word that is no instruction. -/
theorem illegalWords : Claims.IllegalWords := by
  intro s b blk hblk hc
  have h := trapped_trap hc ⟨.illegal, s.me.word64,
    if isWide s.me.curWord then (blk.words.getD (s.me.wordIx + 1) 0).setWidth 64 else 0, 0⟩
  simpa only [illegalWord, hblk, Thread.word64] using h

namespace Sys2Proof.Machine

/-! ### What a fetch does -/

theorem OnlyOf.modTh (tid : Tid) (s : State) (f : Thread → Thread) : OnlyOf tid s (s.modTh tid f) :=
  ⟨rfl, fun _ hk => s.modTh_look hk⟩

/-- The fetch is no longer due. -/
def Thread.clearFetch (t : Thread) : Thread := { t with fetch := none, hold := .none }

/-- What a header fetch has done to its thread before it looks at what it found: the fetch is no longer due, and a region that
begins behind the block begins at its target. -/
def Thread.fetches (f : Fetch) (t : Thread) : Thread :=
  match f.via with
  | .transfer k =>
    if k = 7 then t.clearFetch else t.clearFetch.openNext (f.target.setWidth 19)
  | _ => t.clearFetch

theorem Thread.fetches_eq (f : Fetch) (t : Thread) : t.fetches f = { t with
    fetch := none, hold := .none, rhdr := (t.fetches f).rhdr, rword := (t.fetches f).rword, restarts := (t.fetches f).restarts
    ckr := (t.fetches f).ckr, prog := (t.fetches f).prog, genCk := (t.fetches f).genCk, region := (t.fetches f).region } := by
  unfold Thread.fetches
  split
  · split
    · rfl
    · rw [Thread.openNext_eq]
      rfl
  · rfl

/-- A fetch that is due goes by what it finds. -/
theorem upkeep_fetch {tid : Tid} {s : State} {f : Fetch} (hd : (s.th tid).faultDue = false) (hf : (s.th tid).fetch = some f) :
    (fetchAt s tid.core f.target f.via = .overlay →
      upkeep tid s = overlayEntry tid f.target f.via.kind f.src (s.modTh tid (Thread.fetches f))) ∧
    (∀ h, fetchAt s tid.core f.target f.via = .bad h → upkeep tid s =
      enterTrap tid ⟨.header, h, f.src, BitVec.ofNat 64 f.via.kind⟩ f.target f.target none (s.modTh tid (Thread.fetches f))) ∧
    (∀ b, fetchAt s tid.core f.target f.via = .block b → ∃ w c, upkeep tid s =
      s.modTh tid (fun t => (t.fetches f).enter (f.target.setWidth 19) b w c) ∧
        match f.via with
        | .resume w' c' | .saved w' c' => w = w' ∧ c = c'
        | _ => w = 0 ∧ c = true) := by
  have e : upkeep tid s = fetchHeader tid f (s.modTh tid Thread.clearFetch) := by
    simp only [upkeep, hd, Bool.false_eq_true, if_false, hf]
    rfl
  obtain ⟨a, via, src⟩ := f
  rw [e]
  cases via with
  | transfer k =>
    by_cases h7 : k = 7
    · subst h7
      have hG : Thread.fetches ⟨a, .transfer 7, src⟩ = Thread.clearFetch := rfl
      rw [hG]
      refine ⟨fun h => ?_, fun x h => ?_, fun b h => ⟨0, true, ?_, rfl, rfl⟩⟩ <;> dsimp only at h <;>
        simp only [fetchHeader, fetchAt_modTh, h, if_true, State.modTh_modTh]
    · have hG : Thread.fetches ⟨a, .transfer k, src⟩ = fun t => t.clearFetch.openNext (a.setWidth 19) := by
        funext t; simp only [Thread.fetches, h7, if_false]
      rw [hG]
      refine ⟨fun h => ?_, fun x h => ?_, fun b h => ⟨0, true, ?_, rfl, rfl⟩⟩ <;> dsimp only at h <;>
        simp only [fetchHeader, fetchAt_modTh, h, h7, if_false, State.modTh_modTh]
  | resume w c =>
    refine ⟨fun h => ?_, fun x h => ?_, fun b h => ⟨w, c, ?_, rfl, rfl⟩⟩ <;> dsimp only at h <;>
      simp only [fetchHeader, fetchAt_modTh, h, State.modTh_modTh] <;> rfl
  | saved w c =>
    refine ⟨fun h => ?_, fun x h => ?_, fun b h => ⟨w, c, ?_, rfl, rfl⟩⟩ <;> dsimp only at h <;>
      simp only [fetchHeader, fetchAt_modTh, h, State.modTh_modTh] <;> rfl
  | trapEntry =>
    refine ⟨fun h => ?_, fun x h => ?_, fun b h => ⟨0, true, ?_, rfl, rfl⟩⟩ <;> dsimp only at h <;>
      simp only [fetchHeader, fetchAt_modTh, h, State.modTh_modTh] <;> rfl
  | overlayEntry =>
    refine ⟨fun h => ?_, fun x h => ?_, fun b h => ⟨0, true, ?_, rfl, rfl⟩⟩ <;> dsimp only at h <;>
      simp only [fetchHeader, fetchAt_modTh, h, State.modTh_modTh] <;> rfl

theorem Thread.sameBut_fetches (f : Fetch) (t : Thread) : Thread.sameBut [] t (t.fetches f) := by
  apply Thread.sameBut_of_registers <;> rw [Thread.fetches_eq]

theorem standsAt_enter (tid : Tid) (s : State) (f : Fetch) (a : BitVec 19) (b : Block) (w : Nat) (c : Bool) :
    StandsAt tid a w { b with compare := b.compare && c } s (s.modTh tid fun t => (t.fetches f).enter a b w c) := by
  unfold StandsAt
  rw [State.th_modTh]
  exact ⟨OnlyOf.modTh _ _ _, fun r hr => Thread.sameReg_congr rfl rfl rfl rfl ((s.th tid).sameBut_fetches f r hr), rfl, rfl, rfl,
    rfl, rfl⟩

/-- Entering a handler (R60, R97). -/
theorem handlerAt_modTh {tid : Tid} {s : State} {a : BitVec 19} {b : Block} {cause : Nat} {tpc : W64} {info : Vector W64 4}
    {F : Thread → Thread} (hr : Thread.sameBut [] (s.th tid) (F (s.th tid)))
    (h : (F (s.th tid)) = { F (s.th tid) with
      bh := a, pc := a + 8, block := some b, fetch := none, crc := 0xFFFFF, tcause := BitVec.ofNat 64 cause, tpc := tpc
      tinfo := info, inHandler := true, deferred := false }) : HandlerAt tid a b cause tpc info s (s.modTh tid F) := by
  unfold HandlerAt StandsAt
  rw [State.th_modTh]
  refine ⟨⟨OnlyOf.modTh _ _ _, hr, ?_⟩, ?_⟩
  · rw [h]
    exact ⟨rfl, rfl, rfl, rfl, rfl⟩
  · rw [h]
    exact ⟨rfl, rfl, rfl, rfl, rfl⟩

/-- A trap is taken as the handler's block. -/
theorem handlerAt_enterTrap {tid : Tid} {s : State} {b : Block} {G : Thread → Thread}
    (hr : Thread.sameBut [] (s.th tid) (G (s.th tid))) (hin : (G (s.th tid)).inHandler = false)
    (htvb : (G (s.th tid)).tvb = (s.th tid).tvb)
    (hb : fetchAt s tid.core ((s.th tid).tvb.setWidth 64) .trapEntry = .block b) (f : FaultInfo) (tpc t3 : W64) :
    HandlerAt tid (s.th tid).tvb b f.cause.code tpc #v[f.t0, f.t1, f.t2, t3] s (enterTrap tid f tpc t3 none (s.modTh tid G)) := by
  have e := enterTrap_eq_takeTrap (s := s.modTh tid G) (tid := tid) (b := b) (by rw [State.th_modTh, hin])
    (by rw [fetchAt_modTh, State.th_modTh, htvb, hb]) f tpc t3 none
  rw [e, State.modTh_modTh, State.th_modTh, htvb]
  exact handlerAt_modTh (fun r hr' => Thread.sameReg_congr rfl rfl rfl rfl (hr r hr')) rfl

/-- The overlay handler is entered as its block (R60). -/
theorem handlerAt_overlayEntry {tid : Tid} {s : State} {b : Block} {G : Thread → Thread}
    (hr : Thread.sameBut [] (s.th tid) (G (s.th tid))) (hin : (G (s.th tid)).inHandler = false)
    (ht : (G (s.th tid)).tinfo = (s.th tid).tinfo)
    (hb : fetchAt s tid.core ((s.core tid.core).ovh.setWidth 64) .overlayEntry = .block b) (a : W64) (kind : Nat) (src : W64) :
    HandlerAt tid (s.core tid.core).ovh b 0 a #v[a, src, BitVec.ofNat 64 kind, (s.th tid).tinfo[3]] s
      (overlayEntry tid a kind src (s.modTh tid G)) := by
  have hc : ({ b with compare := b.compare && true } : Block) = b := by simp
  simp only [overlayEntry, State.th_modTh, hin, Bool.false_eq_true, if_false, enterHandler, State.core_modTh, fetchAt_modTh, hb,
    State.modTh_modTh]
  refine handlerAt_modTh (fun r hr' => Thread.sameReg_congr rfl rfl rfl rfl (hr r hr')) ?_
  simp only [Thread.enter, hc, ht]
  rfl

end Sys2Proof.Machine

/-- R53, R54, R58, R60 and R97: what a header fetch does. -/
theorem headerFetch : Claims.HeaderFetch := by
  intro tid s hd
  refine ⟨fun f hf => ?_, fun b hf hm hj hb => ?_⟩
  · obtain ⟨hover, hbad, hblock⟩ := upkeep_fetch hd hf
    have hfix := Thread.fetches_eq f (s.th tid)
    have hin : (s.th tid).inHandler = false → ((s.th tid).fetches f).inHandler = false := fun h => by rw [hfix, ← h]
    refine ⟨fun b k hv hb => ?_, fun b w cmp hv hb => ?_, fun b k hv ho hi hb => ?_, fun b x k hv hx hi hb => ?_⟩
    · obtain ⟨w, c, e, hw⟩ := hblock b hb
      simp only [hv] at hw
      obtain ⟨rfl, rfl⟩ := hw
      rw [e]
      simpa using standsAt_enter tid s f (f.target.setWidth 19) b 0 true
    · obtain ⟨w', c, e, hw⟩ := hblock b hb
      have hw : w' = w ∧ c = cmp := by rcases hv with hv | hv <;> simpa only [hv] using hw
      obtain ⟨rfl, rfl⟩ := hw
      rw [e]
      exact standsAt_enter tid s f (f.target.setWidth 19) b w' c
    · have ho : fetchAt s tid.core f.target f.via = .overlay := ho.elim fetchAt_overlay id
      rw [hover ho, hv]
      exact handlerAt_overlayEntry ((s.th tid).sameBut_fetches f) (hin hi) (by rw [hfix]) hb f.target k f.src
    · rw [hbad x hx, hv]
      exact handlerAt_enterTrap ((s.th tid).sameBut_fetches f) (hin hi) (by rw [hfix]) hb
        ⟨.header, x, f.src, BitVec.ofNat 64 k⟩ f.target f.target
  · have hjd : (s.th tid).joinDue = false := by simp [Thread.joinDue, hj]
    have e : upkeep tid s = s.modTh tid (Thread.arrive (BitVec.ofNat 64 (s.th tid).nh) b) := by
      simp only [upkeep, hd, Bool.false_eq_true, if_false, hf, blockEnd, hm, hjd]
      exact fetchHeader_transfer (by decide) hb
    have ha : (BitVec.ofNat 64 (s.th tid).nh).setWidth 19 = BitVec.ofNat 19 (s.th tid).nh :=
      BitVec.setWidth_ofNat_of_le (by decide) _
    rw [e]
    unfold StandsAt
    rw [State.th_modTh]
    refine ⟨OnlyOf.modTh _ _ _, fun r _ => Thread.sameReg_congr rfl rfl rfl rfl ((s.th tid).sameReg_openNext _ r), ha, ?_, ?_, rfl, rfl⟩
    · rw [← ha]
      rfl
    · simp [Thread.arrive, Thread.enter]

/-- Settles O56: the header decides what a fetch finds, and what it finds what the thread does. -/
theorem fetchAndIllegalWords : Obligations.FetchAndIllegalWords := ⟨headerChecks, headerFetch, illegalWords⟩

end

section
/-!
The machine at reset, and how a step runs (R44, R69, R132, R385).
-/

open Sys2Proof Sys2Proof.Machine Sys2Proof.Claims

namespace Sys2Proof.Machine

/-! ### The machine at reset -/

/-- At reset no package is brought up, and no core runs. -/
theorem coreRuns_reset (c : CoreId) : coreRuns State.reset c = false := rfl

theorem ready_reset (tid : Tid) : ready State.reset tid = false := by
  simp [ready, coreRuns_reset]

theorem choose_of_not_ready {s : State} {c : CoreId} (h : ∀ k, k < 16 → ready s ⟨c, k⟩ = false) (late : List Nat) :
    choose s c late = .nothing := by
  have e : ((slotOrder s c).filter fun k => ready s ⟨c, k⟩ && !late.contains k) = [] := by
    rw [List.filter_eq_nil_iff]
    intro k hk
    obtain ⟨i, -, rfl⟩ := List.mem_map.1 hk
    simp [h _ (Nat.mod_lt _ (by decide))]
  simp only [choose, e, List.find?_nil]

/-- A thread at reset is `Thread.reset` but for the CTX of the supervisor's slot. -/
theorem th_reset (tid : Tid) : ∃ ctx, State.reset.th tid = { Thread.reset with ctxh := ctx } := by
  unfold State.th
  by_cases h : tid.slot = 0
  · exact ⟨_, if_pos h⟩
  · exact ⟨_, if_neg h⟩

/-- A register of a vector file that holds one value. -/
theorem vReg_of_replicate {t : Thread} {x : Reg Lanes} (h : t.v = Vector.replicate 26 x) (h0 : x = .of Lanes.zero) (r : BitVec 5) :
    t.vReg r = .of Lanes.zero := by
  simp only [Thread.vReg, h, List.getD_eq_getElem?_getD, Vector.toList_replicate, List.getElem?_replicate]
  split <;> simp [h0]

end Sys2Proof.Machine

/-- Settles O54: by evaluation, unit by unit. -/
theorem resetState : Obligations.ResetState := by
  refine ⟨⟨rfl, rfl, rfl⟩, fun _ => rfl, rfl, rfl, fun _ => ⟨rfl, rfl, rfl⟩, fun _ => ⟨rfl, rfl, rfl, rfl, rfl, rfl⟩,
    fun x => ⟨?_, rfl, rfl, rfl⟩, fun _ => ⟨rfl, rfl⟩, fun tid => ?_,
    fun c late => choose_of_not_ready (fun _ _ => ready_reset _) late⟩
  · intro i
    simp only [State.slice, State.reset, Map.get, Map.look, Slice.reset, Option.getD_none, Fin.getElem_fin, Vector.getElem_replicate]
    rfl
  · obtain ⟨ctx, e⟩ := th_reset tid
    have hv : ∀ r, (State.reset.th tid).vReg r = .of Lanes.zero := vReg_of_replicate (by rw [e]; rfl) rfl
    refine ⟨by rw [e]; rfl, ?_, ?_, ?_, fun r => ?_, by rw [e]; rfl, by rw [e]; rfl, by rw [e]; rfl, by rw [e]; rfl⟩
    · rw [e]
      exact (by decide : ∀ r, Thread.reset.full (.g r) = true ∧ Thread.reset.rG r = 0)
    · rw [e]
      exact (by decide : ∀ r, Thread.reset.full (.q r) = true ∧ Thread.reset.rQ r = decide (r = 0))
    · rw [e]
      exact (by decide : ∀ r, Thread.reset.full (.m r) = true ∧ Thread.reset.rM r = BitVec.allOnes 64)
    · exact ⟨by simp only [Thread.full, Thread.mark, hv], by simp only [Thread.rV, hv]⟩

namespace Sys2Proof.Machine

/-! ### Which turn a step takes -/

section
variable {s : State} {t : Turn} {rest : List Turn}

theorem step_dueEvent {e : Act} (h : dueEvent s = some e) : step s = e s := by simp only [step, h]

theorem step_turn (h : dueEvent s = none) (hs : s.sched = t :: rest) : step s = takeTurn t rest s := by
  simp only [step, h, hs]

theorem step_idle (h : dueEvent s = none) (hs : s.sched = []) : step s =
    match (dueAnywhere s).or (dueSlots s) with
    | some e => e s
    | none => autoStep (fun c => coreCycle c [] id) s := by
  simp only [step, h, hs] <;> rfl

/-- A turn that is no event of the boundary's own cycle. -/
def Turn.comesLater : Turn → Bool
  | .event e => !inBoundaryCycle e
  | _ => true

/-- What is due comes before such a turn. -/
theorem takeTurn_due {e : Act} (hl : t.comesLater = true) (h : (dueAnywhere s).or (dueBefore t s) = some e) :
    takeTurn t rest s = e s := by
  unfold takeTurn
  cases t with
  | event i =>
    have hi : inBoundaryCycle i = false := by simpa [Turn.comesLater] using hl
    simp only [hi, h, Bool.false_eq_true, if_false]
  | issue c late | device d => simp only [h, Bool.false_eq_true, if_false]

theorem takeTurn_issue {c : CoreId} {late : List Nat} (ha : dueAnywhere s = none) (hb : dueSlots s = none) :
    takeTurn (.issue c late) rest s =
      coreCycle c late (fun u => { u with sched := .issue c late :: u.sched }) { s with sched := rest } := by
  have hb' : dueBefore (.issue c late) s = none := hb
  unfold takeTurn
  simp only [ha, hb', Bool.false_eq_true, if_false, Option.or_none]

theorem takeTurn_device {d : Device} (ha : dueAnywhere s = none) (hb : dueSlots s = none) :
    takeTurn (.device d) rest s = device d { s with sched := rest } := by
  have hb' : dueBefore (.device d) s = none := hb
  unfold takeTurn
  simp only [ha, hb', Bool.false_eq_true, if_false, Option.or_none]

theorem takeTurn_event {e : Instr} (h : inBoundaryCycle e = true ∨ (dueAnywhere s).or (dueBefore (.event e) s) = none) :
    takeTurn (.event e) rest s = exec e { s with sched := rest } := by
  unfold takeTurn
  cases hi : inBoundaryCycle e
  · have h := h.resolve_left (by simp [hi])
    simp only [hi, h, Bool.false_eq_true, if_false]
  · simp only [hi, if_true]

/-- A turn that starts no fork record lets one that is due go first. -/
theorem dueBefore_fork {e : Act} (hs : startsFork t = false) (h : dueFork s = some e) : dueBefore t s = some e := by
  simp only [dueBefore, hs, h, Bool.false_eq_true, if_false, Option.some_or]

/-- A turn that fills no slots lets a team that is due go first. -/
theorem dueBefore_team {e : Act} (hs : fillsSlots t = false) (hf : dueFork s = none) (h : dueTeam s = some e) :
    dueBefore t s = some e := by
  simp only [dueBefore, hs, hf, h, Bool.false_eq_true, if_false, ite_self, Option.none_or]

theorem startsFork_event {e : Instr} (h : ∀ c stk, e ≠ .forkRecordStart c stk) : startsFork (.event e) = false := by
  unfold startsFork
  split
  next heq => exact absurd (Turn.event.inj heq) (h _ _)
  next => rfl

theorem fillsSlots_event {e : Instr} (h : ∀ c stk, e ≠ .forkRecordStart c stk) (ht : ∀ c i x, e ≠ .teamPlace c i x)
    (hr : ∀ c n, e ≠ .resumePlace c n) : fillsSlots (.event e) = false := by
  unfold fillsSlots
  split
  next heq => exact absurd (Turn.event.inj heq) (ht _ _ _)
  next heq => exact absurd (Turn.event.inj heq) (hr _ _)
  next heq => exact absurd (Turn.event.inj heq) (h _ _)
  next => rfl

/-- Before a turn that takes the free slots itself nothing else takes them. -/
theorem dueBefore_of_startsFork (c : CoreId) (stk : Nat) : dueBefore (.event (.forkRecordStart c stk)) s = none := rfl

theorem dueBefore_teamPlace (c : CoreId) (i : Nat) (x : TeamChoice) : dueBefore (.event (.teamPlace c i x)) s = dueFork s := by
  simp only [dueBefore, startsFork, fillsSlots, Bool.false_eq_true, if_false, if_true, Option.or_none]
theorem dueBefore_resumePlace (c : ClusterId) (n : Nat) : dueBefore (.event (.resumePlace c n)) s = dueFork s := by
  simp only [dueBefore, startsFork, fillsSlots, Bool.false_eq_true, if_false, if_true, Option.or_none]

/-- Nothing is due before a turn when nothing is due at all. -/
theorem dueBefore_of_dueSlots (h : dueSlots s = none) (t : Turn) : dueBefore t s = none := by
  obtain ⟨hf, ht⟩ := Option.or_eq_none_iff.1 h
  simp only [dueBefore, hf, ht, ite_self, Option.or_none]

end

/-! ### The turn of a core -/

section
variable {c : CoreId} {late : List Nat} {again : State → State} {u : State} {tid : Tid}

theorem coreCycle_word (hc : c.wf = true) (h : choose u c late = .word tid) :
    coreCycle c late again u = freeCycle tid again u (issueWord tid u) := by simp only [coreCycle, hc, if_true, h]
theorem coreCycle_upkeep (hc : c.wf = true) (h : choose u c late = .upkeep tid) :
    coreCycle c late again u = .next (upkeep tid u) := by simp only [coreCycle, hc, if_true, h]
theorem coreCycle_nothing (hc : c.wf = true) (h : choose u c late = .nothing) : coreCycle c late again u = .next u := by
  simp only [coreCycle, hc, if_true, h]

theorem freeCycle_issued {t : State} (h : stayed tid u t = false) : freeCycle tid again u (.next t) = .next t := by
  simp only [freeCycle, h, Bool.false_eq_true, if_false]
theorem freeCycle_stayed {t : State} (h : stayed tid u t = true) : freeCycle tid again u (.next t) =
    .next (again (t.modCore tid.core fun k => { k with last := (u.core tid.core).last })) := by simp only [freeCycle, h, if_true]

theorem issueWord_some {i : Instr} (h : fetchInstr (u.th tid) = some i) : issueWord tid u = exec i (select tid u) := by
  simp only [issueWord, h]
theorem issueWord_none (h : fetchInstr (u.th tid) = none) : issueWord tid u = .next (illegalWord (select tid u)) := by
  simp only [issueWord, h]

end

theorem fetchInstr_of_decode {t : Thread} {b : Block} {i : Instr} (hb : t.block = some b)
    (hd : decode t.curWord (b.words.getD (t.wordIx + 1) 0) = .ok i)
    (hw : isWide t.curWord = true → t.wordIx + 1 < t.blockLen) (hc : Instr.isControl i = true → t.wordIx + 1 = t.blockLen) :
    fetchInstr t = some i := by
  have h1 : ¬ (isWide t.curWord = true ∧ t.blockLen ≤ t.wordIx + 1) := fun h => absurd (hw h.1) (Nat.not_lt.2 h.2)
  have h2 : ¬ (Instr.isControl i = true ∧ t.wordIx + 1 ≠ t.blockLen) := fun h => h.2 (hc h.1)
  simp only [fetchInstr, hb, hd, if_neg h1, if_neg h2]

end Sys2Proof.Machine

/-- How a step runs: what comes first, and what a core's turn executes. -/
theorem stepRuns : Claims.StepRuns := by
  refine ⟨fun s e h => step_dueEvent h, fun s c late rest u h ha hb hs hu hc => ?_, fun s e rest h hs hn => ?_,
    fun s d rest h hs ha hb => ?_, fun s a h ha hs => ?_, fun s a h ha hf hs => ?_, fun s a h ha hf ht hs => ?_,
    fun s h ha hb hs => ?_, fun t b i hb hd hw hc => fetchInstr_of_decode hb hd hw hc⟩
  · have hth : ∀ tid, u.th tid = s.th tid := fun tid => by rw [hu]; rfl
    have hcore : ∀ k, u.core k = s.core k := fun k => by rw [hu]; rfl
    rw [step_turn h hs, takeTurn_issue ha hb, ← hu]
    refine ⟨fun tid i t hch hi he => ⟨fun hst => ?_, fun hst => ⟨_, ?_, rfl⟩⟩, fun tid hch hi hst => ?_, fun tid hch => ?_,
      fun hch => coreCycle_nothing hc hch⟩
    · rw [coreCycle_word hc hch, issueWord_some ((hth tid).symm ▸ hi), he, freeCycle_issued hst]
    · rw [coreCycle_word hc hch, issueWord_some ((hth tid).symm ▸ hi), he, freeCycle_stayed hst, hcore]
      rfl
    · rw [coreCycle_word hc hch, issueWord_none ((hth tid).symm ▸ hi), freeCycle_issued hst]
    · exact coreCycle_upkeep hc hch
  · rw [step_turn h hs]
    refine takeTurn_event (hn.imp_right fun hx => ?_)
    obtain ⟨ha, hx⟩ := hx
    rw [ha, Option.none_or]
    rcases hx with hx | ⟨c, stk, rfl⟩ | ⟨hf, ⟨c, i, x, rfl⟩ | ⟨c, n, rfl⟩⟩
    · exact dueBefore_of_dueSlots hx _
    · exact dueBefore_of_startsFork c stk
    · rw [dueBefore_teamPlace, hf]
    · rw [dueBefore_resumePlace, hf]
  · rw [step_turn h hs, takeTurn_device ha hb]
  · cases hq : s.sched with
    | nil => rw [step_idle h hq, ha, Option.some_or]
    | cons t rest =>
      rw [step_turn h hq]
      refine takeTurn_due ?_ (by rw [ha, Option.some_or])
      cases t with
      | event e => simp [Turn.comesLater, hs e rest hq]
      | issue c late | device d => rfl
  · cases hq : s.sched with
    | nil => rw [step_idle h hq, ha, Option.none_or, dueSlots, hf, Option.some_or]
    | cons t rest =>
      rw [step_turn h hq]
      cases t with
      | event e =>
        obtain ⟨hi, hn⟩ := hs e rest hq
        exact takeTurn_due (by simp [Turn.comesLater, hi])
          (by rw [ha, Option.none_or, dueBefore_fork (startsFork_event hn) hf])
      | issue c late | device d => exact takeTurn_due rfl (by rw [ha, Option.none_or, dueBefore_fork rfl hf])
  · cases hq : s.sched with
    | nil => rw [step_idle h hq, ha, Option.none_or, dueSlots, hf, ht, Option.none_or]
    | cons t rest =>
      rw [step_turn h hq]
      cases t with
      | event e =>
        obtain ⟨hi, hn, hp, hr⟩ := hs e rest hq
        exact takeTurn_due (by simp [Turn.comesLater, hi])
          (by rw [ha, Option.none_or, dueBefore_team (fillsSlots_event hn hp hr) hf ht])
      | issue c late | device d => exact takeTurn_due rfl (by rw [ha, Option.none_or, dueBefore_team rfl hf ht])
  · rw [step_idle h hs, ha, hb, Option.none_or]

namespace Sys2Proof.Machine

/-! ### Round robin (R132) -/

/-- With nothing to do before a word, the first ready slot in the order of R132 issues. -/
theorem choose_first {s : State} {c : CoreId} {j : Nat} (hj : j < 16)
    (hbefore : ∀ i, i < j → ready s ⟨c, ((s.core c).last.toNat + 1 + i) % 16⟩ = false)
    (hready : ready s ⟨c, ((s.core c).last.toNat + 1 + j) % 16⟩ = true)
    (hup : ∀ k, k < 16 → ready s ⟨c, k⟩ = true → upkeepDue s ⟨c, k⟩ = false) :
    choose s c [] = .word ⟨c, ((s.core c).last.toNat + 1 + j) % 16⟩ := by
  have hsplit : slotOrder s c = (List.range j).map (fun k => ((s.core c).last.toNat + 1 + k) % 16) ++
      ((s.core c).last.toNat + 1 + j) % 16 ::
        (List.range' (j + 1) (15 - j)).map (fun k => ((s.core c).last.toNat + 1 + k) % 16) := by
    have e : List.range 16 = List.range j ++ j :: List.range' (j + 1) (15 - j) := by
      have happ := List.range'_append_1 (s := 0) (m := j) (n := 16 - j)
      rw [Nat.zero_add, Nat.add_sub_cancel' (by omega)] at happ
      rw [List.range_eq_range', List.range_eq_range', ← List.range'_succ, show 15 - j + 1 = 16 - j by omega, happ]
    rw [slotOrder, e, List.map_append, List.map_cons]
  have hskip : ((List.range j).map (fun k => ((s.core c).last.toNat + 1 + k) % 16)).filter
      (fun k => ready s ⟨c, k⟩ && !([] : List Nat).contains k) = [] := by
    rw [List.filter_eq_nil_iff]
    intro k hk
    obtain ⟨i, hi, rfl⟩ := List.mem_map.1 hk
    simp [hbefore i (List.mem_range.1 hi)]
  have hslots : ∃ l, (slotOrder s c).filter (fun k => ready s ⟨c, k⟩ && !([] : List Nat).contains k) =
      ((s.core c).last.toNat + 1 + j) % 16 :: l :=
    ⟨_, by rw [hsplit, List.filter_append, hskip, List.nil_append, List.filter_cons_of_pos (by simp [hready])]⟩
  obtain ⟨l, hl⟩ := hslots
  have hnone : ((slotOrder s c).filter fun k => ready s ⟨c, k⟩ && !([] : List Nat).contains k).find?
      (fun k => upkeepDue s ⟨c, k⟩) = none := by
    rw [List.find?_eq_none]
    intro k hk
    obtain ⟨hk, hr⟩ := List.mem_filter.1 hk
    obtain ⟨i, -, rfl⟩ := List.mem_map.1 hk
    simp [hup _ (Nat.mod_lt _ (by decide)) (by simpa using hr)]
  rw [hl] at hnone
  simp only [choose, hl, hnone]

theorem last_select (s : State) (c : CoreId) {k : Nat} (hk : k < 16) : ((select ⟨c, k⟩ s).core c).last.toNat = k := by
  have e : (select ⟨c, k⟩ s).core c = { s.core c with last := BitVec.ofNat 4 k } := by
    rw [← s.core_modCore c fun x => { x with last := BitVec.ofNat 4 k }]
    rfl
  rw [e, BitVec.toNat_ofNat, Nat.mod_eq_of_lt hk]

end Sys2Proof.Machine

/-- R132: the slot that issues. -/
theorem roundRobin : Claims.RoundRobin := fun s c =>
  ⟨fun _ hj hbefore hready hup =>
    ⟨choose_first hj hbefore hready hup, last_select s c (Nat.mod_lt _ (by decide))⟩,
    fun h => choose_of_not_ready h []⟩

/-- Settles O55: the order of a step's causes, then the turn of a core, whose slots take turns. -/
theorem stepsAndIssue : Obligations.StepsAndIssue := ⟨stepRuns, roundRobin⟩

end

section
/-!
System registers (R70, R96): what SRD reads as the opening word of a region, and how register writes take effect.
-/

open Sys2Proof Sys2Proof.Machine Sys2Proof.Claims

namespace Sys2Proof.Machine

/-- A thread at the first word of a block with IR = 1, whose RPC still names the region before. -/
def rpcAtOpening : State :=
  State.reset.modMe fun t => { t with block := some ⟨0x8400000000000001, [0], false⟩, rhdr := 16 }

/-- RPC read before the word opens its region. -/
theorem rpcAtOpening_before : nearReg rpcAtOpening rpcAtOpening.cur 0x019 = some 16 := rfl

/-- RPC as SRD reads it: the word has opened its region. -/
theorem rpcAtOpening_read : ∃ t, exec (.srd 1 0x019 ⟨false, 0⟩) rpcAtOpening = .next t ∧ t.me.rG 1 = 0 := ⟨_, rfl, rfl⟩

end Sys2Proof.Machine

/-- Refutes O12: an SRD of RPC that stands as the first word of an IR block opens its region before it reads RPC, so that Gd does not
take the value that RPC had before the instruction. -/
theorem not_systemRegisters : ¬ Obligations.SystemRegisters := by
  rintro ⟨hreads, -⟩
  obtain ⟨-, near, -⟩ := hreads 1 0x019 ⟨false, 0⟩ rpcAtOpening ⟨rfl, rfl, by decide⟩ rfl
  obtain ⟨t, he, -, hv⟩ := near 16 rpcAtOpening_before (by decide)
  obtain ⟨u, hu, hr⟩ := rpcAtOpening_read
  rw [he] at hu
  cases hu
  rw [hr] at hv
  exact absurd hv (by decide)

namespace Sys2Proof.Machine

/-! ### A write has taken effect -/

theorem findWrite_id {s : State} {k : Nat} {w : RegWrite} (h : findWrite s k = some w) : w.id = k := by
  unfold findWrite at h
  split at h
  · cases h
  next v hv =>
    split at h
    · cases h
    · cases h
      simpa using List.find?_some hv

theorem applyWrite_of_find {p : Nat → Bool} {k : Nat} {f : RegWrite → State → State} {s : State} {w : RegWrite}
    (h : findWrite s k = some w) (hp : p w.reg = true) : applyWrite p k f s = .next (endWrite w (f w s)) := by
  simp only [applyWrite, h, hp, if_true]

/-- The end of a write: it is gone, and its thread goes on, with nothing but its hold changed. -/
theorem endWrite_spec (w : RegWrite) (u : State) : ∃ h,
    (endWrite w u).th w.tid = { u.th w.tid with hold := h } ∧ ((u.th w.tid).hold = .regWrite w.id → h = .none) ∧
      endWrite w u = { u with
        threads := (endWrite w u).threads, regWrites := u.regWrites.filter (fun v => v.id ≠ w.id) } ∧
      ∀ j, j ≠ tidKey w.tid → (endWrite w u).threads.look j = u.threads.look j := by
  by_cases hh : (u.th w.tid).hold = .regWrite w.id
  · have e : endWrite w u = ({ u with regWrites := u.regWrites.filter (fun v => v.id ≠ w.id) } : State).modTh w.tid
        fun t => { t with hold := .none } := if_pos hh
    rw [e]
    exact ⟨.none, State.th_modTh _ _ _, fun _ => rfl, rfl, fun j hj => State.modTh_look _ hj⟩
  · have e : endWrite w u = { u with regWrites := u.regWrites.filter (fun v => v.id ≠ w.id) } := if_neg hh
    rw [e]
    exact ⟨(u.th w.tid).hold, rfl, fun h => absurd h hh, rfl, fun _ _ => rfl⟩

theorem writeDone_endWrite {w : RegWrite} {s u : State} (hr : u.regWrites = s.regWrites) (hm : SameMemory s u)
    (hh : (u.th w.tid).hold = (s.th w.tid).hold) : WriteDone w s (endWrite w u) := by
  obtain ⟨h, hth, hhold, he, -⟩ := endWrite_spec w u
  refine ⟨by rw [he, ← hr], ?_, fun hs => by rw [hth]; exact hhold (hh.trans hs)⟩
  rw [he]
  exact hm

/-- Near registers are read of the thread but for its hold, and of its core. -/
theorem nearReg_congr {s t : State} {tid : Tid} {h : Hold} (hth : t.th tid = { s.th tid with hold := h })
    (hc : t.core tid.core = s.core tid.core) (n : Nat) : nearReg t tid n = nearReg s tid n := by
  simp only [nearReg, hth, hc]

/-- Far registers are read of dies, packages and slices. -/
theorem farReg_congr {s t : State} (hd : t.dies = s.dies) (hp : t.packages = s.packages) (hs : t.slices = s.slices) (tid : Tid)
    (sel : BitVec 13) (n : Nat) : farReg t tid sel n = farReg s tid sel n := by
  have e1 : t.die = s.die := funext fun h => by rw [State.die, State.die, hd]
  have e2 : t.pkg = s.pkg := funext fun h => by rw [State.pkg, State.pkg, hp]
  have e3 : t.slice = s.slice := funext fun h => by rw [State.slice, State.slice, hs]
  have e4 : t.strand = s.strand := funext fun a => funext fun b => by rw [State.strand, State.strand, e2]
  simp only [farReg, e1, e2, e3, e4]

/-- The end of a write changes no register. -/
theorem readRegister_endWrite (w : RegWrite) (u : State) (sel : BitVec 13) (n : Nat) :
    readRegister (endWrite w u) w.tid sel n = readRegister u w.tid sel n := by
  obtain ⟨h, hth, -, he, -⟩ := endWrite_spec w u
  have hc : (endWrite w u).core w.tid.core = u.core w.tid.core := by rw [he]; rfl
  have hf : farReg (endWrite w u) w.tid sel n = farReg u w.tid sel n := farReg_congr (by rw [he]) (by rw [he]) (by rw [he]) _ _ _
  rw [readRegister, readRegister, nearReg_congr hth hc, hf]

/-! ### What the registers of thread and core scope read after a write -/

/-- The low `k` bits of a word. -/
theorem setWidth_setWidth_and (x : W64) {k : Nat} (hk : k ≤ 64) :
    (x.setWidth k).setWidth 64 = x &&& BitVec.ofNat 64 (2 ^ k - 1) := by
  have h1 : 2 ^ k ≤ 2 ^ 64 := Nat.pow_le_pow_right (by decide) hk
  have h2 : x.toNat % 2 ^ k < 2 ^ k := Nat.mod_lt _ (Nat.two_pow_pos k)
  apply BitVec.eq_of_toNat_eq
  rw [BitVec.toNat_setWidth, BitVec.toNat_setWidth, BitVec.toNat_and, BitVec.toNat_ofNat, Nat.mod_eq_of_lt (by omega),
    Nat.mod_eq_of_lt (a := 2 ^ k - 1) (by omega), Nat.and_two_pow_sub_one_eq_mod]

/-- RPC as the number of its two fields. -/
theorem rpc_fields (x : W64) :
    BitVec.ofNat 64 ((x.setWidth 19).toNat + (BitVec.ofNat 7 (bits x 19 7)).toNat * 2 ^ 19) = x &&& 0x3FFFFFF#64 := by
  rw [show (0x3FFFFFF#64 : W64) = BitVec.ofNat 64 (2 ^ 26 - 1) from rfl, ← setWidth_setWidth_and x (by decide)]
  apply BitVec.eq_of_toNat_eq
  simp only [bits, BitVec.toNat_ofNat, BitVec.toNat_setWidth]
  omega

/-- TSTAT as the number of its three fields. -/
theorem tstat_fields (x : W64) :
    BitVec.ofNat 64 ((if x.getLsbD 0 = true then 1 else 0) + (if x.getLsbD 1 = true then 2 else 0) +
      (BitVec.ofNat 19 (bits x 32 19)).toNat * 2 ^ 32) = x &&& 0x7FFFF00000003#64 := by
  have hlow : (if x.getLsbD 0 = true then 1 else 0) + (if x.getLsbD 1 = true then 2 else 0) = x.toNat % 2 ^ 2 := by
    simp only [BitVec.getLsbD, Nat.testBit_eq_decide_div_mod_eq, decide_eq_true_eq]
    split <;> split <;> omega
  have hhigh : (BitVec.ofNat 19 (bits x 32 19)).toNat = x.toNat / 2 ^ 32 % 2 ^ 19 := by
    rw [BitVec.toNat_ofNat, bits, Nat.mod_mod]
  have hand : x.toNat &&& 0x7FFFF00000003 = 2 ^ 32 * (x.toNat / 2 ^ 32 % 2 ^ 19) + x.toNat % 2 ^ 2 := by
    refine Nat.eq_of_testBit_eq fun i => ?_
    rw [Nat.testBit_and, show (0x7FFFF00000003 : Nat) = 2 ^ 32 * (2 ^ 19 - 1) + (2 ^ 2 - 1) from rfl,
      Nat.testBit_two_pow_mul_add _ (by decide), Nat.testBit_two_pow_mul_add _ (by omega)]
    split
    · rw [Nat.testBit_two_pow_sub_one, Nat.testBit_mod_two_pow, Bool.and_comm]
    next h =>
      rw [Nat.testBit_two_pow_sub_one, Nat.testBit_mod_two_pow, Nat.testBit_div_two_pow, Nat.sub_add_cancel (by omega), Bool.and_comm]
  have hlt : 2 ^ 32 * (x.toNat / 2 ^ 32 % 2 ^ 19) + x.toNat % 2 ^ 2 < 2 ^ 64 := by omega
  apply BitVec.eq_of_toNat_eq
  rw [hlow, hhigh, BitVec.toNat_ofNat, BitVec.toNat_and, BitVec.toNat_ofNat, Nat.mod_eq_of_lt (by omega),
    Nat.mod_eq_of_lt (a := 0x7FFFF00000003) (by decide), hand]
  omega

/-- The registers of thread scope that REGISTER_WRITE writes (Table 2-8). -/
def threadRegs : List Nat := [0x012, 0x013, 0x014, 0x015, 0x016, 0x017, 0x018, 0x019, 0x01A, 0x050, 0x060, 0x065, 0x070]
/-- The registers of core scope that it writes. -/
def coreRegs : List Nat := [0x010, 0x011, 0x020, 0x021, 0x022, 0x023, 0x067]

theorem writtenBits_cases {r : Nat} {m : W64} (h : writtenBits r = some m) : r ∈ threadRegs ∨ r ∈ coreRegs ∨ r = 0x074 := by
  unfold writtenBits at h
  split at h
  all_goals simp_all [threadRegs, coreRegs]

/-- A vector of four is its four entries. -/
theorem vector4_eta (v : Vector W64 4) : #v[v[0], v[1], v[2], v[3]] = v := by
  refine Vector.ext fun i hi => ?_
  match i, hi with
  | 0, _ | 1, _ | 2, _ | 3, _ => rfl

theorem vector4_set (v : Vector W64 4) (x : W64) :
    v.set 0 x = #v[x, v[1], v[2], v[3]] ∧ v.set 1 x = #v[v[0], x, v[2], v[3]] ∧ v.set 2 x = #v[v[0], v[1], x, v[3]] ∧
      v.set 3 x = #v[v[0], v[1], v[2], x] := by
  refine ⟨?_, ?_, ?_, ?_⟩ <;> rw [← vector4_eta (v.set _ x)] <;> simp

/-- What a write of thread scope changes, field by field. -/
theorem Thread.writeReg_eq (t : Thread) (n : Nat) (x : W64) : t.writeReg n x = { t with
    tvb := if n = 0x012 then x.setWidth 19 else t.tvb
    tcause := if n = 0x013 then x &&& 0xFF else t.tcause
    tpc := if n = 0x014 then x else t.tpc
    tinfo := #v[if n = 0x015 then x else t.tinfo[0], if n = 0x016 then x else t.tinfo[1], if n = 0x017 then x else t.tinfo[2], if n = 0x018 then x else t.tinfo[3]]
    rhdr := if n = 0x019 then x.setWidth 19 else t.rhdr
    rword := if n = 0x019 then BitVec.ofNat 7 (bits x 19 7) else t.rword
    eto := if n = 0x01A then x.setWidth 32 else t.eto
    seed := if n = 0x01C then x.setWidth 32 else t.seed
    gen := if n = 0x01C then genSeeds (x.setWidth 32) else t.gen
    space := if n = 0x050 then x.setWidth 16 else t.space
    inHandler := if n = 0x060 then x.getLsbD 0 else t.inHandler
    deferred := if n = 0x060 then x.getLsbD 1 else t.deferred
    res := if n = 0x060 then BitVec.ofNat 19 (bits x 32 19) else t.res
    spill := if n = 0x065 then x else t.spill
    scsel := if n = 0x070 then x.setWidth 13 else t.scsel } := by
  obtain ⟨h0, h1, h2, h3⟩ := vector4_set t.tinfo x
  have hs := vector4_eta t.tinfo
  unfold Thread.writeReg
  split
  case h_15 => simp_all
  all_goals simp [*]

/-- What a write of core scope changes, field by field. -/
theorem Core.writeReg_eq (c : Core) (n : Nat) (x : W64) : c.writeReg n x = { c with
    xb := if n = 0x010 then x.setWidth 20 else c.xb
    ovh := if n = 0x011 then x.setWidth 19 else c.ovh
    spw := #v[if n = 0x020 then x else c.spw[0], if n = 0x021 then x else c.spw[1], if n = 0x022 then x else c.spw[2], if n = 0x023 then x else c.spw[3]]
    tfrb := if n = 0x067 then x.setWidth 19 else c.tfrb } := by
  obtain ⟨h0, h1, h2, h3⟩ := vector4_set c.spw x
  have hs := vector4_eta c.spw
  unfold Core.writeReg
  split
  case h_8 => simp_all
  all_goals simp [*]

/-- A write of a register of thread scope leaves the others as they were. -/
theorem nearReg_writeThread_ne (s : State) (tid : Tid) (x : W64) {r n : Nat} (hn : n ≠ r) :
    nearReg (s.modTh tid fun t => t.writeReg r x) tid n = nearReg s tid n := by
  simp only [nearReg, State.th_modTh, State.core_modTh, Thread.writeReg_eq]
  split
  all_goals simp [Ne.symm hn]

/-- A write of a register of core scope leaves the others as they were. -/
theorem nearReg_writeCore_ne (s : State) (tid : Tid) (x : W64) {r n : Nat} (hn : n ≠ r) :
    nearReg (s.modCore tid.core fun c => c.writeReg r x) tid n = nearReg s tid n := by
  simp only [nearReg, State.th_modCore, State.core_modCore, Core.writeReg_eq]
  split
  all_goals simp [Ne.symm hn]

section
variable (s : State) (tid : Tid) (x : W64) {r : Nat}

/-- A register of thread scope reads as written, its reserved bits 0. -/
theorem nearReg_writeThread_self (hr : r ∈ threadRegs) {m : W64} (hm : writtenBits r = some m) :
    nearReg (s.modTh tid fun t => t.writeReg r x) tid r = some (x &&& m) := by
  have all : x &&& 0xFFFFFFFFFFFFFFFF = x := BitVec.and_allOnes
  simp only [threadRegs, List.mem_cons, List.not_mem_nil, or_false] at hr
  rcases hr with rfl | rfl | rfl | rfl | rfl | rfl | rfl | rfl | rfl | rfl | rfl | rfl | rfl
  all_goals cases hm
  all_goals simp only [nearReg, State.th_modTh, Thread.writeReg, Option.some.injEq, Vector.getElem_set_self, all]
  · exact setWidth_setWidth_and x (by decide)
  · rw [BitVec.and_assoc]
    rfl
  · exact rpc_fields x
  · exact setWidth_setWidth_and x (by decide)
  · exact setWidth_setWidth_and x (by decide)
  · exact tstat_fields x
  · exact setWidth_setWidth_and x (by decide)

/-- A register of core scope reads as written, its reserved bits 0. -/
theorem nearReg_writeCore_self (hr : r ∈ coreRegs) {m : W64} (hm : writtenBits r = some m) :
    nearReg (s.modCore tid.core fun c => c.writeReg r x) tid r = some (x &&& m) := by
  have all : x &&& 0xFFFFFFFFFFFFFFFF = x := BitVec.and_allOnes
  simp only [coreRegs, List.mem_cons, List.not_mem_nil, or_false] at hr
  rcases hr with rfl | rfl | rfl | rfl | rfl | rfl | rfl
  all_goals cases hm
  all_goals simp only [nearReg, State.core_modCore, Core.writeReg, Option.some.injEq, Vector.getElem_set_self, all]
  · exact setWidth_setWidth_and x (by decide)
  · exact setWidth_setWidth_and x (by decide)
  · exact setWidth_setWidth_and x (by decide)

end

/-- A near register is read near. -/
theorem readRegister_of_near {s : State} {tid : Tid} {sel : BitVec 13} {n : Nat} {x : W64} (h : nearReg s tid n = some x) :
    readRegister s tid sel n = x := by rw [readRegister, h, Option.getD_some]

theorem readRegister_congr {s t : State} {tid : Tid} {sel : BitVec 13} {n : Nat} (h : nearReg t tid n = nearReg s tid n)
    (hf : farReg t tid sel n = farReg s tid sel n) : readRegister t tid sel n = readRegister s tid sel n := by
  rw [readRegister, readRegister, h, hf]

/-- PVC reads as written; the other far registers as before. -/
theorem farReg_writePvc (s : State) (tid : Tid) (sel : BitVec 13) (x : W64) :
    farReg (s.modDie (dieOf tid.core) fun h => { h with pvc := x }) tid sel 0x074 = x ∧
      ∀ n, n ≠ 0x074 → farReg (s.modDie (dieOf tid.core) fun h => { h with pvc := x }) tid sel n = farReg s tid sel n := by
  have hp : (s.modDie (dieOf tid.core) fun h => { h with pvc := x }).pkg = s.pkg := rfl
  have hs : (s.modDie (dieOf tid.core) fun h => { h with pvc := x }).slice = s.slice := rfl
  have hk : (s.modDie (dieOf tid.core) fun h => { h with pvc := x }).strand = s.strand := rfl
  refine ⟨by simp only [farReg, State.die_modDie], fun n hn => ?_⟩
  simp only [farReg, State.die_modDie, hp, hs, hk]
  grind

/-- What REGISTER_WRITE does to the register (R45, R70). -/
def registerEffect (w : RegWrite) (s : State) : State :=
  if w.reg = 0x074 then s.modDie (dieOf w.tid.core) fun h => { h with pvc := w.val &&& 0xFFFF }
  else if w.reg ∈ coreRegs then s.modCore w.tid.core fun c => c.writeReg w.reg w.val
  else s.modTh w.tid fun t => t.writeReg w.reg w.val

theorem exec_registerWrite {k : Nat} {w : RegWrite} {s : State} {m : W64} (hw : findWrite s k = some w)
    (hm : writtenBits w.reg = some m) : exec (.registerWrite k) s = .next (endWrite w (registerEffect w s)) := by
  have hp : w.reg ∉ [0x01C, 0x040, 0x041, 0x051, 0x071, 0x080] := by
    have thread : ∀ r ∈ threadRegs, r ∉ [0x01C, 0x040, 0x041, 0x051, 0x071, 0x080] := by decide
    have core : ∀ r ∈ coreRegs, r ∉ [0x01C, 0x040, 0x041, 0x051, 0x071, 0x080] := by decide
    rcases writtenBits_cases hm with h | h | h
    · exact thread _ h
    · exact core _ h
    · rw [h]; decide
  exact applyWrite_of_find (p := fun n => decide (n ∉ [0x01C, 0x040, 0x041, 0x051, 0x071, 0x080])) (f := registerEffect) hw
    (decide_eq_true hp)

/-- The registers after the effect, read as the statements read them. -/
theorem registerEffect_spec {w : RegWrite} {m : W64} (s : State) (hm : writtenBits w.reg = some m) :
    (registerEffect w s).regWrites = s.regWrites ∧ SameMemory s (registerEffect w s) ∧
      ((registerEffect w s).th w.tid).hold = (s.th w.tid).hold ∧
      (∀ sel, readRegister (registerEffect w s) w.tid sel w.reg = w.val &&& m ∧
        ∀ n, n ≠ w.reg → readRegister (registerEffect w s) w.tid sel n = readRegister s w.tid sel n) ∧
      ∀ j, j ≠ tidKey w.tid → (registerEffect w s).threads.look j = s.threads.look j := by
  unfold registerEffect
  by_cases h74 : w.reg = 0x074
  · rw [if_pos h74]
    refine ⟨rfl, ⟨fun _ => rfl, rfl, rfl⟩, rfl, fun sel => ⟨?_, fun n hn => ?_⟩, fun _ _ => rfl⟩
    · rw [h74] at hm ⊢
      cases hm
      exact (farReg_writePvc s w.tid sel _).1
    · exact readRegister_congr rfl ((farReg_writePvc s w.tid sel _).2 n (h74 ▸ hn))
  rw [if_neg h74]
  by_cases hc : w.reg ∈ coreRegs
  · rw [if_pos hc]
    exact ⟨rfl, ⟨fun _ => rfl, rfl, rfl⟩, rfl, fun sel => ⟨readRegister_of_near (nearReg_writeCore_self s w.tid w.val hc hm),
      fun n hn => readRegister_congr (nearReg_writeCore_ne s w.tid w.val hn) rfl⟩, fun _ _ => rfl⟩
  · have ht : w.reg ∈ threadRegs := (writtenBits_cases hm).resolve_right (by simp [hc, h74])
    rw [if_neg hc]
    refine ⟨rfl, ⟨fun _ => rfl, rfl, rfl⟩, ?_, fun sel => ⟨readRegister_of_near (nearReg_writeThread_self s w.tid w.val ht hm),
      fun n hn => readRegister_congr (nearReg_writeThread_ne s w.tid w.val hn) rfl⟩, fun j hj => State.modTh_look _ hj⟩
    rw [State.th_modTh, Thread.writeReg_eq]

end Sys2Proof.Machine

/-- R45, R70 and R96: a write of a register of thread or core scope, or of PVC. -/
theorem registerWriteEffect : Claims.RegisterWriteEffect := by
  intro k w s m hw hm
  obtain ⟨hr, hmem, hh, hreg, hl⟩ := registerEffect_spec s hm
  obtain ⟨-, -, -, -, hlook⟩ := endWrite_spec w (registerEffect w s)
  refine ⟨_, exec_registerWrite hw hm, writeDone_endWrite hr hmem hh, fun sel => ?_, fun j hj => (hlook j hj).trans (hl j hj)⟩
  obtain ⟨hself, hne⟩ := hreg sel
  exact ⟨by rw [readRegister_endWrite, hself], fun n hn => by rw [readRegister_endWrite, hne n hn]⟩

namespace Sys2Proof.Machine

/-! ### The writes that have steps of their own -/

theorem th_endWrite (w : RegWrite) (u : State) : ∃ h, (endWrite w u).th w.tid = { u.th w.tid with hold := h } := by
  obtain ⟨h, hth, -⟩ := endWrite_spec w u
  exact ⟨h, hth⟩

theorem pkg_endWrite (w : RegWrite) (u : State) (n : Nat) : (endWrite w u).pkg n = u.pkg n := by
  obtain ⟨h, -, -, he, -⟩ := endWrite_spec w u
  rw [he]
  rfl

theorem strand_endWrite (w : RegWrite) (u : State) (n k : Nat) : (endWrite w u).strand n k = u.strand n k := by
  rw [State.strand, State.strand, pkg_endWrite]

theorem strand_modStrand (s : State) (n k : Nat) (f : Strand → Strand) : (s.modStrand n k f).strand n k = f (s.strand n k) := by
  simp [State.strand, State.modStrand]

theorem Strand.settleWaves_eq (x : Strand) : x.settleWaves = { x with
    active := x.settleWaves.active, parked := x.settleWaves.parked } := by
  unfold Strand.settleWaves
  simp only
  split <;> rfl

theorem farReg_part (s : State) (tid : Tid) (sel : BitVec 13) : readRegister s tid sel 0x051 = (s.die (dieOf tid.core)).part := rfl

section
variable {k : Nat} {w : RegWrite} {s : State}

theorem exec_seedWrite (hw : findWrite s k = some w) (hr : w.reg = 0x01C) :
    exec (.seedWrite k) s = .next (endWrite w (s.modTh w.tid fun t => t.writeReg w.reg w.val)) :=
  applyWrite_of_find (p := fun n => n = 0x01C)
    (f := fun w s => s.modTh w.tid fun t => t.writeReg w.reg w.val) hw (decide_eq_true hr)

theorem exec_agreementWrite (hw : findWrite s k = some w) (hr : w.reg = 0x040 ∨ w.reg = 0x041) :
    exec (.agreementWrite k) s = .next (endWrite w (s.modSlice w.tid.core fun x =>
      if w.reg = 0x040 then { x with agt := w.val.setWidth 32 } else { x with agk := w.val.setWidth 32 })) :=
  applyWrite_of_find (p := fun n => n = 0x040 ∨ n = 0x041)
    (f := fun w s => s.modSlice w.tid.core fun x =>
      if w.reg = 0x040 then { x with agt := w.val.setWidth 32 } else { x with agk := w.val.setWidth 32 }) hw (decide_eq_true hr)

theorem exec_scctlWrite (hw : findWrite s k = some w) (hr : w.reg = 0x071) :
    exec (.scctlWrite k) s = .next (endWrite w (s.modStrand w.tid.core.node (scStrand w.sel) fun x =>
      { x with park := BitVec.ofNat 3 (bits w.val 0 3), wake := BitVec.ofNat 8 (bits w.val 8 8) }.settleWaves)) := by
  have e : exec (.scctlWrite k) s = applyWrite (fun n => n = 0x071) k (fun w s => s.modStrand w.tid.core.node (scStrand w.sel) fun x =>
      { x with park := BitVec.ofNat 3 (bits w.val 0 3), wake := BitVec.ofNat 8 (bits w.val 8 8) }.settleWaves) s := rfl
  rw [e, applyWrite_of_find hw (decide_eq_true hr)]

theorem exec_hackWrite (hw : findWrite s k = some w) (hr : w.reg = 0x080) :
    exec (.hackWrite k) s = .next (endWrite w (s.modPkg w.tid.core.node fun p =>
      if w.val.setWidth 32 < p.hack then p else { p with hack := w.val.setWidth 32 }.dropServed)) := by
  have e : exec (.hackWrite k) s = applyWrite (fun n => n = 0x080) k (fun w s => s.modPkg w.tid.core.node fun p =>
      if w.val.setWidth 32 < p.hack then p else { p with hack := w.val.setWidth 32 }.dropServed) s := rfl
  rw [e, applyWrite_of_find hw (decide_eq_true hr)]

end

theorem exec_partWrite {k : Nat} {w : RegWrite} {s : State} (hw : findWrite s k = some w) (hr : w.reg = 0x051) :
    exec (.partWrite k) s = .next (if valueOk s w.tid 0x051 w.val then
      endWrite w (s.modDie (dieOf w.tid.core) fun h => { h with part := BitVec.ofNat 64 (bits w.val 0 60) })
    else refuseWrite w { s with regWrites := s.regWrites.filter fun v => v.id ≠ w.id }) := by
  refine congrArg Host.Outcome.next ?_
  simp only [hw, hr, ne_eq, not_true, if_false]

/-- A fetch does not look at the writes on their way. -/
theorem fetchAt_regWrites (s : State) (l : List RegWrite) (c : CoreId) (a : W64) (via : Via) :
    fetchAt { s with regWrites := l } c a via = fetchAt s c a via :=
  fetchAt_congr (s := s) (t := { s with regWrites := l }) rfl rfl rfl c a via

/-- The word behind which an SWR of PART stands traps with ILLEGAL (R352). -/
theorem refuseWrite_eq {w : RegWrite} {s : State} {b : Block} (hh : (s.th w.tid).hold = .regWrite w.id)
    (hi : (s.th w.tid).inHandler = false)
    (hb : fetchAt s w.tid.core ((s.th w.tid).tvb.setWidth 64) .trapEntry = .block b) : ∃ word : W64,
    refuseWrite w s = s.modTh w.tid fun t => Thread.takeTrap (causeOf .illegal word) ((s.th w.tid).pc.setWidth 64 - 4)
      ((s.th w.tid).bh.setWidth 64) none b (s.th w.tid).tvb { t with hold := .none } := by
  have e : ∃ word : W64, refuseWrite w s = enterTrap w.tid (causeOf .illegal word) ((s.th w.tid).pc.setWidth 64 - 4)
      ((s.th w.tid).bh.setWidth 64) none (s.modTh w.tid fun t => { t with hold := .none }) := ⟨_, if_pos hh⟩
  obtain ⟨word, e⟩ := e
  refine ⟨word, e.trans ((enterTrap_eq_takeTrap (b := b) ?_ ?_ _ _ _ _).trans ?_)⟩
  · rw [State.th_modTh]
    exact hi
  · rw [fetchAt_modTh, State.th_modTh]
    exact hb
  · rw [State.modTh_modTh, State.th_modTh]

/-- Records with HSEQ at or below HACK are those that a write of HACK lets go. -/
theorem Package.fifo_dropServed (p : Package) :
    p.dropServed.fifo = p.fifo.filter fun r => decide (p.hack.toNat < recHseq r) := by
  simp only [Package.dropServed]
  exact List.filter_congr fun r _ => by rw [← decide_not]; exact decide_eq_decide.2 Nat.not_le

end Sys2Proof.Machine

/-- R166, R169, R288, R342, R343, R352, R383 and R385: the other register writes. -/
theorem widerWriteEffects : Claims.WiderWriteEffects := by
  refine ⟨fun k w s hw hr => ?_, fun k w s hw hr => ?_, fun k w s hw hr => ⟨fun hv => ?_, fun hv hh hi hb => ?_⟩,
    fun k w s hw hr => ?_, fun k w s hw hr => ?_, fun tid s hh hf => ?_⟩
  · refine ⟨_, exec_seedWrite hw hr,
      writeDone_endWrite rfl ⟨fun _ => rfl, rfl, rfl⟩ ?_, ?_⟩
    · rw [State.th_modTh, Thread.writeReg_eq]
    · obtain ⟨h, e⟩ := th_endWrite w (s.modTh w.tid fun t => t.writeReg w.reg w.val)
      rw [e, State.th_modTh, hr]
      exact ⟨rfl, rfl⟩
  · refine ⟨_, exec_agreementWrite hw hr,
      writeDone_endWrite rfl ⟨fun _ => rfl, rfl, rfl⟩ rfl, fun sel => ?_⟩
    rw [readRegister_endWrite]
    rcases hr with hr | hr
    · rw [hr]
      simp only [readRegister, nearReg, Option.getD_none, farReg, State.slice_modSlice, if_true]
      exact setWidth_setWidth_and w.val (by decide)
    · rw [hr]
      simp only [readRegister, nearReg, Option.getD_none, farReg, State.slice_modSlice, if_neg (show ¬ (0x041 = 0x040) by decide)]
      exact setWidth_setWidth_and w.val (by decide)
  · refine ⟨_, (exec_partWrite hw hr).trans (congrArg _ (if_pos hv)), writeDone_endWrite rfl ⟨fun _ => rfl, rfl, rfl⟩ rfl,
      fun sel => ?_⟩
    rw [readRegister_endWrite, farReg_part, State.die_modDie, show (0xFFFFFFFFFFFFFFF : W64) = BitVec.ofNat 64 (2 ^ 60 - 1) from rfl,
      ← setWidth_setWidth_and w.val (by decide)]
    apply BitVec.eq_of_toNat_eq
    simp [bits, BitVec.toNat_setWidth]
  · obtain ⟨b, hb⟩ := hb
    have hid := findWrite_id hw
    have hb' := (fetchAt_regWrites s (s.regWrites.filter fun v => v.id ≠ w.id) _ _ _).trans hb
    obtain ⟨word, e⟩ := refuseWrite_eq (s := { s with regWrites := s.regWrites.filter fun v => v.id ≠ w.id }) (hid ▸ hh) hi hb'
    refine ⟨_, (exec_partWrite hw hr).trans (congrArg _ (if_neg (by simp [hv]))), ?_⟩
    rw [e, State.th_modTh]
    exact ⟨⟨fun _ => rfl, rfl, rfl⟩, rfl, rfl, rfl, rfl, rfl, rfl⟩
  · refine ⟨_, exec_scctlWrite hw hr,
      writeDone_endWrite rfl ⟨fun _ => rfl, rfl, rfl⟩ rfl, ?_⟩
    rw [strand_endWrite, strand_modStrand, Strand.settleWaves_eq]
    refine ⟨?_, ?_, rfl⟩
    · apply BitVec.eq_of_toNat_eq
      simp [bits, BitVec.toNat_setWidth]
    · apply BitVec.eq_of_toNat_eq
      simp [bits, BitVec.toNat_setWidth, BitVec.toNat_ushiftRight, Nat.shiftRight_eq_div_pow]
  · refine ⟨_, exec_hackWrite hw hr,
      writeDone_endWrite rfl ⟨fun _ => rfl, rfl, rfl⟩ rfl, ?_⟩
    rw [pkg_endWrite, State.pkg_modPkg]
    split
    · exact ⟨rfl, rfl⟩
    · exact ⟨rfl, Package.fifo_dropServed _⟩
  · refine ⟨_, congrArg Host.Outcome.next (if_pos ⟨hh, by simp [hf]⟩), rfl, fun j hj => State.modTh_look _ hj, State.th_modTh _ _ _⟩

/-- Settles O13: the write changes the one field that its register is read of. -/
theorem registerWrites : Obligations.RegisterWrites := ⟨registerWriteEffect, widerWriteEffects⟩

end

section
/-!
Bounds on empty registers (R47, R128) and the restarts of a region (R316, R318).
-/

open Sys2Proof Sys2Proof.Machine Sys2Proof.Claims

namespace Sys2Proof.Machine

section
variable {tid : Tid} {s : State} {blk : Block}

/-- A trap of a thread that a step has changed before. -/
theorem enterTrap_modTh {G : Thread → Thread} (hin : (G (s.th tid)).inHandler = false) (htvb : (G (s.th tid)).tvb = (s.th tid).tvb)
    (hb : fetchAt s tid.core ((s.th tid).tvb.setWidth 64) .trapEntry = .block blk) (f : FaultInfo) (tpc t3 : W64)
    (dly : Option (BitVec 19)) :
    enterTrap tid f tpc t3 dly (s.modTh tid G) =
      s.modTh tid fun t => Thread.takeTrap f tpc t3 dly blk (s.th tid).tvb (G t) := by
  rw [enterTrap_eq_takeTrap (b := blk) (by rw [State.th_modTh, hin]) (by rw [fetchAt_modTh, State.th_modTh, htvb, hb]),
    State.modTh_modTh, State.th_modTh, htvb]

/-! ### EMPTY_TIMEOUT -/

theorem etoReached_iff (t : Thread) (since now : Nat) : t.etoReached since now = true ↔ since + max 1 t.eto.toNat ≤ now :=
  decide_eq_true_iff

/-- A thread that waits for a translation is not subject to the bound (R204). -/
theorem exec_emptyTimeout_translation (h : translationHeld s tid = true) : exec (.emptyTimeout tid) s = .next s :=
  congrArg Host.Outcome.next (if_pos (.inr h))

/-- The bound of a GJOIN. -/
theorem exec_emptyTimeout_gjoin {since id : Nat} (hr : (s.th tid).life = .running) (ht : translationHeld s tid = false)
    (hh : (s.th tid).hold = .gjoin since id) : exec (.emptyTimeout tid) s = .next
      (if (s.th tid).etoReached since (s.taper tid.core.node) ∧ ¬ leaseHeld s tid id then
        enterTrap tid (causeOf .emptyTimeout roleNone) ((s.th tid).pc.setWidth 64 - 4) ((s.th tid).bh.setWidth 64) none
          (leaveHold tid false s)
      else s) := by
  refine congrArg Host.Outcome.next ((if_neg (by simp [hr, ht])).trans ?_)
  simp only [hh]

/-- The bound of an implicit block. -/
theorem exec_emptyTimeout_block {b : Blocked} {w : Await} (hr : (s.th tid).life = .running) (ht : translationHeld s tid = false)
    (hh : (s.th tid).hold = .none) (hb : (s.th tid).blocked = some b) (hw : (s.th tid).stillEmpty = some w) :
    exec (.emptyTimeout tid) s = .next
      (if (s.th tid).etoReached b.since (s.taper tid.core.node) ∧ ¬ fabricHeld s tid w.ref then
        enterTrap tid (causeOf .emptyTimeout w.tinfo)
          (if (s.th tid).atEnd then (s.th tid).lastWord else (s.th tid).pc.setWidth 64) ((s.th tid).bh.setWidth 64) none
          (s.modTh tid fun t => { t with blocked := none })
      else s) := by
  refine congrArg Host.Outcome.next ((if_neg (by simp [hr, ht])).trans ?_)
  simp only [hh, hb, hw]

/-- EMPTY_TIMEOUT leaves a thread that does not run as it is. -/
theorem exec_emptyTimeout_stopped (h : (s.th tid).life ≠ .running ∨ translationHeld s tid = true) :
    exec (.emptyTimeout tid) s = .next s := congrArg Host.Outcome.next (if_pos h)

/-- A thread that leaves a GJOIN stands at its word again (R128). -/
theorem leaveHold_gjoin {since id : Nat} (hh : (s.th tid).hold = .gjoin since id) :
    leaveHold tid false s = s.modTh tid fun t => { t with pc := t.pc - 4, hold := .none, blocked := none } := by
  simp only [leaveHold, hh, Bool.false_eq_true, if_false]

end

end Sys2Proof.Machine

/-- R47, R128, R204, R346 and R348: the bounds of implicit blocks and of GJOIN. -/
theorem emptyTimeout : Claims.EmptyTimeout := by
  refine ⟨fun tid s h => exec_emptyTimeout_translation h, ?_, ?_, ?_, ?_⟩
  · intro tid since id blk s hr hh ht hl hnow hin hb
    refine ⟨_, (exec_emptyTimeout_gjoin hr ht hh).trans (congrArg _ (if_pos ⟨(etoReached_iff _ _ _).2 hnow, by simp [hl]⟩)), ?_⟩
    have e := enterTrap_modTh (s := s) (tid := tid) (G := fun t => { t with pc := t.pc - 4, hold := .none, blocked := none }) hin rfl hb
      (causeOf .emptyTimeout roleNone) ((s.th tid).pc.setWidth 64 - 4) ((s.th tid).bh.setWidth 64) none
    rw [leaveHold_gjoin hh, e, State.th_modTh]
    exact ⟨rfl, fun j hj => State.modTh_look _ hj, Thread.sameBut_of_registers _ rfl rfl rfl rfl, rfl, rfl, rfl, rfl, rfl⟩
  · intro tid b w blk s hr hh hbl hw ht hf hnow hin hb
    refine ⟨_, (exec_emptyTimeout_block hr ht hh hbl hw).trans
      (congrArg _ (if_pos ⟨(etoReached_iff _ _ _).2 hnow, by simp [hf]⟩)), ?_⟩
    have e := enterTrap_modTh (s := s) (tid := tid) (G := fun t => { t with blocked := none }) hin rfl hb
      (causeOf .emptyTimeout w.tinfo) (if (s.th tid).atEnd then (s.th tid).lastWord else (s.th tid).pc.setWidth 64)
      ((s.th tid).bh.setWidth 64) none
    have htinfo : w.tinfo = BitVec.ofNat 64 (w.field + 2 ^ 8 * w.ref.cls + 2 ^ 10 * w.role.code) := by
      simp only [Await.tinfo, Nat.mul_comm]
    rw [e, State.th_modTh]
    exact ⟨rfl, fun j hj => State.modTh_look _ hj, Thread.sameBut_of_registers _ rfl rfl rfl rfl, rfl, rfl,
      congrArg (fun x => #v[x, 0, 0, (s.th tid).bh.setWidth 64]) htinfo, rfl, rfl, rfl, rfl⟩
  · intro tid b w s hh hbl hw hf
    by_cases hr : (s.th tid).life ≠ .running ∨ translationHeld s tid = true
    · exact exec_emptyTimeout_stopped hr
    · rw [not_or, not_not, Bool.not_eq_true] at hr
      exact (exec_emptyTimeout_block hr.1 hr.2 hh hbl hw).trans (congrArg _ (if_neg fun h => h.2 hf))
  · intro tid since id s hh hl
    by_cases hr : (s.th tid).life ≠ .running ∨ translationHeld s tid = true
    · exact exec_emptyTimeout_stopped hr
    · rw [not_or, not_not, Bool.not_eq_true] at hr
      exact (exec_emptyTimeout_gjoin hr.1 hr.2 hh).trans (congrArg _ (if_neg fun h => h.2 hl))

namespace Sys2Proof.Machine

/-! ### Restarts -/

theorem exec_regionRestart {tid : Tid} {n : Nat} {f : Fetch} {s : State} (hh : (s.th tid).hold = .tick n)
    (hn : n ≤ s.taper tid.core.node) (hr : (s.th tid).restarted = true) (hf : (s.th tid).fetch = some f) :
    exec (.regionRestart tid) s = .next (fetchHeader tid f (s.modTh tid Thread.clearFetch)) := by
  refine congrArg Host.Outcome.next ?_
  simp only [hh, hf, hr, hn, and_self, if_true]
  rfl

/-- A fetch that a restart or a resume makes enters the block at its word. -/
theorem fetchHeader_resume {tid : Tid} {a src : W64} {w : Nat} {cmp : Bool} {b : Block} {s : State} {F : Thread → Thread}
    (hb : fetchAt s tid.core a (.resume w cmp) = .block b) :
    fetchHeader tid ⟨a, .resume w cmp, src⟩ (s.modTh tid F) = s.modTh tid fun t => (F t).enter (a.setWidth 19) b w cmp := by
  simp only [fetchHeader, fetchAt_modTh, hb, State.modTh_modTh]

/-- A block's end with a mismatch. -/
theorem upkeep_mismatch {tid : Tid} {s : State} (hd : (s.th tid).faultDue = false) (hf : (s.th tid).fetch = none)
    (hm : (s.th tid).mismatch = true) : upkeep tid s = checkFail tid s := by
  simp only [upkeep, hd, Bool.false_eq_true, if_false, hf, blockEnd, hm, if_true]

end Sys2Proof.Machine

/-- R316 and R56: a restarted region goes on. -/
theorem regionRestart : Claims.RegionRestart := by
  intro tid n w cmp f b s hh hn hr hf hv hb
  obtain ⟨a, via, src⟩ := f
  subst hv
  refine ⟨_, exec_regionRestart hh hn hr hf, ?_⟩
  rw [fetchHeader_resume hb, State.th_modTh]
  exact ⟨rfl, fun j hj => State.modTh_look _ hj, Thread.sameBut_of_registers _ rfl rfl rfl rfl, rfl, rfl, rfl, rfl, rfl⟩

/-- R56, R316 and R318: a block whose CRC differs from its SIG. -/
theorem checkedBlock : Claims.CheckedBlock := by
  intro tid s hd hf hm hin hw
  rw [upkeep_mismatch hd hf hm]
  refine ⟨fun hck h2 => ?_, fun b h hck hblk hb => ?_⟩
  · have e : checkFail tid s = restartRegion tid false (s.modTh tid fun t => { t with ckr := true, ckHdr := t.bh, ckCrc := t.crc }) :=
      if_neg (by simpa [hin, hw, hck] using h2)
    rw [e]
    refine ⟨⟨fun _ => rfl, rfl, rfl⟩, ?_⟩
    rw [restartRegion, State.th_modTh, dropWaits_th, State.th_modTh]
    exact ⟨Thread.sameBut_of_registers _ rfl rfl rfl rfl, rfl, rfl, rfl, rfl, rfl, by simp only [hw]; rfl⟩
  · have e : checkFail tid s = enterTrap tid ⟨.check, BitVec.ofNat 64 (hdrSig h.hdr),
        (s.th tid).ckCrc.setWidth 64 ||| ((s.th tid).crc.setWidth 64 <<< 32), (s.th tid).ckHdr.setWidth 64⟩ (s.th tid).lastWord
        ((s.th tid).bh.setWidth 64) none s := by
      simp only [checkFail, hck, hblk, if_true, or_true, true_or, Option.map_some, Option.getD_some]
    rw [e, enterTrap_eq_takeTrap hin hb]
    exact handlerAt_modTh (Thread.sameBut_of_registers _ rfl rfl rfl rfl) rfl

/-- Settles O28, from the equations of EMPTY_TIMEOUT, REGION_RESTART and a block's end with a mismatch. -/
theorem restarts : Obligations.Restarts := ⟨emptyTimeout, regionRestart, checkedBlock⟩

end

section
/-!
Deferred faults (R308): a fault that reaches a thread at the end of its block.
-/

open Sys2Proof Sys2Proof.Machine Sys2Proof.Claims

namespace Sys2Proof.Machine

/-- The answer of a refused load; the load's word is the only one of the block at 0. -/
def refusedLoad : Answer := ⟨⟨.access, 0, 0, 0⟩, 8, 0, 7, false, false⟩

/-- The load, which has emptied G3. -/
def loadOfG3 : Pending := ⟨7, 8, 0, some (.g 3), none, none, 0, .g 0, [], false, false, 0, false, false⟩

/-- A thread at the end of its block, whose pending join waits for G3 (R48, log 141), the destination of a refused load. The header
of its trap handler stands at 64. -/
def joinWaiting : State :=
  (State.reset.poke (scratchAt State.reset.cur.core 64) (leBytes 0x9000000000000001 8)).modMe fun t => { t with
    life := .running, pc := 12, tvb := 64, block := some ⟨0x8000000000000001, [0], false⟩
    g := (t.setFull false (.g 3)).g
    pjoin := some (.continue_ 0x300 0x8 [1]), blocked := some ⟨0, [destAwait (.g 3)]⟩
    pending := [loadOfG3], answers := [refusedLoad] }

theorem joinWaiting_handler : ∃ b,
    fetchAt joinWaiting joinWaiting.cur.core ((joinWaiting.th joinWaiting.cur).tvb.setWidth 64) .trapEntry = .block b := ⟨_, rfl⟩

theorem joinWaiting_deliverable :
    deliverable joinWaiting joinWaiting.cur = true ∧ nextFirst joinWaiting joinWaiting.cur refusedLoad.word = false := by decide

/-- The block's end may be left, and TINFO3 then names the block behind it, at 16. -/
theorem joinWaiting_delivered : ∃ t, exec (.deferredDelivery joinWaiting.cur refusedLoad.pid) joinWaiting = .next t ∧
    (t.th joinWaiting.cur).tinfo = #v[0, 0, 0, 16] := ⟨_, rfl, rfl⟩

end Sys2Proof.Machine

/-- Refutes O27: a thread whose block's end waits for the registers of its join takes a deferred fault with TINFO3 (and RES) the next
block's header, not the BH of the block that it has run. -/
theorem not_faultDelivery : ¬ Obligations.FaultDelivery := by
  rintro ⟨hdelivery, -⟩
  obtain ⟨b, hb⟩ := joinWaiting_handler
  obtain ⟨hd, hn⟩ := joinWaiting_deliverable
  obtain ⟨-, -, htrap⟩ := hdelivery joinWaiting.cur refusedLoad joinWaiting hd hn rfl (by decide)
  obtain ⟨t, he, -, -, -, -, -, -, -, hinfo, -⟩ := htrap b loadOfG3 rfl rfl rfl (by decide) rfl rfl rfl rfl hb
  obtain ⟨u, hu, hv⟩ := joinWaiting_delivered
  rw [hu] at he
  cases he
  rw [hv] at hinfo
  exact absurd hinfo (by decide)

end

section
/-!
Traps at issue of scalar memory instructions (R63, R92, R94, R142) and of fork and join (R148 to R150, R153).
-/

open Sys2Proof Sys2Proof.Machine Sys2Proof.Claims

namespace Sys2Proof.Machine

/-! ### The checks of a scalar memory instruction -/

/-- What an access of a thread raises at issue: ALIGN, or of a write below the own XB ACCESS (R63, R92, R94). -/
def plainFault (s : State) (op : AccOp) (ea : W64) (n : Nat) : Option FaultInfo :=
  if ¬ aligned ea n then some (causeOf .align ea)
  else if loads op = false ∧ ownXB s ea then some (accessFault ea 3)
  else none

/-- The same, with the checks of a tagged access between the two (R142). -/
def issueFault (s : State) (op : AccOp) (ea : W64) (n : Nat) (tag : Bool) : Option FaultInfo :=
  if tag = true ∧ aligned ea n then
    match taggedPlace s.cur.core ea with
    | .error f => some f
    | .ok _ => plainFault s op ea n
  else plainFault s op ea n

section
variable {s : State} {op : AccOp} {ea : W64} {n : Nat} {f : FaultInfo} {tag : Bool}

theorem aligned_iff : aligned ea n = true ↔ ea.toNat % n = 0 := decide_eq_true_iff

theorem plainFault_of_misaligned (h : ¬ aligned ea n = true) : plainFault s op ea n = some (causeOf .align ea) := if_pos h

theorem plainFault_of_aligned (h : aligned ea n = true) :
    plainFault s op ea n = if loads op = false ∧ ownXB s ea then some (accessFault ea 3) else none := if_neg (not_not.2 h)

theorem issueFault_plain : issueFault s op ea n false = plainFault s op ea n := if_neg fun h => Bool.false_ne_true h.1

theorem issueFault_misaligned (h : ¬ aligned ea n = true) : issueFault s op ea n tag = some (causeOf .align ea) :=
  (if_neg fun h' => h h'.2).trans (plainFault_of_misaligned h)

theorem issueFault_tagged {e : FaultInfo} (h : aligned ea n = true) (hp : taggedPlace s.cur.core ea = .error e) :
    issueFault s op ea n true = some e := by
  rw [issueFault, if_pos ⟨rfl, h⟩, hp]

theorem issueFault_placed {p : Phys} (hp : tag = true → taggedPlace s.cur.core ea = .ok p) :
    issueFault s op ea n tag = plainFault s op ea n := by
  unfold issueFault
  split
  next h => rw [hp h.1]
  · rfl

theorem taggedPlace_of_source {c : CoreId} {src : W64} (h : TaggedSource c ea src) :
    taggedPlace c ea = .error ⟨.access, ea, 0, src⟩ := by
  unfold taggedPlace
  rcases h with ⟨hc, rfl⟩ | ⟨p, k, j, hc, hr, rfl⟩ | ⟨hc | ⟨p, hc, ⟨k, hr⟩ | hr⟩, rfl⟩
  · rw [hc]; rfl
  · rw [hc]; simp only [hr]; rfl
  · rw [hc]; rfl
  · rw [hc]; simp only [hr]; rfl
  · rw [hc]; simp only [hr]; rfl

theorem issueFault_ownXB (h : aligned ea n = true) (hl : loads op = false) (hx : ownXB s ea = true)
    (ht : tag = true → ∃ p, taggedPlace s.cur.core ea = .ok p) : issueFault s op ea n tag = some ⟨.access, ea, 0, 3⟩ := by
  have own : plainFault s op ea n = some (accessFault ea 3) := (plainFault_of_aligned h).trans (if_pos ⟨hl, hx⟩)
  cases tag with
  | false => exact issueFault_plain.trans own
  | true =>
    obtain ⟨p, hp⟩ := ht rfl
    exact (issueFault_placed fun _ => hp).trans own

/-- The checks of an access that writes, as the bodies write them. -/
theorem plainFault_cases (h : plainFault s op ea n = some f) (u : State) :
    (if ¬ aligned ea n then trap (causeOf .align ea) s else if ownXB s ea then trap (accessFault ea 3) s else u) = trap f s := by
  unfold plainFault at h
  split at h
  next ha =>
    cases h
    exact if_pos ha
  next ha =>
    split at h
    next hx =>
      cases h
      exact (if_neg ha).trans (if_pos hx.2)
    · cases h

theorem postStore_fault (c : Bool) (v : PVal) (l : Nat) (h : plainFault s op ea n = some f) :
    postStore n c op v l ea s = trap f s := plainFault_cases h _

theorem atomicIssue_fault (o : AtomOp) (d : BitVec 4) (z : Bool) (v e : W64)
    (h : plainFault s (.atom o v e) ea (wdBytes z) = some f) : atomicIssue o d z ea v e s = trap f s := plainFault_cases h _

theorem tagStore_fault (h : issueFault s op ea n true = some f) : tagStore n op ea s = trap f s := by
  by_cases ha : aligned ea n = true
  · refine (if_neg (not_not.2 ha)).trans ?_
    cases hp : taggedPlace s.cur.core ea with
    | error e =>
      rw [issueFault_tagged ha hp] at h
      cases h
      rfl
    | ok p => exact postStore_fault true _ _ ((issueFault_placed fun _ => hp).symm.trans h)
  · rw [issueFault_misaligned ha] at h
    cases h
    exact if_pos ha

/-- A load raises ALIGN alone. -/
theorem plainFault_load {sx : Bool} (h : plainFault s (.load sx) ea n = some f) :
    ¬ aligned ea n = true ∧ f = causeOf .align ea := by
  by_cases ha : aligned ea n = true
  · rw [plainFault_of_aligned ha] at h
    exact absurd (h.symm.trans (if_neg fun h => Bool.false_ne_true h.1.symm)) (Option.some_ne_none f)
  · rw [plainFault_of_misaligned ha] at h
    cases h
    exact ⟨ha, rfl⟩

/-- A scalar memory instruction whose checks fail traps with what they raise. -/
theorem exec_issueFault {i : Instr} {g : Guard} {rs : List RegRef} {d : BitVec 4}
    (hi : accessForm s.me i = some (g, rs, d, op, ea, n, tag)) (hg : s.me.passes g) (hr : s.me.readable rs)
    (hd : s.me.full (.g d) = true) (h : issueFault s op ea n tag = some f) : exec i s = .next (trap f s) := by
  have go : ∀ {srcs : List Src} {dsts : List RegRef} {body : State → State}, srcs.map (·.ref) = rs →
      dsts = [] ∨ dsts = [.g d] → body s = trap f s → gatedTrap 1 g false srcs dsts body s = trap f s := by
    intro srcs dsts body hs hds hb
    refine (gatedTrap_go hg (.inl rfl) (hs ▸ hr) ?_).trans hb
    rcases hds with rfl | rfl
    · exact Thread.allFull_nil
    · exact Thread.allFull_one hd
  cases i
  all_goals cases hi
  case ld =>
    obtain ⟨ha, rfl⟩ := plainFault_load (issueFault_plain.symm.trans h)
    exact congrArg Host.Outcome.next (go rfl (.inr rfl) (if_pos ha))
  case st => exact congrArg Host.Outcome.next (go rfl (.inl rfl) (postStore_fault _ _ _ (issueFault_plain.symm.trans h)))
  case stfw | stfd | sete | setf => exact congrArg Host.Outcome.next (go rfl (.inl rfl) (tagStore_fault h))
  case aadd | aand | aor | axor | amin | amax | aminu | amaxu | axchg | acas =>
    exact congrArg Host.Outcome.next (go rfl (.inr rfl) (atomicIssue_fault _ _ _ _ _ (issueFault_plain.symm.trans h)))
  case redadd | redand | redor | redxor | redmin | redmax | redminu | redmaxu =>
    exact congrArg Host.Outcome.next (go rfl (.inl rfl) (postStore_fault _ _ _ (issueFault_plain.symm.trans h)))

end

/-! ### FORK, JINIT and JOIN -/

section
variable {a : GSrc} {g : Guard} {s : State} (hg : s.me.passes g) (hr : s.me.readable [.g a.r])
include hg hr

/-- JINIT whose checks fail. -/
theorem exec_jinit_error {f : FaultInfo} (h : jinitChecks a s = .error f) : exec (.jinit a g) s = .next (trap f s) := by
  have hs : srcG a :: (if s.me.full (.g a.r) then liveSrcs (jinitChecks a s) else []) = [srcG a] := by
    simp [h, liveSrcs]
  refine congrArg Host.Outcome.next ((gatedTrap_go hg (.inl rfl) (by rw [hs]; exact hr) Thread.allFull_nil).trans ?_)
  simp only [h]

/-- FORK whose checks fail. -/
theorem exec_fork_error {o : BitVec 16} {f : FaultInfo} (h : forkChecks a o s = .error f) :
    exec (.fork a o g) s = .next (trap f s) := by
  have hs : srcG a :: (if s.me.full (.g a.r) then liveSrcs (forkChecks a o s) else []) = [srcG a] := by
    simp [h, liveSrcs]
  refine congrArg Host.Outcome.next
    ((gatedHold_go hg (.inl rfl) (by rw [hs]; exact hr) Thread.allFull_nil (by simp only [h])).trans ?_)
  simp only [h]

/-- FORK with no place for its record. -/
theorem exec_fork_full {o : BitVec 16} {tg h : W64} {p : Phys} (hc : forkChecks a o s = .ok ((tg, p), h))
    (hl : s.me.readable ((liveRegs (hdrLive h)).map .g)) (hu : updateFree s s.cur p = true)
    (hf : forkRoom (s.core s.cur.core) = false) : exec (.fork a o g) s = .next (trap ⟨.deque, s.me.src a, 0, 1⟩ s) := by
  have hs : s.me.readable
      ((srcG a :: (if s.me.full (.g a.r) then liveSrcs (forkChecks a o s) else [])).map (·.ref)) := by
    rw [if_pos (hr _ List.mem_cons_self).1, hc]
    intro r hm
    rcases List.mem_cons.1 hm with rfl | hm
    · exact hr _ List.mem_cons_self
    · exact hl r (by simpa [liveSrcs] using hm)
  refine congrArg Host.Outcome.next ((gatedHold_go hg (.inl rfl) hs Thread.allFull_nil (by simp only [hc, hu, if_true])).trans ?_)
  simp only [hc, hf, Bool.false_eq_true, not_false_eq_true, if_true]

/-- A second JOIN. -/
theorem exec_join_pending (h : s.me.pjoin ≠ none) : exec (.join a g) s = .next (trap (causeOf .illegal s.me.word64) s) :=
  congrArg Host.Outcome.next ((gatedTrap_go (srcs := [srcG a]) hg (.inl rfl) hr Thread.allFull_nil).trans (if_pos (Option.isSome_iff_ne_none.2 h)))

end

end Sys2Proof.Machine

/-- R92, R63, R94 and R142: the traps of scalar memory instructions at issue. -/
theorem memoryIssueTraps : Claims.MemoryIssueTraps := by
  intro i s g rs d op ea n tag b hi hg hr hd hb
  refine ⟨fun ha => ?_, fun ha ht src hs => ?_, fun ha hl hx ht => ?_⟩
  · exact ⟨_, exec_issueFault hi hg hr hd (issueFault_misaligned (mt aligned_iff.1 ha)), trapped_trap hb _⟩
  · subst ht
    exact ⟨_, exec_issueFault hi hg hr hd (issueFault_tagged (aligned_iff.2 ha) (taggedPlace_of_source hs)), trapped_trap hb _⟩
  · exact ⟨_, exec_issueFault hi hg hr hd (issueFault_ownXB (aligned_iff.2 ha) hl hx ht), trapped_trap hb _⟩

/-- R148 to R150 and R153: the traps of FORK, JINIT and JOIN. -/
theorem forkTraps : Claims.ForkTraps := by
  intro a o g s b hg hr hb
  refine ⟨fun h0 => ?_, fun f hf => ?_, fun f hf => ?_, fun tg p h hc hl hu hf => ?_, fun hj => ?_⟩
  · exact ⟨_, exec_jinit_error hg hr (if_pos h0), trapped_trap hb _⟩
  · exact ⟨_, exec_jinit_error hg hr hf, trapped_trap hb _⟩
  · exact ⟨_, exec_fork_error hg hr hf, trapped_trap hb _⟩
  · exact ⟨_, exec_fork_full hg hr hc hl hu hf, trapped_trap hb _⟩
  · exact ⟨_, exec_join_pending hg hr hj, trapped_trap hb _⟩

/-- Settles O15: every check that fails is a trap of the word at issue. -/
theorem issueTraps : Obligations.IssueTraps := ⟨memoryIssueTraps, forkTraps⟩

end

section
/-!
Issue of engine commands (R66, R246, R247, R255).
-/

open Sys2Proof Sys2Proof.Machine Sys2Proof.Claims

namespace Sys2Proof.Machine

/-- What every engine command hands to `engineIssue`, evaluated at its issue. -/
theorem exec_engineForm {i : Instr} {e : Engine} {s : State} (h : engineForm s i = some e) :
    ∃ close a b recs check, exec i s = engineIssue i e.queue e.priv e.job close e.d e.srcs e.guard a b recs check s ∧
      a s.me = e.a ∧ b s.me = e.b ∧ recs s.me = e.recs ∧ check s = e.fault := by
  cases i
  all_goals cases h
  all_goals simp only [exec, execCpy, execChain, execCstat, execSend, execPost, execRring, execRprobe, execLaunch, execLstat,
    execPreempt, execSignal, execMma, execMwld, execMzero, execMdrain, execMagr, execMstat, execMtest, mxIssue]
  all_goals refine ⟨_, _, _, _, _, by with_reducible rfl, ?_, ?_, ?_, ?_⟩
  all_goals rfl

/-! ### A command joins its queue -/

theorem State.fresh_modMe (s : State) (f : Thread → Thread) : (s.modMe f).fresh = s.fresh.modMe f := rfl

theorem enqueue_modMe (q : EngineQueue) (c : Cmd) (s : State) (f : Thread → Thread) :
    enqueue q c (s.modMe f) = (enqueue q c s).modMe f := by
  cases q <;> rfl

theorem enqueue_cur (q : EngineQueue) (c : Cmd) (s : State) : (enqueue q c s).cur = s.cur := by
  cases q <;> rfl

/-- A command that joins a queue changes cores or clusters alone. -/
theorem enqueue_eq (q : EngineQueue) (c : Cmd) (s : State) :
    enqueue q c s = { s with cores := (enqueue q c s).cores, clusters := (enqueue q c s).clusters } := by
  cases q <;> rfl

/-- It is the newest of its queue. -/
theorem queueOf_enqueue (q : EngineQueue) (c : Cmd) (s : State) :
    queueOf (enqueue q c s) c.tid.core q = queueOf s c.tid.core q ++ [c] := by
  cases q
  case matrix => simp only [enqueue, queueOf, State.core_modCore]
  all_goals simp only [enqueue, queueOf, State.cluster_modCluster]

theorem queueOf_modMe (s : State) (f : Thread → Thread) (c : CoreId) (q : EngineQueue) :
    queueOf (s.modMe f) c q = queueOf s c q := by
  cases q <;> rfl

/-- The thread that has queued a command of the name `id`: its token register is empty, and a job's ID is taken. -/
def Thread.queues (id now : Nat) (d : BitVec 4) (job : Bool) (t : Thread) : Thread :=
  { t.emptyOpt (longG d) with
    pending := t.pending ++ [newPending t id true (longG d) none 1 (.g 0) false false now]
    ccnt := if job then (t.emptyOpt (longG d)).ccnt + 1 else (t.emptyOpt (longG d)).ccnt }

/-- The command that a thread queues (R247). -/
def queuedCmd (s : State) (i : Instr) (g : Guard) (a b : W64) (ws : List W64) (job : Bool) : Cmd :=
  { id := s.nextId, tid := s.cur, ctx := s.me.ctxh, space := s.me.space, ins := i, a := a, b := b, recw := ws
    job := if job then s.me.ccnt else 0, guard := guardAtIssue s.me g, word := s.me.pc.toNat }

theorem guardAtIssue_enterRegion (t : Thread) (g : Guard) : guardAtIssue t.enterRegion g = guardAtIssue t g := by
  simp only [guardAtIssue, Thread.full_enterRegion, Thread.rQ_enterRegion]

/-- What a word opens of its region is no part of a command. -/
theorem queuedCmd_begin (s : State) (i : Instr) (g : Guard) (a b : W64) (ws : List W64) (job : Bool) :
    queuedCmd s.begin i g a b ws job = queuedCmd s i g a b ws job := by
  simp only [queuedCmd, State.me_begin, guardAtIssue_enterRegion]
  rw [Thread.enterRegion_eq]
  rfl

/-- The queueing of a command, as one change of its thread and one of its queue. -/
theorem queueCmd_eq (i : Instr) (q : EngineQueue) (d : BitVec 4) (g : Guard) (a b : W64) (ws : List W64) (job close : Bool)
    (s : State) : queueCmd i q d g a b ws job close s = (enqueue q (queuedCmd s i g a b ws job) s.fresh).modMe fun t =>
      Thread.retire 2 close (t.enterRegion.queues s.nextId (s.taper s.cur.core.node) d job) := by
  have hc := queuedCmd_begin s i g a b ws job
  have e : queueCmd i q d g a b ws job close s = retire 2 close (enqueue q (queuedCmd s.begin i g a b ws job)
      (if job then (issuePending true (longG d) none 1 (.g 0) false false s.begin).modMe fun t => { t with ccnt := t.ccnt + 1 }
       else issuePending true (longG d) none 1 (.g 0) false false s.begin)) := rfl
  rw [e, hc]
  cases job
  · simp only [Bool.false_eq_true, if_false, issuePending, State.begin, State.fresh_modMe, enqueue_modMe, retire, State.modMe_modMe]
    rfl
  · simp only [if_true, issuePending, State.begin, State.fresh_modMe, enqueue_modMe, retire, State.modMe_modMe]
    rfl

section
variable (t : Thread) (id now : Nat) (d : BitVec 4) (job close : Bool)

theorem Thread.emptyOpt_longG : t.emptyOpt (longG d) = if d = 0 then t else t.setFull false (.g d) := by
  unfold longG
  split <;> rfl

theorem Thread.emptyOpt_longG_eq : t.emptyOpt (longG d) = { t with g := (t.emptyOpt (longG d)).g } := by
  rw [Thread.emptyOpt_longG]
  split
  · rfl
  · rw [Thread.setFull_g_eq]

theorem Thread.sameBut_emptyOpt_longG : Thread.sameBut [.g d] t (t.emptyOpt (longG d)) := by
  rw [Thread.emptyOpt_longG]
  split
  · exact Thread.sameBut_refl t _
  · exact Thread.sameBut_setFull _ _ _

theorem Thread.full_emptyOpt_longG {d : BitVec 4} (h : d ≠ 0) : (t.emptyOpt (longG d)).full (.g d) = false := by
  rw [Thread.emptyOpt_longG, if_neg h]
  exact Thread.full_setFull_g _ _ h

/-- Queueing a command changes of a thread its token register, its pending instructions, its job count and what issue moves. -/
theorem Thread.queued_eq : Thread.retire 2 close (t.enterRegion.queues id now d job) =
    { (Thread.retire 2 close (t.enterRegion.queues id now d job)) with
      q := t.q, m := t.m, v := t.v, pc := t.pc + 8, blocked := none, hold := .none
      pending := t.pending ++ [newPending t.enterRegion id true (longG d) none 1 (.g 0) false false now]
      ccnt := if job then t.ccnt + 1 else t.ccnt } := by
  rw [Thread.retire_eq, Thread.queues, Thread.emptyOpt_longG_eq, Thread.enterRegion_eq]
  rfl

theorem Thread.sameRest_queued : Thread.sameRest { t with
      pending := (Thread.retire 2 close (t.enterRegion.queues id now d job)).pending
      ccnt := (Thread.retire 2 close (t.enterRegion.queues id now d job)).ccnt }
    (Thread.retire 2 close (t.enterRegion.queues id now d job)) := by
  have hu := t.enterRegion_eq
  have hv := t.enterRegion.emptyOpt_longG_eq d
  have hr := Thread.retire_eq (t.enterRegion.queues id now d job) 2 close
  unfold Thread.sameRest
  unfold Thread.queues at *
  generalize t.enterRegion = u at *
  generalize u.emptyOpt (longG d) = v at *
  generalize Thread.retire 2 close _ = r at *
  rw [hr, hv, hu]

theorem Thread.sameBut_queued : Thread.sameBut [.g d] t (Thread.retire 2 close (t.enterRegion.queues id now d job)) := fun r hr =>
  have h := Thread.sameReg_trans (t.sameRest_enterRegion_g r) (t.enterRegion.sameBut_emptyOpt_longG d r hr)
  Thread.sameReg_trans (Thread.sameReg_congr rfl rfl rfl rfl h) (Thread.sameReg_retire _ _ _ r)

theorem Thread.full_queued {d : BitVec 4} (h : d ≠ 0) :
    (Thread.retire 2 close (t.enterRegion.queues id now d job)).full (.g d) = false := by
  rw [Thread.full_retire]
  exact (Thread.full_congr rfl rfl rfl rfl _).trans (t.enterRegion.full_emptyOpt_longG h)

end

/-! ### The issue -/

theorem Thread.passes_none (t : Thread) : t.passes Guard.none := ⟨rfl, rfl, Bool.true_eq_false_eq_False.elim⟩

section
variable {i : Instr} {q : EngineQueue} {priv job close : Bool} {d : BitVec 4} {srcs : List GSrc} {g : Guard}
  {a b : Thread → W64} {recs : Thread → List RecordRef} {check : State → Option FaultInfo} {s : State}
  (hp : priv = true → s.cur.slot = 0) (hs : s.me.readable (srcs.map fun x => .g x.r)) (hd : s.me.full (.g d) = true)
include hp hs hd

/-- A command whose checks pass is queued. -/
theorem engineIssue_go (hf : check s = none) (ht : recordTrap s.cur.core (recs s.me) = none) (hw : recordWait s (recs s.me) = none)
    (hr : recordRefusal s (recs s.me) = none) (hq : queueRoom s s.cur q = true)
    (hg : s.me.full (.q g.q) = true → s.me.bad (.q g.q) = false) :
    engineIssue i q priv job close d srcs g a b recs check s =
      .next (queueCmd i q d g (a s.me) (b s.me) (recordWords s (recs s.me)) job close s) := by
  have hrs : s.me.readable ((srcs.map srcG).map (·.ref)) := by rw [List.map_map]; exact hs
  refine congrArg Host.Outcome.next ((gatedHold_go (Thread.passes_none _) ?_ hrs (Thread.allFull_one hd) ?_).trans ?_)
  · cases priv with
    | false => exact .inl rfl
    | true => exact .inr (hp rfl)
  · simp only [hf, ht, hw, hq, Option.or_none, Option.isSome_none, Bool.false_eq_true, if_false, if_true]
  · have hbad : (s.me.full (.q g.q) && s.me.bad (.q g.q)) = false := by
      cases h : s.me.full (.q g.q)
      · rfl
      · exact hg h
    simp only [hf, ht, Option.or_none, hbad, hr, Bool.false_eq_true, if_false]

/-- A command whose own trap or record address comes first traps. -/
theorem engineIssue_trap {f : FaultInfo} (hf : (check s).or (recordTrap s.cur.core (recs s.me)) = some f) :
    engineIssue i q priv job close d srcs g a b recs check s = .next (trap f s) := by
  have hrs : s.me.readable ((srcs.map srcG).map (·.ref)) := by rw [List.map_map]; exact hs
  refine congrArg Host.Outcome.next ((gatedHold_go (Thread.passes_none _) ?_ hrs (Thread.allFull_one hd) ?_).trans ?_)
  · cases priv with
    | false => exact .inl rfl
    | true => exact .inr (hp rfl)
  · simp only [hf, Option.isSome_some, if_true]
  · simp only [hf]

end

end Sys2Proof.Machine

/-- Settles O39: an engine command's issue is one change of its thread and its place as the newest of its queue. -/
theorem engineIssue : Obligations.EngineIssue := by
  intro i e s hi hp hs hd
  obtain ⟨close, a, b, recs, check, hx, ha, hb, hrecs, hcheck⟩ := exec_engineForm hi
  refine ⟨fun hf ht hw hr hq hg => ?_, fun f blk hf hblk => ?_⟩
  · have hgo := engineIssue_go (i := i) (a := a) (b := b) (job := e.job) (close := close) hp hs hd (hcheck.trans hf)
      (hrecs ▸ ht) (hrecs ▸ hw) (hrecs ▸ hr) hq hg
    rw [ha, hb, hrecs, queueCmd_eq] at hgo
    refine ⟨_, hx.trans hgo, ?_⟩
    have hcur := enqueue_cur e.queue (queuedCmd s i e.guard e.a e.b (recordWords s e.recs) e.job) s.fresh
    have heq := enqueue_eq e.queue (queuedCmd s i e.guard e.a e.b (recordWords s e.recs) e.job) s.fresh
    have hqueue := queueOf_enqueue e.queue (queuedCmd s i e.guard e.a e.b (recordWords s e.recs) e.job) s.fresh
    generalize enqueue e.queue (queuedCmd s i e.guard e.a e.b (recordWords s e.recs) e.job) s.fresh = u at *
    have hth : u.threads = s.threads := by rw [heq]; rfl
    have hme : u.me = s.me := by rw [State.me, State.me, State.th, State.th, hcur, hth]; rfl
    have hlong : longG e.d = if e.d = 0 then none else some (.g e.d) := rfl
    unfold AwaitsLast
    rw [State.me_modMe, hme, queueOf_modMe]
    refine ⟨?_, fun k hk => ?_, Thread.sameBut_queued _ _ _ _ _ _, Thread.sameRest_queued _ _ _ _ _ _, ?_, ?_, ?_, ?_, ⟨⟨newPending s.me.enterRegion s.nextId true
      (longG e.d) none 1 (.g 0) false false (s.taper s.cur.core.node), ?_, rfl, ?_, hlong, rfl, rfl, rfl, rfl, rfl, rfl⟩, fun r hr => ?_⟩, hqueue⟩
    · rw [heq]; rfl
    · rw [← hth]
      exact State.modMe_look _ (hcur ▸ hk)
    · rw [Thread.queued_eq]
    · rw [Thread.queued_eq]
    · rw [Thread.queued_eq]
    · rw [Thread.queued_eq]
    · rw [Thread.queued_eq]
    · exact congrArg BitVec.toNat s.me.enterRegion_pc
    · split at hr
      · cases hr
      next h0 =>
        cases hr
        exact Thread.full_queued _ _ _ _ _ h0
  · have htrap := engineIssue_trap (i := i) (q := e.queue) (a := a) (b := b) (job := e.job) (close := close) (g := e.guard) hp hs hd
      (check := check) (recs := recs) (by rw [hcheck, hrecs, hf])
    exact ⟨_, hx.trans htrap, trapped_trap hblk f⟩

end

section
/-!
Vector ALU instructions that write within 4 cycles (R169 to R178).
-/

open Sys2Proof Sys2Proof.Machine Sys2Proof.Claims

namespace Sys2Proof.Machine

/-! ### Vector registers and their lanes -/

section
variable (t : Thread)

/-- A vector register reads as written; every other one as before. -/
theorem Thread.vReg_wVm {d : BitVec 5} (r : BitVec 5) (x : Lanes) (b : Bool) (hd : d.toNat < 26) :
    (t.wVm d x b).vReg r = if r = d then ⟨x, true, b⟩ else t.vReg r := by
  unfold Thread.vReg Thread.wVm
  by_cases hr : r = d
  · subst hr; simp [List.getD_eq_getElem?_getD, hd]
  · have h : d.toNat ≠ r.toNat := fun h => hr (BitVec.eq_of_toNat_eq h.symm)
    simp [List.getD_eq_getElem?_getD, hr, List.getElem?_set_ne h]

theorem Thread.wVL_eq (v : BitVec 5) (x : Lanes) (w : Bool) : t.wVL v x w = { t with v := (t.wVL v x w).v } := by
  unfold Thread.wVL
  by_cases h : v = 24
  · simp only [if_pos h]; rfl
  · simp only [if_neg h]; rfl

/-- The destination and LV take the same lanes and the same poison mark (R51). -/
theorem Thread.vReg_wVL {v : BitVec 5} (x : Lanes) (w : Bool) (hv : v.toNat < 26) (r : BitVec 5) :
    (t.wVL v x w).vReg r = if r = v ∨ r = 24 then ⟨x, true, t.stillBad v w⟩ else t.vReg r := by
  unfold Thread.wVL
  by_cases h : v = 24
  · subst h
    simp only [if_true, Thread.vReg_wVm _ _ _ _ hv, or_self]
  · simp only [if_neg h, Thread.vReg_wVm _ _ _ _ hv, Thread.vReg_wVm _ _ _ _ (show (24 : BitVec 5).toNat < 26 by decide)]
    by_cases h1 : r = 24 <;> by_cases h2 : r = v <;>
      simp only [h, h1, h2, if_true, if_false, or_true, true_or, or_self]

theorem Thread.sameBut_wVL {v : BitVec 5} (x : Lanes) (w : Bool) (hv : v.toNat < 26) :
    Thread.sameBut [.v v, .v 24] t (t.wVL v x w) := by
  intro r hr
  have hk := Thread.sameBut_refl t [] r (by simp)
  rw [Thread.wVL_eq]
  cases r with
  | g r | q r | m r => exact hk
  | v r =>
    have h : ¬ (r = v ∨ r = 24) := by simpa using hr
    exact (t.vReg_wVL x w hv r).trans (if_neg h)

end

/-- What a vector instruction makes of a register: the active lanes are new, the others as in `old`, and the flags are those of
the active ones (R171). -/
def IsMasked (old : Lanes) (m : W64) (f : Nat → W32 × Fl) (r : Lanes × Fl) : Prop :=
  (∀ i, i < 64 → laneAt r.1 i = if m.getLsbD i then (f i).1 else laneAt old i) ∧ r.2 = laneFlags m f

theorem laneAt_tab (f : Nat → W32) {i : Nat} (hi : i < 64) : laneAt (tab 64 f) i = f i := by
  simp [laneAt, tab, List.getD_eq_getElem?_getD, hi]

theorem isMasked_masked (old : Lanes) (m : W64) (f : Nat → W32 × Fl) : IsMasked old m f (masked old m f) := by
  refine ⟨fun i hi => ?_, ?_⟩
  · simp only [masked, laneAt_tab _ hi, List.getD_eq_getElem?_getD, List.getElem?_map, List.getElem?_range hi, Option.map_some,
      Option.getD_some]
    split <;> rfl
  · simp only [masked, laneFlags, List.foldl_map]
    refine congrArg (fun g => List.foldl g 0 (List.range 64)) (funext fun b => funext fun i => ?_)
    split <;> rfl

theorem laneFlags_of_none {m : W64} {f : Nat → W32 × Fl} (h : ∀ i, (f i).2 = 0) : laneFlags m f = 0 :=
  List.foldl_fixed' (fun i => by simp [h i]) _

/-- A shift by a scalar looks at its low 5 bits. -/
theorem shift_scalar (b : W64) : (scalarLane .i32 b).toNat % 32 = b.toNat % 32 := by
  have e : scalarLane .i32 b = b.setWidth 32 := rfl
  rw [e, BitVec.toNat_setWidth]
  omega

/-! ### The instructions -/

theorem Thread.rV_enterRegion (t : Thread) (r : BitVec 5) : t.enterRegion.rV r = t.rV r :=
  congrArg Reg.val (t.vReg_enterRegion r)

theorem of_notSlow {α : Type} {b : Bool} {x y : α} (h : (if b then none else some x) = some y) : b = false ∧ x = y := by
  cases b with
  | false => exact ⟨rfl, Option.some.inj h⟩
  | true => cases h

theorem vfused_eq (neg : Bool) (v a b c : BitVec 5) (m : BitVec 2) (e : Bool) (ty : VType) (s : State) :
    vfused neg v a b c m e ty s = vop (fusedSlow a b c) (decide (ty ≠ .i32)) (Thread.allLanes m)
      [srcV a e, srcV b e, srcV c e, srcM m e] v (fun x => masked (x.rV v) (x.rM m) fun i =>
        fusedLane neg ty (laneAt (x.rV a) i) (laneAt (x.rV b) i) (laneAt (x.rV c) i)) s := rfl

/-- VFMA and VFMS whose result is not late. -/
theorem fused_form (neg : Bool) (v a b c : BitVec 5) (m : BitVec 2) (e : Bool) (ty : VType) {s : State}
    (hs : fusedSlow a b c = false) : ∃ canFlag whole srcs g, vfused neg v a b c m e ty s = vop false canFlag whole srcs v g s ∧
      srcs.map (·.ref) = [.v a, .v b, .v c, .m m] ∧
      IsMasked (s.me.rV v) (s.me.rM m) (fun i => fusedLane neg ty (lane s.me a i) (lane s.me b i) (lane s.me c i))
        (g s.me.enterRegion) := by
  rw [vfused_eq, hs]
  refine ⟨_, _, _, _, by with_reducible rfl, rfl, ?_⟩
  simp only [Thread.rV_enterRegion, Thread.rM_enterRegion]
  exact isMasked_masked _ _ _

/-- Every vector instruction of the table is `vop` with lanes that its mask chooses. -/
theorem exec_vectorForm {i : Instr} {s : State} {rs : List RegRef} {v : BitVec 5} {m : W64} {f : Nat → W32 × Fl}
    (h : vectorForm s.me i = some (rs, v, m, f)) : ∃ canFlag whole srcs g, exec i s = vop false canFlag whole srcs v g s ∧
      srcs.map (·.ref) = rs ∧ IsMasked (s.me.rV v) m f (g s.me.enterRegion) := by
  cases i
  case vfma v' a b c m' e' ty =>
    obtain ⟨hs, h⟩ := of_notSlow h
    cases h
    exact fused_form false v a b c m' e' ty hs
  case vfms v' a b c m' e' ty =>
    obtain ⟨hs, h⟩ := of_notSlow h
    cases h
    exact fused_form true v a b c m' e' ty hs
  all_goals cases h
  case vsel =>
    simp only [exec, execVsel]
    refine ⟨_, _, _, _, by with_reducible rfl, rfl, fun i hi => ?_, (laneFlags_of_none fun _ => rfl).symm⟩
    simp only [laneAt_tab _ hi, Thread.rV_enterRegion, Thread.rM_enterRegion, BitVec.getLsbD_allOnes, hi, decide_true, if_true]
    rfl
  all_goals simp only [exec, execVadd, execVsub, execVmul, execVmin, execVmax, execVabs, execVneg, execVand, execVor, execVxor,
    execVandn, execVshl, execVshr, execVsra, execVmov, execVadds, execVsubs, execVmuls, execVmins, execVmaxs, execVshls, execVshrs,
    execVsras, execVbcast, vbin, vun, vscal]
  all_goals refine ⟨_, _, _, _, by with_reducible rfl, rfl, ?_⟩
  all_goals simp only [Thread.rV_enterRegion, Thread.rM_enterRegion, Thread.src_enterRegion, plain2, shlLane, shrLane, sraLane,
    shift_scalar]
  all_goals exact isMasked_masked _ _ _

/-- The thread behind a vector instruction with result `r`. -/
def Thread.vectorDone (v : BitVec 5) (r : Lanes × Fl) (whole : Bool) (t : Thread) : Thread :=
  Thread.retire 1 false { t.enterRegion.wVL v r.1 whole with flg := t.enterRegion.flg ||| r.2 }

/-- A vector instruction that goes on writes its register at once. -/
theorem vop_go {canFlag : Bool} {whole : Thread → Bool} {srcs : List Src} {v : BitVec 5} {f : Thread → Lanes × Fl} {s : State}
    (hs : s.me.readable (srcs.map (·.ref))) (hd : s.me.allFull [.v v, .v 24]) :
    vop false canFlag whole srcs v f s =
      .next (s.modMe (Thread.vectorDone v (f s.me.enterRegion) (whole s.me.enterRegion))) := by
  have hd' : s.me.allFull (vdests v) := by
    unfold vdests
    split
    · exact fun r hr => hd r (List.mem_cons_of_mem _ hr)
    · exact hd
  refine congrArg Host.Outcome.next ((gated_go (Thread.passes_none _) (.inl rfl) hs hd').trans ?_)
  simp only [vresult, Bool.false_eq_true, if_false, retire, State.modMe_modMe, State.me_modMe]
  rfl

section
variable (t : Thread) (v : BitVec 5) (r : Lanes × Fl) (w : Bool)

/-- What a vector instruction leaves of its thread. -/
theorem Thread.sameRest_vectorDone : Thread.sameRest { t with flg := t.flg ||| r.2 } (t.vectorDone v r w) := by
  have hu := t.enterRegion_eq
  have hv := t.enterRegion.wVL_eq v r.1 w
  have hr := Thread.retire_eq { t.enterRegion.wVL v r.1 w with flg := t.enterRegion.flg ||| r.2 } 1 false
  unfold Thread.sameRest
  unfold Thread.vectorDone
  generalize t.enterRegion = u at *
  generalize u.wVL v r.1 w = x at *
  generalize Thread.retire 1 false _ = y at *
  rw [hr, hv, hu]

theorem Thread.vReg_vectorDone (hv : v.toNat < 26) (k : BitVec 5) : (t.vectorDone v r w).vReg k =
    if k = v ∨ k = 24 then ⟨r.1, true, t.enterRegion.stillBad v w⟩ else t.vReg k :=
  (Thread.vReg_retire _ _ _ _).trans ((Thread.vReg_congr rfl k).trans
    ((t.enterRegion.vReg_wVL r.1 w hv k).trans (by rw [Thread.vReg_enterRegion])))

theorem Thread.sameBut_vectorDone (hv : v.toNat < 26) : Thread.sameBut [.v v, .v 24] t (t.vectorDone v r w) := fun k hk =>
  have h := Thread.sameReg_trans (t.sameRest_enterRegion_g k) (t.enterRegion.sameBut_wVL r.1 w hv k hk)
  Thread.sameReg_trans (Thread.sameReg_congr rfl rfl rfl rfl h) (Thread.sameReg_retire _ _ _ k)

theorem Thread.vectorDone_pc : (t.vectorDone v r w).pc = t.pc + 4 := by
  refine (Thread.retire_pc _ _ _).trans (congrArg (· + 4) ?_)
  dsimp only
  rw [Thread.wVL_eq, Thread.enterRegion_eq]

end

end Sys2Proof.Machine

/-- Settles O32: each form is a masked write of its register and LV at once. -/
theorem vectorResults : Obligations.VectorResults := by
  intro i s rs v m f hi hv hr hd
  obtain ⟨canFlag, whole, srcs, g, hx, rfl, hlanes, hflags⟩ := exec_vectorForm hi
  refine ⟨_, hx.trans (vop_go hr hd), OnlyThread.modMe _ _, SameMemory.modMe _ _, ?_⟩
  rw [State.me_modMe, ← hflags]
  have hreg := Thread.vReg_vectorDone s.me v (g s.me.enterRegion) (whole s.me.enterRegion) hv
  have hself := (hreg v).trans (if_pos (.inl rfl))
  have hlv := (hreg 24).trans (if_pos (.inr rfl))
  refine ⟨Thread.sameBut_vectorDone _ _ _ _ hv, Thread.sameRest_vectorDone _ _ _ _, Thread.vectorDone_pc _ _ _ _,
    Thread.retire_hold _ _ _, fun j hj => ⟨?_, ?_⟩, ?_, ?_⟩
  · rw [lane, Thread.rV, hself]
    exact hlanes j hj
  · rw [lane, lane, Thread.rV, Thread.rV, hself, hlv]
  · exact congrArg Reg.full hself
  · exact congrArg Reg.full hlv

end

section
/-!
Acceptance of units of vector accesses (R51, R210, R215, R217).
-/

open Sys2Proof Sys2Proof.Machine Sys2Proof.Claims

namespace Sys2Proof.Machine

/-! ### The units of an access (R210) -/

theorem unitsOf_nil : unitsOf [] = [] := rfl

/-- A lane joins the unit that follows it where both lie in one 64-byte unit; else it is a unit of its own. -/
theorem unitsOf_cons (l : LaneAddr) (ls : List LaneAddr) :
    (∃ k ks us, unitsOf ls = (k :: ks) :: us ∧ k.2.toNat / 64 = l.2.toNat / 64 ∧ unitsOf (l :: ls) = (l :: k :: ks) :: us) ∨
    ((∀ k ks us, unitsOf ls = (k :: ks) :: us → k.2.toNat / 64 ≠ l.2.toNat / 64) ∧ unitsOf (l :: ls) = [l] :: unitsOf ls) := by
  rw [unitsOf]
  split
  next k ks us h =>
    by_cases hk : k.2.toNat / 64 = l.2.toNat / 64
    · exact .inl ⟨k, ks, us, h, hk, if_pos hk⟩
    · refine .inr ⟨fun k' ks' us' h' => ?_, (if_neg hk).trans (by rw [h])⟩
      rw [h] at h'
      cases h'
      exact hk
  next us h => exact .inr ⟨fun k ks us' h' => absurd h' (h k ks us'), rfl⟩

theorem flatten_unitsOf (ls : List LaneAddr) : (unitsOf ls).flatten = ls := by
  induction ls with
  | nil => rfl
  | cons l ls ih =>
    obtain ⟨k, ks, us, h, -, e⟩ | ⟨-, e⟩ := unitsOf_cons l ls
    · rw [h] at ih
      rw [e, List.flatten_cons, List.cons_append, ← ih, List.flatten_cons]
    · rw [e, List.flatten_cons, ih, List.singleton_append]

/-- Every unit holds a lane, and its lanes lie in one 64-byte unit. -/
theorem mem_unitsOf (ls : List LaneAddr) :
    ∀ u ∈ unitsOf ls, u ≠ [] ∧ ∀ x ∈ u, ∀ y ∈ u, x.2.toNat / 64 = y.2.toNat / 64 := by
  induction ls with
  | nil => exact fun u hu => absurd hu List.not_mem_nil
  | cons l ls ih =>
    obtain ⟨k, ks, us, h, hk, e⟩ | ⟨-, e⟩ := unitsOf_cons l ls
    · rw [h] at ih
      rw [e]
      intro u hu
      rcases List.mem_cons.1 hu with rfl | hu
      · have hall : ∀ x ∈ l :: k :: ks, x.2.toNat / 64 = l.2.toNat / 64 := by
          intro x hx
          rcases List.mem_cons.1 hx with rfl | hx
          · rfl
          · exact ((ih _ List.mem_cons_self).2 x hx k List.mem_cons_self).trans hk
        exact ⟨List.cons_ne_nil _ _, fun x hx y hy => (hall x hx).trans (hall y hy).symm⟩
      · exact ih u (List.mem_cons_of_mem _ hu)
    · rw [e]
      intro u hu
      rcases List.mem_cons.1 hu with rfl | hu
      · refine ⟨List.cons_ne_nil _ _, fun x hx y hy => ?_⟩
        rw [List.mem_singleton.1 hx, List.mem_singleton.1 hy]
      · exact ih u hu

/-- Neighbouring units lie in different 64-byte units. -/
theorem unitsOf_cut (ls : List LaneAddr) : ∀ n u v, (unitsOf ls)[n]? = some u → (unitsOf ls)[n + 1]? = some v →
    ∀ x ∈ u, ∀ y ∈ v, x.2.toNat / 64 ≠ y.2.toNat / 64 := by
  induction ls with
  | nil => exact fun n u v hu => by simp [unitsOf_nil] at hu
  | cons l ls ih =>
    have hmem := mem_unitsOf ls
    obtain ⟨k, ks, us, h, hk, e⟩ | ⟨hne, e⟩ := unitsOf_cons l ls
    · rw [h] at ih hmem
      rw [e]
      rintro (_ | n) u v hu hv x hx y hy
      · cases hu
        rcases List.mem_cons.1 hx with rfl | hx
        · rw [← hk]
          exact ih 0 _ v rfl hv k List.mem_cons_self y hy
        · exact ih 0 _ v rfl hv x hx y hy
      · exact ih (n + 1) u v hu hv x hx y hy
    · rw [e]
      rintro (_ | n) u v hu hv x hx y hy
      · cases hu
        rw [List.mem_singleton.1 hx]
        rcases hus : unitsOf ls with _ | ⟨w, us⟩
        · rw [hus] at hv
          cases hv
        · rw [hus] at hv hmem
          cases hv
          obtain ⟨hne', hw⟩ := hmem v List.mem_cons_self
          obtain ⟨k, ks, rfl⟩ := List.exists_cons_of_ne_nil hne'
          rw [← hw k List.mem_cons_self y hy]
          exact (hne k ks us hus).symm
      · exact ih n u v hu hv x hx y hy

/-! ### Pending instructions -/

/-- A change of a pending instruction that keeps its name. -/
theorem Thread.pend?_mapIf {t : Thread} {pid : Nat} {q : Pending} {f : Pending → Pending} (h : t.pend? pid = some q)
    (hf : ∀ p : Pending, (f p).id = p.id) :
    ({ t with pending := mapIf t.pending (fun p => p.id = pid) f } : Thread).pend? pid = some (f q) := by
  have hq : q.id = pid := by simpa using List.find?_some h
  have hp : ((fun p : Pending => decide (p.id = pid)) ∘ fun x => if decide (x.id = pid) = true then f x else x) =
      fun p : Pending => decide (p.id = pid) := by
    funext x
    simp only [Function.comp, decide_eq_true_eq]
    split <;> simp_all
  unfold Thread.pend? mapIf
  rw [List.find?_map, hp]
  simp only [Thread.pend?] at h
  rw [h, Option.map_some, if_pos (decide_eq_true hq)]

/-- An instruction that is done is no longer pending. -/
theorem Thread.pend?_dropPending (t : Thread) (pid : Nat) : (t.dropPending pid).pend? pid = none := by
  simp [Thread.pend?, Thread.dropPending]

/-- The pending instruction with one answer more. -/
def Pending.answered (f : Pending → Pending) (p : Pending) : Pending := { f p with left := p.left - 1 }

theorem answer_eq (tid : Tid) (pid : Nat) (f : Pending → Pending) (s : State) :
    answer tid pid f s = settlePending tid pid (modPending tid pid (Pending.answered f) s) := rfl

section
variable {tid : Tid} {pid : Nat} {s : State} {q : Pending} {f : Pending → Pending}

theorem pend?_modPending (h : (s.th tid).pend? pid = some q) (hf : ∀ p, (f p).id = p.id) :
    ((modPending tid pid f s).th tid).pend? pid = some (f q) := by
  rw [modPending, State.th_modTh]
  exact Thread.pend?_mapIf h hf

/-- An answer that is not the last, or after which a register is still to fill. -/
theorem answer_waits (h : (s.th tid).pend? pid = some q) (hf : ∀ p, (f p).id = p.id) (hr : (f q).refused = [])
    (hw : q.left - 1 ≠ 0 ∨ ¬ ((f q).dst = none ∧ (f q).also = none)) :
    answer tid pid f s = modPending tid pid (Pending.answered f) s := by
  have hp := pend?_modPending (f := Pending.answered f) h hf
  have hfault : (Pending.answered f q).fault = none := by simp only [Pending.fault, Pending.answered, hr]
  rw [answer_eq]
  simp only [settlePending, hp, hfault]
  rcases hw with hw | hw
  · exact if_pos hw
  · split
    · rfl
    · exact if_neg hw

/-- The last answer of an instruction that fills no register. -/
theorem answer_done (h : (s.th tid).pend? pid = some q) (hf : ∀ p, (f p).id = p.id) (hr : (f q).refused = [])
    (hl : q.left = 1) (hd : (f q).dst = none) (ha : (f q).also = none) :
    answer tid pid f s = (modPending tid pid (Pending.answered f) s).modTh tid (·.dropPending pid) := by
  have hp := pend?_modPending (f := Pending.answered f) h hf
  have hfault : (Pending.answered f q).fault = none := by simp only [Pending.fault, Pending.answered, hr]
  have hleft : (Pending.answered f q).left = 0 := by simp only [Pending.answered, hl]
  rw [answer_eq]
  simp only [settlePending, hp, hfault, hleft, ne_eq, not_true, if_false]
  exact if_pos ⟨hd, ha⟩

/-- No flag is to be raised for an instruction without one. -/
theorem flagNext_of_plain {ctx : W64} {xb : BitVec 20}
    (h : ∀ p, (s.th tid).pend? pid = some p → ∀ fa l n, p.val ≠ .flag fa l n .awaited) : flagNext tid ctx xb pid s = s := by
  unfold flagNext
  split
  next p hp =>
    split
    next fa l n hv => exact absurd hv (h p hp fa l n)
    · rfl
  · rfl

end

/-- What an answer brings keeps the instruction but its value. -/
theorem Pending.take_eq (ln node : Nat) (v : PVal) (p : Pending) : p.take ln node v = { p with val := (p.take ln node v).val } := by
  unfold Pending.take Pending.noteLane
  split
  · rfl
  · split <;> rfl
  · rfl
  · rfl

/-! ### A unit of a vector access is accepted -/

section
variable {k pid ln : Nat} {a : Acc} {p : Phys} {s : State}

/-- A unit of lanes that its home does not refuse is performed, and its answer comes. -/
theorem exec_acceptVector (hk : s.acc? k = some a) (ha : a.agent = .thread pid ln) (hp : a.place = some p)
    (hn : p.node = a.tid.core.node) (hm : mayAccept s a p = true) (hr : a.refusal p (settleAcc a s) = none)
    (hv : (∃ ls, a.op = .vload ls) ∨ ∃ ls, a.op = .vstore ls) : exec (.memoryAccessAccept k) s = .next (flagNext a.tid a.ctx a.xb pid
      (answer a.tid pid (Pending.take ln p.node (perform a p (settleAcc a s)).1) (perform a p (settleAcc a s)).2)) := by
  have hthread : exec (.memoryAccessAccept k) s = .next (acceptThread a pid ln p s) := by
    refine congrArg Host.Outcome.next ?_
    rcases hv with ⟨ls, hop⟩ | ⟨ls, hop⟩
    all_goals simp only [hk, ha, hp, hop, hm, not_true, if_false, hn, if_true]
  have hpromote : mustPromote s a p = false := by
    rcases hv with ⟨ls, hop⟩ | ⟨ls, hop⟩
    all_goals simp only [mustPromote, hop, Bool.and_false]
  have hjoin : a.op ≠ .join := by
    rcases hv with ⟨ls, hop⟩ | ⟨ls, hop⟩
    all_goals simp only [hop, ne_eq, reduceCtorEq, not_false_eq_true]
  rw [hthread]
  simp only [acceptThread, hpromote, Bool.false_eq_true, if_false, hr, hjoin]

end

/-! ### Loads -/

/-- The words that a unit of a vector load brings. -/
def unitWords (s : State) (p : Phys) (ls : List (Nat × Nat)) : List (Nat × W32) :=
  ls.map fun l => (l.1, BitVec.ofNat 32 (s.peek (p.plus l.2) 4))

section
variable {tid : Tid} {pid : Nat} {s : State} {q : Pending}

/-- A unit of a vector load: its words join those gathered. -/
theorem take_lanes {xs ys : List (Nat × W32)} (ln node : Nat) (h : q.val = .lanes xs) :
    q.take ln node (.lanes ys) = { q with val := .lanes (xs ++ ys) } := by
  simp only [Pending.take, h]

theorem resolveGuards_eq (tid : Tid) (s : State) :
    resolveGuards tid s = { s with clusters := (resolveGuards tid s).clusters, cores := (resolveGuards tid s).cores } := by
  unfold resolveGuards
  dsimp only
  split <;> split <;> rfl

/-- A fill changes its thread, and the guards of commands. -/
theorem fillTh_eq (tid : Tid) (f : Thread → Thread) (s : State) : fillTh tid f s = { s.modTh tid f with
    clusters := (fillTh tid f s).clusters, cores := (fillTh tid f s).cores } := resolveGuards_eq _ _

theorem th_fillTh (tid : Tid) (f : Thread → Thread) (s : State) : (fillTh tid f s).th tid = f (s.th tid) := by
  rw [fillTh_eq]
  exact State.th_modTh _ _ _

theorem sameMemory_fillTh (tid : Tid) (f : Thread → Thread) (s : State) : SameMemory s (fillTh tid f s) := by
  rw [fillTh_eq]
  exact ⟨fun _ => rfl, rfl, rfl⟩

theorem sameMemory_trans {s t u : State} (h : SameMemory s t) (h' : SameMemory t u) : SameMemory s u := by
  obtain ⟨hb, he, hp⟩ := h
  obtain ⟨hb', he', hp'⟩ := h'
  exact ⟨fun k => (hb' k).trans (hb k), he'.trans he, hp'.trans hp⟩

/-- RESULT_FILL of an instruction that has its last answer. -/
theorem exec_resultFill (hw : ∀ w ∈ s.waits, w.tid = tid → w.seq ≠ pid) (h : (s.th tid).pend? pid = some q) (hl : q.left = 0)
    (hr : q.refused = []) : exec (.resultFill tid pid) s =
      .next (fillTh tid (fun t => q.write (s.taper tid.core.node) (t.dropPending pid)) s) := by
  have hnone : s.waits.find? (fun w => decide (w.tid = tid) && decide (w.seq = pid)) = none := by
    rw [List.find?_eq_none]
    intro w hm
    simpa using hw w hm
  refine congrArg Host.Outcome.next ?_
  simp only [hnone, h, hl, hr, and_self, if_true, fillPending]

end

/-- An accepted unit of a vector load after which the load waits for more, or for its fill. -/
theorem exec_acceptLoad {k pid ln : Nat} {a : Acc} {p : Phys} {s : State} {q : Pending} {ls : List (Nat × Nat)}
    {xs : List (Nat × W32)} (hk : s.acc? k = some a) (ha : a.agent = .thread pid ln) (hp : a.place = some p)
    (hn : p.node = a.tid.core.node) (hm : mayAccept s a p = true) (hr : a.refusal p (settleAcc a s) = none)
    (hop : a.op = .vload ls) (hq : (s.th a.tid).pend? pid = some q) (href : q.refused = []) (hval : q.val = .lanes xs)
    (hw : q.left - 1 ≠ 0 ∨ ¬ (q.dst = none ∧ q.also = none)) : ∃ t, exec (.memoryAccessAccept k) s = .next t ∧
      t = modPending a.tid pid (Pending.answered (Pending.take ln p.node (.lanes (unitWords s p ls)))) (settleAcc a s) ∧
      (t.th a.tid).pend? pid = some { q with left := q.left - 1, val := .lanes (xs ++ unitWords s p ls) } := by
  have hperf : perform a p (settleAcc a s) = (.lanes (unitWords s p ls), settleAcc a s) := by
    simp only [perform, hop]
    rfl
  have htake := take_lanes (ys := unitWords s p ls) ln p.node hval
  have hid : ∀ p' : Pending, (p'.take ln p.node (.lanes (unitWords s p ls))).id = p'.id := fun p' => by rw [Pending.take_eq]
  have hx := exec_acceptVector hk ha hp hn hm hr (.inl ⟨ls, hop⟩)
  rw [hperf, answer_waits (s := settleAcc a s) hq hid (by rw [htake, href]) (by rw [htake]; exact hw)] at hx
  have hpend := pend?_modPending (s := settleAcc a s)
    (f := Pending.answered (Pending.take ln p.node (.lanes (unitWords s p ls)))) hq hid
  have hdone : Pending.answered (Pending.take ln p.node (.lanes (unitWords s p ls))) q =
      { q with left := q.left - 1, val := .lanes (xs ++ unitWords s p ls) } := by
    rw [Pending.answered, htake]
  rw [hdone] at hpend
  rw [flagNext_of_plain fun p' hp' fa l n hv => by rw [hpend] at hp'; cases hp'; cases hv] at hx
  exact ⟨_, hx, rfl, hpend⟩

/-- The lanes gathered, over those of the register `k` (R215). -/
def Thread.gathered (t : Thread) (zs : List (Nat × W32)) (k : BitVec 5) : Lanes :=
  tab 64 fun i => ((zs.find? fun e => e.1 = i).map (·.2)).getD ((t.rV k).toList.getD i 0)

/-- A vector load writes its register and LL, each over its own lanes. -/
theorem vReg_write_lanes {q : Pending} {zs : List (Nat × W32)} {v : BitVec 5} (hv : q.val = .lanes zs) (hd : q.dst = some (.v v))
    (ha : (v.toNat < 25 ∧ q.also = some (.v 25)) ∨ (v = 25 ∧ q.also = none)) (now : Nat) (t : Thread) (k : BitVec 5)
    (hk : k = v ∨ k = 25) : ∃ b, (q.write now t).vReg k = ⟨t.gathered zs k, true, b⟩ := by
  have h25 : (25 : BitVec 5).toNat < 26 := by decide
  rcases ha with ⟨hlt, ha⟩ | ⟨rfl, ha⟩
  · simp only [Pending.write, hv, hd, ha]
    by_cases h : k = 25
    · subst h
      exact ⟨_, (Thread.vReg_wVm _ _ _ _ h25).trans (if_pos rfl)⟩
    · have hkv : k = v := hk.resolve_right h
      subst hkv
      exact ⟨_, ((Thread.vReg_wVm _ _ _ _ h25).trans (if_neg h)).trans ((Thread.vReg_wVm _ _ _ _ (by omega)).trans (if_pos rfl))⟩
  · have hkv : k = 25 := hk.elim id id
    subst hkv
    simp only [Pending.write, hv, hd, ha]
    exact ⟨_, (Thread.vReg_wVm _ _ _ _ h25).trans (if_pos rfl)⟩

theorem laneAt_gathered (t : Thread) (zs : List (Nat × W32)) (k : BitVec 5) {i : Nat} (hi : i < 64) :
    laneAt (t.gathered zs k) i = match zs.find? fun e => e.1 = i with
      | some e => e.2
      | none => lane t k i := by
  rw [Thread.gathered, laneAt_tab _ hi]
  cases zs.find? fun e => e.1 = i <;> rfl

/-! ### Stores -/

theorem storeAt_eq (p : Phys) (bs : List Byte) (s : State) :
    storeAt p bs s = { s.poke p bs with dies := (storeAt p bs s).dies } := by
  unfold storeAt touchHeads
  split <;> rfl

theorem byteAt_storeAt_of_outside {p : Phys} {bs : List Byte} {j : Nat} (s : State) (h : j < p.key ∨ p.key + bs.length ≤ j) :
    (storeAt p bs s).byteAt j = s.byteAt j := by
  rw [storeAt_eq]
  exact State.byteAt_poke_of_outside h

theorem peek_storeAt (p : Phys) (bs : List Byte) (s : State) : (storeAt p bs s).peek p bs.length = leNat bs := by
  rw [storeAt_eq]
  exact congrArg leNat (State.bytes_poke s p bs)

/-- The lanes of a store, one by one, change memory, and the HEAD words that endpoints watch. -/
theorem storeLanes_eq (p : Phys) (ls : List (Nat × Nat × W32)) (s : State) : storeLanes p ls s = { s with
    mem := (storeLanes p ls s).mem, dies := (storeLanes p ls s).dies } := by
  induction ls generalizing s with
  | nil => rfl
  | cons l ls ih =>
    rw [storeLanes, ih, storeAt_eq]
    rfl

theorem Phys.key_plus (p : Phys) (n : Nat) : (p.plus n).key = p.key + n := by
  simp only [Phys.key, Phys.plus]
  omega

theorem byteAt_storeLanes_of_outside {p : Phys} {ls : List (Nat × Nat × W32)} {j : Nat} (s : State)
    (h : ∀ l ∈ ls, j < p.key + l.2.1 ∨ p.key + l.2.1 + 4 ≤ j) : (storeLanes p ls s).byteAt j = s.byteAt j := by
  induction ls generalizing s with
  | nil => rfl
  | cons l ls ih =>
    rw [storeLanes, ih _ fun x hx => h x (List.mem_cons_of_mem _ hx)]
    refine byteAt_storeAt_of_outside s ?_
    rw [Phys.key_plus, leBytes_length]
    exact h l List.mem_cons_self

theorem readBytes_congr {m m' : List Host.Cell} {k n : Nat} (h : ∀ j, k ≤ j → j < k + n → readByte m' j = readByte m j) :
    readBytes m' k n = readBytes m k n := by
  induction n generalizing k with
  | zero => rfl
  | succ n ih =>
    rw [readBytes, readBytes, h k (Nat.le_refl k) (by omega), ih fun j h1 h2 => h j (by omega) (by omega)]

/-- A lane that no other lane overlaps has its word. -/
theorem peek_storeLanes {p : Phys} {ls : List (Nat × Nat × W32)} {l : Nat × Nat × W32} (s : State) (hl : l ∈ ls)
    (h : ∀ x ∈ ls, x ≠ l → x.2.1 + 4 ≤ l.2.1 ∨ l.2.1 + 4 ≤ x.2.1) :
    (storeLanes p ls s).peek (p.plus l.2.1) 4 = l.2.2.toNat := by
  induction ls generalizing s with
  | nil => cases hl
  | cons x ls ih =>
    have htail : ∀ y ∈ ls, y ≠ l → y.2.1 + 4 ≤ l.2.1 ∨ l.2.1 + 4 ≤ y.2.1 := fun y hy => h y (List.mem_cons_of_mem _ hy)
    by_cases hm : l ∈ ls
    · exact ih _ hm htail
    · have hx : l = x := (List.mem_cons.1 hl).resolve_right hm
      subst hx
      have hbytes : ∀ j, (p.plus l.2.1).key ≤ j → j < (p.plus l.2.1).key + 4 →
          (storeLanes p ls (storeAt (p.plus l.2.1) (leBytes l.2.2.toNat 4) s)).byteAt j =
            (storeAt (p.plus l.2.1) (leBytes l.2.2.toNat 4) s).byteAt j := by
        intro j h1 h2
        rw [Phys.key_plus] at h1 h2
        refine byteAt_storeLanes_of_outside _ fun y hy => ?_
        have := htail y hy fun e => hm (e ▸ hy)
        omega
      have hlen : (leBytes l.2.2.toNat 4).length = 4 := leBytes_length _ _
      have hv := peek_storeAt (p.plus l.2.1) (leBytes l.2.2.toNat 4) s
      rw [hlen, leNat_leBytes, Nat.mod_eq_of_lt (by omega)] at hv
      exact (congrArg leNat (readBytes_congr hbytes)).trans hv

/-- A vector store at its home. -/
theorem perform_vstore {a : Acc} {p : Phys} {ls : List (Nat × Nat × W32)} (s : State) (h : a.op = .vstore ls) :
    (perform a p s).1 = .g 0 ∧ (perform a p s).2 = { storeLanes p ls s with poisoned := (perform a p s).2.poisoned } := by
  simp only [perform, h]
  refine ⟨trivial, ?_⟩
  split <;> rfl

end Sys2Proof.Machine

/-- R210: the units of an access. -/
theorem unitsOfLanes : Claims.UnitsOfLanes := fun ls => ⟨flatten_unitsOf ls, mem_unitsOf ls, unitsOf_cut ls⟩

/-- R51, R215 and R217: what accepted units of lanes do. -/
theorem vectorAcceptance : Claims.VectorAcceptance := by
  intro k pid ln a p q s hk ha hp hn hm hr hq href
  refine ⟨fun ls xs hop hval hleft => ?_, fun ls xs v hop hleft hd hval halso hw => ?_, fun ls hop hleft hd halso hval => ?_⟩
  · obtain ⟨t, hx, ht, hpend⟩ := exec_acceptLoad hk ha hp hn hm hr hop hq href hval (.inl (by omega))
    exact ⟨t, hx, ht ▸ ⟨fun _ => rfl, rfl, rfl⟩, hpend⟩
  · obtain ⟨t, hx, ht, hpend⟩ := exec_acceptLoad hk ha hp hn hm hr hop hq href hval (.inr (by simp [hd]))
    have hwaits : t.waits = s.waits := by rw [ht]; rfl
    have hmem : SameMemory s t := ht ▸ ⟨fun _ => rfl, rfl, rfl⟩
    have hv : (t.th a.tid).v = (s.th a.tid).v := by rw [ht, modPending, State.th_modTh]; rfl
    have hfill := exec_resultFill (hwaits ▸ hw) hpend (by simp [hleft]) href
    refine ⟨t, _, hx, hmem, hfill, sameMemory_trans hmem (sameMemory_fillTh _ _ _), ?_⟩
    rw [th_fillTh]
    have hreg := vReg_write_lanes (q := { q with left := q.left - 1, val := .lanes (xs ++ unitWords s p ls) }) rfl hd halso
      (t.taper a.tid.core.node) ((t.th a.tid).dropPending pid)
    obtain ⟨b, hreg1⟩ := hreg v (.inl rfl)
    obtain ⟨c, hreg2⟩ := hreg 25 (.inr rfl)
    refine ⟨congrArg Reg.full hreg1, congrArg Reg.full hreg2, fun i hi => ?_⟩
    have hlane : ∀ r : BitVec 5, lane ((t.th a.tid).dropPending pid) r i = lane (s.th a.tid) r i := fun r =>
      congrArg (fun x : Reg Lanes => laneAt x.val i) (Thread.vReg_congr hv r)
    have h1 := (congrArg (fun x : Reg Lanes => laneAt x.val i) hreg1).trans (laneAt_gathered _ _ v hi)
    have h2 := (congrArg (fun x : Reg Lanes => laneAt x.val i) hreg2).trans (laneAt_gathered _ _ 25 hi)
    rw [hlane] at h1 h2
    unfold unitWords at h1 h2
    split
    next l hl =>
      rw [hl] at h1 h2
      exact ⟨h1, h2⟩
    next hl =>
      rw [hl] at h1 h2
      exact ⟨h1, h2⟩
  · obtain ⟨hz, hs⟩ := perform_vstore (p := p) (settleAcc a s) hop
    have hx := exec_acceptVector hk ha hp hn hm hr (.inr ⟨ls, hop⟩)
    have hth : ((perform a p (settleAcc a s)).2.th a.tid) = s.th a.tid := by
      rw [hs, storeLanes_eq]
      rfl
    have htake : q.take ln p.node (.g 0) = { q with val := .g 0 } := by simp only [Pending.take, hval]
    have hid : ∀ p' : Pending, (p'.take ln p.node (.g 0)).id = p'.id := fun p' => by rw [Pending.take_eq]
    rw [hz, answer_done (q := q) (hth ▸ hq) hid (by rw [htake, href]) hleft (by rw [htake, hd]) (by rw [htake, halso])] at hx
    have hnone : ((((modPending a.tid pid (Pending.answered (Pending.take ln p.node (.g 0))) (perform a p (settleAcc a s)).2).modTh
        a.tid (·.dropPending pid)).th a.tid).pend? pid) = none := by
      rw [State.th_modTh]
      exact Thread.pend?_dropPending _ _
    rw [flagNext_of_plain fun p' hp' => by rw [hnone] at hp'; cases hp'] at hx
    have hmem : (perform a p (settleAcc a s)).2.mem = (storeLanes p ls (settleAcc a s)).mem := by rw [hs]
    refine ⟨_, hx, ?_, fun j hj => ?_, fun l hl hne => ?_, hnone⟩
    · have he : (perform a p (settleAcc a s)).2.empties = s.empties := by
        rw [hs, storeLanes_eq]
        rfl
      exact he
    · exact (congrArg (readByte · j) hmem).trans (byteAt_storeLanes_of_outside (settleAcc a s) hj)
    · exact (congrArg (fun m => leNat (readBytes m (p.plus l.2.1).key 4)) hmem).trans (peek_storeLanes (settleAcc a s) hl hne)

/-- Settles O38, by the list of units and by the steps of one unit. -/
theorem vectorMemoryAcceptance : Obligations.VectorMemoryAcceptance := ⟨unitsOfLanes, vectorAcceptance⟩

end

section
/-!
Vector memory instructions at issue (R215 to R217, R210, R273, R377).
-/

open Sys2Proof Sys2Proof.Machine Sys2Proof.Claims

namespace Sys2Proof.Machine

/-! ### Active lanes -/

theorem activeLanes_eq (m : W64) (f : Nat → W64) : activeLanes m f = lanesAt m f := by
  unfold activeLanes lanesAt
  induction List.range 64 with
  | nil => rfl
  | cons i is ih =>
    cases h : m.getLsbD i
    · rw [List.filter_cons_of_neg (by simp [h]), ← ih, List.filterMap_cons]
      simp [h]
    · rw [List.filter_cons_of_pos h, List.map_cons, ← ih, List.filterMap_cons]
      simp [h]

theorem activeLanes_contiguous (m : W64) (ea : W64) :
    activeLanes m (fun i => ea + BitVec.ofNat 64 (4 * i)) = lanesAt m fun i => ea + 4 * BitVec.ofNat 64 i := by
  rw [activeLanes_eq]
  simp only [BitVec.ofNat_mul]
  rfl

/-- The lanes come in ascending order. -/
theorem lanesAt_sorted (m : W64) (f : Nat → W64) : (lanesAt m f).Pairwise fun x y => x.1 < y.1 := by
  unfold lanesAt
  rw [List.pairwise_map]
  exact List.Pairwise.filter _ List.pairwise_lt_range

theorem lane_lt {m : W64} {f : Nat → W64} {l : LaneAddr} (h : l ∈ lanesAt m f) : l.1 < 64 := by
  obtain ⟨i, hi, rfl⟩ := List.mem_map.1 h
  exact List.mem_range.1 (List.mem_filter.1 hi).1

/-- No lane is active under the mask 0 alone. -/
theorem lanesAt_eq_nil (m : W64) (f : Nat → W64) : lanesAt m f = [] ↔ m = 0 := by
  unfold lanesAt
  rw [List.map_eq_nil_iff, List.filter_eq_nil_iff]
  refine ⟨fun h => BitVec.eq_of_getLsbD_eq fun i hi => ?_, fun h i _ => by rw [h]; simp⟩
  have := h i (List.mem_range.2 hi)
  simpa using this

theorem unitsOf_eq_nil (ls : List LaneAddr) : unitsOf ls = [] ↔ ls = [] :=
  ⟨fun h => by rw [← flatten_unitsOf ls, h]; rfl, fun h => by rw [h]; rfl⟩

theorem unitLists_eq_nil (side : Bool) (ls : List LaneAddr) : unitLists side ls = [] ↔ ls = [] := by
  cases side
  · exact List.map_eq_nil_iff
  · exact unitsOf_eq_nil ls

/-- Every unit has a lane. -/
theorem ne_nil_of_mem_unitLists {side : Bool} {ls u : List LaneAddr} (h : u ∈ unitLists side ls) : u ≠ [] := by
  cases side
  · obtain ⟨l, -, rfl⟩ := List.mem_map.1 h
    exact List.cons_ne_nil _ _
  · exact (mem_unitsOf ls u h).1

/-! ### Units in flight -/

/-- The `n`-th unit of an access of the name `pid`. -/
def unitAt (s : State) (pid : Nat) (data : Option Lanes) (n : Nat) (u : List LaneAddr) : Acc :=
  let l := u.headD (0, 0)
  ⟨s.nextId + n, s.cur, s.me.ctxh, s.me.space, .thread pid l.1, s.me.pc.toNat, unitOp data l.2 u, l.2,
    (u.tail.foldl (fun n k => max n (k.2 - l.2).toNat) 0) + 4, startTrans s.cur.core (unitOp data l.2 u) l.2, false, false,
    (s.core s.cur.core).xb, inWindow (s.core s.cur.core) l.2, false, s.nextId + n⟩

/-- The units of an access, each an access in flight. -/
theorem postUnits_eq {pid : Nat} {data : Option Lanes} {us : List (List LaneAddr)} (h : ∀ u ∈ us, u ≠ []) (s : State) :
    postUnits pid data us s =
      { s with accs := s.accs ++ us.mapIdx fun n u => unitAt s pid data n u, nextId := s.nextId + us.length } := by
  induction us generalizing s with
  | nil => simp [postUnits]
  | cons u us ih =>
    obtain ⟨l, ls, rfl⟩ := List.exists_cons_of_ne_nil (h u List.mem_cons_self)
    rw [postUnits, ih fun x hx => h x (List.mem_cons_of_mem _ hx), List.mapIdx_cons]
    have hnext : ∀ n, s.nextId + 1 + n = s.nextId + (n + 1) := fun n => by omega
    have hunit : ∀ len, (fun n u => unitAt (postMine (.thread pid l.1) (unitOp data l.2 (l :: ls)) l.2 len s) pid data n u) =
        fun n u => unitAt s pid data (n + 1) u := fun len => funext fun n => funext fun u => by
      have e : (postMine (.thread pid l.1) (unitOp data l.2 (l :: ls)) l.2 len s).nextId + n = s.nextId + (n + 1) := hnext n
      rw [unitAt, e]
      rfl
    rw [hunit]
    simp only [postMine, postAcc, State.fresh, List.append_assoc, List.length_cons, hnext]
    rfl

/-- The thread that has issued an instruction of the name `id`: its registers are empty and its answers to come. -/
def Thread.issues (id now : Nat) (prod : Bool) (dst also : Option RegRef) (left : Nat) (val : PVal) (load vector : Bool) (t : Thread) :
    Thread :=
  { (t.emptyOpt dst).emptyOpt also with pending := t.pending ++ [newPending t id prod dst also left val load vector now] }

section
variable (t : Thread) (id now : Nat) (prod : Bool) (dst also : Option RegRef) (left : Nat) (val : PVal) (load vector close : Bool)

theorem Thread.emptyOpt_eq (r : Option RegRef) : t.emptyOpt r = { t with
    g := (t.emptyOpt r).g, q := (t.emptyOpt r).q, m := (t.emptyOpt r).m, v := (t.emptyOpt r).v } := by
  cases r with
  | none => rfl
  | some r => exact t.setFull_eq false r

theorem Thread.sameReg_emptyOpt {r : Option RegRef} {k : RegRef} (h : r ≠ some k) : Thread.sameReg t (t.emptyOpt r) k := by
  cases r with
  | none => exact Thread.sameBut_refl t [] k (by simp)
  | some r => exact t.sameReg_setFull false fun e => h (by rw [e])

/-- Issuing changes registers and the answers to come. -/
theorem Thread.issues_eq : t.issues id now prod dst also left val load vector = { t with
    g := (t.issues id now prod dst also left val load vector).g, q := (t.issues id now prod dst also left val load vector).q
    m := (t.issues id now prod dst also left val load vector).m, v := (t.issues id now prod dst also left val load vector).v
    pending := t.pending ++ [newPending t id prod dst also left val load vector now] } := by
  have hv := t.emptyOpt_eq dst
  have hw := (t.emptyOpt dst).emptyOpt_eq also
  unfold Thread.issues
  generalize t.emptyOpt dst = v at *
  generalize v.emptyOpt also = w at *
  rw [hw, hv]

/-- The thread behind an instruction of one word whose answers are to come. -/
def Thread.issued : Thread := Thread.retire 1 close (t.enterRegion.issues id now prod dst also left val load vector)

theorem Thread.issued_eq : t.issued id now prod dst also left val load vector close =
    { t.issued id now prod dst also left val load vector close with
      pc := t.pc + 4, blocked := none, hold := .none
      pending := t.pending ++ [newPending t.enterRegion id prod dst also left val load vector now] } := by
  have hu := t.enterRegion_eq
  have hv := t.enterRegion.emptyOpt_eq dst
  have hw := (t.enterRegion.emptyOpt dst).emptyOpt_eq also
  have hr := Thread.retire_eq (t.enterRegion.issues id now prod dst also left val load vector) 1 close
  unfold Thread.issued
  unfold Thread.issues at *
  generalize t.enterRegion = u at *
  generalize u.emptyOpt dst = v at *
  generalize v.emptyOpt also = w at *
  generalize Thread.retire 1 close _ = r at *
  rw [hr, hw, hv, hu]
  rfl

theorem Thread.sameIssued_issued : sameIssued t (t.issued id now prod dst also left val load vector close) := by
  have hu := t.enterRegion_eq
  have hv := t.enterRegion.emptyOpt_eq dst
  have hw := (t.enterRegion.emptyOpt dst).emptyOpt_eq also
  have hr := Thread.retire_eq (t.enterRegion.issues id now prod dst also left val load vector) 1 close
  unfold sameIssued Thread.sameRest Thread.issued
  unfold Thread.issues at *
  generalize t.enterRegion = u at *
  generalize u.emptyOpt dst = v at *
  generalize v.emptyOpt also = w at *
  generalize Thread.retire 1 close _ = r at *
  rw [hr, hw, hv, hu]

/-- The registers that are not emptied stay. -/
theorem Thread.sameReg_issued {k : RegRef} (hd : dst ≠ some k) (ha : also ≠ some k) :
    Thread.sameReg t (t.issued id now prod dst also left val load vector close) k := by
  have h := Thread.sameReg_trans (Thread.sameReg_trans (t.sameRest_enterRegion_g k) (t.enterRegion.sameReg_emptyOpt hd))
    ((t.enterRegion.emptyOpt dst).sameReg_emptyOpt ha)
  exact Thread.sameReg_trans (Thread.sameReg_congr rfl rfl rfl rfl h) (Thread.sameReg_retire _ _ _ k)

theorem Thread.full_issued (k : RegRef) : (t.issued id now prod dst also left val load vector close).full k =
    ((t.enterRegion.emptyOpt dst).emptyOpt also).full k :=
  (Thread.full_retire _ _ _ k).trans (Thread.full_congr rfl rfl rfl rfl k)

end

/-- A state in which the issuing thread has changed, and what is in flight. -/
def State.inFlight (s : State) (accs : List Acc) (raises : List FlagRaise) (n : Nat) (f : Thread → Thread) : State :=
  ({ s with accs := accs, raises := raises, nextId := n } : State).modMe f

section
variable {s : State} {accs : List Acc} {raises : List FlagRaise} {n : Nat} {prod : Bool} {dst also : Option RegRef} {left : Nat} {val : PVal}
  {load vector close : Bool} {id now : Nat}

theorem State.me_inFlight (s : State) (accs : List Acc) (raises : List FlagRaise) (n : Nat) (f : Thread → Thread) :
    (s.inFlight accs raises n f).me = f s.me := State.me_modMe _ _

/-- An instruction of one word whose answers are to come has been sent. -/
theorem sends_inFlight {rs : List RegRef} (hd : ∀ k, dst = some k → k ∈ rs) (ha : ∀ k, also = some k → k ∈ rs) :
    Sends rs s (s.inFlight accs raises n (Thread.issued · id now prod dst also left val load vector close)) ∧
      (s.inFlight accs raises n (Thread.issued · id now prod dst also left val load vector close)).me.hold = .none := by
  unfold Sends
  rw [State.me_inFlight]
  refine ⟨⟨fun k hk => State.modMe_look _ hk, ⟨fun _ => rfl, rfl, rfl⟩,
    fun k hk => Thread.sameReg_issued _ _ _ _ _ _ _ _ _ _ _ (fun h => hk (hd k h)) (fun h => hk (ha k h)),
    Thread.sameIssued_issued _ _ _ _ _ _ _ _ _ _ _, ?_, ?_, rfl⟩, ?_⟩
  all_goals rw [Thread.issued_eq]

/-- An instruction that only retires has been sent, too. -/
theorem sends_retire (rs : List RegRef) (s : State) (close : Bool) :
    Sends rs s (retire 1 close s.begin) ∧ (retire 1 close s.begin).me.hold = .none ∧
      (retire 1 close s.begin).me.pending = s.me.pending ∧ (retire 1 close s.begin).accs = s.accs := by
  have e : (retire 1 close s.begin).me = Thread.retire 1 close s.me.enterRegion := by
    rw [retire, State.me_modMe, State.me_begin]
  have h : Sends rs s (retire 1 close s.begin) := by
    unfold Sends
    rw [e]
    refine ⟨fun k hk => ?_, ⟨fun _ => rfl, rfl, rfl⟩,
      fun k _ => Thread.sameReg_trans (s.me.sameRest_enterRegion_g k) (Thread.sameReg_retire _ _ _ k), ?_, ?_, ?_, rfl⟩
    · exact (s.begin.modMe_look hk).trans (s.modMe_look hk)
    · unfold sameIssued Thread.sameRest
      rw [Thread.retire_eq, Thread.enterRegion_eq]
    · rw [Thread.retire_pc, Thread.enterRegion_pc]
      rfl
    · rw [Thread.retire_blocked]
  refine ⟨h, ?_, ?_, rfl⟩
  · rw [e, Thread.retire_hold]
  · rw [e, Thread.retire_eq, Thread.enterRegion_eq]

/-- The answers to come of a vector access. -/
theorem awaitsVector_inFlight : AwaitsVector id left dst also s
    (s.inFlight accs raises n (Thread.issued · id now prod dst also left val load true close)) := by
  unfold AwaitsVector
  rw [State.me_inFlight, Thread.issued_eq]
  exact ⟨_, rfl, rfl, rfl, rfl, rfl, rfl, congrArg BitVec.toNat s.me.enterRegion_pc, rfl⟩

end

theorem issuePending_begin (prod : Bool) (dst also : Option RegRef) (left : Nat) (val : PVal) (load vector : Bool) (s : State) :
    issuePending prod dst also left val load vector s.begin = s.inFlight s.accs s.raises (s.nextId + 1) fun t =>
      t.enterRegion.issues s.nextId (s.taper s.cur.core.node) prod dst also left val load vector := by
  simp only [issuePending, State.begin, State.fresh_modMe, State.modMe_modMe]
  rfl

theorem retire_inFlight (close : Bool) (s : State) (accs : List Acc) (raises : List FlagRaise) (n : Nat) (f : Thread → Thread) :
    retire 1 close (s.inFlight accs raises n f) = s.inFlight accs raises n fun t => Thread.retire 1 close (f t) :=
  State.modMe_modMe _ _ _

/-- The units of an access, posted by a thread that has issued it. -/
theorem postUnits_issued {data : Option Lanes} {us : List (List LaneAddr)} (hu : ∀ u ∈ us, u ≠ []) (prod : Bool)
    (dst also : Option RegRef) (left : Nat) (val : PVal) (load vector : Bool) (s : State) :
    postUnits s.nextId data us (issuePending prod dst also left val load vector s.begin) =
      s.inFlight (s.accs ++ us.mapIdx fun n u => unitAccess s data n u) s.raises (s.nextId + 1 + us.length) fun t =>
        t.enterRegion.issues s.nextId (s.taper s.cur.core.node) prod dst also left val load vector := by
  have hunit : ∀ f : Thread → Thread, (f s.me).ctxh = s.me.ctxh → (f s.me).space = s.me.space → (f s.me).pc = s.me.pc →
      (fun n u => unitAt (s.inFlight s.accs s.raises (s.nextId + 1) f) s.nextId data n u) = fun n u => unitAccess s data n u := by
    intro f h1 h2 h3
    funext n u
    simp only [unitAt, State.me_inFlight, h1, h2, h3]
    rfl
  rw [issuePending_begin, postUnits_eq hu, hunit]
  · rfl
  all_goals rw [Thread.issues_eq, Thread.enterRegion_eq]

end Sys2Proof.Machine
end

section
/-!
Vector memory instructions at issue: their checks, and what is then in flight (R215 to R217, R273, R377).
-/

open Sys2Proof Sys2Proof.Machine Sys2Proof.Claims

namespace Sys2Proof.Machine

/-! ### Their checks -/

/-- ALIGN for the lowest address of a lane that is no multiple of 4 (R216). -/
def lowestMisaligned (ls : List LaneAddr) : Option FaultInfo :=
  match (ls.filter fun l => !aligned l.2 4).map (·.2) with
  | x :: xs => some (causeOf .align (xs.foldl (fun b y => if y.ult b then y else b) x))
  | [] => none

/-- What a vector memory instruction raises at issue: ALIGN, then what its flag address raises, then a lane's refusal. -/
def vectorFault (s : State) (load side : Bool) (ls : List LaneAddr) (ea : W64) (fa : Option W64) : Option FaultInfo :=
  ((if side then (if aligned ea 4 then none else some (causeOf .align ea)) else lowestMisaligned ls).or (fa.bind flagAddrFault)).or
    (issueRefusal s (if side then some ea else none) (!load) ls)

section
variable {s : State} {load : Bool} {ls : List LaneAddr} {ea : W64}

theorem vectorFault_side (fa : Option W64) (u : State) :
    (match vectorFault s load true ls ea fa with | some f => trap f s | none => u) =
      if ¬ aligned ea 4 then trap (causeOf .align ea) s
      else match fa.bind flagAddrFault with
        | some f => trap f s
        | none => match issueRefusal s (some ea) (!load) ls with
          | some f => trap f s
          | none => u := by
  unfold vectorFault
  by_cases ha : aligned ea 4 = true
  · rw [if_pos rfl, if_pos ha, if_neg (not_not.2 ha), Option.none_or]
    cases fa.bind flagAddrFault with
    | some f => rfl
    | none => rfl
  · rw [if_pos rfl, if_neg ha, if_pos ha]
    rfl

theorem vectorFault_lanes (go : State → State) :
    (match vectorFault s load false ls ea none with | some f => trap f s | none => go s) = laneAccess (!load) ls go s := by
  unfold vectorFault laneAccess lowestMisaligned
  cases (ls.filter fun l => !aligned l.2 4).map (·.2) with
  | cons x xs => rfl
  | nil => rfl

/-- A contiguous access whose first address is misaligned. -/
theorem vectorFault_align {fa : Option W64} (h : ¬ aligned ea 4 = true) :
    vectorFault s load true ls ea fa = some (causeOf .align ea) := by
  rw [vectorFault, if_pos rfl, if_neg h]
  rfl

theorem foldl_min_eq {x y : W64} {xs : List W64} (h : y ∈ x :: xs) (hmin : ∀ z ∈ x :: xs, y.toNat ≤ z.toNat) :
    xs.foldl (fun b z => if z.ult b then z else b) x = y := by
  induction xs generalizing x with
  | nil => exact (List.mem_singleton.1 h).symm
  | cons z zs ih =>
    rw [List.foldl_cons]
    have hx := hmin x List.mem_cons_self
    have hz := hmin z (List.mem_cons_of_mem _ List.mem_cons_self)
    have htail : ∀ w ∈ zs, y.toNat ≤ w.toNat := fun w hw => hmin w (List.mem_cons_of_mem _ (List.mem_cons_of_mem _ hw))
    by_cases hlt : z.ult x = true
    · rw [if_pos hlt]
      refine ih ?_ fun w hw => (List.mem_cons.1 hw).elim (fun e => e ▸ hz) (htail w)
      rcases List.mem_cons.1 h with rfl | h
      · rw [BitVec.ult_eq_decide, decide_eq_true_eq] at hlt
        omega
      · exact h
    · rw [if_neg hlt]
      refine ih ?_ fun w hw => (List.mem_cons.1 hw).elim (fun e => e ▸ hx) (htail w)
      rcases List.mem_cons.1 h with rfl | h
      · exact List.mem_cons_self
      · rcases List.mem_cons.1 h with rfl | h
        · rw [BitVec.ult_eq_decide, decide_eq_true_eq] at hlt
          rw [BitVec.eq_of_toNat_eq (Nat.le_antisymm hx (by omega)) (x := y) (y := x)]
          exact List.mem_cons_self
        · exact List.mem_cons_of_mem _ h

/-- The lowest misaligned lane address. -/
theorem vectorFault_lane_align {l : LaneAddr} (hl : l ∈ ls) (ha : l.2.toNat % 4 ≠ 0)
    (hmin : ∀ k ∈ ls, k.2.toNat % 4 ≠ 0 → l.2.toNat ≤ k.2.toNat) :
    vectorFault s load false ls ea none = some ⟨.align, l.2, 0, 0⟩ := by
  have hmem : l.2 ∈ (ls.filter fun l => !aligned l.2 4).map (·.2) :=
    List.mem_map_of_mem (List.mem_filter.2 ⟨hl, by simp [aligned, ha]⟩)
  have hall : ∀ z ∈ (ls.filter fun l => !aligned l.2 4).map (·.2), l.2.toNat ≤ z.toNat := by
    intro z hz
    obtain ⟨k, hk, rfl⟩ := List.mem_map.1 hz
    obtain ⟨hk, hmis⟩ := List.mem_filter.1 hk
    exact hmin k hk (by simpa [aligned] using hmis)
  have hlow : lowestMisaligned ls = some (causeOf .align l.2) := by
    unfold lowestMisaligned
    cases h : (ls.filter fun l => !aligned l.2 4).map (·.2) with
    | nil =>
      rw [h] at hmem
      cases hmem
    | cons x xs =>
      rw [h] at hmem hall
      exact congrArg (fun y => some (causeOf .align y)) (foldl_min_eq hmem hall)
  rw [vectorFault, if_neg Bool.false_ne_true, hlow]
  rfl

theorem lowestMisaligned_none (h : ∀ l ∈ ls, l.2.toNat % 4 = 0) : lowestMisaligned ls = none := by
  have hnil : (ls.filter fun l => !aligned l.2 4).map (·.2) = [] := by
    rw [List.map_eq_nil_iff, List.filter_eq_nil_iff]
    intro l hl
    simp [aligned, h l hl]
  rw [lowestMisaligned, hnil]

/-- With every address aligned the flag address and the lanes are looked at. -/
theorem vectorFault_aligned {side : Bool} {fa : Option W64} (h : if side then ea.toNat % 4 = 0 else ∀ l ∈ ls, l.2.toNat % 4 = 0) :
    vectorFault s load side ls ea fa =
      (fa.bind flagAddrFault).or (issueRefusal s (if side then some ea else none) (!load) ls) := by
  cases side with
  | true =>
    have ha : aligned ea 4 = true := decide_eq_true h
    rw [vectorFault, if_pos rfl, if_pos ha, Option.none_or]
  | false => rw [vectorFault, if_neg Bool.false_ne_true, lowestMisaligned_none h, Option.none_or]

/-! ### The lane that is refused -/

theorem classify_ne_hbm {c : CoreId} {a : W64} {p : Phys} (h : classify c a = .place p) : p.region ≠ .hbm := by
  intro hr
  unfold classify at h
  dsimp only at h
  split at h
  · split at h <;> cases h
    cases hr
  · split at h
    · split at h
      · cases h
      · split at h
        · cases h
          cases hr
        · split at h <;> cases h <;> cases hr
    · split at h <;> cases h

theorem pastEnd_iff (c : CoreId) (ea x : W64) : pastEnd c ea x = true ↔ LanePast c ea x := by
  unfold pastEnd LanePast
  cases hc : classify c ea with
  | virt => simp
  | nothing => simp
  | place p =>
    have hne := classify_ne_hbm hc
    cases hr : p.region with
    | hbm => exact absurd hr hne
    | scratch k j =>
      simp only [hr]
      refine decide_eq_true_iff.trans ⟨fun h => ⟨p, k, rfl, .inl ⟨⟨j, hr⟩, h⟩⟩, ?_⟩
      rintro ⟨p', k', e, h⟩
      cases e
      rcases h with ⟨-, h⟩ | ⟨h, -⟩
      · exact h
      · cases hr.symm.trans h
    | bstack k =>
      simp only [hr]
      refine decide_eq_true_iff.trans ⟨fun h => ⟨p, k, rfl, .inr ⟨hr, h⟩⟩, ?_⟩
      rintro ⟨p', k', e, h⟩
      cases e
      rcases h with ⟨⟨j, h⟩, -⟩ | ⟨-, h⟩
      · cases hr.symm.trans h
      · exact h
    | agent k j => simp [hr]

/-- What one lane is refused with at issue. -/
def laneRefusal (s : State) (ea : Option W64) (store : Bool) (l : LaneAddr) : Option FaultInfo :=
  if (ea.map fun e => pastEnd s.cur.core e l.2) = some true then some (laneFault l.1 (accessFault l.2 2))
  else if store && ownXB s l.2 then some (laneFault l.1 (accessFault l.2 3))
  else none

theorem issueRefusal_eq (s : State) (ea : Option W64) (store : Bool) (ls : List LaneAddr) :
    issueRefusal s ea store ls = ls.findSome? (laneRefusal s ea store) := rfl

theorem past_iff {side : Bool} {x : W64} : ((if side then some ea else none).map fun e => pastEnd s.cur.core e x) = some true ↔
    side = true ∧ LanePast s.cur.core ea x := by
  cases side with
  | false => simp
  | true => simp [pastEnd_iff]

/-- A lane is refused with the source that the rules name. -/
theorem laneRefusal_of_source {side : Bool} {l : LaneAddr} {src : Nat} (h : LaneSource s side load ea l.2 src) :
    laneRefusal s (if side then some ea else none) (!load) l = some (laneFault l.1 (accessFault l.2 src)) := by
  unfold laneRefusal
  rcases h with ⟨hs, hp, rfl⟩ | ⟨hn, hl, hx, rfl⟩
  · exact if_pos (past_iff.2 ⟨hs, hp⟩)
  · exact (if_neg (mt past_iff.1 hn)).trans (if_pos (by simp [hl, hx]))

theorem laneRefusal_none {side : Bool} {l : LaneAddr} (h : ∀ n, ¬ LaneSource s side load ea l.2 n) :
    laneRefusal s (if side then some ea else none) (!load) l = none := by
  have hp : ¬ (side = true ∧ LanePast s.cur.core ea l.2) := fun hp => h 2 (.inl ⟨hp.1, hp.2, rfl⟩)
  have hx : ¬ ((!load && ownXB s l.2) = true) := by
    intro hx
    simp only [Bool.and_eq_true, Bool.not_eq_true'] at hx
    exact h 3 (.inr ⟨hp, hx.1, hx.2, rfl⟩)
  exact (if_neg (mt past_iff.1 hp)).trans (if_neg hx)

/-- The fault of a lane, with its mark (R217). -/
theorem laneFault_access {i src : Nat} (a : W64) (hs : src < 2 ^ 16) (hi : i < 64) :
    laneFault i (accessFault a src) = ⟨.access, a, 0, BitVec.ofNat 64 (src + i * 2 ^ 16 + 2 ^ 23)⟩ := by
  have hand : (BitVec.ofNat 64 src &&& 0xFFFF#64) = BitVec.ofNat 64 src := by
    apply BitVec.eq_of_toNat_eq
    rw [BitVec.toNat_and, BitVec.toNat_ofNat, BitVec.toNat_ofNat, Nat.mod_eq_of_lt (a := src) (by omega),
      show 0xFFFF % 2 ^ 64 = 2 ^ 16 - 1 from rfl, Nat.and_two_pow_sub_one_eq_mod, Nat.mod_eq_of_lt hs]
  have hor : (BitVec.ofNat 64 src ||| BitVec.ofNat 64 (2 ^ 23 + i * 2 ^ 16)) = BitVec.ofNat 64 (src + i * 2 ^ 16 + 2 ^ 23) := by
    apply BitVec.eq_of_toNat_eq
    have h := Nat.two_pow_add_eq_or_of_lt hs (2 ^ 7 + i)
    rw [BitVec.toNat_or, BitVec.toNat_ofNat, BitVec.toNat_ofNat, BitVec.toNat_ofNat, Nat.mod_eq_of_lt (a := src) (by omega),
      Nat.mod_eq_of_lt (a := 2 ^ 23 + i * 2 ^ 16) (by omega), Nat.mod_eq_of_lt (a := src + i * 2 ^ 16 + 2 ^ 23) (by omega), Nat.or_comm,
      show 2 ^ 23 + i * 2 ^ 16 = 2 ^ 16 * (2 ^ 7 + i) by omega, ← h]
    omega
  simp only [laneFault, accessFault, hand, hor]

/-- The lowest lane that is refused gives the fault. -/
theorem issueRefusal_lowest {side : Bool} {m : W64} {f : Nat → W64} {l : LaneAddr} {src : Nat} (hl : l ∈ lanesAt m f)
    (h : LaneSource s side load ea l.2 src)
    (hlow : ∀ k n, k ∈ lanesAt m f → k.1 < l.1 → ¬ LaneSource s side load ea k.2 n) :
    issueRefusal s (if side then some ea else none) (!load) (lanesAt m f) =
      some ⟨.access, l.2, 0, BitVec.ofNat 64 (src + l.1 * 2 ^ 16 + 2 ^ 23)⟩ := by
  have hsrc : src < 2 ^ 16 := by
    rcases h with ⟨-, -, rfl⟩ | ⟨-, -, -, rfl⟩ <;> decide
  have hsort := lanesAt_sorted m f
  rw [issueRefusal_eq, List.findSome?_eq_some_iff]
  obtain ⟨l₁, l₂, e⟩ := List.append_of_mem hl
  refine ⟨l₁, l, l₂, e, (laneRefusal_of_source h).trans (congrArg some (laneFault_access _ hsrc (lane_lt hl))), fun x hx => ?_⟩
  have hmem : x ∈ lanesAt m f := by rw [e]; exact List.mem_append_left _ hx
  rw [e, List.pairwise_append] at hsort
  exact laneRefusal_none fun n => hlow x n hmem (hsort.2.2 x hx l List.mem_cons_self)

end

/-! ### The instructions -/

/-- VST to the request port is one access (R377). -/
def portMask (t : Thread) : Instr → Option W64
  | .vst _ _ _ m _ => some (t.rM m)
  | _ => none

/-- What a vector memory instruction does once its checks have passed. -/
def vectorGo (s : State) (i : Instr) (load side : Bool) (v : BitVec 5) (ls : List LaneAddr) (ea : W64) (fa : Option W64) : State :=
  match fa with
  | some x => flagUnits (s.me.rV v) x (unitLists side ls) s
  | none =>
    if load then loadUnits v (unitLists side ls) s
    else if isPort s.cur.core ea = true ∧ portMask s.me i = some 0xFFFF then portWrite ea (s.me.rV v) s
    else storeUnits (s.me.rV v) (unitLists side ls) s

theorem vectorGo_load (s : State) (i : Instr) (side : Bool) (v : BitVec 5) (ls : List LaneAddr) (ea : W64) :
    vectorGo s i true side v ls ea none = loadUnits v (unitLists side ls) s := rfl

/-- A store, but VST of 16 lanes to the request port. -/
theorem vectorGo_store {s : State} {i : Instr} {side : Bool} {v : BitVec 5} {ls : List LaneAddr} {ea : W64}
    (h : isPort s.cur.core ea = false ∨ portMask s.me i = none) :
    vectorGo s i false side v ls ea none = storeUnits (s.me.rV v) (unitLists side ls) s := by
  have hn : ¬ (isPort s.cur.core ea = true ∧ portMask s.me i = some 0xFFFF) := by
    rintro ⟨h1, h2⟩
    rcases h with h | h
    · rw [h] at h1
      cases h1
    · rw [h] at h2
      cases h2
  simp only [vectorGo, Bool.false_eq_true, if_false, if_neg hn]

theorem vectorGo_vst (s : State) (v : BitVec 5) (a : GSrc) (o : BitVec 9) (m : BitVec 2) (e : Bool) (ls : List LaneAddr) (ea : W64) :
    vectorGo s (.vst v a o m e) false true v ls ea none =
      if isPort s.cur.core ea = true ∧ s.me.rM m = 0xFFFF then portWrite ea (s.me.rV v) s
      else storeUnits (s.me.rV v) (unitsOf ls) s := by
  simp only [vectorGo, Bool.false_eq_true, if_false, portMask, Option.some.injEq]
  rfl

/-- Every vector memory instruction traps with what its checks raise, or goes on. -/
theorem exec_vectorAccess {i : Instr} {s : State} {rs : List RegRef} {load side : Bool} {v : BitVec 5} {ls : List LaneAddr} {ea : W64}
    {fa : Option W64} (h : vectorAccessFlag s.me i = some (rs, load, v, ls, side, ea, fa)) (hr : s.me.readable rs)
    (hd : load = true → s.me.allFull [.v v, .v 25]) : exec i s = .next (match vectorFault s load side ls ea fa with
      | some f => trap f s
      | none => vectorGo s i load side v ls ea fa) := by
  have go : ∀ {srcs : List Src} {dsts : List RegRef} {body : State → State} {u : State}, srcs.map (·.ref) = rs →
      dsts = [] ∨ (load = true ∧ dsts = loadDests v) → body s = u → gatedTrap 1 Guard.none false srcs dsts body s = u := by
    intro srcs dsts body u hs hds hb
    refine (gatedTrap_go (Thread.passes_none _) (.inl rfl) (hs ▸ hr) ?_).trans hb
    rcases hds with rfl | ⟨hl, rfl⟩
    · exact Thread.allFull_nil
    · unfold loadDests
      split
      · exact fun r hm => hd hl r (List.mem_cons_of_mem _ hm)
      · exact hd hl
  cases i
  all_goals cases h
  case vld =>
    refine congrArg Host.Outcome.next (go rfl (.inr ⟨rfl, rfl⟩) ?_)
    rw [vectorFault_side, ← activeLanes_contiguous]
    rfl
  case vst =>
    refine congrArg Host.Outcome.next (go rfl (.inl rfl) ?_)
    rw [vectorFault_side, Option.bind_none, ← activeLanes_contiguous, vectorGo_vst]
    rfl
  case vldt =>
    refine congrArg Host.Outcome.next (go rfl (.inr ⟨rfl, rfl⟩) ?_)
    rw [vectorGo_load, ← activeLanes_eq]
    dsimp only
    exact (vectorFault_lanes (load := true) (loadUnits _ _)).symm
  case vstt =>
    refine congrArg Host.Outcome.next (go rfl (.inl rfl) ?_)
    rw [vectorGo_store (.inr rfl), ← activeLanes_eq]
    dsimp only
    exact (vectorFault_lanes (load := false) (storeUnits _ _)).symm
  case vldx =>
    refine congrArg Host.Outcome.next (go rfl (.inr ⟨rfl, rfl⟩) ?_)
    rw [vectorGo_load, ← activeLanes_eq]
    dsimp only
    exact (vectorFault_lanes (load := true) (loadUnits _ _)).symm
  case vstx =>
    refine congrArg Host.Outcome.next (go rfl (.inl rfl) ?_)
    rw [vectorGo_store (.inr rfl), ← activeLanes_eq]
    dsimp only
    exact (vectorFault_lanes (load := false) (storeUnits _ _)).symm
  case vstfl =>
    refine congrArg Host.Outcome.next (go rfl (.inl rfl) ?_)
    rw [vectorFault_side, Option.bind_some, ← activeLanes_contiguous]
    rfl

/-! ### What is in flight -/

section
variable {s : State} {us : List (List LaneAddr)} (hu : ∀ u ∈ us, u ≠ [])
include hu

/-- A vector load in flight. -/
theorem loadUnits_eq (v : BitVec 5) : loadUnits v us s =
    s.inFlight (s.accs ++ us.mapIdx fun n u => unitAccess s none n u) s.raises (s.nextId + 1 + us.length)
      (Thread.issued · s.nextId (s.taper s.cur.core.node) true (some (.v v)) (if v = 25 then none else some (.v 25)) us.length
        (.lanes []) true true false) := by
  have e : loadUnits v us s = retire 1 false (postUnits s.nextId none us
      (issuePending true (some (.v v)) (if v = 25 then none else some (.v 25)) us.length (.lanes []) true true s.begin)) := rfl
  rw [e, postUnits_issued hu, retire_inFlight]
  rfl

/-- A vector store in flight. -/
theorem storeUnits_eq (x : Lanes) (hne : us ≠ []) : storeUnits x us s =
    s.inFlight (s.accs ++ us.mapIdx fun n u => unitAccess s (some x) n u) s.raises (s.nextId + 1 + us.length)
      (Thread.issued · s.nextId (s.taper s.cur.core.node) false none none us.length (.g 0) false true false) := by
  have e : storeUnits x us s = retire 1 false (if us = [] then s.begin else
      postUnits s.nextId (some x) us (issuePending false none none us.length (.g 0) false true s.begin)) := rfl
  rw [e, if_neg hne, postUnits_issued hu, retire_inFlight]
  rfl

/-- VSTFL's stores in flight; with no lane active its flag's raise is out at once. -/
theorem flagUnits_eq (x : Lanes) (fa : W64) : flagUnits x fa us s =
    s.inFlight (s.accs ++ us.mapIdx fun n u => unitAccess s (some x) n u)
      (s.raises ++ if us = [] then
        [⟨s.nextId + 1, s.cur, s.me.ctxh, s.me.pc.toNat, s.nextId, s.cur.core.node, fa, true, (s.core s.cur.core).xb⟩] else [])
      (s.nextId + 1 + us.length + if us = [] then 1 else 0)
      (Thread.issued · s.nextId (s.taper s.cur.core.node) false none none (us.length + 1)
        (.flag fa 64 s.cur.core.node (if us = [] then .posted else .awaited)) false true true) := by
  have hp := postUnits_issued (data := some x) hu false none none (us.length + 1)
    (.flag fa 64 s.cur.core.node (if us = [] then .posted else .awaited)) false true s
  have hc : s.begin.me.ctxh = s.me.ctxh := by rw [State.me_begin, Thread.enterRegion_eq]
  have hpc : s.begin.me.pc = s.me.pc := by rw [State.me_begin, Thread.enterRegion_pc]
  have e : flagUnits x fa us s = retire 1 true
      (let u := postUnits s.nextId (some x) us (issuePending false none none (us.length + 1)
        (.flag fa 64 s.cur.core.node (if us = [] then .posted else .awaited)) false true s.begin)
      if us = [] then { u.fresh with raises := u.raises ++ [⟨u.nextId, u.cur, s.begin.me.ctxh, s.begin.me.pc.toNat, s.nextId,
        s.cur.core.node, fa, true, (u.core u.cur.core).xb⟩] } else u) := rfl
  rw [e, hp, hc, hpc]
  by_cases hnil : us = []
  · subst hnil
    exact retire_inFlight true s (s.accs ++ [])
      (s.raises ++ [⟨s.nextId + 1, s.cur, s.me.ctxh, s.me.pc.toNat, s.nextId, s.cur.core.node, fa, true, (s.core s.cur.core).xb⟩])
      (s.nextId + 1 + 0 + 1) fun t => t.enterRegion.issues s.nextId (s.taper s.cur.core.node) false none none (0 + 1)
        (.flag fa 64 s.cur.core.node .posted) false true
  · simp only [if_neg hnil, List.append_nil, Nat.add_zero]
    exact retire_inFlight true s _ _ _ _

end

/-- The write of the request port in flight. -/
theorem portWrite_eq (ea : W64) (x : Lanes) (s : State) : portWrite ea x s =
    s.inFlight (s.accs ++ [newAccess s (.port ((List.range 16).map (laneAt x))) ea 64]) s.raises (s.nextId + 2)
      (Thread.issued · s.nextId (s.taper s.cur.core.node) false none none 1 (.g 0) false true false) := by
  have e : portWrite ea x s = retire 1 false (postMine (.thread s.nextId 0) (.port ((List.range 16).map (laneAt x))) ea 64
      (issuePending false none none 1 (.g 0) false true s.begin)) := rfl
  have hacc : ∀ f : Thread → Thread, (f s.me).ctxh = s.me.ctxh → (f s.me).space = s.me.space → (f s.me).pc = s.me.pc →
      postMine (.thread s.nextId 0) (.port ((List.range 16).map (laneAt x))) ea 64 (s.inFlight s.accs s.raises (s.nextId + 1) f) =
        s.inFlight (s.accs ++ [newAccess s (.port ((List.range 16).map (laneAt x))) ea 64]) s.raises (s.nextId + 2) f := by
    intro f h1 h2 h3
    simp only [postMine, State.me_inFlight, h1, h2, h3]
    rfl
  rw [e, issuePending_begin, hacc, retire_inFlight]
  · rfl
  all_goals rw [Thread.issues_eq, Thread.enterRegion_eq]

theorem vectorAccessFlag_of {t : Thread} {i : Instr} {rs : List RegRef} {load side : Bool} {v : BitVec 5} {ls : List LaneAddr}
    {ea : W64} (h : vectorAccess t i = some (rs, load, v, ls, side, ea)) :
    vectorAccessFlag t i = some (rs, load, v, ls, side, ea, none) := by
  have hi : ∀ v a b m e, i ≠ .vstfl v a b m e := by
    intro v a b m e hi
    rw [hi] at h
    cases h
  have e : vectorAccessFlag t i = (vectorAccess t i).map fun x => (x.1, x.2.1, x.2.2.1, x.2.2.2.1, x.2.2.2.2.1, x.2.2.2.2.2, none) := by
    cases i
    case vstfl => exact absurd rfl (hi _ _ _ _ _)
    all_goals rfl
  rw [e, h]
  rfl

/-- The registers that a vector load empties. -/
theorem full_issued_load (t : Thread) {v : BitVec 5} (hv : v.toNat < 26) (id now left : Nat) (val : PVal) {r : BitVec 5}
    (hr : r = v ∨ r = 25) : (t.issued id now true (some (.v v)) (if v = 25 then none else some (.v 25)) left val true true false).full
      (.v r) = false := by
  rw [Thread.full_issued]
  by_cases h : v = 25
  · rw [if_pos h]
    have e : r = v := hr.elim (fun e => e) fun e => e.trans h.symm
    rw [e]
    exact Thread.full_setFull_v _ _ hv
  · rw [if_neg h]
    by_cases h25 : r = 25
    · rw [h25]
      exact Thread.full_setFull_v _ _ (by decide)
    · have e : r = v := hr.resolve_right h25
      have hne : RegRef.v r ≠ .v 25 := fun e' => h25 (RegRef.v.inj e')
      refine (Thread.full_of_sameReg (Thread.sameReg_setFull _ _ hne)).trans ?_
      rw [e]
      exact Thread.full_setFull_v _ _ hv

end Sys2Proof.Machine

/-- R215 to R217, R51 and R210: vector loads and stores in flight. -/
theorem vectorMemoryIssue : Claims.VectorMemoryIssue := by
  intro i s rs load v ls side ea hi hv hr ha href
  have hflag := vectorAccessFlag_of hi
  have hnone : vectorFault s load side ls ea none = none := (vectorFault_aligned ha).trans href
  have hu : ∀ u ∈ unitLists side ls, u ≠ [] := fun u h => ne_nil_of_mem_unitLists h
  refine ⟨fun hl hd => ?_, fun hl hport => ?_, fun a o m e he hport hm => ?_⟩
  · subst hl
    have hx := exec_vectorAccess hflag hr fun _ => hd
    rw [hnone] at hx
    rw [vectorGo_load, loadUnits_eq hu] at hx
    refine ⟨_, hx, ?_⟩
    obtain ⟨hs, hh⟩ := sends_inFlight (s := s) (accs := s.accs ++ (unitLists side ls).mapIdx fun n u => unitAccess s none n u)
      (raises := s.raises) (n := s.nextId + 1 + (unitLists side ls).length) (prod := true) (dst := some (.v v))
      (also := if v = 25 then none else some (.v 25)) (left := (unitLists side ls).length) (val := .lanes []) (load := true)
      (vector := true) (close := false) (id := s.nextId) (now := s.taper s.cur.core.node) (rs := [.v v, .v 25])
      (fun k hk => by cases hk; simp) (fun k hk => by split at hk <;> cases hk; simp)
    refine ⟨hs, hh, rfl, awaitsVector_inFlight, ?_, ?_⟩
    · rw [State.me_inFlight]
      exact full_issued_load _ hv _ _ _ _ (.inl rfl)
    · rw [State.me_inFlight]
      exact full_issued_load _ hv _ _ _ _ (.inr rfl)
  · subst hl
    have hx := exec_vectorAccess hflag hr nofun
    rw [hnone] at hx
    have hstore : isPort s.cur.core ea = false ∨ portMask s.me i = none := by
      cases i
      all_goals cases hi
      case vst => exact .inl (hport rfl)
      all_goals exact .inr rfl
    rw [vectorGo_store hstore] at hx
    by_cases hnil : ls = []
    · subst hnil
      have e : storeUnits (s.me.rV v) (unitLists side []) s = retire 1 false s.begin := by cases side <;> rfl
      rw [e] at hx
      obtain ⟨hs, hh, hp, hacc⟩ := sends_retire [] s false
      refine ⟨_, hx, hs, hh, ?_, ?_⟩
      · unfold UnitsPosted
        rw [hacc, (unitLists_eq_nil side []).2 rfl]
        simp
      · rw [if_pos rfl]
        exact hp
    · rw [storeUnits_eq hu _ (mt (unitLists_eq_nil side ls).1 hnil)] at hx
      refine ⟨_, hx, ?_⟩
      obtain ⟨hs, hh⟩ := sends_inFlight (s := s)
        (accs := s.accs ++ (unitLists side ls).mapIdx fun n u => unitAccess s (some (s.me.rV v)) n u)
        (raises := s.raises) (n := s.nextId + 1 + (unitLists side ls).length) (prod := false) (dst := none)
        (also := none) (left := (unitLists side ls).length) (val := .g 0) (load := false)
        (vector := true) (close := false) (id := s.nextId) (now := s.taper s.cur.core.node) (rs := []) nofun nofun
      refine ⟨hs, hh, rfl, ?_⟩
      rw [if_neg hnil]
      exact awaitsVector_inFlight
  · subst he
    cases hi
    have hx := exec_vectorAccess hflag hr nofun
    rw [hnone] at hx
    rw [vectorGo_vst, if_pos ⟨hport, hm⟩, portWrite_eq] at hx
    refine ⟨_, hx, ?_, rfl⟩
    exact (sends_inFlight (dst := none) (also := none) nofun nofun).1

/-- R215, R216, R217 and R273: the traps of vector memory instructions at issue. -/
theorem vectorIssueTraps : Claims.VectorIssueTraps := by
  intro i s rs load v ls side ea fa b hi hv hr hd hb
  have hx := exec_vectorAccess hi hr hd
  have htrap : ∀ f, vectorFault s load side ls ea fa = some f → exec i s = .next (trap f s) := fun f hf => by rw [hx, hf]
  refine ⟨fun hs ha => ?_, fun hs l hl ha hmin => ?_, fun ha => ⟨fun x f hfa hf => ?_, fun hfa l src hl hsrc hlow => ?_⟩⟩
  · subst hs
    exact ⟨_, htrap _ (vectorFault_align (mt aligned_iff.1 ha)), trapped_trap hb _⟩
  · subst hs
    have hfa : fa = none := by
      cases i
      all_goals cases hi
      all_goals rfl
    subst hfa
    exact ⟨_, htrap _ (vectorFault_lane_align hl ha hmin), trapped_trap hb _⟩
  · have hfault : vectorFault s load side ls ea fa = some f := by
      rw [vectorFault_aligned ha, hfa, Option.bind_some, hf]
      rfl
    exact ⟨_, htrap _ hfault, trapped_trap hb _⟩
  · have hflag : fa.bind flagAddrFault = none := by
      cases fa with
      | none => rfl
      | some x => exact hfa x rfl
    obtain ⟨m, f, rfl⟩ : ∃ m f, ls = lanesAt m f := by
      cases i
      all_goals cases hi
      all_goals exact ⟨_, _, rfl⟩
    have hfault := issueRefusal_lowest hl hsrc hlow
    rw [← Option.none_or (o := issueRefusal _ _ _ _), ← hflag, ← vectorFault_aligned ha] at hfault
    exact ⟨_, htrap _ hfault, trapped_trap hb _⟩

/-- R273: VSTFL in flight. -/
theorem flaggedVectorStore : Claims.FlaggedVectorStore := by
  intro v a b m e s hr ha hf href
  have hx := exec_vectorAccess (i := .vstfl v a b m e) (s := s) rfl hr nofun
  have hnone : vectorFault s false true (lanesAt (s.me.rM m) fun i => s.me.rG a.r + 4 * BitVec.ofNat 64 i) (s.me.rG a.r)
      (some (s.me.rG b.r)) = none := by
    rw [vectorFault_aligned (side := true) ha, Option.bind_some, hf]
    exact href
  rw [hnone] at hx
  have hgo : vectorGo s (.vstfl v a b m e) false true v (lanesAt (s.me.rM m) fun i => s.me.rG a.r + 4 * BitVec.ofNat 64 i) (s.me.rG a.r)
      (some (s.me.rG b.r)) = flagUnits (s.me.rV v) (s.me.rG b.r)
        (unitsOf (lanesAt (s.me.rM m) fun i => s.me.rG a.r + 4 * BitVec.ofNat 64 i)) s := rfl
  rw [hgo, flagUnits_eq fun u hu => (mem_unitsOf _ u hu).1] at hx
  have hzero := (unitsOf_eq_nil _).trans (lanesAt_eq_nil (s.me.rM m) fun i => s.me.rG a.r + 4 * BitVec.ofNat 64 i)
  refine ⟨_, hx, ?_⟩
  obtain ⟨hs, hh⟩ := sends_inFlight (s := s) (rs := []) (dst := none) (also := none) nofun nofun
  refine ⟨hs, hh, rfl, awaitsVector_inFlight, ?_⟩
  exact congrArg (s.raises ++ ·) (if_congr hzero rfl rfl)

/-- Settles O37, by the checks of the forms and by what is in flight behind them. -/
theorem vectorMemoryIssues : Obligations.VectorMemoryIssues := ⟨vectorMemoryIssue, flaggedVectorStore, vectorIssueTraps⟩

end

section
/-!
Teams: how a thread starts, where a team's threads lie, and what placing a team, starting a fork record and ending a team change
(R134 to R138, R151, R152).
-/

open Sys2Proof Sys2Proof.Machine Sys2Proof.Claims

namespace Sys2Proof.Machine

/-! ### Sparse maps -/

theorem Map.look_erase_self {α : Type} (m : Map α) (k : Nat) : (m.erase k).look k = none := by
  induction m with
  | nil => rfl
  | cons e m ih =>
    unfold Map.erase at ih ⊢
    by_cases h : e.1 = k
    · rw [List.filter_cons_of_neg (by simpa using h), ih]
    · rw [List.filter_cons_of_pos (by simpa using h), Map.look, if_neg h, ih]

/-- A map that is tabulated over a list of keys. -/
theorem Map.look_tabulate {α : Type} {l : List Nat} {f : Nat → α} {k : Nat} (h : k ∈ l) :
    Map.look (l.map fun j => (j, f j)) k = some (f k) := by
  induction l with
  | nil => cases h
  | cons j l ih =>
    by_cases hj : j = k
    · rw [List.map_cons, Map.look, if_pos hj, hj]
    · rw [List.map_cons, Map.look, if_neg hj, ih ((List.mem_cons.1 h).resolve_left (Ne.symm hj))]

/-- SPILL on a core of the cluster. -/
theorem get_spillAddrs {c : CoreId} {sp : List Nat} {k : Nat} (h : k < 8) :
    (spillAddrs c sp).get 0 k = windowAddr (scratchAt { c with core := k } (spillOff sp k)) := by
  unfold Map.get spillAddrs
  rw [Map.look_tabulate (List.mem_range.2 (show k < Config.cores from h))]
  rfl

/-! ### Writing several registers -/

/-- Write registers G in order. -/
def Thread.wGs (l : List (BitVec 4 × W64)) (t : Thread) : Thread := l.foldl (fun t e => t.wG e.1 e.2) t

theorem Thread.wGs_cons (e : BitVec 4 × W64) (l : List (BitVec 4 × W64)) (t : Thread) : t.wGs (e :: l) = (t.wG e.1 e.2).wGs l := rfl

theorem Thread.wGs_eq (l : List (BitVec 4 × W64)) (t : Thread) : t.wGs l = { t with g := (t.wGs l).g } := by
  induction l generalizing t with
  | nil => rfl
  | cons e l ih =>
    have h := Thread.wG_eq t e.1 e.2
    rw [Thread.wGs_cons]
    generalize t.wG e.1 e.2 = u at *
    rw [ih u]
    rw [h]

theorem Thread.rG_wGs_ne {l : List (BitVec 4 × W64)} {d : BitVec 4} (h : ∀ e ∈ l, e.1 ≠ d) (t : Thread) : (t.wGs l).rG d = t.rG d := by
  induction l generalizing t with
  | nil => rfl
  | cons e l ih =>
    rw [Thread.wGs_cons, ih (fun x hx => h x (List.mem_cons_of_mem _ hx)), Thread.rG_wG,
      if_neg fun hd => h e List.mem_cons_self hd.1.symm]

theorem Thread.rG_wGs_zip {rs : List (BitVec 4)} {xs : List W64} {e : BitVec 4 × W64} (hn : rs.Nodup) (h0 : 0 ∉ rs)
    (h : e ∈ rs.zip xs) (t : Thread) : (t.wGs (rs.zip xs)).rG e.1 = e.2 := by
  induction rs generalizing xs t with
  | nil => cases h
  | cons r rs ih =>
    cases xs with
    | nil => cases h
    | cons x xs =>
      obtain ⟨hr, hn⟩ := List.nodup_cons.1 hn
      rw [List.zip_cons_cons, Thread.wGs_cons]
      rcases List.mem_cons.1 h with rfl | h
      · have hne : ∀ y ∈ rs.zip xs, y.1 ≠ r := fun y hy e => hr (e ▸ (List.of_mem_zip hy).1)
        rw [Thread.rG_wGs_ne hne, Thread.rG_wG, if_pos ⟨rfl, fun e => h0 (e ▸ List.mem_cons_self)⟩]
      · exact ih hn (fun h => h0 (List.mem_cons_of_mem _ h)) h _

theorem mem_liveRegs {live : BitVec 16} {d : BitVec 4} : d ∈ liveRegs live ↔ live.getLsbD d.toNat = true := by
  unfold liveRegs
  rw [List.mem_map]
  constructor
  · rintro ⟨r, hr, rfl⟩
    obtain ⟨hlt, hlive⟩ := List.mem_filter.1 hr
    rwa [BitVec.toNat_ofNat, Nat.mod_eq_of_lt (List.mem_range.1 hlt)]
  · exact fun h => ⟨d.toNat, List.mem_filter.2 ⟨List.mem_range.2 d.isLt, h⟩, BitVec.ofNat_toNat 4 d⟩

theorem liveRegs_nodup (live : BitVec 16) : (liveRegs live).Nodup := by
  refine List.Nodup.map_on (fun a ha b hb h => ?_) (List.nodup_range.filter _)
  have hlt : ∀ x ∈ (List.range 16).filter fun r => live.getLsbD r, x < 2 ^ 4 := fun x hx => List.mem_range.1 (List.mem_filter.1 hx).1
  have e := congrArg BitVec.toNat h
  rwa [BitVec.toNat_ofNat, BitVec.toNat_ofNat, Nat.mod_eq_of_lt (hlt a ha), Nat.mod_eq_of_lt (hlt b hb)] at e

/-! ### A thread at its start -/

/-- A thread whose registers are set, at its entry header with its generators seeded. -/
def Thread.started (entry : Nat) (t : Thread) : Thread :=
  { t with
    bh := BitVec.ofNat 19 entry
    pc := BitVec.ofNat 19 entry + 8
    seed := startSeed (t.rG 1) (t.rG 2)
    gen := genSeeds (startSeed (t.rG 1) (t.rG 2))
    genCk := genSeeds (startSeed (t.rG 1) (t.rG 2))
    rhdr := BitVec.ofNat 19 entry
    fetch := some ⟨BitVec.ofNat 64 entry, .transfer 7, 0⟩ }

/-- A thread of a context that runs, with the values of Table 2-1. -/
def Thread.fresh (ctx : W64) : Thread := { Thread.reset with life := .running, ctxh := ctx }

theorem startThread_eq (tid : Tid) (entry : Nat) (ctx : W64) (f : Thread → Thread) (s : State) :
    startThread tid entry ctx f s = s.setTh tid ((f (.fresh ctx)).started entry) := rfl

theorem State.look_setTh_ne {s : State} {tid : Tid} {x : Thread} {j : Nat} (h : j ≠ tidKey tid) :
    (s.setTh tid x).threads.look j = s.threads.look j := Map.look_set_ne h

/-! ### The threads of a team -/

/-- Thread `k` of a team of the record. -/
def teamThread (r : List W64) (blk no stk k : Nat) (group ctx : W64) (tvb : BitVec 19) (space : BitVec 16) (spill : W64) : Thread :=
  Thread.started (recEntry r)
    { ((((((Thread.fresh ctx).startG 1 blk).startG 2 k).wG 3 (wordAt r 4)).startG 4 (recTeam r)).startG 5 (recGsize r)).startG 14
        (stk + 1024 * k + 1024) with
      j := #v[group, 0, 0, 0]
      tvb := tvb
      space := space
      teamNo := BitVec.ofNat 7 no
      gridf := recGridf r
      spill := spill
      stack := stk + 1024 * k + 1024
      blockIx := blk }

section
variable {r : List W64} {blk no stk : Nat} {group ctx : W64} {tvb : BitVec 19} {space : BitVec 16}

theorem startTeam_cons (spills : Map W64) (tid : Tid) (tids : List Tid) (k : Nat) (s : State) :
    startTeam r blk no stk group ctx tvb space spills (tid :: tids) k s =
      startTeam r blk no stk group ctx tvb space spills tids (k + 1)
        (s.setTh tid (teamThread r blk no stk k group ctx tvb space (spills.get 0 tid.core.core))) := rfl

/-- Starting a team changes the threads only. -/
theorem startTeam_frame (spills : Map W64) (tids : List Tid) (k : Nat) (s : State) :
    startTeam r blk no stk group ctx tvb space spills tids k s =
      { s with threads := (startTeam r blk no stk group ctx tvb space spills tids k s).threads } := by
  induction tids generalizing k s with
  | nil => rfl
  | cons tid tids ih =>
    rw [startTeam_cons, ih]
    rfl

theorem startTeam_look_ne {spills : Map W64} {tids : List Tid} {j : Nat} (h : j ∉ tids.map tidKey) (k : Nat) (s : State) :
    (startTeam r blk no stk group ctx tvb space spills tids k s).threads.look j = s.threads.look j := by
  induction tids generalizing k s with
  | nil => rfl
  | cons tid tids ih =>
    obtain ⟨hj, ht⟩ := not_or.1 (mt List.mem_cons.2 h)
    rw [startTeam_cons, ih ht, State.look_setTh_ne hj]

theorem startTeam_th {spills : Map W64} {tids : List Tid} (hn : (tids.map tidKey).Nodup) (k : Nat) (s : State) {n : Nat} {x : Tid}
    (hx : tids[n]? = some x) : (startTeam r blk no stk group ctx tvb space spills tids k s).th x =
      teamThread r blk no stk (k + n) group ctx tvb space (spills.get 0 x.core.core) := by
  induction tids generalizing k s n with
  | nil => cases hx
  | cons tid tids ih =>
    obtain ⟨ht, hn⟩ := List.nodup_cons.1 hn
    rw [startTeam_cons]
    cases n with
    | zero =>
      obtain rfl : tid = x := Option.some.inj hx
      rw [State.th, Map.get, startTeam_look_ne ht]
      exact State.th_setTh _ _ _
    | succ n =>
      rw [ih hn (k + 1) _ hx, Nat.add_right_comm, Nat.add_assoc]

/-! Table 2-1 in a thread that starts. -/

theorem Thread.reset_g (d : BitVec 4) : Thread.reset.g[d.toNat]'d.isLt = .of 0 := Vector.getElem_replicate d.isLt

theorem Thread.reset_m (d : BitVec 2) : Thread.reset.m[d.toNat]'d.isLt = .of (BitVec.allOnes 64) := Vector.getElem_replicate d.isLt

theorem Thread.reset_q {d : BitVec 4} (h : d ≠ 0) : Thread.reset.q[d.toNat]'d.isLt = .of false := by
  have hd : d.toNat ≠ 0 := fun e => h (BitVec.eq_of_toNat_eq e)
  exact (Vector.getElem_set_ne (Nat.zero_lt_succ 15) d.isLt hd.symm).trans (Vector.getElem_replicate d.isLt)

theorem Thread.vReg_reset (v : BitVec 5) : Thread.reset.vReg v = .of Lanes.zero := by
  unfold Thread.vReg Thread.reset
  rw [Vector.toList_replicate, List.getD_eq_getElem?_getD, List.getElem?_replicate]
  split <;> rfl

theorem Thread.rG_reset (d : BitVec 4) : Thread.reset.rG d = 0 := by
  rw [Thread.rG, Thread.reset_g]
  exact ite_self _

theorem Thread.rM_reset (m : BitVec 2) : Thread.reset.rM m = BitVec.allOnes 64 := by
  rw [Thread.rM, Thread.reset_m]
  exact ite_self _

theorem Thread.rQ_reset {q : BitVec 4} (h : q ≠ 0) : Thread.reset.rQ q = false := by
  rw [Thread.rQ, if_neg h, Thread.reset_q h]

theorem Thread.full_reset (x : RegRef) : Thread.reset.full x = true := by
  unfold Thread.full
  cases x with
  | g d =>
    rw [Thread.mark, Thread.reset_g]
    split <;> rfl
  | v d =>
    rw [Thread.mark, Thread.vReg_reset]
  | q d =>
    by_cases h : d = 0
    · rw [h]
      rfl
    · rw [Thread.mark, if_neg h, Thread.reset_q h]
  | m d =>
    rw [Thread.mark, Thread.reset_m]
    split <;> rfl

/-- A write of a register G empties none. -/
theorem Thread.full_wG_of_full {t : Thread} (h : ∀ x, t.full x = true) (d : BitVec 4) (y : W64) (x : RegRef) : (t.wG d y).full x = true := by
  cases x with
  | g k =>
    have hk := h (.g k)
    unfold Thread.full at hk ⊢
    rw [Thread.mark_wG]
    split
    · rfl
    · exact hk
  | v k =>
    have hk := h (.v k)
    rw [Thread.wG_eq]
    exact hk
  | q k =>
    have hk := h (.q k)
    rw [Thread.wG_eq]
    exact hk
  | m k =>
    have hk := h (.m k)
    rw [Thread.wG_eq]
    exact hk

/-- What Table 5-2 and Table 2-1 say. -/
theorem teamThread_start (r : List W64) (blk no stk k : Nat) (group : W64) (tvb : BitVec 19) (space : BitVec 16) (spill : W64) :
    TeamStart r blk no stk k group tvb space (teamThread r blk no stk k group (wordAt r 1) tvb space spill) := by
  refine ⟨rfl, rfl, rfl, rfl, rfl, rfl, rfl, rfl, rfl, rfl, rfl, rfl, rfl, fun m => Thread.rM_reset m, fun v hv => ?_, fun i hi => ?_,
    fun q hq => Thread.rQ_reset hq, fun x => ?_, rfl, rfl, rfl, rfl, rfl, rfl, rfl, rfl, rfl, rfl⟩
  · exact congrArg Reg.val (Thread.vReg_reset v)
  · simp only [List.mem_cons, List.not_mem_nil, or_false, not_or] at hi
    obtain ⟨h1, h2, h3, h4, h5, h14⟩ := hi
    refine Eq.trans ?_ (Thread.rG_reset i)
    change (((((((Thread.fresh (wordAt r 1)).startG 1 blk).startG 2 k).wG 3 (wordAt r 4)).startG 4 (recTeam r)).startG 5
      (recGsize r)).startG 14 (stk + 1024 * k + 1024)).rG i = (Thread.fresh (wordAt r 1)).rG i
    unfold Thread.startG
    rw [Thread.rG_wG, if_neg fun h => h14 h.1, Thread.rG_wG, if_neg fun h => h5 h.1, Thread.rG_wG, if_neg fun h => h4 h.1,
      Thread.rG_wG, if_neg fun h => h3 h.1, Thread.rG_wG, if_neg fun h => h2 h.1, Thread.rG_wG, if_neg fun h => h1 h.1]
  · have hfresh : ∀ x, (Thread.fresh (wordAt r 1)).full x = true := Thread.full_reset
    have h := Thread.full_wG_of_full (Thread.full_wG_of_full (Thread.full_wG_of_full (Thread.full_wG_of_full (Thread.full_wG_of_full
      (Thread.full_wG_of_full hfresh 1 (BitVec.ofNat 64 blk)) 2 (BitVec.ofNat 64 k)) 3 (wordAt r 4)) 4 (BitVec.ofNat 64 (recTeam r)))
      5 (BitVec.ofNat 64 (recGsize r))) 14 (BitVec.ofNat 64 (stk + 1024 * k + 1024)) x
    exact h

end

/-- The threads of a team lie on the cores of the cluster (R134). -/
theorem teamSlots_core {s : State} {c : CoreId} {n : Nat} {tids : List Tid} {x : Tid} (h : teamSlots s c n = some tids) (hx : x ∈ tids) :
    x.core.core < 8 := by
  unfold teamSlots at h
  dsimp only at h
  split at h
  · cases h
    obtain ⟨t, -, ht⟩ := List.mem_filterMap.1 hx
    obtain ⟨k, -, rfl⟩ := Option.map_eq_some_iff.1 ht
    exact Nat.mod_lt _ (by decide)
  · cases h

/-! ### The head of the inbox -/

theorem report_eq (gridf : W64) (node cls : Nat) {n : Nat} (h : n ≠ 0) (s : State) : report gridf node cls n [] s =
    { s.fresh with reports := s.reports ++ [⟨s.nextId, bits gridf 32 16, bits gridf 0 24, node, cls, n, []⟩] } := if_neg h

/-- A report changes the reports and the next name only. -/
theorem report_frame (gridf : W64) (node cls n : Nat) (es : List W64) (s : State) :
    report gridf node cls n es s =
      { s with nextId := (report gridf node cls n es s).nextId, reports := (report gridf node cls n es s).reports } := by
  unfold report
  split <;> rfl

theorem dropRecord_dropped {c : CoreId} {r : List W64} {rest : List (List W64)} {s : State} (h : (s.core c).inbox = r :: rest)
    (cls : Nat) : RecordDropped c r rest cls s (dropRecord c r cls s) := by
  have hcore : (dropRecord c r cls s).core c = { s.core c with inbox := (s.core c).inbox.tail, placed := 0 } := by
    unfold dropRecord popInbox
    dsimp only
    rw [State.core_modCore, report_frame]
    rfl
  have hframe : dropRecord c r cls s = { s with
      nextId := (dropRecord c r cls s).nextId, reports := (dropRecord c r cls s).reports, cores := (dropRecord c r cls s).cores } := by
    unfold dropRecord popInbox
    dsimp only
    rw [report_frame]
    rfl
  refine ⟨?_, ?_, ?_, ?_, fun hlt => ?_⟩
  · rw [hframe]
    exact ⟨fun _ => rfl, rfl, rfl⟩
  · rw [hframe]
  · rw [hcore, h]
    rfl
  · rw [hcore]
  · unfold dropRecord popInbox
    dsimp only
    rw [report_eq _ _ _ (Nat.sub_ne_zero_of_lt hlt)]
    rfl

/-- A block of the head record has been placed: the record leaves the inbox with its last block. -/
def nextBlock (c : CoreId) (r : List W64) (s : State) : State :=
  if (s.core c).placed + 1 = recCount r then popInbox c s else s.modCore c fun k => { k with placed := k.placed + 1 }

theorem nextBlock_frame (c : CoreId) (r : List W64) (s : State) : nextBlock c r s = { s with cores := (nextBlock c r s).cores } := by
  unfold nextBlock
  split <;> rfl

theorem nextBlock_inbox {c : CoreId} {r : List W64} {rest : List (List W64)} {s : State} (h : (s.core c).inbox = r :: rest) :
    if (s.core c).placed + 1 = recCount r then ((nextBlock c r s).core c).inbox = rest ∧ ((nextBlock c r s).core c).placed = 0
    else ((nextBlock c r s).core c).inbox = r :: rest ∧ ((nextBlock c r s).core c).placed = (s.core c).placed + 1 := by
  unfold nextBlock popInbox
  split
  · rw [State.core_modCore, h]
    exact ⟨rfl, rfl⟩
  · rw [State.core_modCore]
    exact ⟨h, rfl⟩

/-! ### Placing a team -/

/-- The entry of a team that has been placed. -/
def placedTeam (c : CoreId) (r : List W64) (blk : Nat) (group : W64) (tvb : BitVec 19) (space : BitVec 16) (sp : List Nat)
    (tids : List Tid) : Team where
  state := .running
  ctx := wordAt r 1
  block := blk
  size := recTeam r
  gridf := recGridf r
  group := group
  space := space
  tvb := tvb
  gsize := recGsize r
  members := tids
  core := c
  spills := spillAddrs c sp
  faulted := false
  saved := none
  complete := false

/-- The lease of a team's group and its entry are there, its threads not yet. -/
def teamTables (c : CoreId) (r : List W64) (blk no : Nat) (group : W64) (tvb : BitVec 19) (space : BitVec 16) (i : Nat) (sp : List Nat)
    (tids : List Tid) (s : State) : State :=
  (createLease (dieOf c) i .group Config.maxLife (wordAt r 1) 0 (.group (recTeam r) tids true) s).modCluster (clusterOf c) fun k =>
    { k with teams := k.teams.set no (placedTeam c r blk group tvb space sp tids) }

section
variable {c : CoreId} {r : List W64} {i stk no : Nat} {sp : List Nat} {tvb : BitVec 19} {space : BitVec 16} {tids : List Tid} {s : State}

theorem placeTeam_go (hslots : teamSlots s c (recTeam r) = some tids) (hno : freeTeam s (clusterOf c) = some no)
    (hi : entryReady s (dieOf c) i = true) (hstk : stacksFit s space tids stk = true) (hsp : spillsFit s c sp = true) :
    placeTeam c r tvb space i stk sp s = nextBlock c r (startTeam r ((wordAt r 2).toNat + (s.core c).placed) no stk
      (handleOf (dieOf c) .group i (s.lease (dieOf c) i).gen) (wordAt r 1) tvb space (spillAddrs c sp) tids 0
      (teamTables c r ((wordAt r 2).toNat + (s.core c).placed) no (handleOf (dieOf c) .group i (s.lease (dieOf c) i).gen) tvb space i sp
        tids s)) := by
  unfold placeTeam
  rw [hslots, hno]
  dsimp only
  rw [if_neg]
  · rfl
  · rw [hi, hstk, hsp]
    decide

theorem teamTables_lease (blk : Nat) (group : W64) :
    ((teamTables c r blk no group tvb space i sp tids s).lease (dieOf c) i).state = .live ∧
      ((teamTables c r blk no group tvb space i sp tids s).lease (dieOf c) i).body = .group (recTeam r) tids true := by
  have h : (teamTables c r blk no group tvb space i sp tids s).lease (dieOf c) i =
      (createLease (dieOf c) i .group Config.maxLife (wordAt r 1) 0 (.group (recTeam r) tids true) s).lease (dieOf c) i := rfl
  rw [h, createLease, State.lease, State.modLease, State.die_modDie, Map.get_set_self]
  exact ⟨rfl, rfl⟩

theorem teamTables_team (blk : Nat) (group : W64) :
    ((teamTables c r blk no group tvb space i sp tids s).cluster (clusterOf c)).teams.look no =
      some (placedTeam c r blk group tvb space sp tids) := by
  rw [teamTables, State.cluster_modCluster, Map.look_set_self]

end

/-- Slot 0 places a team of a record whose CTX is live. -/
theorem exec_teamPlace {c : CoreId} {i stk : Nat} {sp : List Nat} {r : List W64} {rest : List (List W64)} {s : State}
    (hin : (s.core c).inbox = r :: rest) (hk : recKind r = 0) (hh : (s.core c).halted = false) (hc : coreRuns s c = true)
    (hs : servesInbox s c = true) (hbad : badRecord r = false) : exec (.teamPlace c i ⟨stk, sp⟩) s = .next (
      match present s (wordAt r 1) with
      | .live _ _ l => (match l.body with
        | .ctx _ space tvb => placeTeam c r tvb space i stk sp s
        | _ => dropRecord c r 3 s)
      | _ => dropRecord c r 3 s) := by
  simp only [exec, execTeamPlace, hin, hh, hc, hs, hk, hbad]
  rfl

end Sys2Proof.Machine

/-- R134 to R137, R44 and R365: the head of the inbox. -/
theorem teamPlacement : Claims.TeamPlacement := by
  intro c i stk sp r rest s hin hk
  refine ⟨fun hh => ⟨dropRecord c r 2 s, ?_, dropRecord_dropped hin 2⟩, fun hh hc hs => ⟨fun hbad => ⟨dropRecord c r 1 s, ?_,
    dropRecord_dropped hin 1⟩, fun hbad hl => ⟨dropRecord c r 3 s, ?_, dropRecord_dropped hin 3⟩, ?_⟩⟩
  · simp only [exec, execTeamPlace, hin, hh, hk]
    rfl
  · simp only [exec, execTeamPlace, hin, hh, hc, hs, hk, hbad]
    rfl
  · rw [exec_teamPlace hin hk hh hc hs hbad]
    rcases hl with hl | hl <;> rw [hl]
  · intro h k l d space tvb tids no hbad hl hb hslots hno hi hstk hsp hn
    have hx := exec_teamPlace (i := i) (stk := stk) (sp := sp) hin hk hh hc hs hbad
    rw [hl] at hx
    dsimp only at hx
    rw [hb] at hx
    dsimp only at hx
    rw [placeTeam_go hslots hno hi hstk hsp] at hx
    refine ⟨_, hx, ?_⟩
    generalize hblk : (wordAt r 2).toNat + (s.core c).placed = blk
    generalize hgroup : handleOf (dieOf c) .group i (s.lease (dieOf c) i).gen = group
    obtain ⟨hlive, hbody⟩ := teamTables_lease (c := c) (r := r) (no := no) (tvb := tvb) (space := space) (i := i) (sp := sp)
      (tids := tids) (s := s) blk group
    have hteam := teamTables_team (c := c) (r := r) (no := no) (tvb := tvb) (space := space) (i := i) (sp := sp) (tids := tids) (s := s)
      blk group
    have hcore : ∀ o, (teamTables c r blk no group tvb space i sp tids s).core o = s.core o := fun _ => rfl
    have hthreads : (teamTables c r blk no group tvb space i sp tids s).threads = s.threads := rfl
    have hmem : SameMemory s (teamTables c r blk no group tvb space i sp tids s) := ⟨fun _ => rfl, rfl, rfl⟩
    generalize teamTables c r blk no group tvb space i sp tids s = u at *
    have hframe := startTeam_frame (r := r) (blk := blk) (no := no) (stk := stk) (group := group) (ctx := wordAt r 1) (tvb := tvb)
      (space := space) (spillAddrs c sp) tids 0 u
    have hw : ∀ {w : State}, w = { u with threads := w.threads } → SameMemory s (nextBlock c r w) ∧
        (∀ o, w.core o = s.core o) ∧ (∀ h i, (nextBlock c r w).lease h i = u.lease h i) ∧
        (∀ k, (nextBlock c r w).cluster k = u.cluster k) ∧ (nextBlock c r w).threads = w.threads := by
      intro w h
      rw [nextBlock_frame, h]
      exact ⟨hmem, hcore, fun _ _ => rfl, fun _ => rfl, rfl⟩
    obtain ⟨hmem, hcore, hleases, hclusters, hths⟩ := hw hframe
    refine ⟨hmem, fun n x hx => ?_, fun j hj => ?_, ?_, ?_, ?_, ?_⟩
    · have hx8 := teamSlots_core hslots (List.mem_of_getElem? hx)
      have hth : (nextBlock c r (startTeam r blk no stk group (wordAt r 1) tvb space (spillAddrs c sp) tids 0 u)).th x = _ :=
        (congrArg (fun m : Map Thread => m.get (Thread.resetAt x) (tidKey x)) hths).trans (startTeam_th hn 0 u hx)
      rw [hth, Nat.zero_add]
      exact ⟨teamThread_start r blk no stk n group tvb space _, get_spillAddrs hx8⟩
    · rw [hths, startTeam_look_ne hj, hthreads]
    · rw [hleases, hlive]
    · rw [hleases, hbody]
    · rw [hclusters, hteam]
      rfl
    · have hin' := nextBlock_inbox (c := c) (r := r) ((congrArg Core.inbox (hcore c)).trans hin)
      rwa [hcore] at hin'

end

section
/-!
Fork records that start and teams that end (R138, R151, R152, R310).
-/

open Sys2Proof Sys2Proof.Machine Sys2Proof.Claims

namespace Sys2Proof.Machine

/-! ### Which record a core starts -/

theorem nextFork_own {s : State} {c : CoreId} {r : ForkRec} {rs : List ForkRec}
    (h : (s.core c).forks.filter (forkRuns s (clusterOf c)) = r :: rs) : nextFork s c = some (c, r) := by
  unfold nextFork
  rw [h]

/-- The next core's oldest record, unless that core takes it itself. -/
theorem nextFork_stolen {s : State} {c o : CoreId} {r : ForkRec} (ho : o = { c with core := (c.core + 1) % 8 })
    (hown : (s.core c).forks.filter (forkRuns s (clusterOf c)) = [])
    (hlast : ((s.core o).forks.filter (forkRuns s (clusterOf c))).getLast? = some r)
    (hleft : ((s.core o).forks.filter (forkRuns s (clusterOf c))).length ≠ 1 ∨ freeSlots s o = []) : nextFork s c = some (o, r) := by
  have hc : clusterOf o = clusterOf c := by rw [ho]; rfl
  have hsteal : stealable s o = some r := by
    unfold stealable
    rw [hc]
    dsimp only
    rw [if_neg (by tauto), hlast]
  have hlist : (List.range 7).map (fun k => ({ c with core := (c.core + k + 1) % 8 } : CoreId)) =
      o :: ((List.range 6).map fun k => ({ c with core := (c.core + (k + 1) + 1) % 8 } : CoreId)) := by rw [ho]; rfl
  unfold nextFork
  rw [hown]
  dsimp only
  rw [hlist, List.findSome?_cons, hsteal]
  rfl

/-! ### The start of a record -/

theorem mem_unspill {l : List ForkRec} {x : ForkRec} (h : x ∈ unspill l) : ∃ y ∈ l, y.seq = x.seq ∧ y.by_ = x.by_ := by
  unfold unspill at h
  obtain ⟨e, he, rfl⟩ := List.mem_map.1 h
  have hmem : e.1 ∈ l := (List.mem_zipIdx' he).2 ▸ List.getElem_mem _
  refine ⟨e.1, hmem, ?_⟩
  split <;> exact ⟨rfl, rfl⟩

/-- No record that is taken remains. -/
theorem not_mem_takeForks {s : State} {o : CoreId} {r x : ForkRec}
    (h : x ∈ ((takeForks o (fun x => decide (x.seq = r.seq ∧ x.by_ = r.by_)) s).core o).forks) : ¬ (x.seq = r.seq ∧ x.by_ = r.by_) := by
  rw [takeForks, State.core_modCore] at h
  obtain ⟨y, hy, hseq, hby⟩ := mem_unspill h
  have hout := (List.mem_filter.1 hy).2
  simpa only [hseq, hby, Bool.not_eq_true', decide_eq_false_iff_not] using hout

theorem modTeam_look {c : ClusterId} {n : Nat} {m : Team} {s : State} (h : (s.cluster c).teams.look n = some m) (f : Team → Team) :
    ((modTeam c n f s).cluster c).teams.look n = some (f m) := by
  unfold modTeam
  rw [h]
  dsimp only
  rw [State.cluster_modCluster, Map.look_set_self]

theorem modTeam_frame (c : ClusterId) (n : Nat) (f : Team → Team) (s : State) :
    modTeam c n f s = { s with clusters := (modTeam c n f s).clusters } := by
  unfold modTeam
  split <;> rfl

/-- The thread that starts a fork record. -/
def forkThread (r : ForkRec) (m : Team) (stk core : Nat) : Thread := Thread.started r.target (forkStart r m stk core (.fresh m.ctx))

theorem forkStart_eq (r : ForkRec) (m : Team) (stk core : Nat) (t : Thread) : forkStart r m stk core t =
    { (t.startG 14 stk).wGs ((liveRegs r.live).zip r.vals) with
      tvb := m.tvb
      space := m.space
      teamNo := BitVec.ofNat 7 r.teamNo
      gridf := m.gridf
      spill := m.spills.get 0 core
      stack := stk
      blockIx := m.block } := rfl

section
variable (r : ForkRec) (m : Team) (stk core : Nat)

theorem forkThread_rG (d : BitVec 4) : (forkThread r m stk core).rG d =
    (((Thread.fresh m.ctx).startG 14 stk).wGs ((liveRegs r.live).zip r.vals)).rG d := rfl

theorem forkThread_stack (h : r.live.getLsbD 14 = false) : (forkThread r m stk core).rG 14 = BitVec.ofNat 64 stk := by
  have hne : ∀ e ∈ (liveRegs r.live).zip r.vals, e.1 ≠ 14 := by
    intro e he h14
    have hlive := mem_liveRegs.1 (List.of_mem_zip he).1
    rw [h14] at hlive
    exact Bool.false_ne_true (h.symm.trans hlive)
  rw [forkThread_rG, Thread.rG_wGs_ne hne]
  rfl

theorem forkThread_live (h : r.live.getLsbD 0 = false) {e : BitVec 4 × W64} (he : e ∈ (liveRegs r.live).zip r.vals) :
    (forkThread r m stk core).rG e.1 = e.2 := by
  have h0 : 0 ∉ liveRegs r.live := fun hm => Bool.false_ne_true (h.symm.trans (mem_liveRegs.1 hm))
  rw [forkThread_rG, Thread.rG_wGs_zip (liveRegs_nodup _) h0 he]

/-- It runs in its team's context. -/
theorem forkThread_life : (forkThread r m stk core).life = .running ∧ (forkThread r m stk core).ctxh = m.ctx := by
  have h := Thread.wGs_eq ((liveRegs r.live).zip r.vals) ((Thread.fresh m.ctx).startG 14 stk)
  unfold forkThread
  rw [forkStart_eq]
  generalize ((Thread.fresh m.ctx).startG 14 stk).wGs ((liveRegs r.live).zip r.vals) = t at *
  rw [h]
  exact ⟨rfl, rfl⟩

end

/-- A free slot starts a record. -/
theorem exec_forkRecordStart {c o : CoreId} {stk k : Nat} {rest : List Nat} {r : ForkRec} {m : Team} {s : State}
    (hfree : freeSlots s c = k :: rest) (hnext : nextFork s c = some (o, r)) (hd : drained s r.by_ r.seq .cluster = true)
    (hm : (s.cluster (clusterOf c)).teams.look r.teamNo = some m) (hrun : m.state = .running) (hstk : 1024 ≤ stk)
    (hfit : stacksFit s m.space [⟨c, k⟩] (stk - 1024) = true) : exec (.forkRecordStart c stk) s = .next (
      modTeam (clusterOf c) r.teamNo (fun m => { m with members := m.members ++ [⟨c, k⟩] })
        ((takeForks o (fun x => decide (x.seq = r.seq ∧ x.by_ = r.by_)) s).setTh ⟨c, k⟩ (forkThread r m stk c.core))) := by
  have htask : forkTask s c = some (o, r, m, ⟨c, k⟩) := by
    simp only [forkTask, hfree, hnext, hm, hrun, hd, and_self, if_true]
  have hgo : ¬ (stk < 1024 ∨ ¬ stacksFit s m.space [⟨c, k⟩] (stk - 1024) = true) := by
    exact fun h => h.elim (Nat.not_lt.2 hstk) (absurd hfit)
  refine congrArg Host.Outcome.next ?_
  rw [htask]
  exact if_neg hgo

/-! ### The end of a team -/

theorem finishTeam_spec (c : ClusterId) (n : Nat) (m : Team) (cls : Nat) (s : State) :
    SameMemory s (finishTeam c n m cls s) ∧ (finishTeam c n m cls s).threads = s.threads ∧
      ((finishTeam c n m cls s).cluster c).teams.look n = none ∧
      (finishTeam c n m cls s).reports = s.reports ++ [⟨s.nextId, bits m.gridf 32 16, bits m.gridf 0 24, c.node, cls, 1, []⟩] ∧
      ∀ h i l, present s m.group = .live h i l → ((finishTeam c n m cls s).lease h i).x = s.taper h.node := by
  have hgone : ∀ u : State, ((report m.gridf c.node cls 1 [] (u.modCluster c fun k => { k with teams := k.teams.erase n })).cluster
      c).teams.look n = none := by
    intro u
    have e : (report m.gridf c.node cls 1 [] (u.modCluster c fun k => { k with teams := k.teams.erase n })).cluster c =
        (u.modCluster c fun k => { k with teams := k.teams.erase n }).cluster c := rfl
    rw [e, State.cluster_modCluster, Map.look_erase_self]
  unfold finishTeam
  cases hp : present s m.group with
  | live h i l =>
    refine ⟨⟨fun _ => rfl, rfl, rfl⟩, rfl, hgone _, rfl, fun h' i' l' e => ?_⟩
    cases e
    have e : (report m.gridf c.node cls 1 [] ((s.modLease h i fun l => { l with x := s.taper h.node, since := s.taper h.node }).modCluster c
        fun k => { k with teams := k.teams.erase n })).lease h i =
        (s.modLease h i fun l => { l with x := s.taper h.node, since := s.taper h.node }).lease h i := rfl
    refine (congrArg Lease.x e).trans ?_
    rw [State.lease, State.modLease, State.die_modDie, Map.get_set_self]
  | lapsed => exact ⟨⟨fun _ => rfl, rfl, rfl⟩, rfl, hgone _, rfl, nofun⟩
  | stale => exact ⟨⟨fun _ => rfl, rfl, rfl⟩, rfl, hgone _, rfl, nofun⟩

/-- A team ends in the class that its state says. -/
theorem exec_teamEnd {c : ClusterId} {n : Nat} {m : Team} {cls : Nat} {s : State} (hm : (s.cluster c).teams.look n = some m)
    (hrun : m.state = .running) (h : (m.members = [] ∧ teamForks s c n = false ∧ cls = if m.faulted then 1 else 0) ∨
      ((m.members ≠ [] ∨ teamForks s c n = true) ∧ teamLost s m = true ∧ cls = 2)) :
    exec (.teamEnd c n) s = .next (finishTeam c n m cls s) := by
  refine congrArg Host.Outcome.next ?_
  rw [hm]
  dsimp only
  rcases h with ⟨hmem, hforks, rfl⟩ | ⟨hleft, hlost, rfl⟩
  · rw [if_pos ⟨hrun, hmem, Bool.not_eq_true _ ▸ hforks⟩]
  · have hno : ¬ (m.state = .running ∧ m.members = [] ∧ ¬ teamForks s c n = true) := by tauto
    rw [if_neg hno, if_pos ⟨hrun, hlost⟩]

end Sys2Proof.Machine

/-- R151, R152, R138 and R310: fork records and the end of a team. -/
theorem forkStartAndTeamEnd : Claims.ForkStartAndTeamEnd := by
  refine ⟨fun c o stk k rest r m s hfree hnext hd hm hrun h0 h14 hstk hfit => ?_, fun c n m cls s hm hrun h => ?_,
    fun c r rs s h => nextFork_own h, fun c o r s ho hown hlast hleft => nextFork_stolen ho hown hlast hleft⟩
  · refine ⟨_, exec_forkRecordStart hfree hnext hd hm hrun hstk hfit, ?_⟩
    have hteam := modTeam_look (s := (takeForks o (fun x => decide (x.seq = r.seq ∧ x.by_ = r.by_)) s).setTh ⟨c, k⟩
      (forkThread r m stk c.core)) hm fun m => { m with members := m.members ++ [⟨c, k⟩] }
    have hframe := modTeam_frame (clusterOf c) r.teamNo (fun m => { m with members := m.members ++ [⟨c, k⟩] })
      ((takeForks o (fun x => decide (x.seq = r.seq ∧ x.by_ = r.by_)) s).setTh ⟨c, k⟩ (forkThread r m stk c.core))
    generalize modTeam (clusterOf c) r.teamNo (fun m => { m with members := m.members ++ [⟨c, k⟩] })
      ((takeForks o (fun x => decide (x.seq = r.seq ∧ x.by_ = r.by_)) s).setTh ⟨c, k⟩ (forkThread r m stk c.core)) = t at *
    have hth : t.th ⟨c, k⟩ = forkThread r m stk c.core := by
      rw [hframe]
      exact State.th_setTh _ _ _
    have hlook : ∀ j, j ≠ tidKey ⟨c, k⟩ → t.threads.look j = s.threads.look j := by
      intro j hj
      rw [hframe]
      exact State.look_setTh_ne hj
    have hmem : SameMemory s t := by
      rw [hframe]
      exact ⟨fun _ => rfl, rfl, rfl⟩
    have hcore : t.core o = (takeForks o (fun x => decide (x.seq = r.seq ∧ x.by_ = r.by_)) s).core o := by
      rw [hframe]
      rfl
    obtain ⟨hlife, hctx⟩ := forkThread_life r m stk c.core
    rw [hth, hcore]
    exact ⟨hmem, hlife, forkThread_stack r m stk c.core h14, rfl, rfl, rfl, fun e he => forkThread_live r m stk c.core h0 he, hctx,
      rfl, rfl, rfl, rfl, rfl, rfl, hlook, congrArg (Option.map (·.members)) hteam, fun x hx => not_mem_takeForks hx⟩
  · exact ⟨_, exec_teamEnd hm hrun h, finishTeam_spec c n m cls s⟩

/-- Settles O31, by the start of a team's threads one after another and by the frames of what places, starts and ends. -/
theorem teamLife : Obligations.TeamLife := ⟨teamPlacement, forkStartAndTeamEnd⟩

end

section
/-!
Words of the encoding tables, and the scalar instructions whose result is ready at once (R76, R78 to R81, R86, R87).
-/

open Sys2Proof Sys2Proof.Machine Sys2Proof.Claims

/-- Settles O57: the words are decoded. -/
theorem decodeWords : Obligations.DecodeWords := by
  unfold Obligations.DecodeWords
  decide +kernel

namespace Sys2Proof.Machine

/-! ### What is written to a G register -/

/-- An instruction that writes a G register at once. -/
theorem retires_wG {s : State} (n : Nat) (f : Thread → Thread) (d : BitVec 4) (v : W64)
    (h : f s.me.enterRegion = s.me.enterRegion.wG d v) :
    Retires n [.g d] s (s.modMe fun t => Thread.retire n false (f t.enterRegion)) ∧
      (s.modMe fun t => Thread.retire n false (f t.enterRegion)).me.rG d = (if d = 0 then 0 else v) ∧
      (s.modMe fun t => Thread.retire n false (f t.enterRegion)).me.full (.g d) = true ∧
      (s.modMe fun t => Thread.retire n false (f t.enterRegion)).me.bad (.g d) = false := by
  refine ⟨Retires.modMe ?_ ?_ ?_, ?_⟩
  · rw [h]; exact Thread.sameBut_wG _ _ _
  · rw [h]; exact Thread.sameRest_wG _ _ _
  · rw [h, Thread.wG_eq]
  · rw [State.me_modMe, h]
    refine ⟨?_, by simp [Thread.full, Thread.mark_wG], by simp [Thread.bad, Thread.mark_wG]⟩
    by_cases hd : d = 0
    · subst hd; simp [Thread.rG]
    · rw [Thread.rG_retire, Thread.rG_wG, if_pos ⟨rfl, hd⟩, if_neg hd]

/-! ### The results of Table 3-4 -/

/-- The low bits of a value, sign-extended (R9). -/
theorem sextLow_eq_signExtend (a : W64) (n : Nat) (hn : 0 < n) : sextLow a n = (a.setWidth n).signExtend 64 := by
  have h2 : 2 ^ n = 2 * 2 ^ (n - 1) := by rw [← Nat.pow_succ', Nat.succ_eq_add_one, Nat.sub_one_add_one hn.ne']
  simp only [sextLow, BitVec.signExtend, BitVec.toInt_eq_toNat_cond, BitVec.toNat_setWidth]
  by_cases hx : 2 ^ (n - 1) ≤ a.toNat % 2 ^ n
  · rw [if_pos hx, if_neg (by omega)]
    push_cast
    rfl
  · rw [if_neg hx, if_pos (by omega)]
    exact (BitVec.ofInt_natCast 64 _).symm

/-! ### The scalar forms -/

/-- Every scalar form checks its guard, its sources and its destination, then writes its table's value to Gd. -/
theorem exec_scalarForm {i : Instr} {s : State} {g : Guard} {rs : List RegRef} {d : BitVec 4} {v : W64} {n : Nat}
    (h : scalarForm s.me i = some (g, rs, d, v, n)) :
    ∃ (srcs : List Src) (val : Thread → W64), exec i s =
        .next (gated n g false srcs (destG d) (fun u => retire n false (u.modMe fun t => t.wG d (val t))) s) ∧
      srcs.map (·.ref) = rs ∧ val s.me.enterRegion = v := by
  cases i
  case sextb | sexth | sextw =>
    simp only [scalarForm, Option.some.injEq, Prod.mk.injEq] at h
    obtain ⟨rfl, rfl, rfl, rfl, rfl⟩ := h
    refine ⟨_, _, rfl, rfl, ?_⟩
    rw [Thread.src_enterRegion]
    exact sextLow_eq_signExtend _ _ (by decide)
  case zextb | zexth | zextw =>
    simp only [scalarForm, Option.some.injEq, Prod.mk.injEq] at h
    obtain ⟨rfl, rfl, rfl, rfl, rfl⟩ := h
    refine ⟨_, _, rfl, rfl, ?_⟩
    rw [Thread.src_enterRegion]
    symm
    apply setWidth_setWidth_and
    decide
  case liu | lih =>
    simp only [scalarForm, Option.some.injEq, Prod.mk.injEq] at h
    obtain ⟨rfl, rfl, rfl, rfl, rfl⟩ := h
    refine ⟨_, _, rfl, rfl, ?_⟩
    simp only [Thread.rG_enterRegion]
    rfl
  case popc | brev | bswap =>
    simp only [scalarForm, Option.some.injEq, Prod.mk.injEq] at h
    obtain ⟨rfl, rfl, rfl, rfl, rfl⟩ := h
    exact ⟨_, _, rfl, rfl, by rw [Thread.src_enterRegion]; rfl⟩
  all_goals cases h
  all_goals refine ⟨_, _, rfl, rfl, ?_⟩
  all_goals simp only [Thread.src_enterRegion, Thread.rG_enterRegion, Thread.rQ_enterRegion]
  all_goals rfl

end Sys2Proof.Machine

/-- Settles O1: each form is its guard and registers, then one write to Gd (`exec_scalarForm`). -/
theorem scalarResults : Obligations.ScalarResults := by
  intro i s g rs d v n hi hg hs hd
  obtain ⟨srcs, val, he, hr, hv⟩ := exec_scalarForm hi
  refine ⟨_, he, ?_⟩
  rw [gated_go (dsts := destG d) hg (.inl rfl) (hr ▸ hs) (Thread.allFull_one hd)]
  simp only [retire, State.modMe_modMe]
  exact retires_wG n (fun t => t.wG d (val t)) d v (by simp only [hv])

namespace Sys2Proof.Machine

/-! ### GETQ reads a poisoned predicate -/

/-- A thread whose Q1 is full and poisoned. The header of its trap handler stands at 64. -/
def poisonedQ1 : State :=
  (State.reset.poke (scratchAt State.reset.cur.core 64) (leBytes 0x9000000000000001 8)).modMe fun t => { t with
    tvb := 64, q := t.q.set 1 ⟨false, true, true⟩ }

/-- GETQ then enters the handler with POISON (R313), so that its word does not retire. -/
theorem poisonedQ1_getq : ∃ t, exec (.getq 1 ⟨false, 0⟩) poisonedQ1 = .next t ∧ t.me.tcause = 13 := ⟨_, rfl, rfl⟩

end Sys2Proof.Machine

/-- Refutes O5: a predicate that is full and poisoned makes GETQ take POISON; it then writes no register and does not retire. -/
theorem not_predicateWord : ¬ Obligations.PredicateWord := by
  rintro ⟨hgetq, -⟩
  obtain ⟨t, he, ⟨-, -, -, hrest, -⟩, -⟩ := hgetq 1 ⟨false, 0⟩ poisonedQ1 ⟨rfl, rfl, by decide⟩ rfl
  obtain ⟨u, hu, hc⟩ := poisonedQ1_getq
  rw [he] at hu
  cases hu
  have hsame := congrArg Thread.tcause hrest
  rw [hc] at hsame
  have hreset : poisonedQ1.me.tcause = 0 := by decide
  exact absurd (hsame.trans hreset) (by decide)

namespace Sys2Proof.Machine

/-! ### The counts of Table 3-4, bit by bit -/

theorem clzFrom_le (a : W64) (n : Nat) : clzFrom a n ≤ n := by
  induction n with
  | zero => exact Nat.le_refl 0
  | succ n ih =>
    simp only [clzFrom]
    split <;> omega

/-- Bits [n-1:0] are 0 from where CLZ counts. -/
theorem getLsbD_of_clzFrom (a : W64) {n i : Nat} (hi : i < n) (h : n - clzFrom a n ≤ i) : a.getLsbD i = false := by
  induction n with
  | zero => omega
  | succ n ih =>
    simp only [clzFrom] at h
    split at h
    next => omega
    next hb =>
      rcases Nat.lt_succ_iff_lt_or_eq.1 hi with hi | rfl
      · exact ih hi (by omega)
      · simpa using hb

/-- Below what CLZ counts stands a 1. -/
theorem getLsbD_clzFrom (a : W64) {n : Nat} (h : clzFrom a n < n) : a.getLsbD (n - 1 - clzFrom a n) = true := by
  induction n with
  | zero => omega
  | succ n ih =>
    simp only [clzFrom] at h ⊢
    split at h
    next hb => simp [hb]
    next hb =>
      rw [if_neg hb]
      have h := ih (by omega)
      rwa [show n + 1 - 1 - (clzFrom a n + 1) = n - 1 - clzFrom a n by omega]

theorem ctzFrom_le (a : W64) (n : Nat) : ctzFrom a n ≤ n := by
  induction n with
  | zero => exact Nat.le_refl 0
  | succ n ih =>
    simp only [ctzFrom]
    split <;> omega

/-- The bits that CTZ counts are 0. -/
theorem getLsbD_of_ctzFrom (a : W64) {n i : Nat} (hn : n ≤ 64) (h : i < ctzFrom a n) : a.getLsbD (64 - n + i) = false := by
  induction n generalizing i with
  | zero => simp [ctzFrom] at h
  | succ n ih =>
    simp only [ctzFrom] at h
    split at h
    next => omega
    next hb =>
      cases i with
      | zero => simpa [show 64 - (n + 1) + 0 = 63 - n by omega] using hb
      | succ i =>
        rw [show 64 - (n + 1) + (i + 1) = 64 - n + i by omega]
        exact ih (by omega) (by omega)

/-- Above what CTZ counts stands a 1. -/
theorem getLsbD_ctzFrom (a : W64) {n : Nat} (hn : n ≤ 64) (h : ctzFrom a n < n) :
    a.getLsbD (64 - n + ctzFrom a n) = true := by
  induction n with
  | zero => omega
  | succ n ih =>
    simp only [ctzFrom] at h ⊢
    split at h
    next hb => simp [hb]
    next hb =>
      rw [if_neg hb, show 64 - (n + 1) + (ctzFrom a n + 1) = 64 - n + ctzFrom a n by omega]
      exact ih (by omega) (by omega)

/-- POPC counts the bits that are 1. -/
theorem popFrom_eq (a : W64) (n : Nat) : popFrom a n = ((List.range n).filter fun i => a.getLsbD i).length := by
  induction n with
  | zero => rfl
  | succ n ih =>
    rw [popFrom, ih, List.range_succ, List.filter_append, List.length_append, Nat.add_comm]
    cases h : a.getLsbD n <;> simp [h]

/-- A value with a 1 among its bits is not 0. -/
theorem eq_zero_of_getLsbD {a : W64} (h : ∀ i, i < 64 → a.getLsbD i = false) : a = 0 :=
  BitVec.eq_of_getLsbD_eq fun i hi => by simpa using h i hi

theorem toNat_ofNat_of_le {n : Nat} (h : n ≤ 64) : (BitVec.ofNat 64 n).toNat = n := by
  rw [BitVec.toNat_ofNat, Nat.mod_eq_of_lt (by omega)]

theorem toNat_clzRes (a : W64) : (clzRes a).toNat = clzFrom a 64 := toNat_ofNat_of_le (clzFrom_le a 64)
theorem toNat_ctzRes (a : W64) : (ctzRes a).toNat = ctzFrom a 64 := toNat_ofNat_of_le (ctzFrom_le a 64)

theorem toNat_popcRes (a : W64) : (popcRes a).toNat = ((List.range 64).filter fun i => a.getLsbD i).length := by
  rw [popcRes, popFrom_eq, toNat_ofNat_of_le]
  exact (List.length_filter_le _ _).trans (List.length_range).le

/-- CLZ of 0 alone counts 64. -/
theorem clzFrom_lt_of_ne {a : W64} (h : a ≠ 0) : clzFrom a 64 < 64 := by
  refine lt_of_le_of_ne (clzFrom_le a 64) fun he => h (eq_zero_of_getLsbD fun i hi => ?_)
  exact getLsbD_of_clzFrom a hi (by omega)

theorem ctzFrom_lt_of_ne {a : W64} (h : a ≠ 0) : ctzFrom a 64 < 64 := by
  refine lt_of_le_of_ne (ctzFrom_le a 64) fun he => h (eq_zero_of_getLsbD fun i hi => ?_)
  simpa using getLsbD_of_ctzFrom a (Nat.le_refl 64) (i := i) (by omega)

/-! ### The reversals of Table 3-4 -/

/-- Bits [n-1:0] in reverse order stand above bit 63 - n. -/
theorem brevFrom_dvd (a : W64) {n : Nat} (hn : n ≤ 64) : 2 ^ (64 - n) ∣ brevFrom a n := by
  induction n with
  | zero => exact Nat.dvd_zero _
  | succ n ih =>
    have h := (Nat.pow_dvd_pow 2 (show 64 - (n + 1) ≤ 64 - n by omega)).trans (ih (by omega))
    rw [brevFrom, show 63 - n = 64 - (n + 1) by omega]
    split
    · exact Nat.dvd_add (Nat.dvd_refl _) h
    · simpa using h

/-- Bit 63 - i of BREV is bit i of its operand. -/
theorem testBit_brevFrom (a : W64) {n : Nat} (hn : n ≤ 64) {j : Nat} (hj : j < 64) :
    (brevFrom a n).testBit j = (decide (63 - j < n) && a.getLsbD (63 - j)) := by
  induction n with
  | zero => simp [brevFrom]
  | succ n ih =>
    have ih := ih (by omega)
    obtain ⟨c, hc⟩ := brevFrom_dvd a (n := n) (by omega)
    rw [brevFrom]
    split
    next hb =>
      have hlt : 2 ^ (63 - n) < 2 ^ (64 - n) := Nat.pow_lt_pow_right (by decide) (by omega)
      rw [Nat.add_comm, hc, Nat.two_pow_add_eq_or_of_lt hlt, ← hc, Nat.testBit_or, ih, Nat.testBit_two_pow]
      by_cases h : 63 - n = j
      · subst h
        simp [show 63 - (63 - n) = n by omega, hb]
      · simp [h, show 63 - j < n + 1 ↔ 63 - j < n by omega]
    next hb =>
      rw [Nat.zero_add, ih]
      by_cases h : 63 - j = n
      · simp [h, hb]
      · simp [show 63 - j < n + 1 ↔ 63 - j < n by omega]

theorem getLsbD_brevRes (a : W64) {i : Nat} (hi : i < 64) : (brevRes a).getLsbD (63 - i) = a.getLsbD i := by
  rw [brevRes, BitVec.getLsbD_ofNat, testBit_brevFrom a (Nat.le_refl 64) (by omega), show 63 - (63 - i) = i by omega]
  simp [hi, show 63 - i < 64 by omega]

/-- The bits of a little-endian number are those of its bytes. -/
theorem testBit_leNat (l : List Byte) (j : Nat) : (leNat l).testBit j = (l.getD (j / 8) 0).getLsbD (j % 8) := by
  induction l generalizing j with
  | nil => simp [leNat]
  | cons b l ih =>
    have hb := b.isLt
    rw [leNat, Nat.add_comm, show (256 : Nat) = 2 ^ 8 from rfl, Nat.testBit_two_pow_mul_add _ hb]
    split
    next h => simp [Nat.div_eq_of_lt h, Nat.mod_eq_of_lt h, BitVec.getLsbD]
    next h =>
      rw [ih, show j / 8 = (j - 8) / 8 + 1 by omega, List.getD_cons_succ, show (j - 8) % 8 = j % 8 by omega]

theorem getD_leBytes (x : Nat) {n i : Nat} (hi : i < n) : (leBytes x n).getD i 0 = BitVec.ofNat 8 (x / 2 ^ (8 * i)) := by
  induction n generalizing x i with
  | zero => omega
  | succ n ih =>
    cases i with
    | zero => simp [leBytes]
    | succ i =>
      rw [leBytes, List.getD_cons_succ, ih _ (by omega), Nat.div_div_eq_div_mul, Nat.mul_succ, Nat.pow_add, Nat.mul_comm]

theorem getLsbD_bswapRes (a : W64) {i : Nat} (hi : i < 64) :
    (bswapRes a).getLsbD (8 * (7 - i / 8) + i % 8) = a.getLsbD i := by
  have hk : i / 8 < 8 := by omega
  have hl := leBytes_length a.toNat 8
  have hget : (leBytes a.toNat 8).reverse.getD (7 - i / 8) 0 = (leBytes a.toNat 8).getD (i / 8) 0 := by
    rw [List.getD_eq_getElem?_getD, List.getElem?_reverse (by omega), hl, List.getD_eq_getElem?_getD,
      show 8 - 1 - (7 - i / 8) = i / 8 by omega]
  rw [bswapRes, BitVec.getLsbD_ofNat, testBit_leNat, show (8 * (7 - i / 8) + i % 8) / 8 = 7 - i / 8 by omega,
    show (8 * (7 - i / 8) + i % 8) % 8 = i % 8 by omega, hget, getD_leBytes _ hk, BitVec.getLsbD_ofNat, Nat.testBit_div_two_pow,
    show i % 8 + 8 * (i / 8) = i by omega, decide_eq_true (show i % 8 < 8 by omega),
    decide_eq_true (show 8 * (7 - i / 8) + i % 8 < 64 by omega), Bool.true_and, Bool.true_and]
  rfl

/-! ### Bit fields (R79) -/

theorem getLsbD_bitField (a : W64) (p n : Nat) {i : Nat} (hi : i < 64) :
    (BitVec.ofNat 64 (bitField a p n)).getLsbD i = (decide (i < n) && a.getLsbD (p + i)) := by
  rw [BitVec.getLsbD_ofNat, bitField, Nat.testBit_mod_two_pow, Nat.testBit_div_two_pow, decide_eq_true hi, Bool.true_and,
    Nat.add_comm]
  rfl

/-- A field of `n` bits, extended from its highest bit. -/
theorem getLsbD_sextLow_bitField (a : W64) (p n : Nat) (hn : 0 < n) (hn64 : n ≤ 64) {i : Nat} (hi : i < 64) :
    (sextLow (BitVec.ofNat 64 (bitField a p n)) n).getLsbD i = a.getLsbD (p + min i (n - 1)) := by
  rw [sextLow_eq_signExtend _ _ hn, BitVec.getLsbD_signExtend, BitVec.msb_eq_getLsbD_last, BitVec.getLsbD_setWidth,
    BitVec.getLsbD_setWidth, getLsbD_bitField a p n hi, getLsbD_bitField a p n (i := n - 1) (by omega)]
  by_cases h : i < n
  · simp [hi, h, show min i (n - 1) = i by omega]
  · simp [hi, h, hn, show min i (n - 1) = n - 1 by omega]

/-- Bits put under a mask of `n` bits from bit `p` on. -/
theorem getLsbD_insert (p n : Nat) (old a : W64) {i : Nat} (hi : i < 64) :
    ((old &&& ~~~ (BitVec.ofNat 64 ((2 ^ n - 1) * 2 ^ p))) ||| ((a <<< p) &&& BitVec.ofNat 64 ((2 ^ n - 1) * 2 ^ p))).getLsbD i =
      if p ≤ i ∧ i < p + n then a.getLsbD (i - p) else old.getLsbD i := by
  have hm : (BitVec.ofNat 64 ((2 ^ n - 1) * 2 ^ p)).getLsbD i = decide (p ≤ i ∧ i < p + n) := by
    rw [BitVec.getLsbD_ofNat, decide_eq_true hi, Bool.true_and, Nat.mul_comm, Nat.testBit_two_pow_mul, Nat.testBit_two_pow_sub_one,
      ← Bool.decide_and]
    exact decide_eq_decide.2 (by omega)
  simp only [BitVec.getLsbD_or, BitVec.getLsbD_and, BitVec.getLsbD_not, BitVec.getLsbD_shiftLeft, hm, hi]
  by_cases h : p ≤ i ∧ i < p + n
  · simp [h]
  · simp [h]

end Sys2Proof.Machine

/-- R78: the counts and reversals of Table 3-4. -/
theorem bitCounts : Claims.BitCounts := by
  intro a
  rw [toNat_clzRes, toNat_ctzRes]
  refine ⟨fun i hi h => getLsbD_of_clzFrom a hi h, fun h => ⟨clzFrom_lt_of_ne h, ?_⟩, fun h => ?_, fun i h => ?_,
    fun h => ⟨ctzFrom_lt_of_ne h, ?_⟩, fun h => ?_, toNat_popcRes a, fun i hi => getLsbD_brevRes a hi,
    fun i hi => getLsbD_bswapRes a hi⟩
  · exact getLsbD_clzFrom a (clzFrom_lt_of_ne h)
  · subst h; decide
  · simpa using getLsbD_of_ctzFrom a (Nat.le_refl 64) h
  · simpa using getLsbD_ctzFrom a (Nat.le_refl 64) (ctzFrom_lt_of_ne h)
  · subst h; decide

/-- R79: the bit fields. -/
theorem bitFields : Claims.BitFields := by
  intro p l a old hpl i hi
  refine ⟨?_, ?_, ?_⟩
  · rw [extuRes, getLsbD_bitField a _ _ hi, decide_eq_decide.2 Nat.lt_succ_iff]
  · exact getLsbD_sextLow_bitField a _ _ (Nat.succ_pos _) (by omega) hi
  · refine (getLsbD_insert p.toNat (l.toNat + 1) old a hi).trans ?_
    simp only [← Nat.add_assoc, Nat.lt_succ_iff]

/-- Settles O2, bit by bit: each count by induction on the bits it has seen, each field by its shift and mask. -/
theorem bitOperations : Obligations.BitOperations := ⟨bitCounts, bitFields⟩

end

section
/-!
Traps on purpose (R98 to R100) and the return from a handler (R101, R308).
-/

open Sys2Proof Sys2Proof.Machine Sys2Proof.Claims

/-- Settles O9: each of the three traps before it has any effect (`exec_raised`). -/
theorem trapInstructions : Obligations.TrapInstructions := by
  refine ⟨by decide +kernel, fun s blk hc hm => ⟨fun i g hg => ?_, fun g hg => ?_, fun a b g hg hs => ?_⟩⟩
  · exact ⟨_, exec_raised (if_pos ⟨hg, decide_eq_true hm⟩), trapped_trapAt hc _ _⟩
  · exact ⟨_, exec_raised (if_pos ⟨hg, decide_eq_true hm⟩), trapped_trap hc _⟩
  · obtain ⟨ha, hpa⟩ := hs (.g a.r) (by simp)
    obtain ⟨hb, hpb⟩ := hs (.g b.r) (by simp)
    exact ⟨_, exec_raised (if_pos ⟨hg, decide_eq_true hm, ha, hpa, hb, hpb⟩), trapped_trapAt hc _ _⟩

namespace Sys2Proof.Machine

/-- The handler is over: TSTAT.IN and TSTAT.DEF are clear (R101, R308). -/
def Thread.outOfHandler (t : Thread) : Thread := { t with inHandler := false, deferred := false, joinHeld := false }

/-- The thread has retired its RFT and begins a region at word `w` of the block at `h`. -/
def Thread.comeBack (h : BitVec 19) (w : Nat) (t : Thread) : Thread := ((t.leave 0).outOfHandler).regionAt h w

section
variable (t : Thread) (h : BitVec 19) (w : Nat)

theorem Thread.sameReg_comeBack (r : RegRef) : Thread.sameReg t (t.comeBack h w) r :=
  Thread.sameReg_congr rfl rfl rfl rfl
    (Thread.sameReg_trans (t.sameRest_enterRegion_g r) (Thread.sameReg_retire t.enterRegion 1 false r))

/-- RFT leaves the trap registers, FLG, what is pending and the thread's join as they are. -/
theorem Thread.comeBack_kept : (t.comeBack h w).tcause = t.tcause ∧ (t.comeBack h w).tpc = t.tpc ∧
    (t.comeBack h w).tinfo = t.tinfo ∧ (t.comeBack h w).flg = t.flg ∧ (t.comeBack h w).pending = t.pending ∧
    (t.comeBack h w).pjoin = t.pjoin := by
  unfold Thread.comeBack
  rw [Thread.leave_eq]
  exact ⟨rfl, rfl, rfl, rfl, rfl, rfl⟩

end

section
variable {g : Guard} {s : State}

/-- RFT that nothing holds, in a handler and outside of one. -/
theorem exec_rft (hg : s.me.passes g) (hm : (s.me.advance 1).mismatch = false) (hj : s.me.inHandler = true → s.me.pjoin = none) :
    exec (.rft g) s = .next (if s.me.inHandler then returnFromTrap s else trap (causeOf .illegal s.me.word64) s) :=
  congrArg _ (controlHold_go hg Thread.readable_nil Thread.allFull_nil
    (if_neg fun ⟨hin, _, hopen⟩ => by simp [Thread.joinOpen, hj hin] at hopen) hm)

/-- TPC lies on a word of the block that TINFO3 names, and RFT resumes there. -/
theorem returnFromTrap_resume {w : Nat} (hj : s.me.pjoin = none) (hc : s.me.tcause &&& 0xFF ≠ 0)
    (hh : (s.me.tinfo[3].setWidth 19).toNat + 8 ≤ Config.scratchBytes)
    (ht : s.me.tpc.toNat = (s.me.tinfo[3].setWidth 19).toNat + 8 + 4 * w)
    (hw : w < hdrLen (BitVec.ofNat 64 (s.peek (scratchAt s.cur.core (s.me.tinfo[3].setWidth 19).toNat) 8))) :
    returnFromTrap s = fetchHeader s.cur ⟨(s.me.tinfo[3].setWidth 19).setWidth 64, .resume w false, s.me.bh.setWidth 64⟩
      (s.modMe (Thread.comeBack (s.me.tinfo[3].setWidth 19) w)) := by
  have hlen : lenAt s (s.me.tinfo[3].setWidth 19) =
      hdrLen (BitVec.ofNat 64 (s.peek (scratchAt s.cur.core (s.me.tinfo[3].setWidth 19).toNat) 8)) := if_pos hh
  have hw4 : (s.me.tpc.toNat - (s.me.tinfo[3].setWidth 19).toNat - 8) / 4 = w := by omega
  simp only [returnFromTrap, hj, Option.isSome_none, Bool.false_eq_true, if_false]
  rw [if_pos ⟨hc, by omega, by rw [hlen]; omega, by omega⟩, hw4]
  simp only [State.begin_eq, State.modMe_modMe]
  rfl

/-- With TCAUSE 0, or TPC on no word of that block, TPC is a header. -/
theorem returnFromTrap_transfer (hj : s.me.pjoin = none) (h : s.me.tcause &&& 0xFF = 0 ∨ OffBlock s) :
    returnFromTrap s = if ¬ aligned s.me.tpc 8 then trap (causeOf .align s.me.tpc) (s.modMe Thread.outOfHandler)
      else transferReg s.me.tpc 6 (s.modMe (Thread.comeBack (s.me.tpc.setWidth 19) 0)) := by
  have hoff : ¬ (s.me.tcause &&& 0xFF ≠ 0 ∧ (s.me.tinfo[3].setWidth 19).toNat + 8 ≤ s.me.tpc.toNat ∧
      s.me.tpc.toNat < (s.me.tinfo[3].setWidth 19).toNat + 8 + 4 * lenAt s (s.me.tinfo[3].setWidth 19) ∧
      (s.me.tpc.toNat - (s.me.tinfo[3].setWidth 19).toNat) % 4 = 0) := by
    rintro ⟨hc, hlo, hhi, h4⟩
    rcases h with h | h
    · exact hc h
    unfold lenAt at hhi
    split at hhi
    next hh =>
      refine h hh ((s.me.tpc.toNat - (s.me.tinfo[3].setWidth 19).toNat - 8) / 4) ?_ ?_
      · omega
      · omega
    next => omega
  simp only [returnFromTrap, hj, Option.isSome_none, Bool.false_eq_true, if_false]
  rw [if_neg hoff]
  simp only [State.begin_eq, State.modMe_modMe]
  rfl

end

end Sys2Proof.Machine

/-- Settles O11, by what RFT does to its thread (`Thread.comeBack`) before the fetch, the end or the trap that follows. -/
theorem handlerReturn : Obligations.HandlerReturn := by
  refine ⟨fun g s b w hg hm hj hin hc hh ht hw hb => ?_, fun g s b hg hm hj hin hoff => ?_, fun g s b hg hm hin hc => ?_⟩
  · refine ⟨_, exec_rft hg hm fun _ => hj, ?_⟩
    have e : returnFromTrap s = s.modMe fun t => (t.comeBack (s.me.tinfo[3].setWidth 19) w).enter
        (((s.me.tinfo[3].setWidth 19).setWidth 64).setWidth 19) b w false :=
      (returnFromTrap_resume hj hc hh ht hw).trans (fetchHeader_resume hb)
    obtain ⟨hcause, hpc, hinfo, hflg, -⟩ := s.me.comeBack_kept (s.me.tinfo[3].setWidth 19) w
    rw [if_pos hin, e, State.me_modMe]
    have h19 : ((s.me.tinfo[3].setWidth 19).setWidth 64).setWidth 19 = s.me.tinfo[3].setWidth 19 := by simp
    rw [h19]
    exact ⟨OnlyThread.modMe _ _, SameMemory.modMe _ _, fun r _ =>
      Thread.sameReg_congr rfl rfl rfl rfl (s.me.sameReg_comeBack (s.me.tinfo[3].setWidth 19) w r),
      rfl, rfl, rfl, rfl, by simp [Thread.enter], hcause, hpc, hinfo, hflg⟩
  · have he := (exec_rft hg hm fun _ => hj).trans (congrArg Host.Outcome.next
      ((if_pos hin).trans (returnFromTrap_transfer hj hoff)))
    obtain ⟨hcause, hpc, hinfo, hflg, hpend, hjoin⟩ := s.me.comeBack_kept (s.me.tpc.setWidth 19) 0
    have hme : (s.modMe (Thread.comeBack (s.me.tpc.setWidth 19) 0)).me = s.me.comeBack (s.me.tpc.setWidth 19) 0 := s.me_modMe _
    have hdue : (s.modMe (Thread.comeBack (s.me.tpc.setWidth 19) 0)).me.joinDue = false := by
      rw [hme, Thread.joinDue, hjoin, hj]
      rfl
    refine ⟨fun h0 h8 hb => ?_, fun h0 => ?_, fun h8 hb => ?_⟩
    · refine ⟨_, he, ?_⟩
      rw [if_neg (by simpa [aligned] using h8), transferReg, hdue, if_neg Bool.false_ne_true, if_neg h0,
        transfer_block (by rw [hme, hjoin, hj]) (by decide) (by simpa using hb), State.modMe_modMe, State.me_modMe]
      refine ⟨OnlyThread.modMe _ _, SameMemory.modMe _ _, fun r _ => ?_, ?_⟩
      · exact Thread.sameReg_trans (s.me.sameReg_comeBack (s.me.tpc.setWidth 19) 0 r)
          (Thread.sameReg_congr rfl rfl rfl rfl
            ((s.me.comeBack (s.me.tpc.setWidth 19) 0).sameReg_openNext (s.me.tpc.setWidth 19) r))
      · unfold Thread.arrive
        rw [Thread.openNext_eq]
        exact ⟨rfl, rfl, rfl, rfl, by simp [Thread.enter], hcause, hpc, hinfo, hflg⟩
    · refine ⟨_, he, ?_⟩
      rw [if_neg (by simp [aligned, h0]), transferReg, hdue, if_neg Bool.false_ne_true, if_pos h0]
      exact ended_endThread (fun r _ => s.me.sameReg_comeBack (s.me.tpc.setWidth 19) 0 r) hpend
    · refine ⟨_, he, ?_⟩
      have e : trap (causeOf .align s.me.tpc) (s.modMe Thread.outOfHandler) = s.modMe fun t =>
          Thread.takeTrap (causeOf .align s.me.tpc) (s.me.pc.setWidth 64) (s.me.bh.setWidth 64) none b s.me.tvb t.outOfHandler := by
        rw [trap, trapAt, State.me_modMe]
        exact enterTrap_modTh rfl rfl hb _ _ _ _
      rw [if_pos (by simpa [aligned] using h8), e]
      unfold Trapped
      rw [State.me_modMe]
      exact ⟨OnlyThread.modMe _ _, SameMemory.modMe _ _, rfl, rfl, rfl, rfl, rfl, rfl, rfl, rfl, rfl, rfl⟩
  · refine ⟨_, exec_rft hg hm (by simp [hin]), ?_⟩
    rw [if_neg (by simp [hin])]
    exact trapped_trap hc _

end

section
/-!
Divisions and their fill (R77, R46), and scalar memory instructions at issue (R92, R93, R212 to R214, R272).
-/

open Sys2Proof Sys2Proof.Machine Sys2Proof.Claims

namespace Sys2Proof.Machine

/-! ### What a fill changes of its thread (R46, R49) -/

section
variable (t : Thread) (r : RegRef) (x : W64)

theorem Thread.wQ_eq (q : BitVec 4) (b : Bool) : t.wQ q b = { t with q := (t.wQ q b).q } := by
  unfold Thread.wQ
  split <;> rfl

/-- Deferred predicates that settle change predicates alone. -/
theorem Thread.settle_eq (n : Nat) : t.settle n = { t with q := (t.settle n).q, deferredQ := (t.settle n).deferredQ } := by
  induction n generalizing t with
  | zero => rfl
  | succ n ih =>
    unfold Thread.settle
    split
    · rfl
    · rw [ih, Thread.note, Thread.wQ_eq]

theorem Thread.filled_eq : t.filled r = { t with q := (t.filled r).q, deferredQ := (t.filled r).deferredQ } := by
  unfold Thread.filled
  rw [Thread.settle_eq]
  rfl

theorem Thread.fillG_eq (d : BitVec 4) : t.fillG d x = { t with
    g := (t.wG d x).g, q := (t.fillG d x).q, deferredQ := (t.fillG d x).deferredQ } := by
  unfold Thread.fillG
  rw [Thread.filled_eq, Thread.wG_eq]

theorem Thread.fillQ_eq (q : BitVec 4) (b : Bool) : t.fillQ q b = { t with
    q := (t.fillQ q b).q, deferredQ := (t.fillQ q b).deferredQ } := by
  unfold Thread.fillQ
  rw [Thread.filled_eq, Thread.wQ_eq]

/-- A filled G register holds its value. -/
theorem Thread.rG_fillG (d : BitVec 4) : (t.fillG d x).rG d = if d = 0 then 0 else x := by
  have e : (t.fillG d x).rG d = (t.wG d x).rG d := Thread.rG_congr (by rw [Thread.fillG_eq]) d
  rw [e]
  by_cases h : d = 0
  · subst h
    rfl
  · rw [Thread.rG_wG, if_pos ⟨rfl, h⟩, if_neg h]

theorem Thread.full_g_congr {t u : Thread} (h : u.g = t.g) (d : BitVec 4) : u.full (.g d) = t.full (.g d) := by
  simp only [Thread.full, Thread.mark, h]

theorem Thread.full_fillG (d : BitVec 4) : (t.fillG d x).full (.g d) = true := by
  have e : (t.fillG d x).full (.g d) = (t.wG d x).full (.g d) := Thread.full_g_congr (by rw [Thread.fillG_eq]) d
  rw [e, Thread.full, Thread.mark_wG]
  simp

end

/-- A pending instruction writes its value to its G register. -/
theorem Pending.write_g {q : Pending} {d : BitVec 4} {x : W64} (hv : q.val = .g x) (hd : q.dst = some (.g d)) (now : Nat)
    (t : Thread) : q.write now t = ({ t with flg := t.flg ||| q.flags.getD 0 } : Thread).fillG d x := by
  simp only [Pending.write, hv, hd]

/-- RESULT_FILL of a value for a G register, from the last answer on. -/
theorem exec_resultFill_g {tid : Tid} {pid : Nat} {s : State} {q : Pending} {d : BitVec 4} {x : W64} (hd0 : d ≠ 0)
    (hw : ∀ w ∈ s.waits, w.tid = tid → w.seq ≠ pid) (h : (s.th tid).pend? pid = some q) (hl : q.left = 0) (hr : q.refused = [])
    (hv : q.val = .g x) (hd : q.dst = some (.g d)) : ∃ u, exec (.resultFill tid pid) s = .next u ∧ SameMemory s u ∧
      u.cur = s.cur ∧ (u.th tid).full (.g d) = true ∧ (u.th tid).rG d = x := by
  refine ⟨_, exec_resultFill hw h hl hr, sameMemory_fillTh _ _ _, ?_, ?_, ?_⟩
  · rw [fillTh_eq]
    rfl
  · rw [th_fillTh, Pending.write_g hv hd, Thread.full_fillG]
  · rw [th_fillTh, Pending.write_g hv hd, Thread.rG_fillG, if_neg hd0]

/-! ### Divisions (R77) -/

/-- The one quotient that overflows. -/
theorem overflow_iff (a b : W64) : (a.toInt = -2 ^ 63 ∧ b.toInt = -1) ↔ (a = minInt ∧ b = BitVec.allOnes 64) := by
  rw [← BitVec.toInt_inj (y := minInt), ← BitVec.toInt_inj (y := BitVec.allOnes 64)]
  exact Iff.rfl

/-- Every division checks its guard, its sources and its destination, then gives its result to a step of its own. -/
theorem exec_divisionForm {i : Instr} {s : State} {g : Guard} {a b : GSrc} {d : BitVec 4} {v : W64}
    (h : divisionForm s.me i = some (g, a, b, d, v)) :
    ∃ f, exec i s = alu2Long f d a b g s ∧ f (s.me.rG a.r) (s.me.rG b.r) = v := by
  cases i
  all_goals cases h
  case div =>
    refine ⟨_, rfl, ?_⟩
    simp only [divRes, ← overflow_iff]
    rfl
  case rem => exact ⟨_, rfl, by simp only [remRes, ← overflow_iff]⟩
  case divu | remu => exact ⟨_, rfl, rfl⟩

/-- Changes that agree on the issuing thread. -/
theorem State.modMe_of_eq {s : State} {f g : Thread → Thread} (h : f s.me = g s.me) : s.modMe f = s.modMe g :=
  congrArg (s.setTh s.cur) h

/-- The state behind an instruction whose result `x` for Gd is to fill. -/
def State.resultOut (s : State) (d : BitVec 4) (x : W64) : State :=
  s.inFlight s.accs s.raises (s.nextId + 1)
    (Thread.issued · s.nextId (s.taper s.cur.core.node) true (some (.g d)) none 0 (.g x) false false false)

section
variable {f : W64 → W64 → W64} {d : BitVec 4} {a b : GSrc} {g : Guard} {s : State}

/-- Under a name that nothing else of the thread has, a result that fills later is recorded as it is issued. -/
theorem issueResult_of_fresh (h : ∀ p ∈ s.me.pending, p.id ≠ s.nextId) (dst : Option RegRef) (val : PVal) :
    issueResult dst none val none s = issuePending true dst none 0 val false false s := by
  have hmap : ∀ q : Pending, q.id = s.nextId → q.flags = none →
      mapIf (s.me.pending ++ [q]) (fun p => decide (p.id = s.nextId)) (fun p => { p with flags := none }) =
        s.me.pending ++ [q] := by
    intro q hq hf
    refine (List.map_congr_left fun p hp => ?_).trans (List.map_id _)
    by_cases hid : p.id = s.nextId
    · have e : p = q := by
        rcases List.mem_append.1 hp with hp | hp
        · exact absurd hid (h p hp)
        · exact List.mem_singleton.1 hp
      rw [if_pos (decide_eq_true hid), e, id, ← hf]
    · rw [if_neg (by simpa using hid), id]
  calc issueResult dst none val none s
    _ = s.fresh.modMe _ := State.modMe_modMe s.fresh
          (Thread.issues s.nextId (s.taper s.cur.core.node) true dst none 0 val false false) _
    _ = s.fresh.modMe (Thread.issues s.nextId (s.taper s.cur.core.node) true dst none 0 val false false) :=
          State.modMe_of_eq (by
            have hme : s.fresh.me = s.me := rfl
            rw [hme, Thread.issues_eq, hmap _ rfl rfl])
    _ = issuePending true dst none 0 val false false s := rfl

/-- A division whose operands are there empties Gd and retires; its result is then on its way. -/
theorem alu2Long_go (hd : d ≠ 0) (hg : s.me.passes g) (hs : s.me.readable [.g a.r, .g b.r]) (hf : s.me.full (.g d) = true)
    (hp : ∀ p ∈ s.me.pending, p.id ≠ s.nextId) :
    alu2Long f d a b g s = .next (s.resultOut d (f (s.me.rG a.r) (s.me.rG b.r))) := by
  have hfresh : ∀ p ∈ s.begin.me.pending, p.id ≠ s.begin.nextId := by
    rw [State.me_begin, Thread.enterRegion_eq]
    exact hp
  refine congrArg Host.Outcome.next ((gated_go (srcs := [srcG a, srcG b]) hg (.inl rfl) hs (Thread.allFull_one hf)).trans ?_)
  rw [← State.begin_eq, if_neg hd, issueResult_of_fresh hfresh, longG, if_neg hd, issuePending_begin, retire_inFlight,
    State.me_begin, Thread.src_enterRegion, Thread.src_enterRegion]
  rfl

end

section
variable {s : State} {d : BitVec 4} {x : W64}

theorem State.me_resultOut : (s.resultOut d x).me =
    s.me.issued s.nextId (s.taper s.cur.core.node) true (some (.g d)) none 0 (.g x) false false false :=
  State.me_inFlight _ _ _ _ _

theorem pend?_resultOut (hp : ∀ p ∈ s.me.pending, p.id ≠ s.nextId) : ((s.resultOut d x).th s.cur).pend? s.nextId =
    some (newPending s.me.enterRegion s.nextId true (some (.g d)) none 0 (.g x) false false (s.taper s.cur.core.node)) := by
  have hth : (s.resultOut d x).th s.cur = (s.resultOut d x).me := rfl
  rw [hth, State.me_resultOut, Thread.issued_eq, Thread.pend?, List.find?_append, List.find?_eq_none.2 (by simpa using hp)]
  simp [newPending]

theorem full_resultOut (hd : d ≠ 0) : (s.resultOut d x).me.full (.g d) = false := by
  rw [State.me_resultOut, Thread.full_issued]
  exact Thread.full_setFull_g _ _ hd

end

end Sys2Proof.Machine

/-- R77: a division to a register other than G0. -/
theorem division : Claims.Division := by
  intro i s g a b d v hi hd hg hs hf ⟨hp, hw⟩
  obtain ⟨f, he, hv⟩ := exec_divisionForm hi
  have hgo := he.trans (alu2Long_go hd hg hs hf hp)
  rw [hv] at hgo
  obtain ⟨⟨-, hmem, -, -, hpc, -⟩, -⟩ := sends_inFlight (s := s) (accs := s.accs) (raises := s.raises) (n := s.nextId + 1)
    (prod := true) (dst := some (.g d)) (also := none) (left := 0) (val := .g v) (load := false) (vector := false)
    (close := false) (id := s.nextId) (now := s.taper s.cur.core.node) (rs := [.g d]) (by simp) nofun
  obtain ⟨u, hu, -, hcur, hfull, hval⟩ := exec_resultFill_g (s := s.resultOut d v) (tid := s.cur) hd (fun w h _ => hw w h)
    (pend?_resultOut hp) rfl rfl rfl rfl
  have hme : u.me = u.th s.cur := congrArg u.th hcur
  exact ⟨_, u, hgo, full_resultOut hd, hpc, hmem, hu, hme ▸ hfull, hme ▸ hval⟩

/-- R48 and R77: a division to G0. -/
theorem divisionToG0 : Claims.DivisionToG0 := by
  intro i s g a b v hi hg hs
  obtain ⟨f, he, -⟩ := exec_divisionForm hi
  refine ⟨_, he.trans (congrArg Host.Outcome.next
    (gated_go (srcs := [srcG a, srcG b]) hg (.inl rfl) hs (Thread.allFull_one rfl))), ?_⟩
  exact retires_begin 1 s

/-- Settles O3, by the result that is on its way behind the division and its fill. -/
theorem divisionAndRemainder : Obligations.DivisionAndRemainder := ⟨division, divisionToG0, by decide +kernel⟩

namespace Sys2Proof.Machine

/-! ### One access in flight -/

section
variable {s : State} {op : AccOp} {ea : W64} {n : Nat}

/-- An access that is posted by a thread which has issued its instruction. -/
theorem postMine_issued (prod : Bool) (dst : Option RegRef) (left : Nat) (val : PVal) (load close : Bool) (op : AccOp) (ea : W64)
    (n : Nat) (s : State) :
    retire 1 close (postMine (.thread s.nextId 0) op ea n (issuePending prod dst none left val load false s.begin)) =
      s.inFlight (s.accs ++ [newAccess s op ea n]) s.raises (s.nextId + 2)
        (Thread.issued · s.nextId (s.taper s.cur.core.node) prod dst none left val load false close) := by
  have hacc : ∀ f : Thread → Thread, (f s.me).ctxh = s.me.ctxh → (f s.me).space = s.me.space → (f s.me).pc = s.me.pc →
      postMine (.thread s.nextId 0) op ea n (s.inFlight s.accs s.raises (s.nextId + 1) f) =
        s.inFlight (s.accs ++ [newAccess s op ea n]) s.raises (s.nextId + 2) f := by
    intro f h1 h2 h3
    simp only [postMine, State.me_inFlight, h1, h2, h3]
    rfl
  rw [issuePending_begin, hacc, retire_inFlight]
  · rfl
  all_goals rw [Thread.issues_eq, Thread.enterRegion_eq]

/-- A store whose checks pass. -/
theorem postStore_sends (ha : ea.toNat % n = 0) (hx : ownXB s ea = false) (close : Bool) (val : PVal) (left : Nat) :
    postStore n close op val left ea s = s.inFlight (s.accs ++ [newAccess s op ea n]) s.raises (s.nextId + 2)
      (Thread.issued · s.nextId (s.taper s.cur.core.node) false none none left val false false close) := by
  rw [postStore, if_neg (not_not.2 (aligned_iff.2 ha)), hx, if_neg Bool.false_ne_true]
  exact postMine_issued false none left val false close op ea n s

/-- A store that writes a tag, whose checks pass. -/
theorem tagStore_sends (ha : ea.toNat % n = 0) (hx : ownXB s ea = false) (hp : ∃ p, taggedPlace s.cur.core ea = .ok p) :
    tagStore n op ea s = s.inFlight (s.accs ++ [newAccess s op ea n]) s.raises (s.nextId + 2)
      (Thread.issued · s.nextId (s.taper s.cur.core.node) false none none 1 (.g 0) false false true) := by
  obtain ⟨p, hp⟩ := hp
  rw [tagStore, if_neg (not_not.2 (aligned_iff.2 ha)), hp]
  exact postStore_sends ha hx true _ _

/-- An atomic whose checks pass. -/
theorem atomicIssue_sends {z : Bool} (ha : ea.toNat % wdBytes z = 0) (hx : ownXB s ea = false) (o : AtomOp)
    (d : BitVec 4) (v e : W64) :
    atomicIssue o d z ea v e s = s.inFlight (s.accs ++ [newAccess s (.atom o v e) ea (wdBytes z)]) s.raises (s.nextId + 2)
      (Thread.issued · s.nextId (s.taper s.cur.core.node) true (longG d) none 1 (.g 0) false false true) := by
  simp only [atomicIssue]
  rw [if_neg (not_not.2 (aligned_iff.2 ha)), hx, if_neg Bool.false_ne_true]
  exact postMine_issued true (longG d) 1 (.g 0) false true (.atom o v e) ea (wdBytes z) s

end

/-- A scalar memory instruction whose checks pass has one access in flight. -/
theorem exec_accessForm {i : Instr} {s : State} {g : Guard} {rs : List RegRef} {d : BitVec 4} {op : AccOp} {ea : W64} {n : Nat}
    {tag : Bool} (hi : accessForm s.me i = some (g, rs, d, op, ea, n, tag)) (hg : s.me.passes g) (hr : s.me.readable rs)
    (hd : s.me.full (.g d) = true) (ha : ea.toNat % n = 0) (hx : loads op = false → ownXB s ea = false)
    (ht : tag = true → ∃ p, taggedPlace s.cur.core ea = .ok p) : ∃ prod load close, exec i s =
      .next (s.inFlight (s.accs ++ [newAccess s op ea n]) s.raises (s.nextId + 2)
        (Thread.issued · s.nextId (s.taper s.cur.core.node) prod (longG d) none 1 (.g 0) load false close)) := by
  have go : ∀ {srcs : List Src} {dsts : List RegRef} {body : State → State} {u : State}, srcs.map (·.ref) = rs →
      dsts = [] ∨ dsts = [.g d] → body s = u → gatedTrap 1 g false srcs dsts body s = u := by
    intro srcs dsts body u hs hds hb
    refine (gatedTrap_go hg (.inl rfl) (hs ▸ hr) ?_).trans hb
    rcases hds with rfl | rfl
    · exact Thread.allFull_nil
    · exact Thread.allFull_one hd
  cases i
  all_goals cases hi
  case ld =>
    exact ⟨_, _, _, congrArg Host.Outcome.next (go rfl (.inr rfl) ((if_neg (not_not.2 (aligned_iff.2 ha))).trans
      (postMine_issued true (longG d) 1 (.g 0) true false _ _ _ s)))⟩
  case st => exact ⟨_, _, _, congrArg Host.Outcome.next (go rfl (.inl rfl) (postStore_sends ha (hx rfl) _ _ _))⟩
  case stfw | stfd | sete | setf =>
    exact ⟨_, _, _, congrArg Host.Outcome.next (go rfl (.inl rfl) (tagStore_sends ha (hx rfl) (ht rfl)))⟩
  case aadd | aand | aor | axor | amin | amax | aminu | amaxu | axchg | acas =>
    exact ⟨_, _, _, congrArg Host.Outcome.next (go rfl (.inr rfl) (atomicIssue_sends ha (hx rfl) _ _ _ _))⟩
  case redadd | redand | redor | redxor | redmin | redmax | redminu | redmaxu =>
    exact ⟨_, _, _, congrArg Host.Outcome.next (go rfl (.inl rfl) (postStore_sends ha (hx rfl) _ _ _))⟩

section
variable {s : State} {accs : List Acc} {raises : List FlagRaise} {n : Nat} {prod : Bool} {dst : Option RegRef}
  {left : Nat} {val : PVal}
  {load close : Bool} {id now : Nat}

/-- The answers to come of a scalar access. -/
theorem awaitsLast_inFlight (hd : ∀ r, dst = some r → ∃ d : BitVec 4, d ≠ 0 ∧ r = .g d) : AwaitsLast id dst left val s
    (s.inFlight accs raises n (Thread.issued · id now prod dst none left val load false close)) := by
  unfold AwaitsLast
  rw [State.me_inFlight]
  refine ⟨?_, fun r hr => ?_⟩
  · rw [Thread.issued_eq]
    exact ⟨_, rfl, rfl, congrArg BitVec.toNat s.me.enterRegion_pc, rfl, rfl, rfl, rfl, rfl, rfl, rfl⟩
  · obtain ⟨d, hd0, rfl⟩ := hd r hr
    subst hr
    rw [Thread.full_issued]
    exact Thread.full_setFull_g _ _ hd0

end

/-- Gd, but for G0, is empty. -/
theorem longG_some {d : BitVec 4} {r : RegRef} (h : longG d = some r) : d ≠ 0 ∧ r = .g d := by
  unfold longG at h
  split at h
  · cases h
  next hd =>
    cases h
    exact ⟨hd, rfl⟩

end Sys2Proof.Machine

/-- R92, R93 and R212 to R214: a scalar memory instruction of one answer. -/
theorem memoryIssue : Claims.MemoryIssue := by
  intro i s g rs d op ea n tag hi hg hr hd ha hx ht
  obtain ⟨prod, load, close, he⟩ := exec_accessForm hi hg hr hd ha hx ht
  obtain ⟨hsends, hhold⟩ := sends_inFlight (s := s) (accs := s.accs ++ [newAccess s op ea n])
    (raises := s.raises) (n := s.nextId + 2)
    (prod := prod) (dst := longG d) (also := none) (left := 1) (val := .g 0) (load := load) (vector := false) (close := close)
    (id := s.nextId) (now := s.taper s.cur.core.node) (rs := [.g d]) (fun k hk => by simp [(longG_some hk).2]) nofun
  exact ⟨_, he, hsends, hhold, rfl, awaitsLast_inFlight fun r hr => ⟨d, longG_some hr⟩⟩

/-- R272: STFL. -/
theorem flaggedStoreIssue : Claims.FlaggedStoreIssue := by
  intro i d a b g n s hi hg hr ha hf hx
  have he : exec i s = .next (s.inFlight (s.accs ++ [newAccess s (.stfl (leBytes (s.me.rG b.r).toNat n)) (s.me.rG a.r) n]) s.raises
      (s.nextId + 2) (Thread.issued · s.nextId (s.taper s.cur.core.node) false none none 2
        (.flag (s.me.rG d.r) 64 s.cur.core.node .awaited) false false true)) := by
    have e : exec i s = stfl n d a b g s := by rcases hi with ⟨rfl, rfl⟩ | ⟨rfl, rfl⟩ <;> rfl
    refine e.trans (congrArg Host.Outcome.next
      ((gatedTrap_go (srcs := [srcG d, srcG a, srcG b]) hg (.inl rfl) hr Thread.allFull_nil).trans
        ((if_neg (not_not.2 (aligned_iff.2 ha))).trans ?_)))
    simp only [Thread.src, hf]
    exact postStore_sends ha hx true _ _
  obtain ⟨hsends, hhold⟩ := sends_inFlight (s := s)
    (accs := s.accs ++ [newAccess s (.stfl (leBytes (s.me.rG b.r).toNat n)) (s.me.rG a.r) n])
    (raises := s.raises) (n := s.nextId + 2) (prod := false) (dst := none) (also := none) (left := 2)
    (val := .flag (s.me.rG d.r) 64 s.cur.core.node .awaited) (load := false)
    (vector := false) (close := true) (id := s.nextId) (now := s.taper s.cur.core.node) (rs := []) nofun nofun
  exact ⟨_, he, hsends, hhold, rfl, awaitsLast_inFlight nofun⟩

/-- Settles O14: behind its checks each instruction is one posted access (`postMine_issued`). -/
theorem scalarMemoryIssue : Obligations.ScalarMemoryIssue := ⟨memoryIssue, flaggedStoreIssue⟩

end

section
/-!
What an accepted access of a scalar instruction does at its home and to its thread (R93, R96, R143, R212 to R214, R218, R377).
-/

open Sys2Proof Sys2Proof.Machine Sys2Proof.Claims

namespace Sys2Proof.Machine

/-! ### Tags and poison marks (R194, R196) -/

theorem mem_insertNat {m : List Nat} {k j : Nat} : j ∈ insertNat m k ↔ j = k ∨ j ∈ m := by
  induction m with
  | nil => simp [insertNat]
  | cons i m ih =>
    rw [insertNat]
    split
    · rw [List.mem_cons]
    · split
      next h => simp [h]
      next => rw [List.mem_cons, ih, List.mem_cons, or_left_comm]

theorem mem_eraseNat {m : List Nat} {k j : Nat} : j ∈ eraseNat m k ↔ j ≠ k ∧ j ∈ m := by
  simp [eraseNat, and_comm]

/-- The word of a key is that of another's where their indices are the same. -/
theorem unit_eq_iff {j k n : Nat} (hn : 0 < n) : j / n * n = k / n * n ↔ j / n = k / n :=
  ⟨fun h => Nat.eq_of_mul_eq_mul_right hn h, fun h => by rw [h]⟩

/-- A tag that is set is that of its word alone. -/
theorem State.isFull_setTag (s : State) (p : Phys) (b : Bool) (q : Phys) :
    (s.setTag p b).isFull q = if q.key / 4 = p.key / 4 then b else s.isFull q := by
  have hunit := unit_eq_iff (j := q.key) (k := p.key) (n := 4) (by decide)
  rw [Bool.eq_iff_iff]
  cases b <;> by_cases h : q.key / 4 = p.key / 4 <;>
    simp [State.setTag, State.isFull, mem_insertNat, mem_eraseNat, hunit, h]

/-- The word behind a word. -/
theorem key_plus_four_div (p : Phys) : (p.plus 4).key / 4 = p.key / 4 + 1 := by rw [Phys.key_plus, Nat.add_div_right _ (by decide)]

/-- Two words in a row are set full. -/
theorem State.isFull_setTag_two (s : State) (p q : Phys) : ((s.setTag p true).setTag (p.plus 4) true).isFull q =
    if q.key / 4 = p.key / 4 + 1 ∨ q.key / 4 = p.key / 4 then true else s.isFull q := by
  rw [State.isFull_setTag, State.isFull_setTag, key_plus_four_div]
  by_cases h : q.key / 4 = p.key / 4 + 1
  · rw [if_pos h, if_pos (.inl h)]
  · simp only [h, false_or, if_false]

/-- A unit that is poisoned. -/
theorem State.isPoisoned_setPoison (s : State) (p q : Phys) :
    (s.setPoison p true).isPoisoned q = (decide (q.key / 64 = p.key / 64) || s.isPoisoned q) := by
  have hunit := unit_eq_iff (j := q.key) (k := p.key) (n := 64) (by decide)
  rw [Bool.eq_iff_iff]
  simp [State.setPoison, State.isPoisoned, mem_insertNat, hunit]

/-! ### Memory that is the same -/

theorem peek_of_sameMemory {s t : State} (h : SameMemory s t) (p : Phys) (n : Nat) : t.peek p n = s.peek p n :=
  congrArg leNat (readBytes_congr fun j _ _ => h.1 j)

theorem isFull_of_empties {s t : State} (h : t.empties = s.empties) (p : Phys) : t.isFull p = s.isFull p := by
  rw [State.isFull, State.isFull, h]

/-- What is stored of a number reads back as its low bytes. -/
theorem peek_storeAt_leBytes (p : Phys) (x n : Nat) (s : State) : (storeAt p (leBytes x n) s).peek p n = x % 2 ^ (8 * n) := by
  have h := peek_storeAt p (leBytes x n) s
  rwa [leBytes_length, leNat_leBytes] at h

theorem onlyBytes_storeAt (p : Phys) (x n : Nat) (s : State) : OnlyBytes p n s (storeAt p (leBytes x n) s) := fun j hj =>
  byteAt_storeAt_of_outside s (by rwa [leBytes_length])

/-! ### An access arrives at its home -/

theorem settleAcc_eq (a : Acc) (s : State) :
    settleAcc a s = { s with accs := (settleAcc a s).accs, fences := (settleAcc a s).fences } := rfl

theorem sameMemory_settleAcc (a : Acc) (s : State) : SameMemory s (settleAcc a s) := ⟨fun _ => rfl, rfl, rfl⟩

/-- What a home performs for a thread: no join, no register read, and nothing of the request port. -/
def AccOp.atHome (op : AccOp) : Prop := op ≠ .join ∧ (∀ n sel, op ≠ .sysreg n sel) ∧ ∀ ws, op ≠ .port ws

section
variable {k pid ln : Nat} {a : Acc} {p : Phys} {s : State}

/-- A unit of the own package arrives. -/
theorem exec_toHome (hk : s.acc? k = some a) (ha : a.agent = .thread pid ln) (hp : a.place = some p)
    (hn : p.node = a.tid.core.node) (hm : mayAccept s a p = true) (hop : a.op.atHome) :
    exec (.memoryAccessAccept k) s = .next (acceptThread a pid ln p s) := by
  obtain ⟨-, hreg, hport⟩ := hop
  refine congrArg Host.Outcome.next ?_
  simp only [hk, ha, hp, hm, not_true, if_false, hn, if_true]

/-- One that is not refused is performed, and its answer comes. -/
theorem exec_arrives (h : Arrives s k a pid p) (hop : a.op.atHome) : exec (.memoryAccessAccept k) s =
    .next (flagNext a.tid a.ctx a.xb pid
      (answer a.tid pid (Pending.take 0 p.node (perform a p (settleAcc a s)).1) (perform a p (settleAcc a s)).2)) := by
  obtain ⟨hk, ha, hp, hn, hm, hpro, hr⟩ := h
  rw [exec_toHome hk ha hp hn hm hop]
  simp only [acceptThread, hpro, Bool.false_eq_true, if_false, hr, hop.1]

end

/-! ### The last answer -/

section
variable {tid : Tid} {pid ln node : Nat} {u : State} {q : Pending} {d : BitVec 4} {x y : W64}

theorem take_g (hv : q.val = .g y) : q.take ln node (.g x) = { q with val := .g x } := by
  simp only [Pending.take, hv]

theorem take_id (v : PVal) (p : Pending) : (p.take ln node v).id = p.id := by rw [Pending.take_eq]

/-- The value of an instruction that fills Gd: it has its last answer, and then fills. -/
theorem answer_value (hd0 : d ≠ 0) (hq : (u.th tid).pend? pid = some q) (hl : q.left = 1) (hr : q.refused = [])
    (hd : q.dst = some (.g d)) (hv : q.val = .g y) (hw : ∀ w ∈ u.waits, w.tid = tid → w.seq ≠ pid) (ctx : W64) (xb : BitVec 20) :
    ∃ t v, flagNext tid ctx xb pid (answer tid pid (Pending.take ln node (.g x)) u) = t ∧
      answer tid pid (Pending.take ln node (.g x)) u = t ∧ SameMemory u t ∧
      exec (.resultFill tid pid) t = .next v ∧ SameMemory t v ∧ (v.th tid).full (.g d) = true ∧ (v.th tid).rG d = x := by
  have htake := take_g (ln := ln) (node := node) (x := x) hv
  have hans := answer_waits (f := Pending.take ln node (.g x)) hq (take_id _) (by rw [htake, hr]) (.inr (by rw [htake, hd]; simp))
  have hpend := pend?_modPending (f := Pending.answered (Pending.take ln node (.g x))) hq (take_id _)
  rw [Pending.answered, htake, hl] at hpend
  rw [hans]
  obtain ⟨v, hx, hmem, -, hfull, hval⟩ := exec_resultFill_g
    (s := modPending tid pid (Pending.answered (Pending.take ln node (.g x))) u) hd0 hw hpend rfl hr rfl hd
  refine ⟨_, v, flagNext_of_plain fun p' hp' fa l n hflag => ?_, rfl, ⟨fun _ => rfl, rfl, rfl⟩, hx, hmem, hfull, hval⟩
  rw [hpend] at hp'
  cases hp'
  cases hflag

/-- The thread has its last answer, and the instruction is no longer pending. -/
def Thread.done (pid : Nat) (f : Pending → Pending) (t : Thread) : Thread :=
  Thread.dropPending { t with pending := mapIf t.pending (fun p => decide (p.id = pid)) (Pending.answered f) } pid

theorem Thread.done_eq (pid : Nat) (f : Pending → Pending) (t : Thread) : t.done pid f = { t with
    pending := (t.done pid f).pending } := rfl

/-- The last answer of an instruction that fills no register. -/
theorem answer_last {f : Pending → Pending} (hq : (u.th tid).pend? pid = some q) (hf : ∀ p, (f p).id = p.id)
    (hr : (f q).refused = []) (hl : q.left = 1) (hd : (f q).dst = none) (ha : (f q).also = none) :
    answer tid pid f u = u.modTh tid (Thread.done pid f) ∧ ((u.modTh tid (Thread.done pid f)).th tid).pend? pid = none := by
  refine ⟨(answer_done hq hf hr hl hd ha).trans (State.modTh_modTh _ _ _ _), ?_⟩
  rw [State.th_modTh]
  exact Thread.pend?_dropPending _ _

end

section
variable {k pid : Nat} {a : Acc} {p : Phys} {s u : State}

/-- The access of an instruction that fills Gd is performed. -/
theorem accept_value {d : BitVec 4} {x : W64} (h : Arrives s k a pid p) (hop : a.op.atHome) (hn : NeedsValue s a.tid pid d)
    (hperf : perform a p (settleAcc a s) = (.g x, u)) (hth : u.threads = s.threads) (hwaits : u.waits = s.waits) :
    ∃ t v, exec (.memoryAccessAccept k) s = .next t ∧ SameMemory u t ∧ exec (.resultFill a.tid pid) t = .next v ∧ SameMemory t v ∧
      (v.th a.tid).full (.g d) = true ∧ (v.th a.tid).rG d = x := by
  obtain ⟨hd0, ⟨q, hq, hl, hr, hd, -, hv⟩, hw⟩ := hn
  have hq' : (u.th a.tid).pend? pid = some q := by rwa [State.th, hth]
  obtain ⟨t, v, hflag, -, hmem, hx, hmem', hfull, hval⟩ :=
    answer_value (ln := 0) (node := p.node) (x := x) hd0 hq' hl hr hd hv (by rwa [hwaits]) a.ctx a.xb
  have he := exec_arrives h hop
  rw [hperf, hflag] at he
  exact ⟨t, v, he, hmem, hx, hmem', hfull, hval⟩

/-- The access of an instruction that fills no register is performed. -/
theorem accept_last (h : Arrives s k a pid p) (hop : a.op.atHome) (hn : NeedsAnswer s a.tid pid)
    (hperf : perform a p (settleAcc a s) = (.g 0, u)) (hpend : (u.th a.tid).pend? pid = (s.th a.tid).pend? pid) :
    ∃ f, exec (.memoryAccessAccept k) s = .next (u.modTh a.tid (Thread.done pid f)) ∧
      ((u.modTh a.tid (Thread.done pid f)).th a.tid).pend? pid = none := by
  obtain ⟨q, hq, hl, hr, hd, ha, hv⟩ := hn
  have htake := take_g (ln := 0) (node := p.node) (x := 0) hv
  obtain ⟨he, hnone⟩ := answer_last (f := Pending.take 0 p.node (.g 0)) (hpend.trans hq) (take_id _) (by rw [htake, hr]) hl
    (by rw [htake, hd]) (by rw [htake, ha])
  refine ⟨_, ?_, hnone⟩
  rw [exec_arrives h hop, hperf, he, flagNext_of_plain fun p' hp' => by rw [hnone] at hp'; cases hp']

end

/-! ### What the home performs -/

section
variable {a : Acc} {p : Phys} {s : State}

theorem storeAt_threads (p : Phys) (bs : List Byte) (s : State) : (storeAt p bs s).threads = s.threads := by rw [storeAt_eq]; rfl
theorem storeAt_waits (p : Phys) (bs : List Byte) (s : State) : (storeAt p bs s).waits = s.waits := by rw [storeAt_eq]; rfl
theorem storeAt_empties (p : Phys) (bs : List Byte) (s : State) : (storeAt p bs s).empties = s.empties := by rw [storeAt_eq]; rfl
theorem storeAt_poisoned (p : Phys) (bs : List Byte) (s : State) : (storeAt p bs s).poisoned = s.poisoned := by
  rw [storeAt_eq]; rfl

theorem perform_load {sx : Bool} (h : a.op = .load sx) : perform a p s = (.g (extendLoad sx a.len (s.peek p a.len)), s) := by
  simp only [perform, h]

theorem perform_atom {o : AtomOp} {v e : W64} (h : a.op = .atom o v e) : perform a p s =
    (.g (BitVec.ofNat 64 (s.peek p a.len)),
      storeAt p (leBytes (o.eval a.len (s.peek p a.len) (v.toNat % 2 ^ (8 * a.len)) (e.toNat % 2 ^ (8 * a.len))) a.len) s) := by
  simp only [perform, h, rmw]

theorem perform_red {o : AtomOp} {v : W64} (h : a.op = .red o v) : perform a p s =
    (.g 0, storeAt p (leBytes (o.eval a.len (s.peek p a.len) (v.toNat % 2 ^ (8 * a.len)) 0) a.len) s) := by
  have h0 : (0 : W64).toNat % 2 ^ (8 * a.len) = 0 := Nat.zero_mod _
  simp only [perform, h, rmw, h0]

theorem perform_sete (h : a.op = .sete) : perform a p s = (.g 0, s.setTag p false) := by simp only [perform, h]
theorem perform_setf (h : a.op = .setf) : perform a p s = (.g 0, fillWords [p] s) := by simp only [perform, h]
theorem perform_stf {bs : List Byte} (h : a.op = .stf bs) :
    perform a p s = (.g 0, fillWords (wordsOf p bs.length) (storeAt p bs s)) := by simp only [perform, h]

/-- A store to memory; one of a whole unit ends its poison. -/
theorem perform_store {bs : List Byte} (h : a.op = .store bs)
    (hr : ∃ c j, p.region = .scratch c j ∨ p.region = .bstack c ∨ p.region = .hbm) :
    perform a p s = (.g 0, { storeAt p bs s with poisoned := (perform a p s).2.poisoned }) := by
  have hst : acceptStore p bs s = storeAt p bs s := by
    unfold acceptStore
    split
    next c j hc => obtain ⟨c', j', hr | hr | hr⟩ := hr <;> rw [hc] at hr <;> cases hr
    · rfl
  simp only [perform, h, hst]
  split <;> rfl

end

/-! ### Words that nothing waits on -/

/-- The passes over a word's own queue and, for an upper word, over the doubleword waits of the lower word. -/
theorem serveWord_eq (p : Phys) (s : State) : serveWord p s =
    if p.key % 8 = 4 then
      servePass { p with off := p.off - 4 }
        (wordQueue (servePass p (wordQueue s p false) s) { p with off := p.off - 4 } true) (servePass p (wordQueue s p false) s)
    else servePass p (wordQueue s p false) s := rfl

theorem serveWords_cons (p : Phys) (ps : List Phys) : serveWords (p :: ps) = fun s => serveWords ps (serveWord p s) := rfl

section
variable {p : Phys} {s : State}

theorem wordQueue_nil (h : s.waits = []) (b : Bool) : wordQueue s p b = [] := by rw [wordQueue, h, List.filter_nil]

theorem serveWord_of_no_waits (h : s.waits = []) : serveWord p s = s := by
  rw [serveWord_eq, wordQueue_nil h, servePass, wordQueue_nil h, servePass, ite_self]

theorem fillWords_of_no_waits (ps : List Phys) (h : s.waits = []) : fillWords ps s = ps.foldl (fun s p => s.setTag p true) s := by
  have hw : ∀ (qs : List Phys) (t : State), (qs.foldl (fun s p => s.setTag p true) t).waits = t.waits := by
    intro qs
    induction qs with
    | nil => exact fun _ => rfl
    | cons q qs ih => exact fun t => (ih _).trans (State.setTag_waits _ _ _)
  have hserve : ∀ (qs : List Phys) (t : State), t.waits = [] → serveWords qs t = t := by
    intro qs
    induction qs with
    | nil => exact fun _ _ => rfl
    | cons q qs ih =>
      intro t ht
      rw [serveWords_cons]
      exact (congrArg (serveWords qs) (serveWord_of_no_waits ht)).trans (ih t ht)
  rw [fillWords, hserve _ _ ((hw _ _).trans h)]

end

/-- The one word of STFW. -/
theorem wordsOf_four (p : Phys) (ha : p.off % 4 = 0) : wordsOf p 4 = [p] := by
  have e1 : (p.off + 4 + 3) / 4 - p.off / 4 = 1 := by omega
  have e2 : p.off / 4 * 4 = p.off := by omega
  simp [wordsOf, e1, e2]

/-- The two words of STFD. -/
theorem wordsOf_eight (p : Phys) (ha : p.off % 8 = 0) : wordsOf p 8 = [p, p.plus 4] := by
  have e1 : (p.off + 8 + 3) / 4 - p.off / 4 = 2 := by omega
  have e2 : p.off / 4 * 4 = p.off := by omega
  have e3 : (p.off / 4 + 1) * 4 = p.off + 4 := by omega
  simp [wordsOf, e1, e2, e3, List.range_succ, Phys.plus]

end Sys2Proof.Machine

/-- R93 and R213: LD and the atomics. -/
theorem loadAcceptance : Claims.LoadAcceptance := by
  intro k a pid p d s h hn
  refine ⟨fun sx hop => ?_, fun o v e hop => ?_⟩
  · have hat : a.op.atHome := by rw [hop]; exact ⟨nofun, nofun, nofun⟩
    obtain ⟨t, v, he, hmem, hx, hmem', hfull, hval⟩ := accept_value h hat hn (perform_load hop) rfl rfl
    have hmt := sameMemory_trans (sameMemory_settleAcc a s) hmem
    exact ⟨t, v, he, hmt, hx, sameMemory_trans hmt hmem', hfull, hval⟩
  · have hat : a.op.atHome := by rw [hop]; exact ⟨nofun, nofun, nofun⟩
    obtain ⟨t, w, he, hmem, hx, hmem', hfull, hval⟩ := accept_value h hat hn (perform_atom hop) (storeAt_threads _ _ _)
      (storeAt_waits _ _ _)
    refine ⟨t, w, he, fun j hj => ?_, ?_, ?_, ?_, hx, hmem', hfull, hval⟩
    · exact (hmem.1 j).trans (onlyBytes_storeAt p _ _ _ j hj)
    · exact (peek_of_sameMemory hmem p _).trans (peek_storeAt_leBytes p _ _ _)
    · exact hmem.2.1.trans (storeAt_empties _ _ _)
    · exact hmem.2.2.trans (storeAt_poisoned _ _ _)

/-- R93, R212 and R214: ST, the reductions, SETE, SETF, STFW and STFD. -/
theorem storeAcceptance : Claims.StoreAcceptance := by
  intro k a pid p s h hn hreg
  have pend : ∀ {u : State}, u.threads = s.threads → (u.th a.tid).pend? pid = (s.th a.tid).pend? pid := fun hu => by
    rw [State.th, hu, State.th]
  refine ⟨fun x n hop => ?_, fun o v hop => ?_, fun hop => ?_, fun hop hw => ?_, fun x n hop hlen hoff hw => ?_⟩
  all_goals have hat : a.op.atHome := by rw [hop]; exact ⟨nofun, nofun, nofun⟩
  · obtain ⟨f, he, hdone⟩ := accept_last h hat hn (perform_store hop hreg) (pend (storeAt_threads _ _ _))
    exact ⟨_, he, fun j hj => onlyBytes_storeAt p x n _ j hj, peek_storeAt_leBytes p x n _, storeAt_empties _ _ _, hdone⟩
  · obtain ⟨f, he, hdone⟩ := accept_last h hat hn (perform_red hop) (pend (storeAt_threads _ _ _))
    exact ⟨_, he, fun j hj => onlyBytes_storeAt p _ a.len _ j hj, storeAt_empties _ _ _, peek_storeAt_leBytes p _ a.len _,
      storeAt_poisoned _ _ _, hdone⟩
  · obtain ⟨f, he, hdone⟩ := accept_last h hat hn (perform_sete hop) (pend (State.setTag_threads _ _ _))
    have hfull := (settleAcc a s).isFull_setTag p false
    exact ⟨_, he, fun j => rfl, (hfull p).trans (if_pos rfl), fun q hq => (hfull q).trans (if_neg hq), hdone⟩
  · have hperf := perform_setf (p := p) (s := settleAcc a s) hop
    rw [fillWords_of_no_waits (s := settleAcc a s) [p] hw] at hperf
    obtain ⟨f, he, hdone⟩ := accept_last h hat hn hperf (pend (State.setTag_threads (settleAcc a s) p true))
    have hfull := (settleAcc a s).isFull_setTag p true
    exact ⟨_, he, fun j => rfl, (hfull p).trans (if_pos rfl), fun q hq => (hfull q).trans (if_neg hq), hdone⟩
  · have hmem : ∀ q : Phys, (storeAt p (leBytes x n) (settleAcc a s)).isFull q = s.isFull q := fun q =>
      isFull_of_empties (storeAt_empties _ _ _) q
    have hth := pend (storeAt_threads p (leBytes x n) (settleAcc a s))
    have hperf := perform_stf (p := p) (s := settleAcc a s) hop
    have hnone : (storeAt p (leBytes x n) (settleAcc a s)).waits = [] := (storeAt_waits _ _ _).trans hw
    have honly := onlyBytes_storeAt p x n (settleAcc a s)
    have hpeek := peek_storeAt_leBytes p x n (settleAcc a s)
    rw [leBytes_length] at hperf
    generalize storeAt p (leBytes x n) (settleAcc a s) = m at hmem hth hperf hnone honly hpeek
    rcases hlen with rfl | rfl
    · rw [wordsOf_four p hoff, fillWords_of_no_waits _ hnone] at hperf
      obtain ⟨f, he, hdone⟩ := accept_last h hat hn hperf hth
      have hlow := m.isFull_setTag p true
      exact ⟨_, he, honly, hpeek, (hlow p).trans (if_pos rfl), nofun, fun q hq _ =>
        ((hlow q).trans (if_neg hq)).trans (hmem q), hdone⟩
    · rw [wordsOf_eight p hoff, fillWords_of_no_waits _ hnone] at hperf
      obtain ⟨f, he, hdone⟩ := accept_last h hat hn hperf hth
      have hfull := m.isFull_setTag_two p
      exact ⟨_, he, honly, hpeek, (hfull p).trans (if_pos (.inr rfl)),
        fun _ => (hfull _).trans (if_pos (.inl (key_plus_four_div p))),
        fun q hq hq' => (hfull q).trans ((if_neg (not_or.2 ⟨hq' rfl, hq⟩)).trans (hmem q)), hdone⟩

end

section
/-!
Waits that a fill of their word ends (R140, R143), and all of the acceptance of scalar accesses.
-/

open Sys2Proof Sys2Proof.Machine Sys2Proof.Claims

namespace Sys2Proof.Machine

/-! ### A predicate that no deferred predicate writes (R49) -/

/-- No deferred predicate of the thread is to be written to Qk. -/
def Thread.spares (t : Thread) (k : BitVec 4) : Prop := ∀ e ∈ t.deferredQ, e.q ≠ k

/-- Qk is full in both threads or in neither, with the same value. -/
def Thread.sameQ (t u : Thread) (k : BitVec 4) : Prop := u.full (.q k) = t.full (.q k) ∧ u.rQ k = t.rQ k

section
variable {t : Thread} {k : BitVec 4}

theorem Thread.spares_note (h : t.spares k) (r : RegRef) (x : W64) : (t.note r x).spares k := by
  intro e he
  obtain ⟨e', he', rfl⟩ := List.mem_map.1 he
  exact h e' he'

theorem Thread.sameQ_wQ {j : BitVec 4} (h : j ≠ k) (b : Bool) : t.sameQ (t.wQ j b) k :=
  ⟨congrArg Prod.fst ((Thread.mark_wQ t j k b).trans (if_neg h.symm)), (Thread.rQ_wQ t j k b).trans (if_neg fun e => h e.1.symm)⟩

/-- Deferred predicates that settle leave Qk alone. -/
theorem Thread.settle_spares (h : t.spares k) (n : Nat) : (t.settle n).spares k ∧ t.sameQ (t.settle n) k := by
  induction n generalizing t with
  | zero => exact ⟨h, rfl, rfl⟩
  | succ n ih =>
    unfold Thread.settle
    split
    next => exact ⟨h, rfl, rfl⟩
    next d hd =>
      have hkeep : ({ t with deferredQ := t.deferredQ.filter (fun e => e.q ≠ d.q) } : Thread).spares k := fun e he =>
        h e (List.mem_of_mem_filter he)
      have hw : (({ t with deferredQ := t.deferredQ.filter (fun e => e.q ≠ d.q) } : Thread).wQ d.q (d.ready?.getD false)).spares
          k := by
        rw [Thread.wQ_eq]
        exact hkeep
      obtain ⟨hs, hfull, hval⟩ := ih (Thread.spares_note hw (.q d.q) (if d.ready?.getD false then 1 else 0))
      obtain ⟨hfull', hval'⟩ := Thread.sameQ_wQ (t := { t with deferredQ := t.deferredQ.filter (fun e => e.q ≠ d.q) })
        (h d (List.mem_of_find?_eq_some hd)) (d.ready?.getD false)
      exact ⟨hs, hfull.trans hfull', hval.trans hval'⟩

theorem Thread.filled_spares (h : t.spares k) (r : RegRef) : (t.filled r).spares k ∧ t.sameQ (t.filled r) k :=
  Thread.settle_spares (Thread.spares_note h r _) _

theorem Thread.fillG_spares (h : t.spares k) (d : BitVec 4) (x : W64) : (t.fillG d x).spares k := by
  refine (Thread.filled_spares ?_ _).1
  rw [Thread.wG_eq]
  exact h

/-- A filled predicate holds its value. -/
theorem Thread.fillQ_spares (h : t.spares k) : (t.fillQ k true).full (.q k) = true ∧ (t.fillQ k true).rQ k = true := by
  have hw : (t.wQ k true).spares k := by
    rw [Thread.wQ_eq]
    exact h
  obtain ⟨-, hfull, hval⟩ := Thread.filled_spares hw (.q k)
  refine ⟨hfull.trans (congrArg Prod.fst ((Thread.mark_wQ t k k true).trans (if_pos rfl))), hval.trans ?_⟩
  rw [Thread.rQ_wQ]
  by_cases hk : k = 0
  · rw [if_neg fun e => e.2 hk, hk]
    rfl
  · rw [if_pos ⟨rfl, hk⟩]

/-! ### The thread of a wait that succeeds -/

/-- The thread of a wait that succeeds with the value `x` for Gd. -/
def Thread.served (d q : BitVec 4) (x : W64) (t : Thread) : Thread := (({ t with hold := .none } : Thread).fillG d x).fillQ q true

theorem Thread.served_eq (d q : BitVec 4) (x : W64) (t : Thread) : t.served d q x = { t with
    hold := .none, g := (t.wG d x).g, q := (t.served d q x).q, deferredQ := (t.served d q x).deferredQ } := by
  have hg : (({ t with hold := .none } : Thread).wG d x).g = (t.wG d x).g := by
    unfold Thread.wG
    split <;> rfl
  unfold Thread.served
  rw [Thread.fillQ_eq, Thread.fillG_eq, hg]

/-- It runs on with Gd and Qn full. -/
theorem Thread.served_registers {q : BitVec 4} (h : t.spares q) (d : BitVec 4) (x : W64) :
    (t.served d q x).hold = .none ∧ (t.served d q x).full (.g d) = true ∧ (t.served d q x).rG d = (if d = 0 then 0 else x) ∧
      (t.served d q x).full (.q q) = true ∧ (t.served d q x).rQ q = true := by
  have h' : ({ t with hold := .none } : Thread).spares q := h
  have hg : (t.served d q x).g = (({ t with hold := .none } : Thread).fillG d x).g := by rw [Thread.served, Thread.fillQ_eq]
  refine ⟨by rw [Thread.served_eq], ?_, ?_, Thread.fillQ_spares (Thread.fillG_spares h' d x)⟩
  · rw [Thread.full_g_congr hg, Thread.full_fillG]
  · rw [Thread.rG_congr hg, Thread.rG_fillG]

end

/-! ### Two threads that may share their entry of the state -/

section
variable {s : State} {tid x : Tid} {f : Thread → Thread} {pid : Nat} {q : Pending} {y : Thread}

theorem State.th_of_look (h : s.threads.look (tidKey tid) = some y) : s.th tid = y := congrArg (·.getD (Thread.resetAt tid)) h

theorem State.look_modTh_self : (s.modTh tid f).threads.look (tidKey tid) = some (f (s.th tid)) := Map.look_set_self _ _ _

theorem State.th_modTh_ne (h : tidKey x ≠ tidKey tid) : (s.modTh tid f).th x = s.th x := Map.get_set_ne h

/-- A thread with something pending has an entry. -/
theorem State.look_of_pend (h : (s.th tid).pend? pid = some q) : s.threads.look (tidKey tid) = some (s.th tid) := by
  cases hl : s.threads.look (tidKey tid) with
  | some y => rw [State.th_of_look hl]
  | none =>
    have hreset : (Thread.resetAt tid).pending = [] := by
      unfold Thread.resetAt
      split <;> rfl
    have hth : s.th tid = Thread.resetAt tid := congrArg (·.getD (Thread.resetAt tid)) hl
    rw [hth, Thread.pend?, hreset] at h
    cases h

/-- A change of one thread's pending instructions changes no more than that of any thread with an entry. -/
theorem State.th_modTh_pending (hf : ∀ t, f t = { t with pending := (f t).pending }) (hx : s.threads.look (tidKey x) = some y) :
    ∃ l, (s.modTh tid f).th x = { y with pending := l } := by
  by_cases hk : tidKey x = tidKey tid
  · have hy : s.th tid = y := State.th_of_look (hk ▸ hx)
    refine ⟨(f y).pending, State.th_of_look ?_⟩
    rw [hk, State.look_modTh_self, hy, ← hf]
  · exact ⟨y.pending, (State.th_modTh_ne hk).trans (State.th_of_look hx)⟩

/-- A change of a thread that keeps its pending instructions keeps those of every thread that has one pending. -/
theorem State.pend?_modTh (hf : ∀ t, (f t).pending = t.pending) (h : (s.th tid).pend? pid = some q) :
    ((s.modTh x f).th tid).pend? pid = (s.th tid).pend? pid := by
  by_cases hk : tidKey tid = tidKey x
  · have hx : s.th x = s.th tid := State.th_of_look (hk ▸ State.look_of_pend h)
    have ht : (s.modTh x f).th tid = f (s.th x) := State.th_of_look (hk ▸ State.look_modTh_self)
    rw [ht, hx, Thread.pend?, hf, ← Thread.pend?]
  · rw [State.th_modTh_ne hk]

end

/-! ### Passes over a queue (R143) -/

section
variable {w : QWait} {d : BitVec 4} {p : Phys} {s : State} {x : W64}

theorem servePass_nil (p : Phys) (s : State) : servePass p [] s = s := rfl

/-- A pass serves a wait that holds, and ends with it if it consumes the word. -/
theorem servePass_cons {ws : List QWait} (h : w.holds s p = some x) : servePass p (w :: ws) s =
    if w.consumes then endWait w true (some x) (w.consume p s) else servePass p ws (endWait w true (some x) (w.consume p s)) := by
  rw [servePass, h]

/-- A wait that writes Gd ends with success. -/
theorem endWait_served (hd : w.gd = some d) : endWait w true (some x) s =
    fillTh w.tid (Thread.served d w.q x) { s with waits := s.waits.filter (fun y => y.seq ≠ w.seq) } := by
  unfold endWait
  rw [hd]
  rfl

theorem fillTh_waits (tid : Tid) (f : Thread → Thread) (s : State) : (fillTh tid f s).waits = s.waits := by
  rw [fillTh_eq]
  rfl

/-- Where no doubleword wait is left on the lower word, a word is served by one pass. -/
theorem serveWord_of_single {t : State} (ht : servePass p (wordQueue s p false) s = t) (hw : ∀ w ∈ t.waits, w.double = false) :
    serveWord p s = t := by
  have hlow : wordQueue t { p with off := p.off - 4 } true = [] := List.filter_eq_nil_iff.2 fun w hmem => by simp [hw w hmem]
  rw [serveWord_eq, ht, hlow, servePass_nil, ite_self]

/-- A queued LDSW or LDCW of Gd on the word. -/
def QWait.awaits (w : QWait) (p : Phys) (d : BitVec 4) : Prop :=
  w.isQueued = true ∧ w.place = some p ∧ (w.kind = .ldsw d ∨ w.kind = .ldcw d)

theorem QWait.awaits.inQueue (h : w.awaits p d) : (w.isQueued && w.onWord && (w.double || !false) &&
    (match w.place with | some q => decide (q.key = p.key) | none => false)) = true ∧ w.double = false := by
  obtain ⟨hq, hp, hk⟩ := h
  rcases hk with hk | hk <;> simp [hq, hp, QWait.onWord, QWait.double, hk]

theorem QWait.awaits.gd_eq (h : w.awaits p d) : w.gd = some d := by
  obtain ⟨-, -, hk | hk⟩ := h <;> simp only [QWait.gd, hk]

/-- On a full word it takes the word's value. -/
theorem QWait.awaits.holds_eq (h : w.awaits p d) (hf : s.isFull p = true) : w.holds s p = some (BitVec.ofNat 64 (s.peek p 4)) := by
  obtain ⟨-, -, hk | hk⟩ := h <;> simp only [QWait.holds, hk, hf, if_true]

/-- What it leaves of the word that was set full. -/
theorem QWait.awaits.consume_eq (h : w.awaits p d) (s : State) : (w.consume p (s.setTag p true)).threads = s.threads ∧
    (w.consume p (s.setTag p true)).waits = s.waits ∧ (w.consume p (s.setTag p true)).mem = s.mem ∧
    (w.consume p (s.setTag p true)).isFull p = !w.consumes := by
  obtain ⟨-, -, hk | hk⟩ := h
  · simp only [QWait.consume, QWait.consumes, hk]
    exact ⟨rfl, rfl, rfl, (s.isFull_setTag p true p).trans (if_pos rfl)⟩
  · simp only [QWait.consume, QWait.consumes, hk]
    exact ⟨rfl, rfl, rfl, ((s.setTag p true).isFull_setTag p false p).trans (if_pos rfl)⟩

/-- The state behind a word's fill that the first wait on it takes. -/
def State.servedBy (s : State) (p : Phys) (w : QWait) (d : BitVec 4) : State :=
  fillTh w.tid (Thread.served d w.q (BitVec.ofNat 64 (s.peek p 4)))
    { w.consume p (s.setTag p true) with waits := s.waits.filter (fun y => y.seq ≠ w.seq) }

/-- A word with nothing but LDSW and LDCW queued on it: the first of them takes it, if it consumes the word or is alone. -/
theorem fillWords_served {ws : List QWait} (h : w.awaits p d) (hws : s.waits = w :: ws) (hrest : ∀ v ∈ ws, ∃ e, v.awaits p e)
    (hone : w.consumes = true ∨ ws = []) : fillWords [p] s = s.servedBy p w d := by
  have hall : ∀ v ∈ s.waits, ∃ e, v.awaits p e := by
    rw [hws]
    exact List.forall_mem_cons.2 ⟨⟨d, h⟩, hrest⟩
  have hqueue : wordQueue (s.setTag p true) p false = w :: ws :=
    (List.filter_eq_self.2 fun v hv => (hall v hv).choose_spec.inQueue.1).trans hws
  have hholds := h.holds_eq (s := s.setTag p true) ((s.isFull_setTag p true p).trans (if_pos rfl))
  obtain ⟨-, hwaits, -, -⟩ := h.consume_eq s
  have hend : endWait w true (some (BitVec.ofNat 64 (s.peek p 4))) (w.consume p (s.setTag p true)) = s.servedBy p w d := by
    rw [endWait_served h.gd_eq, hwaits]
    rfl
  refine serveWord_of_single (s := s.setTag p true) ?_ fun v hv => ?_
  · rw [hqueue, servePass_cons hholds]
    refine Eq.trans ?_ hend
    rcases hone with hc | rfl
    · rw [if_pos hc]
      rfl
    · rw [servePass_nil, ite_self]
      rfl
  · rw [State.servedBy, fillTh_waits] at hv
    exact (hall v (List.mem_of_mem_filter hv)).choose_spec.inQueue.2

/-- It differs from the state before in the wait, in its thread and in the word's tag. -/
theorem State.servedBy_frame (h : w.awaits p d) (s : State) : (∀ j, (s.servedBy p w d).byteAt j = s.byteAt j) ∧
    (s.servedBy p w d).waits = s.waits.filter (fun y => y.seq ≠ w.seq) ∧ (s.servedBy p w d).isFull p = (!w.consumes) ∧
    (s.servedBy p w d).threads = (s.modTh w.tid (Thread.served d w.q (BitVec.ofNat 64 (s.peek p 4)))).threads := by
  obtain ⟨hthreads, -, hmem, hfull⟩ := h.consume_eq s
  obtain ⟨hbytes, hempties, -⟩ := sameMemory_fillTh w.tid (Thread.served d w.q (BitVec.ofNat 64 (s.peek p 4)))
    { w.consume p (s.setTag p true) with waits := s.waits.filter (fun y => y.seq ≠ w.seq) }
  refine ⟨fun j => (hbytes j).trans ?_, fillTh_waits _ _ _, (isFull_of_empties hempties p).trans hfull, ?_⟩
  · simp only [State.byteAt, hmem]
  · rw [State.servedBy, fillTh_eq]
    simp only [State.modTh, State.setTh, State.th, hthreads]

/-- A SETF on such a word. -/
theorem setf_serves {k pid : Nat} {a : Acc} {ws : List QWait} (harr : Arrives s k a pid p) (hn : NeedsAnswer s a.tid pid)
    (hop : a.op = .setf) (hnd : NotDeferred s w.tid w.q) (h : w.awaits p d) (hws : s.waits = w :: ws)
    (hrest : ∀ v ∈ ws, ∃ e, v.awaits p e) (hone : w.consumes = true ∨ ws = []) :
    ∃ t, exec (.memoryAccessAccept k) s = .next t ∧ (∀ j, t.byteAt j = s.byteAt j) ∧
      t.waits = (w :: ws).filter (fun y => y.seq ≠ w.seq) ∧ t.isFull p = (!w.consumes) ∧ (t.th w.tid).hold = .none ∧
      (t.th w.tid).full (.g d) = true ∧ (t.th w.tid).rG d = (if d = 0 then 0 else BitVec.ofNat 64 (s.peek p 4)) ∧
      (t.th w.tid).full (.q w.q) = true ∧ (t.th w.tid).rQ w.q = true := by
  have hat : a.op.atHome := by rw [hop]; exact ⟨nofun, nofun, nofun⟩
  have hperf := perform_setf (p := p) (s := settleAcc a s) hop
  rw [fillWords_served (s := settleAcc a s) h hws hrest hone] at hperf
  obtain ⟨hbytes, hwaits, hfull, hthreads⟩ := State.servedBy_frame h (settleAcc a s)
  have hpend : (((settleAcc a s).servedBy p w d).th a.tid).pend? pid = (s.th a.tid).pend? pid := by
    obtain ⟨q, hq, -⟩ := hn
    rw [State.th, hthreads, ← State.th]
    exact State.pend?_modTh (fun t => by rw [Thread.served_eq]) (s := settleAcc a s) hq
  obtain ⟨f, he, -⟩ := accept_last harr hat hn hperf hpend
  have hlook : ((settleAcc a s).servedBy p w d).threads.look (tidKey w.tid) =
      some ((s.th w.tid).served d w.q (BitVec.ofNat 64 (s.peek p 4))) := by
    rw [hthreads]
    exact State.look_modTh_self
  obtain ⟨l, hl⟩ := State.th_modTh_pending (f := Thread.done pid f) (tid := a.tid) (Thread.done_eq pid f) hlook
  refine ⟨_, he, hbytes, hwaits.trans (congrArg _ hws), hfull, ?_⟩
  rw [hl]
  exact Thread.served_registers hnd d _

end

end Sys2Proof.Machine

/-- R143: LDSW and LDCW queued on a word that SETF fills. -/
theorem waiterService : Claims.WaiterService := by
  intro k a pid p w d s harr hn hop hq hp hnd
  refine ⟨fun hk hws => ?_, fun hk w₂ d₂ hws => ?_⟩
  · have hc : w.consumes = false := by simp only [QWait.consumes, hk]
    obtain ⟨t, he, hmem, hwaits, hfull, hregs⟩ := setf_serves harr hn hop hnd ⟨hq, hp, .inl hk⟩ hws
      (fun v hv => absurd hv List.not_mem_nil) (.inr rfl)
    exact ⟨t, he, hmem, by simpa using hwaits, by rw [hfull, hc]; rfl, hregs⟩
  · have hc : w.consumes = true := by simp only [QWait.consumes, hk]
    rcases hws with hws | ⟨hws, hq₂, hp₂, hk₂, hne⟩
    · obtain ⟨t, he, hmem, hwaits, hfull, hregs⟩ := setf_serves harr hn hop hnd ⟨hq, hp, .inr hk⟩ hws
        (fun v hv => absurd hv List.not_mem_nil) (.inr rfl)
      exact ⟨t, he, hmem, by simpa [hws] using hwaits, by rw [hfull, hc]; rfl, hregs⟩
    · obtain ⟨t, he, hmem, hwaits, hfull, hregs⟩ := setf_serves harr hn hop hnd ⟨hq, hp, .inr hk⟩ hws
        (List.forall_mem_singleton.2 ⟨d₂, hq₂, hp₂, .inr hk₂⟩) (.inl hc)
      exact ⟨t, he, hmem, by simpa [hws, hne] using hwaits, by rw [hfull, hc]; rfl, hregs⟩

/-- Settles O16: what a home performs (`perform_load`, `perform_store` and the others), and the last answer of the instruction. -/
theorem scalarAcceptance : Obligations.ScalarAcceptance := ⟨loadAcceptance, storeAcceptance, waiterService⟩

end

section
/-!
Register reads, refused accesses and the request port (R96, R218, R308, R377).
-/

open Sys2Proof Sys2Proof.Machine Sys2Proof.Claims

namespace Sys2Proof.Machine

/-! ### A fault that the last answer brings (R308) -/

/-- The thread has its last answer, with a fault that is reported to it. -/
def Thread.reported (pid : Nat) (f : Pending → Pending) (e : Answer) (t : Thread) : Thread :=
  { t with pending := mapIf t.pending (fun p => decide (p.id = pid)) (Pending.answered f), answers := t.answers ++ [e] }

section
variable {tid : Tid} {pid : Nat} {s : State} {q : Pending} {f : Pending → Pending} {g : FaultInfo}

theorem answer_reported (hq : (s.th tid).pend? pid = some q) (hf : ∀ p, (f p).id = p.id) (hl : q.left = 1)
    (hg : (f q).fault = some g) (hv : (f q).void = false) :
    answer tid pid f s = s.modTh tid (Thread.reported pid f ⟨g, (f q).word, (f q).region, pid, (f q).load, false⟩) := by
  have hp := pend?_modPending (f := Pending.answered f) hq hf
  have hfault : (Pending.answered f q).fault = some g := hg
  have hvoid : (Pending.answered f q).void = false := hv
  have hleft : (Pending.answered f q).left = 0 := by rw [Pending.answered, hl]
  rw [answer_eq]
  simp only [settlePending, hp, hfault, hleft, hvoid, ne_eq, not_true, if_false, Bool.false_eq_true]
  exact State.modTh_modTh _ _ _ _

/-- The fault of an instruction of one access that is refused. -/
theorem Pending.fault_single (hv : q.vector = false) (h : q.refused = [(0, g)]) : q.fault = some g := by
  simp [Pending.fault, h, hv]

end

/-! ### The record of the request port (R377) -/

theorem toNat_append_eq {m n : Nat} (x : BitVec m) (y : BitVec n) : (x ++ y).toNat = x.toNat * 2 ^ n + y.toNat := by
  rw [BitVec.toNat_append, ← Nat.shiftLeft_add_eq_or_of_lt y.isLt, Nat.shiftLeft_eq]

section
variable (slot : Nat) (ws : List W32) {i : Nat}

theorem portRecord_length : (portRecord slot ws).length = 8 := by rw [portRecord, List.length_map, List.length_range]

/-- A word of the record: two lanes, but for the third word's highest bits. -/
theorem portRecord_getD (hi : i < 8) (h3 : i ≠ 3) :
    (portRecord slot ws).getD i (0 : W64) = (ws.getD (2 * i + 1) 0 ++ ws.getD (2 * i) 0 : BitVec (32 + 32)) := by
  have hrow : (portRecord slot ws).getD i (0 : W64) =
      BitVec.ofNat 64 ((nth 0 ws (2 * i)).toNat + (nth 0 ws (2 * i + 1)).toNat * 2 ^ 32) := by
    simp [portRecord, List.getElem?_range hi, h3]
  rw [hrow]
  refine BitVec.eq_of_toNat_eq ?_
  rw [toNat_append_eq, BitVec.toNat_ofNat]
  have hlow := (nth 0 ws (2 * i)).isLt
  have hhigh := (nth 0 ws (2 * i + 1)).isLt
  simp only [nth] at hlow hhigh ⊢
  omega

/-- KIND 1 and the slot over the highest bits of the third word. -/
theorem portRecord_third : (portRecord slot ws).getD 3 (0 : W64) =
    (BitVec.ofNat 8 (16 + slot % 16) ++ (ws.getD 7 0).setWidth 24 ++ ws.getD 6 0 : BitVec (8 + 24 + 32)) := by
  have hrow : (portRecord slot ws).getD 3 (0 : W64) =
      BitVec.ofNat 64 (((nth 0 ws 6).toNat + (nth 0 ws 7).toNat * 2 ^ 32) % 2 ^ 56 + slot % 16 * 2 ^ 56 + 2 ^ 60) := by
    simp [portRecord]
  rw [hrow]
  refine BitVec.eq_of_toNat_eq ?_
  rw [toNat_append_eq, toNat_append_eq, BitVec.toNat_ofNat, BitVec.toNat_ofNat, BitVec.toNat_setWidth]
  have hlow := (nth 0 ws 6).isLt
  have hhigh := (nth 0 ws 7).isLt
  simp only [nth] at hlow hhigh ⊢
  omega

end

/-- The port takes the record into its core's inbox. -/
def portTaken (a : Acc) (ws : List W32) (s : State) : State :=
  (settleAcc a s).modCore a.tid.core fun c => { c with inbox := c.inbox ++ [portRecord a.tid.slot ws] }

end Sys2Proof.Machine

/-- R96, R218 and R308: a register read, and an access that its home refuses. -/
theorem registerReadAndRefusal : Claims.RegisterReadAndRefusal := by
  refine ⟨fun k a pid n sel d s hk ha hop htaper hn => ?_, fun k a pid p f q s hk ha hp hnode hm hpro hj hreg hport hf hq hl hr hv
    hvoid hval => ?_⟩
  · obtain ⟨hd0, ⟨q, hq, hl, hr, hd, -, hqv⟩, hw⟩ := hn
    have he : exec (.memoryAccessAccept k) s =
        .next (answer a.tid pid (Pending.take 0 0 (.g (farReg s a.tid sel n))) (settleAcc a s)) := by
      refine congrArg Host.Outcome.next ?_
      simp only [hk, ha, hop, acceptRegister]
      exact if_neg fun h => by rw [htaper h.1] at h; exact absurd h.2 Bool.false_ne_true
    obtain ⟨t, v, -, hans, hmem, hx, hmem', hfull, hvalue⟩ := answer_value (u := settleAcc a s) (ln := 0) (node := 0)
      (x := farReg s a.tid sel n) hd0 hq hl hr hd hqv hw a.ctx a.xb
    rw [hans] at he
    exact ⟨t, v, he, hx, sameMemory_trans (sameMemory_settleAcc a s) (sameMemory_trans hmem hmem'), hfull, hvalue⟩
  · have hq' : ((settleAcc a s).th a.tid).pend? pid = some q := hq
    obtain ⟨x, hval⟩ := hval
    have hans := answer_reported (f := fun p => { p with refused := p.refused ++ [(0, f)] }) (g := f) hq' (fun _ => rfl) hl
      (Pending.fault_single hv (by simp [hr])) hvoid
    have he : exec (.memoryAccessAccept k) s = .next (flagNext a.tid a.ctx a.xb pid (refuse a.tid pid 0 f (settleAcc a s))) := by
      rw [exec_toHome hk ha hp hnode hm ⟨hj, hreg, hport⟩]
      simp only [acceptThread, hpro, Bool.false_eq_true, if_false, hf, refuseUnit, hj]
    rw [refuse, hans, flagNext_of_plain fun p' hp' fa l n hflag => ?_] at he
    · refine ⟨_, he, sameMemory_settleAcc a s, ?_, fun j hj => State.modTh_look _ hj⟩
      rw [State.th_modTh]
      rfl
    · have hpend := Thread.pend?_mapIf (f := Pending.answered fun p => { p with refused := p.refused ++ [(0, f)] }) hq'
        fun _ => rfl
      rw [State.th_modTh] at hp'
      cases hpend.symm.trans hp'
      exact absurd (hval.symm.trans hflag) nofun

/-- R377: the request port. -/
theorem requestPort : Claims.RequestPort := by
  intro k a pid n ws p s hk ha hop hp hm hn
  have hexec : exec (.sysRequestPortWrite k) s = .next
      (if ¬ mayAccept s a p ∨ Config.inboxEntries ≤ (s.core a.tid.core).inbox.length then s
        else answer a.tid pid id (portTaken a ws s)) := by
    refine congrArg Host.Outcome.next ?_
    simp only [hk, ha, hop, hp]
    rfl
  refine ⟨fun hroom => ?_, fun hfull => hexec.trans (congrArg Host.Outcome.next (if_pos (.inr hfull)))⟩
  have hmay : ¬ (¬ mayAccept s a p ∨ Config.inboxEntries ≤ (s.core a.tid.core).inbox.length) :=
    not_or.2 ⟨not_not.2 hm, Nat.not_le.2 hroom⟩
  obtain ⟨q, hq, hl, hr, hd, hal, -⟩ := hn
  obtain ⟨hans, hdone⟩ := answer_last (f := id) (u := portTaken a ws s) hq (fun _ => rfl) hr hl hd hal
  rw [if_neg hmay, hans] at hexec
  refine ⟨_, portRecord a.tid.slot ws, hexec, sameMemory_settleAcc a s, ?_, portRecord_length _ _,
    fun i hi h3 => portRecord_getD _ _ hi h3, portRecord_third _ _, hdone⟩
  rw [State.core_modTh, portTaken, State.core_modCore]
  rfl

/-- Settles O17: the answer of a read, the fault of a refusal, and the record of the port. -/
theorem otherAcceptance : Obligations.OtherAcceptance := ⟨registerReadAndRefusal, requestPort⟩

end

section
/-!
Flag raises of flagged stores, and failures of memory banks (R95, R193, R196, R208, R234, R272, R273).
-/

open Sys2Proof Sys2Proof.Machine Sys2Proof.Claims

namespace Sys2Proof.Machine

/-! ### What an answer may change -/

/-- An answer changes its thread, and the guards of commands. -/
theorem answer_frame (tid : Tid) (pid : Nat) (f : Pending → Pending) (s : State) : answer tid pid f s = { s with
    threads := (answer tid pid f s).threads, clusters := (answer tid pid f s).clusters, cores := (answer tid pid f s).cores } := by
  rw [answer_eq]
  unfold settlePending
  split
  next => rfl
  next =>
    split
    next => rfl
    next =>
      split
      next =>
        split
        next =>
          rw [fillTh_eq]
          rfl
        next => rfl
      next => split <;> rfl

/-! ### Flag raises (R272, R273) -/

section
variable {r : FlagRaise} {p : Phys} {s : State}

/-- The step of a due raise, of STFL or of VSTFL. -/
theorem exec_flagRaise {k : Nat} (h : s.raises.find? (fun x => decide (x.id = k) && x.vector == r.vector) = some r) :
    exec (if r.vector then .vstflFlagRaise k else .stflFlagRaise k) s = .next (raiseFlag r s) := by
  have hraise : flagRaise r.vector k s = raiseFlag r s := by
    have hpred : (fun x : FlagRaise => decide (x.id = k ∧ x.vector = r.vector)) = fun x =>
        decide (x.id = k) && x.vector == r.vector := by
      funext x
      rw [Bool.decide_and, Bool.beq_eq_decide_eq]
    rw [flagRaise, hpred, h]
  cases hv : r.vector <;> rw [hv] at hraise <;> exact congrArg Host.Outcome.next hraise

theorem Pending.flagAt_eq (st : FlagStage) (q : Pending) : q.flagAt st = { q with val := (q.flagAt st).val } := by
  unfold Pending.flagAt
  split <;> rfl

/-- What the refusal of a raise leaves of its instruction. -/
def Pending.raiseRefused (f : FaultInfo) (q : Pending) : Pending :=
  if (q.flagAt .made).refused ≠ [] then q.flagAt .made
  else { q.flagAt .made with refused := [(0, { f with t2 := f.t2 ||| BitVec.ofNat 64 (2 ^ 24) })], vector := false }

theorem Pending.raiseRefused_of_clean {f : FaultInfo} {q : Pending} (h : q.refused = []) : q.raiseRefused f =
    { q.flagAt .made with refused := [(0, { f with t2 := f.t2 ||| BitVec.ofNat 64 (2 ^ 24) })], vector := false } := by
  rw [Pending.raiseRefused, if_neg (by rw [Pending.flagAt_eq]; exact not_not.2 h)]

theorem Pending.raiseRefused_id (f : FaultInfo) (q : Pending) : (q.raiseRefused f).id = q.id := by
  unfold Pending.raiseRefused
  split <;> rw [Pending.flagAt_eq]

/-- The raise is no longer out. -/
def State.raised (s : State) (r : FlagRaise) : State := { s with raises := s.raises.filter fun x => x.id ≠ r.id }

theorem raiseFlag_of_refused {f : FaultInfo} (hp : taggedPlace { r.tid.core with node := r.node } r.flag = .ok p)
    (ht : raiseTurn s r p = true) (hf : homeRefusalXB s r.tid r.xb r.ctx p r.flag 8 (.stf []) = some f) :
    raiseFlag r s = pruneFences (answer r.tid r.pid (Pending.raiseRefused f) (s.raised r)) := by
  simp only [raiseFlag, hp, ht, not_true, if_false, hf]
  rfl

/-- The flag doubleword one higher, and full. -/
def State.flagged (s : State) (p : Phys) : State :=
  ((storeAt p (leBytes ((s.peek p 8 + 1) % 2 ^ 64) 8) s).setTag p true).setTag (p.plus 4) true

theorem State.flagged_memory (s : State) (p : Phys) : OnlyBytes p 8 s (s.flagged p) ∧
    (s.flagged p).peek p 8 = (s.peek p 8 + 1) % 2 ^ 64 ∧ (s.flagged p).isFull p = true ∧
    (s.flagged p).isFull (p.plus 4) = true := by
  have hfull := (storeAt p (leBytes ((s.peek p 8 + 1) % 2 ^ 64) 8) s).isFull_setTag_two p
  exact ⟨fun j hj => onlyBytes_storeAt p _ 8 s j hj, (peek_storeAt_leBytes p _ 8 s).trans (Nat.mod_mod _ _),
    (hfull p).trans (if_pos (.inr rfl)), (hfull _).trans (if_pos (.inl (key_plus_four_div p)))⟩

theorem State.flagged_raises (s : State) (p : Phys) : (s.flagged p).raises = s.raises := by
  rw [State.flagged, State.setTag_raises, State.setTag_raises, storeAt_eq]
  rfl

theorem State.flagged_threads (s : State) (p : Phys) : (s.flagged p).threads = s.threads := by
  rw [State.flagged, State.setTag_threads, State.setTag_threads, storeAt_threads]

theorem raiseFlag_of_accepted (hp : taggedPlace { r.tid.core with node := r.node } r.flag = .ok p) (ht : raiseTurn s r p = true)
    (hf : homeRefusalXB s r.tid r.xb r.ctx p r.flag 8 (.stf []) = none) (hw : s.waits = []) :
    raiseFlag r s = pruneFences (answer r.tid r.pid (Pending.flagAt .made) ((s.raised r).flagged p)) := by
  have hnone : (storeAt p (leBytes ((s.peek p 8 + 1) % 2 ^ 64) 8) (s.raised r)).waits = [] := (storeAt_waits _ _ _).trans hw
  simp only [raiseFlag, hp, ht, not_true, if_false, hf]
  exact congrArg (fun m => pruneFences (answer r.tid r.pid (Pending.flagAt .made) m)) (fillWords_of_no_waits _ hnone)

end

/-! ### Many units poisoned (R193, R208) -/

theorem length_insertNat {m : List Nat} {k : Nat} (h : k ∉ m) : (insertNat m k).length = m.length + 1 := by
  induction m with
  | nil => rfl
  | cons j m ih =>
    obtain ⟨hj, hm⟩ := not_or.1 (mt List.mem_cons.2 h)
    rw [insertNat, if_neg hj]
    split
    · rfl
    · rw [List.length_cons, ih hm, List.length_cons]

section
variable (f : Nat → Phys) (l : List Nat) (s : State)

theorem foldr_setPoison_eq : l.foldr (fun i s => s.setPoison (f i) true) s = { s with
    poisoned := (l.foldr (fun i s => s.setPoison (f i) true) s).poisoned } := by
  induction l with
  | nil => rfl
  | cons i l ih =>
    rw [List.foldr_cons, ih]
    rfl

theorem isPoisoned_foldr_setPoison (q : Phys) : (l.foldr (fun i s => s.setPoison (f i) true) s).isPoisoned q =
    (l.any (fun i => decide (q.key / 64 = (f i).key / 64)) || s.isPoisoned q) := by
  induction l with
  | nil => rfl
  | cons i l ih => rw [List.foldr_cons, State.isPoisoned_setPoison, ih, List.any_cons, Bool.or_assoc]

end

/-- The units of a page are the 64 in its 4 KiB. -/
theorem exists_unit_iff {b off a : Nat} (hb : b % 4096 = 0) :
    (∃ i < 64, a / 64 = (b + (off / 4096 * 4096 + 64 * i)) / 64) ↔ a / 4096 = (b + off) / 4096 := by
  constructor
  · rintro ⟨i, hi, h⟩
    omega
  · intro h
    exact ⟨a / 64 % 64, by omega, by omega⟩

/-- A unit of the table page that holds `p`. -/
def pageUnit (p : Phys) (i : Nat) : Phys := { p with off := p.off / 4096 * 4096 + 64 * i }

theorem any_pageUnit {p : Phys} (hr : p.region = .hbm) (q : Phys) :
    (List.range 64).any (fun i => decide (q.key / 64 = (pageUnit p i).key / 64)) = decide (q.key / 4096 = p.key / 4096) := by
  have hb : ((p.node * 4 + p.die) * 2 ^ 40 + Region.hbm.base) % 4096 = 0 := by
    simp only [Region.base]
    omega
  have hunit := exists_unit_iff (off := p.off) (a := q.key) hb
  rw [Bool.eq_iff_iff]
  simpa [Phys.key, pageUnit, hr] using hunit

section
variable {c : CoreId} {b : Nat} {s : State}

/-- The first failure of a bank: it is rebuilt into the spare while that is free. -/
theorem Core.bankFails_first {k : Core} (b : Nat) (hbad : k.badBanks = []) (hre : k.rebuilding = none) : k.bankFails b = { k with
    badBanks := [b], rebuilding := if k.spareUsed = true then none else some b } := by
  have hspare : (if k.rebuilding = none ∧ k.spareUsed = false then some b else k.rebuilding) =
      if k.spareUsed = true then none else some b := by
    cases k.spareUsed <;> simp [hre]
  rw [Core.bankFails, hspare, hbad, insertNat]

/-- The failure of a bank that works. -/
theorem exec_bankFailure (hb : b < 18) (hn : b ∉ (s.core c).badBanks) : exec (.bankFailure c b) s = .next
    (if (s.core c).badBanks = [] then s.modCore c (Core.bankFails b) else poisonRows c (s.modCore c (Core.bankFails b))) :=
  congrArg Host.Outcome.next (if_neg (not_or.2 ⟨Nat.not_le.2 hb, by simpa using hn⟩))

theorem poisonRows_eq (c : CoreId) (s : State) : poisonRows c s = { s with poisoned := (poisonRows c s).poisoned } :=
  foldr_setPoison_eq _ _ _

theorem isPoisoned_poisonRows {i : Nat} (hi : i < 0x2000) : (poisonRows c s).isPoisoned (scratchAt c (64 * i)) = true := by
  rw [poisonRows, isPoisoned_foldr_setPoison, Bool.or_eq_true_iff, List.any_eq_true]
  exact .inl ⟨i, List.mem_range.2 hi, decide_eq_true rfl⟩

/-- Two failed banks lose every row. -/
theorem isPoisoned_of_rowsLost {p : Phys} (h : s.isPoisoned p = true) (hl : s.rowsLost p = true) :
    (s.setPoison p false).isPoisoned p = true := by
  rw [State.setPoison, hl]
  exact h

end

end Sys2Proof.Machine

/-- R272 and R273: the raise of a flag. -/
theorem flagRaises : Claims.FlagRaises := by
  intro k r p s hk hp ht
  refine ⟨fun f q hf hq hl hr hv hval => ?_, fun hf hw => ?_⟩
  · have hclean := Pending.raiseRefused_of_clean (f := f) hr
    have hans := answer_reported (s := s.raised r) (f := Pending.raiseRefused f)
      (g := { f with t2 := f.t2 ||| BitVec.ofNat 64 (2 ^ 24) }) hq (Pending.raiseRefused_id f) hl
      (Pending.fault_single (by rw [hclean]) (by rw [hclean])) (by rw [hclean, Pending.flagAt_eq]; exact hv)
    rw [exec_flagRaise hk, raiseFlag_of_refused hp ht hf, hans, hclean, Pending.flagAt_eq]
    refine ⟨_, rfl, ⟨fun _ => rfl, rfl, rfl⟩, rfl, ?_⟩
    exact congrArg Thread.answers (State.th_modTh (s.raised r) r.tid _)
  · rw [exec_flagRaise hk, raiseFlag_of_accepted hp ht hf hw]
    obtain ⟨hbytes, hpeek, hlow, hhigh⟩ := (s.raised r).flagged_memory p
    have hans := answer_frame r.tid r.pid (Pending.flagAt .made) ((s.raised r).flagged p)
    have hlast : ∀ q, (s.th r.tid).pend? r.pid = some q → q.left = 1 → q.refused = [] → q.dst = none → q.also = none →
        ((answer r.tid r.pid (Pending.flagAt .made) ((s.raised r).flagged p)).th r.tid).pend? r.pid = none := by
      intro q hq hl hr hd ha
      have hq' : (((s.raised r).flagged p).th r.tid).pend? r.pid = some q := by
        rw [State.th, State.flagged_threads]
        exact hq
      obtain ⟨he, hnone⟩ := answer_last (f := Pending.flagAt .made) hq' (fun q => by rw [Pending.flagAt_eq])
        (by rw [Pending.flagAt_eq]; exact hr) hl (by rw [Pending.flagAt_eq]; exact hd) (by rw [Pending.flagAt_eq]; exact ha)
      rw [he]
      exact hnone
    generalize answer r.tid r.pid (Pending.flagAt .made) ((s.raised r).flagged p) = t at hans hlast
    have hmem : t.mem = ((s.raised r).flagged p).mem := by rw [hans]
    have hempties : t.empties = ((s.raised r).flagged p).empties := by rw [hans]
    have hraises : t.raises = ((s.raised r).flagged p).raises := by rw [hans]
    exact ⟨_, rfl, fun j hj => (congrArg (readByte · j) hmem).trans (hbytes j hj),
      (congrArg (fun m => leNat (readBytes m p.key 8)) hmem).trans hpeek, (isFull_of_empties hempties p).trans hlow,
      (isFull_of_empties hempties (p.plus 4)).trans hhigh, hraises.trans (State.flagged_raises _ p), hlast⟩

/-- R193, R196 and R208: banks that fail and are rebuilt, and uncorrectable units. -/
theorem memoryRepair : Claims.MemoryRepair := by
  refine ⟨fun c b s hb hbad hre => ?_, fun c b i s hb hbad hn hi => ?_, fun c b s hre => ?_, fun u p s hu ht => ?_,
    fun u p q s hu ht => ?_⟩
  · exact ⟨_, (exec_bankFailure hb (by simp [hbad])).trans (congrArg Host.Outcome.next (if_pos hbad)), rfl,
      (State.core_modCore _ _ _).trans (Core.bankFails_first b hbad hre)⟩
  · have he := (exec_bankFailure hb hn).trans (congrArg Host.Outcome.next (if_neg hbad))
    have hframe := poisonRows_eq c (s.modCore c (Core.bankFails b))
    have hpoison := isPoisoned_poisonRows (c := c) (s := s.modCore c (Core.bankFails b)) hi
    generalize poisonRows c (s.modCore c (Core.bankFails b)) = t at he hframe hpoison
    have hcores : t.cores = (s.modCore c (Core.bankFails b)).cores := by rw [hframe]
    have hbanks : (t.core c).badBanks = insertNat (s.core c).badBanks b := by
      have hcore : t.core c = (s.modCore c (Core.bankFails b)).core c := by rw [State.core, hcores, State.core]
      rw [hcore, State.core_modCore, Core.bankFails]
    have htwo : 2 ≤ (t.core c).badBanks.length := by
      rw [hbanks, length_insertNat hn]
      exact Nat.succ_le_succ (List.length_pos_iff.2 hbad)
    refine ⟨t, he, ?_, ?_, fun d hd => ?_, hpoison, isPoisoned_of_rowsLost hpoison (decide_eq_true htwo)⟩
    · rw [hcores]
      exact hframe
    · rw [hbanks]
      exact mem_insertNat.2 (.inl rfl)
    · rw [hbanks]
      exact mem_insertNat.2 (.inr hd)
  · refine ⟨s.modCore c fun k => { k with badBanks := eraseNat k.badBanks b, rebuilding := none, spareUsed := true },
      congrArg Host.Outcome.next (by rw [hre]), rfl, State.core_modCore _ _ _⟩
  · have he : exec (.patrolScrubError u) s = .next (s.setPoison p true) :=
      congrArg Host.Outcome.next (by simp only [hu, ht, Bool.false_eq_true, if_false])
    refine ⟨_, he, rfl, ?_, fun q hq => ?_⟩
    · rw [State.isPoisoned_setPoison, decide_eq_true rfl, Bool.true_or]
    · rw [State.isPoisoned_setPoison, decide_eq_false hq, Bool.false_or]
  · have hr : p.region = .hbm := of_decide_eq_true (Bool.and_eq_true_iff.1 ht).1
    have he : exec (.patrolScrubError u) s = .next ((List.range 64).foldr (fun i s => s.setPoison (pageUnit p i) true) s) :=
      congrArg Host.Outcome.next (by simp only [hu, ht, if_true]; rfl)
    refine ⟨_, he, foldr_setPoison_eq _ _ _, ?_⟩
    rw [isPoisoned_foldr_setPoison, any_pageUnit hr]

/-- Settles O29: a raise is a store, a fill and an answer; a repair changes the marks of units and banks. -/
theorem flagsAndRepair : Obligations.FlagsAndRepair := ⟨flagRaises, memoryRepair⟩

end

section
/-!
Lease requests and lease instructions on their way (R122, R123 and R125 to R129).
-/

open Sys2Proof Sys2Proof.Machine Sys2Proof.Claims

namespace Sys2Proof.Machine

/-! ### Requests on their way -/

/-- A request joins those on their way. -/
def State.addReq (s : State) (r : LeaseReq) : State := { s with leaseReqs := s.leaseReqs ++ [r] }

/-- The accesses in flight behind a request, and the next name: an LCTX adds the load of its descriptor. -/
def requestAccs (s : State) (i : Instr) (a : W64) : List Acc :=
  if readsDescriptor a i = true then s.accs ++ [descriptorLoad s a] else s.accs
def requestNext (s : State) (i : Instr) (a : W64) : Nat :=
  if readsDescriptor a i = true then s.nextId + 2 else s.nextId + 1

section
variable (s : State) (i : Instr) (a b : W64)

theorem src_begin (x : GSrc) : s.begin.me.src x = s.me.rG x.r := by
  rw [State.me_begin, Thread.src_enterRegion]
  rfl

/-- The context and the place of a word do not depend on the region that it opens. -/
theorem newRequest_begin : newRequest s.begin i a b = newRequest s i a b := by
  rw [newRequest, State.me_begin, Thread.enterRegion_eq]
  rfl

theorem addReq_inFlight (r : LeaseReq) (accs : List Acc) (n : Nat) (f : Thread → Thread) :
    (s.inFlight accs s.raises n f).addReq r = (s.addReq r).inFlight accs s.raises n f := rfl

/-- The read of the descriptor joins what is in flight. -/
theorem readDescriptor_inFlight {f : Thread → Thread} (h1 : (f s.me).ctxh = s.me.ctxh) (h2 : (f s.me).space = s.me.space)
    (h3 : (f s.me).pc = s.me.pc) :
    readDescriptor (newRequest s i a b) ((s.addReq (newRequest s i a b)).inFlight s.accs s.raises (s.nextId + 1) f) =
      (s.addReq (newRequest s i a b)).inFlight (requestAccs s i a) s.raises (requestNext s i a) f := by
  have hpost : postMine (.descriptor s.nextId) (.load false) a 64
        ((s.addReq (newRequest s i a b)).inFlight s.accs s.raises (s.nextId + 1) f) =
      (s.addReq (newRequest s i a b)).inFlight (s.accs ++ [descriptorLoad s a]) s.raises (s.nextId + 2) f := by
    have hme : (s.addReq (newRequest s i a b)).me = s.me := rfl
    rw [postMine, State.me_inFlight, hme, h1, h2, h3]
    rfl
  cases i
  case lctx =>
    by_cases ha : a.toNat % 64 = 0
    · simp only [requestAccs, requestNext, readsDescriptor, ha, decide_true, if_true, ← hpost]
      exact if_pos (aligned_iff.2 ha)
    · simp only [requestAccs, requestNext, readsDescriptor, ha, decide_false, Bool.false_eq_true, if_false]
      exact if_neg (mt aligned_iff.1 ha)
  all_goals rfl

/-- A request that an instruction of one word puts on its way. -/
theorem request_sent (dst also : Option RegRef) (val : PVal) (close : Bool) :
    retire 1 close (readDescriptor (newRequest s i a b)
      ((issuePending true dst also 1 val false false s.begin).addReq (newRequest s i a b))) =
      (s.addReq (newRequest s i a b)).inFlight (requestAccs s i a) s.raises (requestNext s i a)
        (Thread.issued · s.nextId (s.taper s.cur.core.node) true dst also 1 val false false close) := by
  rw [issuePending_begin, addReq_inFlight, readDescriptor_inFlight]
  · exact retire_inFlight _ _ _ _ _ _
  all_goals rw [Thread.issues_eq, Thread.enterRegion_eq]

end

/-- An instruction of `leaseForm` whose operands are there: its request is on its way, its registers are empty. -/
theorem exec_leaseForm {i : Instr} {s : State} {g : Guard} {rs : List RegRef} {d : BitVec 4} {q : Option (BitVec 4)} {a b : W64}
    (h : leaseForm s.me i = some (g, rs, d, q, a, b)) (hg : s.me.passes g) (hr : s.me.readable rs)
    (hd : s.me.allFull (waitRegs (some d) (q.getD 0))) : ∃ val close, exec i s =
      .next ((s.addReq (newRequest s i a b)).inFlight (requestAccs s i a) s.raises (requestNext s i a)
        (Thread.issued · s.nextId (s.taper s.cur.core.node) true (longG d) (q.map .q) 1 val false false close)) := by
  have hd1 : s.me.allFull [.g d] := fun r hr => hd r (by simpa [waitRegs] using .inl (List.mem_singleton.1 hr))
  have go : ∀ {srcs : List Src} {dsts : List RegRef} {body : State → State} {u : State}, srcs.map (·.ref) = rs →
      s.me.allFull dsts → body s.begin = u → gated 1 g false srcs dsts body s = u :=
    fun hs hds hb => (gated_go hg (.inl rfl) (hs ▸ hr) hds).trans hb
  cases i
  all_goals cases h
  case lrange | lgroup | lpath | lctx =>
    refine ⟨.gq 0 false, true, congrArg Host.Outcome.next (go rfl hd ?_)⟩
    rw [← request_sent, ← newRequest_begin, ← src_begin, ← src_begin]
    rfl
  case rnw =>
    refine ⟨.g 0, true, congrArg Host.Outcome.next (go rfl hd1 ?_)⟩
    rw [← request_sent, ← newRequest_begin, ← src_begin, ← src_begin]
    rfl
  case linfo | bind =>
    refine ⟨.g 0, false, congrArg Host.Outcome.next (go rfl hd1 ?_)⟩
    rw [← request_sent, ← newRequest_begin, ← src_begin, ← src_begin]
    rfl
  case life =>
    refine ⟨.g 0, false, congrArg Host.Outcome.next (go rfl hd1 ?_)⟩
    rw [← request_sent, ← newRequest_begin, ← src_begin]
    rfl

/-- The issuing thread has retired its word and is held at the next. -/
def State.sentHeld (s : State) (h : Hold) : State := (retire 1 false s.begin).modMe fun t => { t with hold := h }

/-- An instruction that holds its thread for the answer of its home. -/
theorem leaseHold_go {i : Instr} {a : GSrc} {g : Guard} {s : State} (hg : s.me.passes g) (hr : s.me.readable [.g a.r])
    (h : Nat → State → Hold) : leaseHold i a g h s =
      .next ((s.fresh.addReq (newRequest s i (s.me.rG a.r) 0)).sentHeld (h s.nextId s.begin)) := by
  refine congrArg Host.Outcome.next ((gated_go (srcs := [srcG a]) hg (.inl rfl) hr Thread.allFull_nil).trans ?_)
  rw [← newRequest_begin, ← src_begin]
  rfl

/-- The thread then has sent its request, and is held. -/
theorem sends_sentHeld (s : State) (h : Hold) :
    Sends [] s (s.sentHeld h) ∧ (s.sentHeld h).me.pending = s.me.pending ∧ (s.sentHeld h).me.hold = h := by
  obtain ⟨⟨hlook, hmem, hregs, hrest, hpc, hbl, hcur⟩, -, hpend, -⟩ := sends_retire [] s false
  have hme : (s.sentHeld h).me = { (retire 1 false s.begin).me with hold := h } := State.me_modMe _ _
  unfold Sends
  rw [hme]
  refine ⟨⟨fun k hk => ((retire 1 false s.begin).modMe_look hk).trans (hlook k hk), hmem,
    fun r hr => Thread.sameReg_congr rfl rfl rfl rfl (hregs r hr), ?_, hpc, hbl, hcur⟩, hpend, rfl⟩
  unfold sameIssued Thread.sameRest at hrest ⊢
  rw [hrest]

end Sys2Proof.Machine

/-- Settles O22: a request is one pending instruction and one message to its home, and what holds its thread the message alone. -/
theorem leaseIssue : Obligations.LeaseIssue := by
  refine ⟨fun i s g rs d q a b h hg hr hd => ?_, fun j a g s hg hr => ?_, fun a sc g s hg hr => ?_⟩
  · obtain ⟨val, close, he⟩ := exec_leaseForm h hg hr hd
    obtain ⟨hsends, hhold⟩ := sends_inFlight (s := s.addReq (newRequest s i a b)) (accs := requestAccs s i a)
      (raises := s.raises) (n := requestNext s i a)
      (prod := true) (dst := longG d) (also := q.map .q) (left := 1) (val := val) (load := false) (vector := false) (close := close)
      (id := s.nextId) (now := s.taper s.cur.core.node) (rs := waitRegs (some d) (q.getD 0))
      (fun k hk => by simp [waitRegs, (longG_some hk).2])
      (fun k hk => by cases q <;> cases hk; simp [waitRegs])
    refine ⟨_, newPending s.me.enterRegion s.nextId true (longG d) (q.map .q) 1 val false false (s.taper s.cur.core.node), he,
      hsends, hhold, rfl, ?_, rfl, congrArg BitVec.toNat s.me.enterRegion_pc, rfl, rfl, rfl, rfl, fun h0 => ?_, fun x hq h0 => ?_⟩
    all_goals rw [State.me_inFlight]
    · rw [Thread.issued_eq]
      rfl
    · have hother : q.map RegRef.q ≠ some (.g d) := by cases q <;> simp
      rw [Thread.full_issued, Thread.full_of_sameReg (Thread.sameReg_emptyOpt _ hother)]
      exact Thread.full_emptyOpt_longG _ h0
    · rw [Thread.full_issued, hq]
      exact Thread.full_setFull_q _ _ h0
  · obtain ⟨hsends, hpend, hhold⟩ := sends_sentHeld (s.fresh.addReq (newRequest s (.gjoin j a g) (s.me.rG a.r) 0))
      (.gjoin (s.taper s.cur.core.node) s.nextId)
    have he : exec (.gjoin j a g) s = _ := leaseHold_go hg hr fun id s => .gjoin (s.taper s.cur.core.node) id
    exact ⟨_, he, hsends, hpend, hhold, rfl⟩
  · obtain ⟨hsends, hpend, hhold⟩ := sends_sentHeld (s.fresh.addReq (newRequest s (.rel a sc g) (s.me.rG a.r) 0))
      (.rel (s.me.rG a.r) sc false)
    have he : exec (.rel a sc g) s = _ := leaseHold_go hg hr fun _ s => .rel (s.me.src a) sc false
    rw [src_begin] at he
    exact ⟨_, he, hsends, hpend, hhold, rfl⟩
end

section
/-!
Entries of the lease table (R108 to R113): how they read after a change, and what their lapse leaves alone.
-/

open Sys2Proof Sys2Proof.Machine Sys2Proof.Claims

namespace Sys2Proof.Machine

/-! ### Reading an entry -/

section
variable (s : State) (h : DieId) (i : Nat) (f : Lease → Lease)

@[simp] theorem State.lease_modLease : (s.modLease h i f).lease h i = f (s.lease h i) := by
  rw [State.modLease, State.lease, State.die_modDie, Map.get_set_self]
  rfl

theorem State.lease_modLease_ne {j : Nat} (hj : j ≠ i) : (s.modLease h i f).lease h j = s.lease h j := by
  rw [State.modLease, State.lease, State.die_modDie, Map.get_set_ne hj]
  rfl

/-- The entry that a handle finds live. -/
theorem present_live {s : State} {x : W64} {h : DieId} {i : Nat} {l : Lease} (hp : present s x = .live h i l) :
    l = s.lease h i ∧ h = hHome x := by
  unfold present at hp
  dsimp only at hp
  split at hp
  · cases hp
  · split at hp
    · cases hp
    · split at hp
      · cases hp
      · cases hp
        exact ⟨rfl, rfl⟩

end

/-! ### Cleared memory (R115) -/

/-- The bytes left of a memory from which those of some keys are taken. -/
theorem readByte_filter (m : List Host.Cell) (p : Nat → Bool) (k : Nat) :
    readByte (m.filter fun c => p c.1) k = if p k then readByte m k else emptyByte := by
  induction m with
  | nil => simp [readByte]
  | cons c m ih =>
    rw [List.filter_cons]
    by_cases hk : c.1 = k
    · subst hk
      cases hp : p c.1
      · simpa [hp] using ih
      · simp [readByte]
    · cases hp : p c.1
      · simpa [readByte, hk] using ih
      · simpa [readByte, hk] using ih

section
variable (key n : Nat) (s : State)

/-- A cleared range reads as zero, all else as before. -/
theorem byteAt_clearRange (k : Nat) : (clearRange key n s).byteAt k = if key ≤ k ∧ k < key + n then 0 else s.byteAt k := by
  unfold State.byteAt clearRange
  rw [readByte_filter s.mem fun k => !(decide (key ≤ k) && decide (k < key + n))]
  by_cases hk : key ≤ k ∧ k < key + n <;> simp [hk, emptyByte]

/-- Its words are full. -/
theorem mem_empties_clearRange (k : Nat) (hk : k ∈ (clearRange key n s).empties) : k < key ∨ key + n ≤ k := by
  simpa using (List.mem_filter.1 hk).2

end

/-! ### What the end of a wait leaves alone -/

/-- The end of a wait changes threads, and the guards of commands. -/
theorem endWait_frame (w : QWait) (ok : Bool) (x : Option W64) (s : State) : endWait w ok x s = { s with
    threads := (endWait w ok x s).threads
    waits := (endWait w ok x s).waits
    clusters := (endWait w ok x s).clusters
    cores := (endWait w ok x s).cores } := by
  unfold endWait
  rw [fillTh_eq]
  rfl

theorem endWait_waits (w : QWait) (ok : Bool) (x : Option W64) (s : State) :
    (endWait w ok x s).waits = s.waits.filter (fun v => v.seq ≠ w.seq) := fillTh_waits _ _ _

theorem answerWait_frame (w : QWait) (ok : Bool) (x : Option W64) (f : Option FaultInfo) (s : State) : answerWait w ok x f s = { s with
    threads := (answerWait w ok x f s).threads
    waits := (answerWait w ok x f s).waits
    clusters := (answerWait w ok x f s).clusters
    cores := (answerWait w ok x f s).cores } := by
  obtain ⟨-, he⟩ | ⟨-, -, he⟩ | ⟨-, he⟩ := answerWait_cases w ok x f s
  · cases f
    · rw [he]
      dsimp only
      exact endWait_frame w ok x s
    · rw [he]
      rfl
  · rw [he]
    rfl
  · rw [he]

/-! ### What a lapse leaves alone (R113) -/

/-- The entry stands as it does from its lapse on: in smoke since the taper `now`, with its generation and kind (R110). -/
def Lease.smokes (l : Lease) (now : Nat) (y : Lease) : Prop := y.state = .smoke ∧ y.since = now ∧ y.gen = l.gen ∧ y.kind = l.kind

/-- Of what `s` holds the memory stands, and entry `i` of die `h` has lapsed. -/
def Lapsed (h : DieId) (i : Nat) (s t : State) : Prop :=
  SameMemory s t ∧ ∃ d, t.dies.look (dieKey h) = some d ∧ (s.lease h i).smokes (s.taper h.node) (d.leases.get Lease.reset i)

section
variable {h : DieId} {i : Nat} {s t u : State}

theorem Lapsed.entry (ht : Lapsed h i s t) : (s.lease h i).smokes (s.taper h.node) (t.lease h i) := by
  obtain ⟨-, d, hd, hl⟩ := ht
  have hdie : t.die h = d := congrArg (·.getD (Die.reset h.node h.die)) hd
  have hlease : t.lease h i = d.leases.get Lease.reset i := congrArg (·.leases.get Lease.reset i) hdie
  exact hlease ▸ hl

theorem Lapsed.of_eq (ht : Lapsed h i s t) (hm : SameMemory t u) (hd : u.dies = t.dies) : Lapsed h i s u :=
  ⟨sameMemory_trans ht.1 hm, hd ▸ ht.2⟩

/-- A change of a die whose entry `i`, if it is the one that has lapsed, stays so. -/
theorem Lapsed.modDie (ht : Lapsed h i s t) (k : DieId) (f : Die → Die)
    (hf : ∀ d, (s.lease h i).smokes (s.taper h.node) (d.leases.get Lease.reset i) →
      (s.lease h i).smokes (s.taper h.node) ((f d).leases.get Lease.reset i)) : Lapsed h i s (t.modDie k f) := by
  obtain ⟨hm, d, hd, hl⟩ := ht
  refine ⟨sameMemory_trans hm ⟨fun _ => rfl, rfl, rfl⟩, ?_⟩
  by_cases hk : dieKey h = dieKey k
  · have hdie : t.die k = d := congrArg (·.getD (Die.reset k.node k.die)) (hk ▸ hd)
    exact ⟨f d, by rw [State.modDie, hk, Map.look_set_self, hdie], hf d hl⟩
  · exact ⟨d, (Map.look_set_ne hk).trans hd, hl⟩

theorem Lapsed.modDie_leases (ht : Lapsed h i s t) (k : DieId) {f : Die → Die} (hf : ∀ d, (f d).leases = d.leases) :
    Lapsed h i s (t.modDie k f) := ht.modDie k f fun d hd => by rwa [hf]

/-- A change of another entry. -/
theorem Lapsed.modLease_ne (ht : Lapsed h i s t) {j : Nat} (hj : j ≠ i) (f : Lease → Lease) : Lapsed h i s (t.modLease h j f) :=
  ht.modDie h _ fun d hd => by rwa [Map.get_set_ne hj.symm]

/-- A change of its body. -/
theorem Lapsed.modLease_body (ht : Lapsed h i s t) (b : LBody) : Lapsed h i s (t.modLease h i fun l => { l with body := b }) :=
  ht.modDie h _ fun d hd => by rwa [Map.get_set_self]

theorem Lapsed.answerWait (ht : Lapsed h i s t) (w : QWait) (ok : Bool) (x : Option W64) (f : Option FaultInfo) :
    Lapsed h i s (answerWait w ok x f t) := by
  rw [answerWait_frame]
  exact ht.of_eq ⟨fun _ => rfl, rfl, rfl⟩ rfl

theorem Lapsed.lapseWaits (ht : Lapsed h i s t) (x : W64) (ws : List QWait) : Lapsed h i s (lapseWaits x ws t) :=
  List.foldlRecOn ws _ ht fun _ hu _ _ => hu.answerWait _ _ _ _

theorem Lapsed.pruneLock (ht : Lapsed h i s t) (k : DieId) (key : Nat) : Lapsed h i s (pruneLock k key t) := by
  unfold Machine.pruneLock
  split
  · exact ht
  · split
    · exact ht
    · exact ht.modDie_leases k fun _ => rfl

theorem Lapsed.endLock (ht : Lapsed h i s t) (x : W64) (k : Lock) : Lapsed h i s (endLock h x k t) := by
  unfold Machine.endLock
  refine Lapsed.modDie_leases ?_ h fun _ => rfl
  generalize hf : List.foldl _ _ _ = u
  have hu : Lapsed h i s u := by
    rw [← hf]
    refine List.foldlRecOn _ _ (ht.lapseWaits x _) fun v hv d _ => ?_
    split
    · exact hv.modDie_leases _ fun _ => rfl
    · exact hv
  split
  next j hj =>
    split
    next hlive =>
      have hne : j ≠ i := by
        rintro rfl
        rw [hu.entry.1] at hlive
        cases hlive
      exact hu.modLease_ne hne _
    · exact hu
  · exact hu

theorem Lapsed.lapseRange (ht : Lapsed h i s t) (x base : W64) (size phys : Nat) :
    Lapsed h i s (lapseRange h i x base size phys t) := by
  have h1 : Lapsed h i s (Machine.lapseWaits x (rangeWaits (t.modLease h i fun l => { l with body := .range base size phys false })
      phys size) (t.modLease h i fun l => { l with body := .range base size phys false })) :=
    (ht.modLease_body _).lapseWaits x _
  have hend : ∀ {u : State} (p : Bool), Lapsed h i s u → Lapsed h i s (if p then
      u.modDie h fun d => { d with endpoints := d.endpoints.map fun e => (e.1, e.2.endWith i (u.taper h.node)) } else u) := by
    intro u p hu
    split
    · exact hu.modDie_leases h fun _ => rfl
    · exact hu
  unfold Machine.lapseRange
  refine hend _ (List.foldlRecOn _ _ (List.foldlRecOn _ _ ?_ fun _ hu _ _ => hu.pruneLock _ _) fun _ hu _ _ => hu.endLock _ _)
  split
  · exact h1
  · exact h1.modDie_leases h fun _ => rfl

/-- A grant in an entry other than the lapsed one. -/
theorem Lapsed.grantLock (ht : Lapsed h i s t) (p : Phys) (w : QWait) (hw : w.resv ≠ some i) : Lapsed h i s (grantLock h p w t) := by
  unfold Machine.grantLock
  split
  next j life d hj hk =>
    have hne : j ≠ i := fun e => hw (e ▸ hj)
    refine Lapsed.answerWait (Lapsed.modDie_leases (ht.modLease_ne hne _) h fun _ => ?_) _ _ _ _
    rfl
  · exact ht

theorem Lapsed.lapseHold (ht : Lapsed h i s t) (hw : ∀ w ∈ t.waits, w.resv ≠ some i) (x : W64) (o : Tid) :
    Lapsed h i s (lapseHold h i x o t) := by
  unfold Machine.lapseHold
  split
  · exact ht
  next k hk =>
    have hk := ht.modDie_leases h (f := fun d => { d with locks := mapIf d.locks (fun y => decide (y.key = k.key)) fun y =>
      { y with hold := none, prev := some o, prevHold := x } }) fun _ => rfl
    dsimp only
    split
    next w ws hq =>
      have hmem : w ∈ t.waits := (List.mem_filter.1 (hq ▸ List.mem_cons_self : w ∈ lockQueue _ h k.key)).1
      split
      · exact hk.grantLock _ w (hw w hmem)
      · exact hk
    · exact hk.pruneLock h _

theorem Lapsed.lapsePath (ht : Lapsed h i s t) (n : Nat) : Lapsed h i s (lapsePath h n t) := by
  unfold Machine.lapsePath
  dsimp only
  split
  · exact ht.of_eq ⟨fun _ => rfl, rfl, rfl⟩ rfl
  · exact ht

theorem Lapsed.lapseCtx (ht : Lapsed h i s t) (x : W64) : Lapsed h i s (lapseCtx x t) :=
  List.foldlRecOn _ _ ht fun _ hu _ _ => hu.of_eq ⟨fun _ => rfl, rfl, rfl⟩ rfl

/-- The effects of a lapse, kind by kind. -/
theorem Lapsed.lapseEffects (ht : Lapsed h i s t) (hw : ∀ w ∈ t.waits, w.resv ≠ some i) (l : Lease) :
    Lapsed h i s (lapseEffects h i l t) := by
  unfold Machine.lapseEffects
  dsimp only
  split
  case h_1 => exact ht.lapseRange _ _ _ _
  case h_2 =>
    split
    · exact ht
    · exact ht.lapseHold hw _ _
  case h_3 => exact ht.lapseWaits _ _
  case h_4 => exact ht.modDie_leases h fun _ => rfl
  case h_5 => exact ht.lapsePath _
  case h_6 => exact ht.lapseCtx _
  case h_7 => exact ht

/-- The entry goes into smoke. -/
theorem lapsed_lapseNow (hw : ∀ w ∈ s.waits, w.resv ≠ some i) : Lapsed h i s (lapseNow h i s) := by
  have hl : Lapsed h i s (s.modLease h i fun l => { l with state := .smoke, since := s.taper h.node }) := by
    refine ⟨⟨fun _ => rfl, rfl, rfl⟩, _, Map.look_set_self _ _ _, ?_⟩
    rw [Map.get_set_self]
    exact ⟨rfl, rfl, rfl, rfl⟩
  exact hl.lapseEffects hw _

end

end Sys2Proof.Machine
end

section
/-!
Lease instructions at their home (R125 to R129, R236), and what lapses, frees and is zeroed there (R109 to R115).
-/

open Sys2Proof Sys2Proof.Machine Sys2Proof.Claims

namespace Sys2Proof.Machine

/-! ### A lease instruction with its handles at their homes -/

/-- The word of an instruction that is not a request is at its home, its handles have arrived there, and no earlier RNW of its
thread to the same lease is out. -/
structure ReqArrives (s : State) (k : Nat) (r : LeaseReq) : Prop where
  found : s.leaseReqs.find? (fun r => decide (r.id = k) && !isRequest r.ins) = some r
  order : isRenewal r.ins = true → ∀ x ∈ s.leaseReqs, x.id < k → x.tid = r.tid → x.a = r.a → isRenewal x.ins = false
  held : stillHeld s r = true
  home : arrival s r r.handles = .home

section
variable {s : State} {k : Nat} {r : LeaseReq} {h : DieId} {i : Nat} {l : Lease}

theorem ReqArrives.id_eq (hr : ReqArrives s k r) : r.id = k := by
  have hp := List.find?_some hr.found
  simp only [Bool.and_eq_true, decide_eq_true_eq] at hp
  exact hp.1

/-- A handle whose home is reached, and behind it the others. -/
theorem arrival_cons {x : W64} {xs : List W64} (hp : pathRefusal (dropReq k s) r.tid r.ctx x = none)
    (hh : handleHeld s r.tid.core.node x = false) : arrival s r (x :: xs) = arrival s r xs := by
  have hp : pathRefusal s r.tid r.ctx x = none := hp
  simp only [arrival, hp, hh, Bool.false_eq_true, if_false]

/-- What a live handle leads to, instruction by instruction. -/
def leaseOp (r : LeaseReq) (h : DieId) (i : Nat) (l : Lease) (s : State) : State :=
  match r.ins with
  | .rnw _ _ _ _ => rnwAt r h i l s
  | .life _ _ _ => inspect r l (lifeAt r h l) s
  | .linfo _ _ _ _ => inspect r l (answer r.tid r.id fun p => { p with val := .g (linfoItem s h l (bits r.b 0 4)) }) s
  | .gjoin j _ _ => gjoinAt r j h i l s
  | .bind _ _ _ _ => bindAt r h i l s
  | .rel _ sc _ => relAt r sc h l s
  | _ => s

theorem ReqArrives.not_behind (hr : ReqArrives s k r) :
    s.leaseReqs.any (fun x => decide (x.id < k ∧ x.tid = r.tid ∧ x.a = r.a) && isRenewal x.ins && isRenewal r.ins) = false := by
  rw [List.any_eq_false]
  intro x hx
  cases hren : isRenewal r.ins
  · simp
  · by_cases hlt : x.id < k ∧ x.tid = r.tid ∧ x.a = r.a
    · simp [hr.order hren x hx hlt.1 hlt.2.1 hlt.2.2]
    · simp [hlt]

/-- A handle that is live at its home. -/
theorem exec_leaseOp (hr : ReqArrives s k r) (hp : present (dropReq k s) r.a = .live h i l) :
    exec (.leaseOpAtHome k) s = .next (leaseOp r h i l (dropReq k s)) := by
  refine congrArg Host.Outcome.next ?_
  simp only [hr.found, hr.not_behind, Bool.false_eq_true, if_false, hr.held, not_true, hr.home, hp]
  rfl

/-- A handle that is not. -/
theorem exec_leaseOp_refused {c : Cause} (hr : ReqArrives s k r)
    (hp : (present (dropReq k s) r.a = .stale ∧ c = .stale) ∨ (present (dropReq k s) r.a = .lapsed ∧ c = .lapsed)) :
    exec (.leaseOpAtHome k) s = .next (refuseLease r (leaseFault c r.a) (dropReq k s)) := by
  refine congrArg Host.Outcome.next ?_
  obtain ⟨hp, rfl⟩ | ⟨hp, rfl⟩ := hp
  all_goals simp only [hr.found, hr.not_behind, Bool.false_eq_true, if_false, hr.held, not_true, hr.home, hp]

end

/-- A refused instruction of one answer reports its cause. -/
theorem refuse_reported {tid : Tid} {pid : Nat} {s : State} {q : Pending} (f : FaultInfo) (hq : (s.th tid).pend? pid = some q)
    (hl : q.left = 1) (hr : q.refused = []) (hv : q.vector = false) (hv' : q.void = false) :
    refuse tid pid 0 f s = s.modTh tid (Thread.reported pid (fun p => { p with refused := p.refused ++ [(0, f)] })
      ⟨f, q.word, q.region, pid, q.load, false⟩) :=
  answer_reported hq (fun _ => rfl) hl (Pending.fault_single hv (by rw [hr]; rfl)) hv'

end Sys2Proof.Machine

/-- Stale and lapsed handles, and the end of REL's drain. -/
theorem leaseHandles : Claims.LeaseHandles := by
  refine ⟨fun k r c s hfind horder hpath hheld hpres hins q hq hl href hv hv' => ?_, fun tid x sc h i l s hhold hdr hans hway hpres => ?_⟩
  · have hhandles : r.handles = [r.a] ∧ stillHeld s r = true ∧ ∀ f t, refuseLease r f t = refuse r.tid r.id 0 f t := by
      obtain ⟨d, a, b, g, hi | hi | hi⟩ := hins
      all_goals simp [LeaseReq.handles, stillHeld, refuseLease, hi, isRequest]
    obtain ⟨hh, hst, hrefuse⟩ := hhandles
    have hr : ReqArrives s k r := ⟨hfind, horder, hst, by rw [hh, arrival_cons hpath hheld]; rfl⟩
    refine ⟨_, (exec_leaseOp_refused hr hpres).trans (congrArg Host.Outcome.next ((hrefuse _ _).trans
      (refuse_reported _ hq hl href hv hv'))), ⟨fun _ => rfl, rfl, rfl⟩, rfl, ?_⟩
    rw [State.th_modTh]
    rfl
  · have he : exec (.relDrainEnd tid) s = .next (s.modTh tid fun t => { t with hold := .none }) :=
      congrArg Host.Outcome.next (by simp [hhold, hdr, hans, hway, hpres])
    exact ⟨_, he, rfl, fun j hj => State.modTh_look _ hj, State.th_modTh _ _ _⟩

/-- Lapse, the end of smoke, zeroing and the error of an entry. -/
theorem leaseLapse : Claims.LeaseLapse := by
  refine ⟨fun h s => ?_, fun h i s hi hst hx hsince hw => ?_, fun h i s hst hsince => ?_, fun h i size phys base s hb hst => ?_,
    fun h i s hst hi => ?_⟩
  · exact congrArg Host.Outcome.next (if_neg (by simp [lapseDue]))
  · have he : exec (.leaseLapse h i) s = .next (lapseNow h i s) :=
      congrArg Host.Outcome.next (if_pos (by simp [lapseDue, hi, hst, hx, hsince]))
    have hl := lapsed_lapseNow (h := h) hw
    exact ⟨_, he, hl.1, hl.entry⟩
  · have he : exec (.smokeEnd h i) s = .next (s.modLease h i fun l => { l with state := .free, gen := nextGen l.gen }) :=
      congrArg Host.Outcome.next (if_pos ⟨hst, hsince⟩)
    exact ⟨_, he, rfl, State.lease_modLease _ _ _ _, fun j hj => State.lease_modLease_ne _ _ _ _ hj⟩
  · have he : exec (.rangeZeroing h i) s =
        .next ((clearRange phys size s).modLease h i fun l => { l with body := .range base size phys true }) :=
      congrArg Host.Outcome.next (by simp only [hb, hst, if_false])
    refine ⟨_, he, fun k hlo hhi => ?_, fun k hk => ?_, mem_empties_clearRange phys size s, State.lease_modLease _ _ _ _⟩
    · exact (byteAt_clearRange phys size s k).trans (if_pos ⟨hlo, hhi⟩)
    · exact (byteAt_clearRange phys size s k).trans (if_neg (by omega))
  · have he : exec (.leaseEntryError h i) s =
        .next (s.modLease h i fun l => { l with x := min l.x (s.taper h.node + 1), spoiled := true }) :=
      congrArg Host.Outcome.next (if_pos ⟨hst, hi⟩)
    exact ⟨_, he, rfl, State.lease_modLease _ _ _ _⟩

/-- Settles O25: a handle is looked up at its home, and an entry moves from live through smoke to free. -/
theorem leasesInTime : Obligations.LeasesInTime := ⟨leaseHandles, leaseLapse⟩

end

section
/-!
Answers of lease requests and lease instructions (R123, R125 to R129).
-/

open Sys2Proof Sys2Proof.Machine Sys2Proof.Claims

namespace Sys2Proof.Machine

/-! ### What a filled predicate holds -/

section
variable {t : Thread} {q : BitVec 4}

/-- A filled predicate that no deferred one writes is full and, but for Q0, holds its value. -/
theorem Thread.fillQ_value (h : t.spares q) (hq : q ≠ 0) (b : Bool) : (t.fillQ q b).full (.q q) = true ∧ (t.fillQ q b).rQ q = b := by
  have hw : (t.wQ q b).spares q := by
    rw [Thread.wQ_eq]
    exact h
  obtain ⟨-, hfull, hval⟩ := Thread.filled_spares hw (.q q)
  refine ⟨hfull.trans (congrArg Prod.fst ((Thread.mark_wQ t q q b).trans (if_pos rfl))), hval.trans ?_⟩
  rw [Thread.rQ_wQ, if_pos ⟨rfl, hq⟩]

/-- Filling a predicate leaves the G registers. -/
theorem Thread.fillQ_g (b : Bool) : (t.fillQ q b).g = t.g := by rw [Thread.fillQ_eq]

end

/-! ### The answer and its fill -/

section
variable {tid : Tid} {pid : Nat} {s t : State} {f : Pending → Pending}

/-- A waiting instruction's last answer, as RESULT_FILL finds it. -/
theorem exec_resultFill_answer {p : Pending} (ht : t.threads = s.threads) (hwt : t.waits = s.waits) (hq : (s.th tid).pend? pid = some p)
    (hf : ∀ p, (f p).id = p.id) (hl : p.left = 1) (hr : (f p).refused = []) (hd : (f p).dst ≠ none)
    (hw : ∀ w ∈ s.waits, w.tid = tid → w.seq ≠ pid) : ∃ now, exec (.resultFill tid pid) (answer tid pid f t) =
      .next (fillTh tid (fun x => (Pending.answered f p).write now (x.dropPending pid)) (answer tid pid f t)) ∧
      now = t.taper tid.core.node ∧ ((answer tid pid f t).th tid).deferredQ = (s.th tid).deferredQ := by
  have hth : t.th tid = s.th tid := by rw [State.th, ht]; rfl
  have hans : answer tid pid f t = modPending tid pid (Pending.answered f) t :=
    answer_waits (hth ▸ hq) hf hr (.inr fun h => hd h.1)
  have hp := pend?_modPending (f := Pending.answered f) (hth ▸ hq : (t.th tid).pend? pid = some p) hf
  rw [hans]
  refine ⟨_, exec_resultFill (fun w hm => hw w (hwt ▸ hm)) hp ?_ hr, rfl, ?_⟩
  · rw [Pending.answered, hl]
  · rw [modPending, State.th_modTh, ← hth]

/-- The answer of a lease instruction: Gd takes what the value brings at the time of the fill. -/
theorem answersValue {v : PVal} {x : W64} (ht : t.threads = s.threads) (hwt : t.waits = s.waits)
    (hv : v = .g x ∨ ∃ y, v = .lifeNear y ∧ x = BitVec.ofNat 64 (y - t.taper tid.core.node)) :
    AnswersValue tid pid x s (answer tid pid (fun p => { p with val := v }) t) := by
  intro p d hq hl hr hd _ hd0 hw
  obtain ⟨now, he, hnow, -⟩ := exec_resultFill_answer ht hwt hq (f := fun p => { p with val := v }) (fun _ => rfl) hl hr
    (by simp [hd]) hw
  have hwrite : ∀ u : Thread, (Pending.answered (fun p => { p with val := v }) p).write now u =
      ({ u with flg := u.flg ||| p.flags.getD 0 } : Thread).fillG d x := by
    intro u
    obtain rfl | ⟨y, rfl, rfl⟩ := hv
    · simp only [Pending.write, Pending.answered, hd]
    · simp only [Pending.write, Pending.answered, hd, hnow]
  refine ⟨_, he, sameMemory_fillTh _ _ _, ?_, ?_⟩
  · rw [th_fillTh, hwrite, Thread.full_fillG]
  · rw [th_fillTh, hwrite, Thread.rG_fillG, if_neg hd0]

/-- The answer of a lease request: Gd takes the handle or the code, Qn whether it is a handle. -/
theorem answersHandle (x : W64) (ok : Bool) (ht : t.threads = s.threads) (hwt : t.waits = s.waits) :
    AnswersHandle tid pid x ok s (answer tid pid (fun p => { p with val := .gq x ok }) t) := by
  intro p d q hq hl hr hd ha hd0 hq0 hnd hw
  obtain ⟨now, he, -, hdef⟩ := exec_resultFill_answer ht hwt hq (f := fun p => { p with val := .gq x ok }) (fun _ => rfl) hl hr
    (by simp [hd]) hw
  have hwrite : ∀ u : Thread, (Pending.answered (fun p => { p with val := .gq x ok }) p).write now u =
      (({ u with flg := u.flg ||| p.flags.getD 0 } : Thread).fillG d x).fillQ q ok := by
    intro u
    simp only [Pending.write, Pending.answered, hd, ha]
  have hpred : ∀ u : Thread, u.deferredQ = (s.th tid).deferredQ →
      let y := (({ u with flg := u.flg ||| p.flags.getD 0 } : Thread).fillG d x).fillQ q ok
      y.full (.q q) = true ∧ y.rQ q = ok := by
    intro u hu
    have hsp : ({ u with flg := u.flg ||| p.flags.getD 0 } : Thread).spares q := fun e he => hnd e (hu ▸ he)
    exact Thread.fillQ_value (Thread.fillG_spares hsp d x) hq0 ok
  refine ⟨_, he, sameMemory_fillTh _ _ _, ?_, ?_, ?_⟩
  · rw [th_fillTh, hwrite, Thread.full_g_congr (Thread.fillQ_g _), Thread.full_fillG]
  · rw [th_fillTh, hwrite, Thread.rG_congr (Thread.fillQ_g _), Thread.rG_fillG, if_neg hd0]
  · rw [th_fillTh, hwrite]
    exact hpred _ hdef

/-- An answer leaves memory. -/
theorem sameMemory_answer : SameMemory s (answer tid pid f s) := by
  rw [answer_frame]
  exact ⟨fun _ => rfl, rfl, rfl⟩

theorem dies_answer : (answer tid pid f s).dies = s.dies := by rw [answer_frame]

theorem lease_of_dies (hd : t.dies = s.dies) (h : DieId) (i : Nat) : t.lease h i = s.lease h i := by
  rw [State.lease, State.die, hd]
  rfl

end

end Sys2Proof.Machine
end

section
/-!
Lease instructions, one by one (R118, R125 to R129, R236, R313).
-/

open Sys2Proof Sys2Proof.Machine Sys2Proof.Claims

namespace Sys2Proof.Machine

/-! ### Group slots -/

section
variable (t : Thread) (j : BitVec 2) (x : W64)

theorem Thread.rJ_wJ : (t.wJ j x).rJ j = x := Vector.getElem_set_self _

theorem Thread.rJ_wJ_ne {y : BitVec 2} (h : y ≠ j) : (t.wJ j x).rJ y = t.rJ y :=
  Vector.getElem_set_ne j.isLt y.isLt fun e => h (BitVec.eq_of_toNat_eq e.symm)

end

/-! ### The instruction at its home -/

theorem State.lease_modTh (s : State) (tid : Tid) (f : Thread → Thread) (h : DieId) (i : Nat) :
    (s.modTh tid f).lease h i = s.lease h i := rfl

section
variable {s : State} {k i : Nat} {r : LeaseReq} {h : DieId} {l : Lease}

/-- With one handle only, it is there. -/
theorem AtHome.arrives (hat : AtHome s k r h i l) (hh : r.handles = [r.a]) : ReqArrives s k r := by
  obtain ⟨hfind, horder, hheld, hpath, hway, -⟩ := hat
  exact ⟨hfind, horder, hheld, by rw [hh, arrival_cons hpath hway]; rfl⟩

theorem AtHome.lease_eq (hat : AtHome s k r h i l) : s.lease h i = l := by
  obtain ⟨-, -, -, -, -, hp⟩ := hat
  exact (present_live hp).1.symm

/-- An instruction with one handle that is live at its home. -/
theorem exec_leaseOp_atHome (hat : AtHome s k r h i l) (hh : r.handles = [r.a]) :
    exec (.leaseOpAtHome k) s = .next (leaseOp r h i l (dropReq k s)) := by
  obtain ⟨-, -, -, -, -, hp⟩ := id hat
  exact exec_leaseOp (AtHome.arrives hat hh) hp

/-- RNW of a lease that its thread may renew. -/
theorem rnwAt_renews (hi : i ≠ 0) (hown : if l.kind = .lock then l.ownedBy r.tid = true else l.heldBy r.ctx = true) (u : State) :
    rnwAt r h i l u = answer r.tid r.id (fun p => { p with val := .g (BitVec.ofNat 64 (min r.b.toNat Config.maxLife)) })
      (u.modLease h i fun l => if l.spoiled then l
        else { l with x := u.taper h.node + min r.b.toNat Config.maxLife, since := u.taper h.node }) := by
  unfold rnwAt
  by_cases hk : l.kind = .lock
  · rw [if_pos hk] at hown
    simp [hk, hown, hi]
  · rw [if_neg hk] at hown
    simp [hk, hown, hi]

/-- GJOIN of a thread that may join, and still waits for the reply. -/
theorem gjoinAt_joins {j : BitVec 2} {since n : Nat} {ts : List Tid} {team : Bool} {u : State}
    (hh : (u.th r.tid).hold = .gjoin since r.id) (hb : l.body = .group n ts team) (ho : l.holder = r.ctx) (hnew : r.tid ∉ ts)
    (hroom : ts.length ≠ n) : gjoinAt r j h i l u =
      (u.modLease h i fun l => { l with body := .group n (ts ++ [r.tid]) team }).modTh r.tid fun t =>
        { t.wJ j r.a with hold := .none } := by
  have hin : ts.contains r.tid = false := by simpa using hnew
  have hh' : ((u.modLease h i fun l => { l with body := .group n (ts ++ [r.tid]) team }).th r.tid).hold = .gjoin since r.id := hh
  simp only [gjoinAt, hb, ho, ne_eq, not_true, if_false, hin, Bool.false_eq_true, hroom, gjoinReply, hh', if_true]

/-- BIND of a range that no lock is bound to, in a table that is not full. -/
theorem bindAt_binds {hb : DieId} {ib key : Nat} {lb : Lease} {w : W64} {u : State} (hp : present u r.b = .live hb ib lb)
    (hk : l.kind = .range) (hl : lb.body = .lock w key r.tid false) (ho : l.holder = r.ctx) (hn : h.node = hb.node)
    (hfree : ∀ x ∈ (u.die h).binds, x.range ≠ i) (hroom : (u.die h).binds.length < Config.bindEntries) :
    bindAt r h i l u = answer r.tid r.id (fun p => { p with val := .g 0 })
      (u.modDie h fun d => { d with binds := d.binds ++ [⟨i, hb, key⟩] }) := by
  have hnone : (u.die h).binds.find? (fun b => decide (b.range = i)) = none := by simpa using hfree
  unfold bindAt bindResult
  simp only [hp, hk, hl, ho, hn, hnone, ne_eq, not_true, if_false, Nat.not_le.2 hroom, Bool.false_eq_true]
  rfl

/-- REL's first check of a hold that is its thread's. -/
theorem relAt_drains {sc : Scope} {w : W64} {key : Nat} {u : State} (hb : l.body = .lock w key r.tid false)
    (hq : lockQueue u h key = []) : relAt r sc h l u = u.modTh r.tid fun t => { t with hold := .rel r.a sc true } := by
  simp only [relAt, hb, Bool.false_eq_true, if_false, ne_eq, not_true, hq, List.foldl_nil]

/-- REL's first check of a hold that is detached or another thread's. -/
theorem relAt_refused {sc : Scope} {w : W64} {key : Nat} {o : Tid} {det : Bool} (hb : l.body = .lock w key o det)
    (hno : det = true ∨ o ≠ r.tid) (u : State) :
    relAt r sc h l u = reportHeld r (leaseFault (if det then .lapsed else .unheld) r.a) u := by
  cases det
  · have ho : o ≠ r.tid := hno.resolve_left (by decide)
    simp only [relAt, hb, Bool.false_eq_true, if_false, ne_eq, ho, not_false_eq_true, if_true]
  · simp only [relAt, hb, if_true]

end

end Sys2Proof.Machine

/-- Settles O24: each instruction is decided by the entry that its handle finds live. -/
theorem leaseOperations : Obligations.LeaseOperations := by
  intro k i r h l s hat
  have hlease := AtHome.lease_eq hat
  have hlive : present (dropReq k s) r.a = .live h i l := hat.2.2.2.2.2
  refine ⟨fun d a b g hins hi hown => ?_, fun d a g hins hheld hnode => ?_, fun d a b g hins hheld => ?_,
    fun j a g since n ts team hins hhold hbody howner hnew hroom => ?_,
    fun d a b g hb ib lb key p hins hpath hway hp hkind hlock howner hnode hfree hroom => ?_,
    fun a sc g sc' key p hins hhold hbody hq => ?_, fun a sc g sc' key p o det hins hhold hbody hno => ?_⟩
  · have he := exec_leaseOp_atHome hat (by simp [LeaseReq.handles, hins, isRequest])
    simp only [leaseOp, hins] at he
    rw [rnwAt_renews hi hown] at he
    refine ⟨_, he, sameMemory_trans ⟨fun _ => rfl, rfl, rfl⟩ sameMemory_answer, ?_, fun j hj => ?_, answersValue rfl rfl (.inl rfl)⟩
    · rw [lease_of_dies dies_answer, State.lease_modLease, ← hlease]
      rfl
    · rw [lease_of_dies dies_answer, State.lease_modLease_ne _ _ _ _ hj]
      rfl
  · have he := exec_leaseOp_atHome hat (by simp [LeaseReq.handles, hins, isRequest])
    simp only [leaseOp, hins, inspect, hheld, if_true, lifeAt, hnode] at he
    exact ⟨_, he, sameMemory_trans ⟨fun _ => rfl, rfl, rfl⟩ sameMemory_answer, dies_answer,
      answersValue rfl rfl (.inr ⟨_, rfl, by rw [hnode]; rfl⟩)⟩
  · have he := exec_leaseOp_atHome hat (by simp [LeaseReq.handles, hins, isRequest])
    simp only [leaseOp, hins, inspect, hheld, if_true] at he
    have hitem : bits r.b 0 4 = r.b.toNat % 16 := by simp [bits]
    rw [hitem] at he
    exact ⟨_, he, sameMemory_trans ⟨fun _ => rfl, rfl, rfl⟩ sameMemory_answer, dies_answer, answersValue rfl rfl (.inl rfl)⟩
  · have he := exec_leaseOp_atHome hat (by simp [LeaseReq.handles, hins, isRequest])
    simp only [leaseOp, hins] at he
    rw [gjoinAt_joins (u := dropReq k s) hhold hbody howner hnew hroom] at he
    refine ⟨_, he, ⟨fun _ => rfl, rfl, rfl⟩, ?_, ?_, ?_, fun x hx => ?_⟩
    · rw [State.lease_modTh, State.lease_modLease, ← hlease]
      rfl
    · rw [State.th_modTh]
      exact Thread.rJ_wJ _ _ _
    · rw [State.th_modTh]
    · rw [State.th_modTh]
      exact Thread.rJ_wJ_ne _ _ _ hx
  · have harr : ReqArrives s k r := by
      obtain ⟨hfind, horder, hheld, hpa, hwa, -⟩ := hat
      refine ⟨hfind, horder, hheld, ?_⟩
      have hh : r.handles = [r.a, r.b] := by simp [LeaseReq.handles, hins]
      rw [hh, arrival_cons hpa hwa, arrival_cons hpath hway]
      rfl
    have he := exec_leaseOp harr hlive
    simp only [leaseOp, hins] at he
    rw [bindAt_binds hp hkind hlock howner hnode hfree hroom] at he
    refine ⟨_, he, sameMemory_trans ⟨fun _ => rfl, rfl, rfl⟩ sameMemory_answer, ?_, answersValue rfl rfl (.inl rfl)⟩
    rw [State.die, dies_answer]
    exact congrArg Die.binds (State.die_modDie _ _ _)
  · have he := exec_leaseOp_atHome hat (by simp [LeaseReq.handles, hins, isRequest])
    simp only [leaseOp, hins] at he
    rw [relAt_drains (u := dropReq k s) hbody hq] at he
    exact ⟨_, he, ⟨fun _ => rfl, rfl, rfl⟩, rfl, State.th_modTh _ _ _⟩
  · have he := exec_leaseOp_atHome hat (by simp [LeaseReq.handles, hins, isRequest])
    simp only [leaseOp, hins] at he
    rw [relAt_refused hbody hno] at he
    refine ⟨_, he, ⟨fun _ => rfl, rfl, rfl⟩, rfl, ?_⟩
    rw [reportHeld, State.th_modTh]
    rfl

end

section
/-!
Lease requests at the service core (R122 to R124, R127).
-/

open Sys2Proof Sys2Proof.Machine Sys2Proof.Claims

namespace Sys2Proof.Machine

/-! ### Granted and refused requests -/

section
variable {s : State} {k i b : Nat} {r : LeaseReq} {kind : LKind} {h2 : W64} {body : LBody} {c : Nat × Nat} {t : State}

theorem Requested.id_eq (hr : Requested s k r) : r.id = k := by
  have hp := List.find?_some hr.1
  simp only [Bool.and_eq_true, decide_eq_true_eq] at hp
  exact hp.1

/-- A request that is refused. -/
theorem exec_request_refused {code : Nat} (hr : Requested s k r) (hd : decideRequest s r i b = .refuse code) :
    exec (.leaseRequestAnswer k i b) s = .next (answerRequest r (BitVec.ofNat 64 code) false s) := by
  obtain ⟨hfind, hrun⟩ := hr
  exact congrArg Host.Outcome.next (by simp only [hfind, hrun, not_true, if_false, hd])

/-- A request that finds no entry. -/
theorem exec_request_noEntry (hr : Requested s k r) (hd : decideRequest s r i b = .grant kind h2 body c)
    (hno : someEntry s (requestHome r) = false) : exec (.leaseRequestAnswer k i b) s = .next (answerRequest r 1 false s) := by
  obtain ⟨hfind, hrun⟩ := hr
  exact congrArg Host.Outcome.next (by simp only [hfind, hrun, not_true, if_false, hd, hno, Bool.false_eq_true, not_false_eq_true, if_true])

/-- A request that is granted, where its range can be mapped. -/
theorem exec_request_granted (hr : Requested s k r) (hd : decideRequest s r i b = .grant kind h2 body c)
    (hsome : someEntry s (requestHome r) = true) (hready : entryReady s (requestHome r) i = true)
    (hmap : mapGranted s r b (grantRequest r (requestHome r) i kind h2 body (clearRange c.1 c.2 s)) = .ok t) :
    exec (.leaseRequestAnswer k i b) s = .next t := by
  obtain ⟨hfind, hrun⟩ := hr
  exact congrArg Host.Outcome.next (by simp only [hfind, hrun, not_true, if_false, hd, hsome, hready, hmap])

/-- A request whose range no memory is left to map. -/
theorem exec_request_unmapped (hr : Requested s k r) (hd : decideRequest s r i b = .grant kind h2 body c)
    (hsome : someEntry s (requestHome r) = true) (hready : entryReady s (requestHome r) i = true)
    (hmap : mapGranted s r b (grantRequest r (requestHome r) i kind h2 body (clearRange c.1 c.2 s)) = .error .full) :
    exec (.leaseRequestAnswer k i b) s = .next (answerRequest r 2 false s) := by
  obtain ⟨hfind, hrun⟩ := hr
  exact congrArg Host.Outcome.next (by simp only [hfind, hrun, not_true, if_false, hd, hsome, hready, hmap])

/-- Nothing is to be mapped for what is not in HBM, or is mapped already. -/
theorem mapGranted_ok (h : (∀ d x y q g, r.ins ≠ .lrange d x y q g) ∨ bits r.a 40 2 ≠ 0 ∨
    (mappedRun s r.tid (hbmVa b) (roundUp (bits r.a 0 37) 4096) (bits r.a 42 2)).isSome = true) (u : State) :
    mapGranted s r b u = .ok u := by
  unfold mapGranted
  split
  next hins => exact if_pos (h.resolve_left fun hno => hno _ _ _ _ _ hins)
  · rfl

/-- The answer of a request, whatever else its grant has changed. -/
theorem answersHandle_request {u : State} (x : W64) (ok : Bool) (ht : u.threads = s.threads) (hw : u.waits = s.waits) :
    AnswersHandle r.tid r.id x ok s (answerRequest r x ok u) := answersHandle x ok ht hw

/-- What the answer of a request leaves, and the request itself. -/
theorem answerRequest_frame (x : W64) (ok : Bool) (u : State) : SameMemory u (answerRequest r x ok u) ∧
    (answerRequest r x ok u).dies = u.dies ∧ (answerRequest r x ok u).leaseReqs = u.leaseReqs.filter fun y => y.id ≠ r.id := by
  refine ⟨sameMemory_trans ⟨fun _ => rfl, rfl, rfl⟩ sameMemory_answer, dies_answer, ?_⟩
  rw [answerRequest, answer_frame]
  rfl

end

end Sys2Proof.Machine

/-- Grants. -/
theorem leaseGrant : Claims.LeaseGrant := by
  intro k i b n m r kind h2 body s hr hd hsome hready hmapped
  have hid := Requested.id_eq hr
  have he := exec_request_granted hr hd hsome hready (mapGranted_ok hmapped _)
  obtain ⟨⟨hmem, -, -⟩, hdies, hreqs⟩ := answerRequest_frame (r := r)
    (handleOf (requestHome r) kind i ((clearRange n m s).lease (requestHome r) i).gen) true
    (createLease (requestHome r) i kind (bits r.b 0 32) (if kind = .ctx then
      handleOf (requestHome r) kind i ((clearRange n m s).lease (requestHome r) i).gen else r.ctx) h2 body (clearRange n m s))
  refine ⟨_, he, ?_, fun j hj => ?_, fun j hlo hhi => ?_, fun j hj => ?_, ?_, ?_⟩
  · exact (lease_of_dies hdies _ _).trans (State.lease_modLease _ _ _ _)
  · exact (lease_of_dies hdies _ _).trans (State.lease_modLease_ne _ _ _ _ hj)
  · exact (hmem j).trans ((byteAt_clearRange n m s j).trans (if_pos ⟨hlo, hhi⟩))
  · exact (hmem j).trans ((byteAt_clearRange n m s j).trans (if_neg (by omega)))
  · exact hid ▸ hreqs
  · exact hid ▸ answersHandle_request _ true rfl rfl

/-- Codes of refusal, and their answers. -/
theorem leaseRefusals : Claims.LeaseRefusals := by
  refine ⟨fun s r i b d x y q g => ⟨fun hins => ?_, fun hins => ?_, fun hins hbad => ?_, fun hins hok hi hno => ?_, fun hins => ?_⟩,
    fun k i b c r s hr hd => ?_, fun k i b r kind h2 body c s hr hd hno => ?_,
    fun k i b n m r kind h2 body u s hr hd hsome hready hu hmap => ?_⟩
  · have hlow : bits r.a 0 24 = r.a.toNat % 2 ^ 24 := by simp [bits]
    have hhigh : bits r.a 24 40 = r.a.toNat / 2 ^ 24 := by
      have := r.a.isLt
      unfold bits
      omega
    simp only [decideRequest, hins, hlow, hhigh]
    refine ⟨fun hbad => if_pos ?_, fun h0 hlt hfull => ?_, fun h0 hlt hroom => ?_⟩
    · omega
    · rw [if_neg (by omega), if_pos hfull]
    · rw [if_neg (by omega), if_neg (by omega), Nat.mod_eq_of_lt hlt]
  · have hlow : bits r.a 0 16 = r.a.toNat % 2 ^ 16 := by simp [bits]
    have hhigh : bits r.a 16 48 = r.a.toNat / 2 ^ 16 := by
      have := r.a.isLt
      unfold bits
      omega
    simp only [decideRequest, hins, hlow, hhigh]
    refine ⟨fun hbad => if_pos ?_, fun hlt hown hout => ?_, fun hlt hown hin => ?_⟩
    · omega
    · rw [Nat.mod_eq_of_lt hlt, if_neg (by omega), if_pos (by simpa using hout)]
    · rw [Nat.mod_eq_of_lt hlt, if_neg (by omega), if_neg (by simpa using hin)]
  · simp only [decideRequest, hins, hbad, if_true]
  · simp only [decideRequest, hins, hok, hi, hno, Bool.false_eq_true, if_false, if_true]
  · simp only [decideRequest, hins, aligned_iff]
    refine ⟨fun hal => if_pos hal, fun ws hal hdesc hbad => ?_, fun ws hal hdesc hgood => ?_⟩
    · simp only [hal, hdesc, hbad, not_true, if_false, if_true]
    · have hspace : BitVec.ofNat 16 (bits (wordAt ws 0) 0 16) = (wordAt ws 0).setWidth 16 :=
        BitVec.eq_of_toNat_eq (by simp [bits])
      have htvb : BitVec.ofNat 19 (bits (wordAt ws 1) 0 19) = (wordAt ws 1).setWidth 19 :=
        BitVec.eq_of_toNat_eq (by simp [bits])
      simp only [hal, hdesc, hgood, not_true, if_false, Bool.false_eq_true, hspace, htvb]
  · have hid := Requested.id_eq hr
    obtain ⟨hmem, hdies, hreqs⟩ := answerRequest_frame (r := r) (BitVec.ofNat 64 c) false s
    exact ⟨_, exec_request_refused hr hd, hmem, hdies, hid ▸ hreqs, hid ▸ answersHandle_request _ false rfl rfl⟩
  · have hid := Requested.id_eq hr
    obtain ⟨hmem, hdies, -⟩ := answerRequest_frame (r := r) 1 false s
    exact ⟨_, exec_request_noEntry hr hd hno, hmem, hdies, hid ▸ answersHandle_request _ false rfl rfl⟩
  · have hid := Requested.id_eq hr
    obtain ⟨hmem, hdies, -⟩ := answerRequest_frame (r := r) 2 false s
    exact ⟨_, exec_request_unmapped hr hd hsome hready (hu ▸ hmap), hmem, hdies, hid ▸ answersHandle_request _ false rfl rfl⟩

/-- Items of LINFO. -/
theorem leaseItems : Claims.LeaseItems := by
  intro s h l
  refine ⟨rfl, rfl, fun n hn => ?_, fun base n x y hb => ?_, fun key p o x hb => ?_, fun n ts x hb => ?_, fun n hb => ?_,
    fun d x y hb => ?_, fun ep hb => ?_⟩
  · unfold linfoItem
    split
    case h_6 => rfl
    all_goals omega
  · simp [linfoItem, hb]
  · have hitem : linfoItem s h l 3 = BitVec.ofNat 64 ((coreId o.core).toNat % 2 ^ 16 + o.slot % 16 * 2 ^ 16) := by
      simp only [linfoItem, hb]
    have hnat : (linfoItem s h l 3).toNat = (coreId o.core).toNat % 2 ^ 16 + o.slot % 16 * 2 ^ 16 := by
      rw [hitem, BitVec.toNat_ofNat]
      omega
    refine ⟨by simp only [linfoItem, hb], by simp only [linfoItem, hb], ?_, ?_, ?_⟩
    all_goals
      unfold bits
      omega
  all_goals simp [linfoItem, hb]

/-- Settles O23: a request's decision is its answer, and a granted one has its entry. -/
theorem leaseAnswers : Obligations.LeaseAnswers := ⟨leaseGrant, leaseRefusals, leaseItems⟩

end

section
/-!
The ends of waits, and the grant of a lock (R117, R140, R145, R146).
-/

open Sys2Proof Sys2Proof.Machine Sys2Proof.Claims

namespace Sys2Proof.Machine

/-! ### The thread whose wait ends -/

/-- Gd of a wait: the value, or without one the old value, full again. -/
def Thread.takeGd (gd : Option (BitVec 4)) (x : Option W64) (t : Thread) : Thread :=
  match gd, x with
  | some d, some y => t.fillG d y
  | some d, none => t.restore (.g d)
  | none, _ => t

/-- The thread of a wait that has ended. -/
def Thread.ended (w : QWait) (ok : Bool) (x : Option W64) (t : Thread) : Thread :=
  (Thread.takeGd w.gd x { t with hold := .none }).fillQ w.q ok

section
variable {t : Thread} {d q : BitVec 4} {w : QWait} {s : State} {ok : Bool} {x : Option W64}

theorem Thread.restore_g_eq (d : BitVec 4) : t.restore (.g d) = { t with
    g := (t.setFull true (.g d)).g, q := (t.restore (.g d)).q, deferredQ := (t.restore (.g d)).deferredQ } := by
  unfold Thread.restore
  rw [Thread.filled_eq, Thread.setFull_g_eq]

/-- A restored G register is full. -/
theorem Thread.full_restore (hd : d ≠ 0) : (t.restore (.g d)).full (.g d) = true := by
  have hg : (t.restore (.g d)).g = (t.setFull true (.g d)).g := by rw [Thread.restore_g_eq]
  rw [Thread.full_g_congr hg]
  exact Thread.full_setFull_g _ _ hd

/-- It holds what it held. -/
theorem Thread.rG_restore (hd : d ≠ 0) : (t.restore (.g d)).rG d = t.rG d := by
  have hg : (t.restore (.g d)).g = (t.setFull true (.g d)).g := by rw [Thread.restore_g_eq]
  rw [Thread.rG_congr hg]
  simp only [Thread.setFull, Thread.rG, if_neg hd, Vector.getElem_set_self]

theorem Thread.restore_spares (h : t.spares q) (d : BitVec 4) : (t.restore (.g d)).spares q := by
  refine (Thread.filled_spares ?_ _).1
  rw [Thread.setFull_g_eq]
  exact h

theorem Thread.takeGd_hold (gd : Option (BitVec 4)) (x : Option W64) : (Thread.takeGd gd x t).hold = t.hold := by
  unfold Thread.takeGd
  split
  · rw [Thread.fillG_eq]
  · rw [Thread.restore_g_eq]
  · rfl

theorem Thread.takeGd_spares (h : t.spares q) (gd : Option (BitVec 4)) (x : Option W64) : (Thread.takeGd gd x t).spares q := by
  unfold Thread.takeGd
  split
  · exact Thread.fillG_spares h _ _
  · exact Thread.restore_spares h _
  · exact h

/-- Gd is full, with the value or as it was. -/
theorem Thread.takeGd_register (hd : d ≠ 0) :
    (Thread.takeGd (some d) x t).full (.g d) = true ∧ (Thread.takeGd (some d) x t).rG d = x.getD (t.rG d) := by
  cases x with
  | some y => exact ⟨Thread.full_fillG _ _ _, (Thread.rG_fillG _ _ _).trans (if_neg hd)⟩
  | none => exact ⟨Thread.full_restore hd, Thread.rG_restore hd⟩

/-! ### The end of a wait (R140) -/

theorem endWait_eq : endWait w ok x s =
    fillTh w.tid (Thread.ended w ok x) { s with waits := s.waits.filter fun v => v.seq ≠ w.seq } := by
  unfold endWait
  congr 1
  funext t
  unfold Thread.ended Thread.takeGd
  cases w.gd with
  | none => rfl
  | some d => cases x <;> rfl

theorem th_endWait : (endWait w ok x s).th w.tid = Thread.ended w ok x (s.th w.tid) := by
  rw [endWait_eq, th_fillTh]
  rfl

theorem look_endWait {j : Nat} (hj : j ≠ tidKey w.tid) : (endWait w ok x s).threads.look j = s.threads.look j := by
  rw [endWait_eq, fillTh_eq]
  exact State.modTh_look _ hj

theorem sameMemory_endWait : SameMemory s (endWait w ok x s) := by
  rw [endWait_eq]
  exact sameMemory_trans ⟨fun _ => rfl, rfl, rfl⟩ (sameMemory_fillTh _ _ _)

/-- A wait that ends is withdrawn, and its thread runs on with its registers full. -/
theorem waitEnds_endWait (ok : Bool) (x : Option W64) (h : NotDeferred s w.tid w.q) : WaitEnds w ok x s (endWait w ok x s) := by
  have hsp : Thread.spares { s.th w.tid with hold := .none } w.q := h
  refine ⟨endWait_waits w ok x s, ?_, fun hq => ?_, fun d hgd hd => ?_, fun j hj => look_endWait hj, sameMemory_endWait.1⟩
  all_goals rw [th_endWait, Thread.ended]
  · rw [Thread.fillQ_eq]
    exact Thread.takeGd_hold _ _
  · exact Thread.fillQ_value (Thread.takeGd_spares hsp _ _) hq ok
  · rw [Thread.full_g_congr (Thread.fillQ_g _), Thread.rG_congr (Thread.fillQ_g _), hgd]
    exact Thread.takeGd_register hd

/-- The same, of a wait that its deciding place has placed or queued meanwhile, in a state with the threads and waits of `s`. -/
theorem waitEnds_of {v : QWait} {u : State} (hv : v = { w with stage := v.stage, resv := v.resv, key := v.key })
    (ht : u.threads = s.threads) (hw : u.waits = s.waits) (hm : SameMemory s u) (h : NotDeferred s w.tid w.q) :
    WaitEnds w ok x s (endWait v ok x u) ∧ SameMemory s (endWait v ok x u) := by
  have htid : v.tid = w.tid := by rw [hv]
  have hseq : v.seq = w.seq := by rw [hv]
  have hq : v.q = w.q := by rw [hv]
  have hgd : v.gd = w.gd := by rw [hv]; rfl
  have hth : u.th w.tid = s.th w.tid := by rw [State.th, ht]; rfl
  obtain ⟨h1, h2, h3, h4, h5, -⟩ := waitEnds_endWait (s := u) (w := v) ok x (by rwa [htid, hq, NotDeferred, hth])
  have hmem := sameMemory_trans hm (sameMemory_endWait (w := v) (ok := ok) (x := x))
  rw [htid] at h2 h3 h4 h5
  rw [hseq, hw] at h1
  rw [hq] at h3
  rw [hgd, hth] at h4
  rw [ht] at h5
  exact ⟨⟨h1, h2, h3, h4, h5, hmem.1⟩, hmem⟩

/-- A wait is answered at once over an open way. -/
theorem answerWait_open (hway : wayOpen s w.node w.tid.core.node = true) : answerWait w ok x none s = endWait w ok x s := by
  simp only [answerWait, hway, if_true]

/-- Nothing is answered at once over a way that is lost. -/
theorem wayOpen_of_wayLost {n m : Nat} (h : wayLost s n m = true) : wayOpen s n m = false := by
  obtain ⟨hne, hroute, -⟩ : n ≠ m ∧ route s n m = none ∧ (s.pkg n).relock = none := by simpa [wayLost] using h
  simp [wayOpen, crosses, hne, hroute]

theorem answerWait_lost {f : Option FaultInfo} (h : wayLost s w.node w.tid.core.node = true) :
    answerWait w ok x f s = faultWait w ⟨.lapsed, 0, 0, 4⟩ s := by
  simp only [answerWait, wayOpen_of_wayLost h, h, Bool.false_eq_true, if_false, if_true]

/-- The outcome waits at the deciding place for the end of a change of circuits. -/
theorem answerWait_held {f : Option FaultInfo} (h : answerHeld s w.node w.tid.core.node = true) : answerWait w ok x f s = { s with
    waits := mapIf s.waits (fun v => decide (v.seq = w.seq)) fun v =>
      { v with stage := .answered ok x f, resv := none, key := w.key } } := by
  obtain ⟨hopen, hlost⟩ : wayOpen s w.node w.tid.core.node = false ∧ wayLost s w.node w.tid.core.node = false := by
    simpa [answerHeld] using h
  simp only [answerWait, hopen, hlost, Bool.false_eq_true, if_false]

/-- A wait found by its thread. -/
theorem tid_of_find? {l : List QWait} {tid : Tid} {p : QWait → Bool}
    (h : l.find? (fun v => decide (v.tid = tid) && p v) = some w) : w.tid = tid := by
  have hp := List.find?_some h
  simp only [Bool.and_eq_true, decide_eq_true_eq] at hp
  exact hp.1

theorem QWait.late_eq : w.late = lateValue w.kind := by
  unfold QWait.late lateValue
  cases w.kind <;> rfl

end

theorem dies_endWait {w : QWait} {s : State} {ok : Bool} {x : Option W64} : (endWait w ok x s).dies = s.dies := by
  rw [endWait_frame]

/-! ### Locks (R117, R146) -/

section
variable {s : State} {tid : Tid} {w : QWait} {a : Acc} {p : Phys} {i life : Nat} {d : BitVec 4}

/-- LLOCK whose key is at its home. -/
theorem exec_waitAccept_lock (hw : SentWait s tid w) (hk : w.kind = .lock life d)
    (ha : s.accs.find? (fun a => a.agent = .lockKey w.seq) = some a) (hp : a.trans = .done p) (hreach : a.reaches s = true)
    (htr : translatedBefore s tid w.seq = true) (hf : fencesAllow s tid w.seq p false = true) :
    exec (.waitAccept tid i) s = .next (acceptLock w a p i s) := by
  obtain ⟨hfind, -, -⟩ := hw
  exact congrArg Host.Outcome.next (by simp only [hfind, hk, ha, hp, htr, hreach, hf, and_self, if_true])

/-- An LLOCK at the place of its key, with the entry that it reserves. -/
def QWait.atLock (w : QWait) (p : Phys) (r : Option Nat) : QWait := { w with key := some p, resv := r }

theorem QWait.node_atLock (hk : w.kind = .lock life d) (r : Option Nat) : (w.atLock p r).node = p.node := by
  simp only [QWait.node, QWait.atLock, hk]

/-- The lock enters the directory of its home, before its first hold. -/
def State.newLock (s : State) (p : Phys) (addr : W64) : State :=
  s.modDie p.home fun d => { d with locks := d.locks ++ [⟨p.key, addr, none, none, 0⟩] }

/-- Its lease table is not touched. -/
theorem lease_newLock (addr : W64) : (s.newLock p addr).lease p.home i = s.lease p.home i := by
  rw [State.newLock, State.lease, State.die_modDie]
  rfl

/-- The key's access has been settled. -/
def State.dropAcc (s : State) (a : Acc) : State := { s with accs := s.accs.filter fun x => x.id ≠ a.id }

/-- A lock that does not exist yet is granted to its first waiter. -/
theorem acceptLock_grants (hsys : isSystem s p = false) (hgr : granuleCheck s w.ctx p w.addr = none)
    (hnone : lockAt s p.home p.key = none) (hroom : (s.die p.home).locks.length < Config.lockEntries)
    (hsome : someEntry s p.home = true) (hready : entryReady s p.home i = true) (hq : lockQueue s p.home p.key = []) :
    acceptLock w a p i s = grantLock p.home p (w.atLock p (some i)) ((s.dropAcc a).newLock p w.addr) := by
  have hq' : lockQueue ((s.dropAcc a).newLock p w.addr) p.home p.key = [] := hq
  unfold acceptLock
  simp only [hsys, hgr, hnone, Nat.not_le.2 hroom, hsome, hready, Bool.false_eq_true, if_false, Option.map_none, Option.getD_none,
    and_false, not_true, if_true]
  exact if_pos ⟨id, hq'⟩

/-- Whoever holds the lock already is refused it. -/
theorem acceptLock_held {k : Lock} (hsys : isSystem s p = false) (hgr : granuleCheck s w.ctx p w.addr = none)
    (hk : lockAt s p.home p.key = some k) (hh : holdsLock s p.home k w.tid = true) :
    acceptLock w a p i s = answerWait (w.atLock p w.resv) false (some 3) none (s.dropAcc a) := by
  unfold acceptLock
  simp only [hsys, hgr, hk, Option.map_some, Option.getD_some, hh, Bool.false_eq_true, if_false, if_true]
  rfl

/-- A lock of the directory, if it is the one granted in entry `i`, has its hold. -/
def Lock.granted (key i : Nat) (k : Lock) : Lock := if k.key = key then { k with hold := some i } else k

theorem Lock.granted_key (key i : Nat) (k : Lock) : (k.granted key i).key = k.key := by
  unfold Lock.granted
  split <;> rfl

/-- The hold of a lock granted in entry `i`, in the lease table and in the directory. -/
def State.heldLock (s : State) (p : Phys) (w : QWait) (i life : Nat) : State :=
  (createLease p.home i .lock life w.ctx 0 (.lock w.addr p.key w.tid false) s).modDie p.home fun d =>
    { d with locks := d.locks.map (Lock.granted p.key i) }

theorem grantLock_eq (hr : w.resv = some i) (hk : w.kind = .lock life d) : grantLock p.home p w s =
    answerWait w true (some (handleOf p.home .lock i ((s.heldLock p w i life).lease p.home i).gen)) none (s.heldLock p w i life) := by
  unfold grantLock
  simp only [hr, hk]
  rfl

theorem lease_heldLock : (s.heldLock p w i life).lease p.home i =
    ⟨.live, .lock, (s.lease p.home i).gen, s.taper p.node + min life Config.maxLife, s.taper p.node, w.ctx, 0,
      .lock w.addr p.key w.tid false, false⟩ := by
  have h : (s.heldLock p w i life).lease p.home i =
      (createLease p.home i .lock life w.ctx 0 (.lock w.addr p.key w.tid false) s).lease p.home i := by
    rw [State.heldLock, State.lease, State.die_modDie]
    rfl
  rw [h]
  exact State.lease_modLease _ _ _ _

theorem locks_heldLock : ((s.heldLock p w i life).die p.home).locks = (s.die p.home).locks.map (Lock.granted p.key i) := by
  have hlease : ((createLease p.home i .lock life w.ctx 0 (.lock w.addr p.key w.tid false) s).die p.home).locks =
      (s.die p.home).locks := by
    rw [createLease, State.modLease, State.die_modDie]
  rw [State.heldLock, State.die_modDie, ← hlease]

/-- A lock that was not in the directory stands there with its hold. -/
theorem lockAt_heldLock (hnone : lockAt s p.home p.key = none) (addr : W64) :
    lockAt ((s.newLock p addr).heldLock p w i life) p.home p.key = some ⟨p.key, addr, some i, none, 0⟩ := by
  have hnew : ((s.newLock p addr).die p.home).locks = (s.die p.home).locks ++ [⟨p.key, addr, none, none, 0⟩] := by
    rw [State.newLock, State.die_modDie]
  have hkey : (fun k : Lock => decide (k.key = p.key)) ∘ Lock.granted p.key i = fun k => decide (k.key = p.key) := by
    funext k
    simp only [Function.comp, Lock.granted_key]
  rw [lockAt] at hnone
  rw [lockAt, locks_heldLock, hnew, List.find?_map, hkey, List.find?_append, hnone]
  simp [Lock.granted]

end

end Sys2Proof.Machine

/-- LLOCK at its home. -/
theorem lockAcceptance : Claims.LockAcceptance := by
  intro tid i life d w a p s hw hk ha hp hreach hway htr hf hsys hgr
  have he := exec_waitAccept_lock (i := i) hw hk ha hp hreach htr hf
  obtain ⟨-, htid, hnd⟩ := hw
  subst htid
  refine ⟨fun hnone hroom hsome hready hq => ?_, fun k hlock hheld => ?_⟩
  · rw [acceptLock_grants hsys hgr hnone hroom hsome hready hq, grantLock_eq (w := w.atLock p (some i)) rfl hk, answerWait_open,
      lease_heldLock] at he
    · obtain ⟨hends, hmem⟩ := waitEnds_of (w := w) (s := s) (v := w.atLock p (some i)) (ok := true)
        (x := some (handleOf p.home .lock i (((s.dropAcc a).newLock p w.addr).lease p.home i).gen))
        (u := ((s.dropAcc a).newLock p w.addr).heldLock p (w.atLock p (some i)) i life) rfl rfl rfl ⟨fun _ => rfl, rfl, rfl⟩ hnd
      rw [lease_newLock] at he hends hmem
      refine ⟨_, he, hends, hmem, ?_, ?_⟩
      · rw [lease_of_dies dies_endWait, lease_heldLock, lease_newLock]
        rfl
      · rw [lockAt, State.die, dies_endWait]
        exact lockAt_heldLock (s := s.dropAcc a) hnone _
    · rw [QWait.node_atLock hk]
      exact hway
  · rw [acceptLock_held hsys hgr hlock hheld, answerWait_open] at he
    · exact ⟨_, he, waitEnds_of rfl rfl rfl ⟨fun _ => rfl, rfl, rfl⟩ hnd⟩
    · rw [QWait.node_atLock hk]
      exact hway

/-- Timeouts, won barriers, and outcomes that waited for their way. -/
theorem waitEndings : Claims.WaitEndings := by
  refine ⟨fun tid w s hfind hkey => ?_, fun tid w ds sc s hfind hgd hway hst hdr hnd => ?_, fun tid w ok x s hfind hst => ?_⟩
  · obtain rfl := tid_of_find? hfind
    have he : exec (.waitTimeout w.tid) s = .next (answerWait w false (lateValue w.kind) none s) := by
      refine congrArg Host.Outcome.next ?_
      simp only [hfind, hkey, timeOut, QWait.late_eq]
    refine ⟨fun hway hnd => ?_, fun hheld => ?_⟩
    · rw [answerWait_open hway] at he
      exact ⟨_, he, waitEnds_endWait false _ hnd, sameMemory_endWait⟩
    · rw [answerWait_held hheld] at he
      refine ⟨_, he, rfl, ?_⟩
      simp only [mapIf, decide_eq_true_eq, hkey]
  · obtain rfl := tid_of_find? hfind
    have hdrained : barDrained s w = true := by
      simp only [barDrained, hst, List.all_eq_true]
      exact hdr
    have he : exec (.resultFill w.tid w.seq) s = .next (answerWait w true none none s) := by
      refine congrArg Host.Outcome.next ?_
      simp only [hfind, answerDecided, hst, hdrained, if_true]
    rw [answerWait_open hway] at he
    exact ⟨_, he, waitEnds_endWait true none hnd, sameMemory_endWait⟩
  · obtain rfl := tid_of_find? hfind
    have he : exec (.resultFill w.tid w.seq) s = .next (answerWait w ok x none s) := by
      refine congrArg Host.Outcome.next ?_
      simp only [hfind, answerDecided, hst]
    refine ⟨fun hway hnd => ?_, fun hlost => ?_⟩
    · rw [answerWait_open hway] at he
      exact ⟨_, he, waitEnds_endWait ok x hnd, sameMemory_endWait⟩
    · rw [answerWait_lost hlost] at he
      refine ⟨_, he, ⟨fun _ => rfl, rfl, rfl⟩, rfl, ?_⟩
      rw [faultWait, State.th_modTh]
      rfl

/-- Settles O21: a lock's grant and each end of a wait are one answer to its thread. -/
theorem locksAndWaitEndings : Obligations.LocksAndWaitEndings := ⟨lockAcceptance, waitEndings⟩

end

section
/-!
The tick of a package (R103, R144, R346).
-/

open Sys2Proof Sys2Proof.Machine Sys2Proof.Claims

namespace Sys2Proof.Machine

/-! ### Maps whose entries change in place -/

theorem Map.look_mapVal {α β : Type} (g : Nat → α → β) (m : Map α) (k : Nat) :
    Map.look (m.map fun e => (e.1, g e.1 e.2)) k = (m.look k).map (g k) := by
  induction m with
  | nil => rfl
  | cons e m ih =>
    obtain ⟨j, x⟩ := e
    by_cases h : j = k
    · subst h
      simp [Map.look]
    · simpa [Map.look, h] using ih

/-! ### The taper of a package -/

section
variable {s : State} {n : Nat} {f : Package → Package}

/-- A change of a package that leaves its taper leaves every taper. -/
theorem taper_modPkg (hf : ∀ p, (f p).taper = p.taper) (m : Nat) : (s.modPkg n f).taper m = s.taper m := by
  rw [State.taper, State.taper]
  by_cases h : m = n
  · rw [h, State.pkg_modPkg, hf]
  · rw [State.pkg_modPkg_ne s h]

theorem taper_lapsePath (h : DieId) (k m : Nat) : (lapsePath h k s).taper m = s.taper m := by
  unfold lapsePath
  dsimp only
  split
  · exact taper_modPkg (by intro; rfl) m
  · rfl

theorem lapsePath_frame (h : DieId) (k : Nat) : lapsePath h k s = { s with packages := (lapsePath h k s).packages } := by
  unfold lapsePath
  dsimp only
  split <;> rfl

theorem lease_lapsePath (h a : DieId) (k j : Nat) : (lapsePath h k s).lease a j = s.lease a j := by
  rw [lapsePath_frame]
  rfl

end

/-! ### Paths that lapse by force (R346) -/

section
variable {s t : State} {h : DieId} {i : Nat}

/-- A die begins with one entry, its supervisor context's. -/
theorem leases_reset (n d : Nat) : ∃ l : Lease, (Die.reset n d).leases = [(0, l)] ∧ l.body = .ctx 0 0 0 := ⟨_, rfl, rfl⟩

theorem body_reset (n d j : Nat) :
    ((Die.reset n d).leases.get Lease.reset j).body = if 0 = j then .ctx 0 0 0 else .none := by
  obtain ⟨l, hl, hb⟩ := leases_reset n d
  rw [hl, Map.get, Map.look]
  by_cases hj : 0 = j
  · rw [if_pos hj, if_pos hj, Option.getD_some, hb]
  · rw [if_neg hj, if_neg hj]
    rfl

theorem body_alias {a b : DieId} (hk : dieKey a = dieKey b) (j : Nat) : (s.lease a j).body = (s.lease b j).body := by
  have hdie : ∀ x : DieId, s.die x = (s.dies.look (dieKey x)).getD (Die.reset x.node x.die) := fun _ => rfl
  rw [State.lease, State.lease, hdie a, hdie b, hk]
  cases s.dies.look (dieKey b) with
  | some d => rw [Option.getD_some, Option.getD_some]
  | none => exact (body_reset _ _ _).trans (body_reset _ _ _).symm

/-- A change of an entry that keeps its body keeps every body. -/
theorem body_modLease {f : Lease → Lease} (hf : ∀ l, (f l).body = l.body) (a : DieId) (j : Nat) :
    ((s.modLease h i f).lease a j).body = (s.lease a j).body := by
  by_cases hk : dieKey a = dieKey h
  · rw [body_alias hk, body_alias (s := s) hk]
    by_cases hj : j = i
    · rw [hj, State.lease_modLease, hf]
    · rw [State.lease_modLease_ne _ _ _ _ hj]
  · have hdie : (s.modLease h i f).die a = s.die a := Map.get_set_ne hk
    rw [State.lease, hdie]
    rfl

/-- What the lapse of paths leaves of `s`: all but dies and packages, with every taper and every lease's body. -/
def PathsLapsed (s t : State) : Prop := t = { s with dies := t.dies, packages := t.packages } ∧ (∀ m, t.taper m = s.taper m) ∧
  ∀ h i, (t.lease h i).body = (s.lease h i).body

/-- The lapse of a PATH. -/
theorem lapseNow_path {m : Nat} (hb : (s.lease h i).body = .path m) : lapseNow h i s =
    lapsePath h m (s.modLease h i fun l => { l with state := .smoke, since := s.taper h.node }) := by
  simp only [lapseNow, lapseEffects, hb]

theorem PathsLapsed.lapseNow {m : Nat} (ht : PathsLapsed s t) (hb : (s.lease h i).body = .path m) :
    PathsLapsed s (lapseNow h i t) := by
  obtain ⟨he, htaper, hbody⟩ := ht
  rw [lapseNow_path ((hbody h i).trans hb)]
  refine ⟨?_, fun k => (taper_lapsePath _ _ _).trans (htaper k), fun a j => ?_⟩
  · rw [lapsePath_frame, State.modLease, State.modDie, he]
  · rw [lease_lapsePath]
    exact (body_modLease (by intro; rfl) a j).trans (hbody a j)

theorem pathsLapsed_forceLapses (n : Nat) (s : State) : PathsLapsed s (forceLapses n s) := by
  unfold forceLapses
  refine List.foldlRecOn _ _ ⟨rfl, fun _ => rfl, fun _ _ => rfl⟩ fun t ht x hx => ?_
  obtain ⟨d, -, hx⟩ := List.mem_flatMap.1 hx
  obtain ⟨e, -, hx⟩ := List.mem_filterMap.1 hx
  dsimp only at hx
  split at hx
  next m hb =>
    split at hx
    · cases hx
      exact ht.lapseNow hb
    · cases hx
  · cases hx

end

/-! ### The end of a relock (R346) -/

section
variable {s : State} {n : Nat}

theorem Thread.rebound_deferredQ (before : State) (now : Nat) (tid : Tid) (t : Thread) :
    (t.rebound before now tid).deferredQ = t.deferredQ := by
  unfold Thread.rebound
  split <;> split <;> rfl

theorem reboundJoins_look (before u : State) (k : Nat) : (reboundJoins n before u).threads.look k = (u.threads.look k).map fun t =>
    if (tidOfKey k).core.node = n then t.rebound before (u.taper n) (tidOfKey k) else t := by
  have h : (reboundJoins n before u).threads = u.threads.map fun e => (e.1,
      if (tidOfKey e.1).core.node = n then e.2.rebound before (u.taper n) (tidOfKey e.1) else e.2) := by
    unfold reboundJoins
    dsimp only
    congr 1
    funext e
    split <;> rfl
  rw [h]
  exact Map.look_mapVal (fun j (t : Thread) => if (tidOfKey j).core.node = n then t.rebound before (u.taper n) (tidOfKey j) else t) _ _

/-- A bound that counts anew leaves what is deferred. -/
theorem reboundJoins_deferredQ (before u : State) (tid : Tid) :
    ((reboundJoins n before u).th tid).deferredQ = (u.th tid).deferredQ := by
  rw [State.th, State.th, Map.get, Map.get, reboundJoins_look]
  cases u.threads.look (tidKey tid) with
  | none => rfl
  | some t =>
    simp only [Option.map_some, Option.getD_some]
    split
    · exact Thread.rebound_deferredQ _ _ _ _
    · rfl

/-- The end of a relock changes threads, dies and packages, but no taper and nothing deferred; without one nothing ends. -/
theorem endRelock_frame (n : Nat) (s : State) :
    endRelock n s = { s with
      threads := (endRelock n s).threads, dies := (endRelock n s).dies, packages := (endRelock n s).packages } ∧
    (∀ m, (endRelock n s).taper m = s.taper m) ∧ (∀ tid, ((endRelock n s).th tid).deferredQ = (s.th tid).deferredQ) ∧
    ((s.pkg n).relock = none → (endRelock n s).dies = s.dies) := by
  unfold endRelock
  split
  next hnone => exact ⟨rfl, fun _ => rfl, fun _ => rfl, fun _ => rfl⟩
  next l hl =>
    obtain ⟨he, htaper, -⟩ := pathsLapsed_forceLapses n (reboundJoins n s (s.modPkg n fun p => { p with relock := none }))
    refine ⟨?_, fun m => (htaper m).trans ?_, fun tid => ?_, fun h => ?_⟩
    · rw [he]
      rfl
    · exact taper_modPkg (s := s) (f := fun p => { p with relock := none }) (fun _ => rfl) m
    · rw [he]
      exact reboundJoins_deferredQ _ _ tid
    · rw [hl] at h
      cases h

end

theorem sameMemory_endRelock (n : Nat) (s : State) : SameMemory s (endRelock n s) := by
  rw [(endRelock_frame n s).1]
  exact ⟨fun _ => rfl, rfl, rfl⟩

/-! ### Waits for the taper (R144) -/

/-- The thread runs with Qq full and true, and defers nothing. -/
def Thread.woken (q : BitVec 4) (t : Thread) : Prop :=
  t.deferredQ = [] ∧ t.full (.q q) = true ∧ t.rQ q = true ∧ t.hold = .none

section
variable {t : Thread} {u : State} {v w : QWait} {q : BitVec 4}

/-- A predicate that fills while nothing is deferred is written and no more. -/
theorem Thread.fillQ_of_none (h : t.deferredQ = []) (b : Bool) : t.fillQ q b = t.wQ q b := by
  have hw : (t.wQ q b).deferredQ = [] := by
    rw [Thread.wQ_eq]
    exact h
  have hnote : ∀ (x : Thread) (r : RegRef) (y : W64), x.deferredQ = [] → x.note r y = x := by
    intro x r y hx
    cases x
    simp only [Thread.note] at hx ⊢
    rw [hx, List.map_nil]
  rw [Thread.fillQ, Thread.filled, hw, hnote _ _ _ hw]
  rfl

/-- A wait for the taper that succeeds. -/
theorem ended_eq (hv : v.gd = none) (h : t.deferredQ = []) : Thread.ended v true none t = ({ t with hold := .none } : Thread).wQ v.q true := by
  rw [Thread.ended, hv]
  exact Thread.fillQ_of_none (t := { t with hold := .none }) h true

theorem ended_deferredQ (hv : v.gd = none) (h : t.deferredQ = []) : (Thread.ended v true none t).deferredQ = [] := by
  rw [ended_eq hv h, Thread.wQ_eq]
  exact h

theorem ended_woken (hv : v.gd = none) (h : t.deferredQ = []) (hq : v.q ≠ 0) : (Thread.ended v true none t).woken v.q := by
  refine ⟨ended_deferredQ hv h, ?_⟩
  rw [ended_eq hv h]
  refine ⟨congrArg Prod.fst ((Thread.mark_wQ _ _ _ _).trans (if_pos rfl)), ?_, ?_⟩
  · rw [Thread.rQ_wQ, if_pos ⟨rfl, hq⟩]
  · rw [Thread.wQ_eq]

/-- Another such wait of the thread leaves it woken. -/
theorem woken_ended (hv : v.gd = none) (h : t.woken q) (hq : q ≠ 0) : (Thread.ended v true none t).woken q := by
  obtain ⟨hdef, hfull, hval, -⟩ := h
  by_cases hvq : v.q = q
  · rw [← hvq]
    exact ended_woken hv hdef (hvq ▸ hq)
  · refine ⟨ended_deferredQ hv hdef, ?_⟩
    rw [ended_eq hv hdef]
    have hsame : Thread.sameQ { t with hold := .none } (({ t with hold := .none } : Thread).wQ v.q true) q :=
      Thread.sameQ_wQ hvq true
    exact ⟨hsame.1.trans hfull, hsame.2.trans hval, by rw [Thread.wQ_eq]⟩

theorem look_endWait_self {ok : Bool} {x : Option W64} :
    (endWait w ok x u).threads.look (tidKey w.tid) = some (Thread.ended w ok x (u.th w.tid)) := by
  rw [endWait_eq, fillTh_eq]
  exact State.look_modTh_self

theorem Thread.deferredQ_resetAt (tid : Tid) : (Thread.resetAt tid).deferredQ = [] := by
  unfold Thread.resetAt
  split <;> rfl

theorem State.th_of_unlisted {tid : Tid} (h : u.threads.look (tidKey tid) = none) : u.th tid = Thread.resetAt tid :=
  congrArg (·.getD (Thread.resetAt tid)) h

/-- Two threads of one key: if nothing is deferred of the one, nothing is of the other. -/
theorem deferredQ_alias {a b : Tid} (hk : tidKey a = tidKey b) (h : (u.th b).deferredQ = []) : (u.th a).deferredQ = [] := by
  cases hl : u.threads.look (tidKey b) with
  | none => rw [State.th_of_unlisted (hk ▸ hl), Thread.deferredQ_resetAt]
  | some t => rwa [State.th_of_look (hk ▸ hl : u.threads.look (tidKey a) = some t), ← State.th_of_look hl]

/-- The entry of a thread holds a woken one. -/
def State.wokenAt (u : State) (tid : Tid) (q : BitVec 4) : Prop := ∃ y, u.threads.look (tidKey tid) = some y ∧ y.woken q

theorem wokenAt_endWait {tid : Tid} (hv : v.gd = none) (hq : q ≠ 0) (h : u.wokenAt tid q) :
    (endWait v true none u).wokenAt tid q := by
  obtain ⟨y, hy, hw⟩ := h
  by_cases hk : tidKey tid = tidKey v.tid
  · have hth : u.th v.tid = y := State.th_of_look (hk ▸ hy)
    refine ⟨_, (congrArg _ hk).trans look_endWait_self, ?_⟩
    rw [hth]
    exact woken_ended hv hw hq
  · exact ⟨y, (look_endWait hk).trans hy, hw⟩

theorem deferredQ_endWait {tid : Tid} (hv : v.gd = none) (h : (u.th tid).deferredQ = []) :
    ((endWait v true none u).th tid).deferredQ = [] := by
  by_cases hk : tidKey tid = tidKey v.tid
  · have hth : (endWait v true none u).th tid = Thread.ended v true none (u.th v.tid) :=
      State.th_of_look ((congrArg _ hk).trans look_endWait_self)
    rw [hth]
    exact ended_deferredQ hv (deferredQ_alias hk.symm h)
  · have hth : (endWait v true none u).th tid = u.th tid := congrArg (·.getD (Thread.resetAt tid)) (look_endWait hk)
    rw [hth, h]

/-- Served in turn, every one of the waits wakes its thread. -/
theorem wokenAt_foldl {l : List QWait} (hl : ∀ v ∈ l, v.gd = none) (hw : w ∈ l) (hq : w.q ≠ 0)
    (h : (u.th w.tid).deferredQ = []) : (l.foldl (fun s v => endWait v true none s) u).wokenAt w.tid w.q := by
  induction l generalizing u with
  | nil => cases hw
  | cons v l ih =>
    have hv := hl v List.mem_cons_self
    have hl' : ∀ x ∈ l, x.gd = none := fun x hx => hl x (List.mem_cons_of_mem v hx)
    rw [List.foldl_cons]
    by_cases hvw : v = w
    · subst hvw
      have hfirst : (endWait v true none u).wokenAt v.tid v.q := ⟨_, look_endWait_self, ended_woken hv h hq⟩
      exact List.foldlRecOn (motive := fun s : State => s.wokenAt v.tid v.q) l _ hfirst fun s hs x hx => wokenAt_endWait (hl' x hx) hq hs
    · exact ih hl' ((List.mem_cons.1 hw).resolve_left (Ne.symm hvw)) (deferredQ_endWait hv h)

/-- Waits end by changes of threads and of the guards of commands. -/
theorem serveTaper_frame (n : Nat) (s : State) : serveTaper n s = { s with
    threads := (serveTaper n s).threads
    waits := (serveTaper n s).waits
    clusters := (serveTaper n s).clusters
    cores := (serveTaper n s).cores } := by
  unfold serveTaper
  refine List.foldlRecOn (motive := fun t : State => t = { s with
    threads := t.threads, waits := t.waits, clusters := t.clusters, cores := t.cores }) _ _ rfl fun t ht v _ => ?_
  rw [endWait_frame, ht]

theorem sameMemory_serveTaper (n : Nat) (s : State) : SameMemory s (serveTaper n s) := by
  rw [serveTaper_frame]
  exact ⟨fun _ => rfl, rfl, rfl⟩

/-- A queued wait whose value the taper has reached. -/
theorem wokenAt_serveTaper {n : Nat} {a : W64} {s : State} (hw : w ∈ s.waits) (hk : w.kind = .taper a) (hqd : w.isQueued = true)
    (hn : w.tid.core.node = n) (ha : a.toNat ≤ s.taper n) (hq : w.q ≠ 0) (hdef : (s.th w.tid).deferredQ = []) :
    (serveTaper n s).wokenAt w.tid w.q := by
  refine wokenAt_foldl (fun v hv => ?_) (List.mem_filter.2 ⟨hw, ?_⟩) hq hdef
  · have hp := (List.mem_filter.1 hv).2
    rw [QWait.gd]
    split at hp
    next hk => rw [hk]
    · simp at hp
  · simp [hqd, hn, hk, ha]

end

/-! ### What else a boundary looks at -/

section
variable {s : State} {n : Nat}

theorem tickStrands_frame (n : Nat) (s : State) : tickStrands n s = { s with
    nextId := (tickStrands n s).nextId, packages := (tickStrands n s).packages } ∧ ∀ m, (tickStrands n s).taper m = s.taper m := by
  unfold tickStrands
  split
  · exact ⟨rfl, fun _ => rfl⟩
  · exact ⟨rfl, fun m => (taper_modPkg (s := s.fresh) (by intro; rfl) m).trans rfl⟩

theorem sameMemory_tickStrands (n : Nat) (s : State) : SameMemory s (tickStrands n s) := by
  rw [(tickStrands_frame n s).1]
  exact ⟨fun _ => rfl, rfl, rfl⟩

theorem markHeld_frame (n : Nat) (s : State) : markHeld n s = { s with accs := (markHeld n s).accs } := by
  unfold markHeld
  split <;> rfl

theorem tickFigures_frame (n : Nat) (s : State) : tickFigures n s = { s with cores := (tickFigures n s).cores } := by
  unfold tickFigures
  dsimp only
  split
  · rfl
  · refine List.foldlRecOn (motive := fun t : State => t = { s with cores := t.cores }) _ _ rfl fun t ht c _ => ?_
    rw [State.modCore, ht]

/-- The package with its taper raised. -/
def State.tapered (s : State) (n : Nat) : State := s.modPkg n fun p => { p with taper := p.taper + 1 }

theorem taper_tapered : (s.tapered n).taper n = s.taper n + 1 := by
  rw [State.tapered, State.taper, State.pkg_modPkg]
  rfl

theorem taper_tapered_ne {m : Nat} (h : m ≠ n) : (s.tapered n).taper m = s.taper m := by
  rw [State.tapered, State.taper, State.pkg_modPkg_ne _ h]
  rfl

/-- All that a tick does behind the relock's end. -/
theorem exec_tickBoundary (h : darkLate s n = false) : ∃ t, exec (.tickBoundary n) s = .next t ∧
    t.threads = (serveTaper n (endRelock n (s.tapered n))).threads ∧ (∀ m, t.taper m = (s.tapered n).taper m) ∧ SameMemory s t ∧
    t.dies = (endRelock n (s.tapered n)).dies := by
  have he : exec (.tickBoundary n) s =
      .next (tickFigures n (markHeld n (tickStrands n (serveTaper n (endRelock n (s.tapered n)))))) :=
    congrArg Host.Outcome.next (if_neg (by simp [h]))
  obtain ⟨-, htaper, -, -⟩ := endRelock_frame n (s.tapered n)
  obtain ⟨hstrands, htaper'⟩ := tickStrands_frame n (serveTaper n (endRelock n (s.tapered n)))
  refine ⟨_, he, ?_, fun m => ?_, ?_, ?_⟩
  · rw [tickFigures_frame, markHeld_frame, hstrands]
  · have hserve : (serveTaper n (endRelock n (s.tapered n))).taper m = (endRelock n (s.tapered n)).taper m := by
      rw [serveTaper_frame]
      rfl
    rw [tickFigures_frame, markHeld_frame]
    exact (htaper' m).trans (hserve.trans (htaper m))
  · have hlast : ∀ u : State, SameMemory u (tickFigures n (markHeld n u)) := fun u => by
      rw [tickFigures_frame, markHeld_frame]
      exact ⟨fun _ => rfl, rfl, rfl⟩
    refine sameMemory_trans (sameMemory_trans ?_ (sameMemory_serveTaper n _)) (sameMemory_trans (sameMemory_tickStrands n _) (hlast _))
    exact sameMemory_trans (⟨fun _ => rfl, rfl, rfl⟩ : SameMemory s (s.tapered n)) (sameMemory_endRelock n _)
  · rw [tickFigures_frame, markHeld_frame, hstrands, serveTaper_frame]

end

end Sys2Proof.Machine
end

section
/-!
Firmware updates, boot, bring-up and module reset (R104, R297, R382, R384, R385).
-/

open Sys2Proof Sys2Proof.Machine Sys2Proof.Claims

namespace Sys2Proof.Machine

/-! ### Firmware updates (R384) -/

section
variable (f : Flash) (b done : Bool)

/-- The slot that runs is not written. -/
theorem Flash.valid_writeSlot : (f.writeSlot b done).valid b = f.valid b := by cases b <;> rfl

theorem Flash.marker_writeSlot : (f.writeSlot b done).marker = f.marker := by
  unfold Flash.writeSlot
  split <;> rfl

theorem Flash.valid_setMark (i : Bool) (m : Bool × Nat × Bool) : (f.setMark i m).valid b = f.valid b := by
  unfold Flash.setMark
  split <;> rfl

theorem Flash.marker_ne_none : f.marker ≠ none ↔ f.mark0.1 = true ∨ f.mark1.1 = true := by
  unfold Flash.marker
  cases f.mark0.1 <;> cases f.mark1.1 <;> simp

/-- An update writes the older copy, or the invalid one; the other still names a slot. -/
theorem Flash.marker_setMark (h : f.marker ≠ none) (m : Bool × Nat × Bool) : (f.setMark f.older m).marker ≠ none := by
  rw [Flash.marker_ne_none] at h ⊢
  cases ho : f.older
  · have hother : f.mark1.1 = true := by
      by_contra hno
      simp only [Bool.not_eq_true] at hno
      have h0 : f.mark0.1 = true := h.resolve_right (by simp [hno])
      simp [Flash.older, h0, hno] at ho
    exact .inr hother
  · have hother : f.mark0.1 = true := by
      simp only [Flash.older, Bool.and_eq_true] at ho
      exact ho.1
    exact .inl hother

theorem Flash.valid_writeMarker : (f.writeMarker b done).valid b = f.valid b := by
  unfold Flash.writeMarker
  split
  · rfl
  · exact f.valid_setMark b _ _

theorem Flash.marker_writeMarker (h : f.marker ≠ none) : (f.writeMarker b done).marker ≠ none := by
  unfold Flash.writeMarker
  split
  · exact h
  · exact f.marker_setMark h _

end

/-- A step of an update that keeps the running slot and a marker. -/
theorem updateFlash_keeps {n : Nat} {g : Bool → Flash → Flash} {s : State}
    (hg : (g (s.pkg n).slotB (s.pkg n).flash).valid (s.pkg n).slotB = true ∧ (g (s.pkg n).slotB (s.pkg n).flash).marker ≠ none)
    (hv : (s.pkg n).flash.valid (s.pkg n).slotB = true) (hm : (s.pkg n).flash.marker ≠ none) :
    updateFlash n g s = { s with packages := (updateFlash n g s).packages } ∧
      ((updateFlash n g s).pkg n).slotB = (s.pkg n).slotB ∧
      ((updateFlash n g s).pkg n).flash.valid (s.pkg n).slotB = true ∧ ((updateFlash n g s).pkg n).flash.marker ≠ none := by
  unfold updateFlash
  split
  · exact ⟨rfl, rfl, hv, hm⟩
  · rw [State.pkg_modPkg]
    exact ⟨rfl, rfl, hg⟩

/-! ### Boot and bring-up (R382, R384, R385) -/

section
variable {n : Nat} {s : State}

/-- What the boot ROM does with a package that has not booted. -/
def bootChoice (p : Package) : Package :=
  match p.flash.marker with
  | none => { p with reason := 2 }
  | some b => if p.flash.valid b then { p with booted := true, slotB := b }
    else if p.flash.valid (!b) then { p with booted := true, slotB := !b } else { p with reason := 1 }

theorem exec_bootSelect (hb : (s.pkg n).booted = false) (hp : (s.pkg n).phase = 0) (hr : (s.pkg n).reason = 0) :
    exec (.bootSelect n) s = .next (s.modPkg n fun _ => bootChoice (s.pkg n)) := by
  refine congrArg Host.Outcome.next ((if_neg (by simp [hb, hp, hr])).trans ?_)
  unfold bootChoice
  cases (s.pkg n).flash.marker with
  | none => rfl
  | some b =>
    dsimp only
    split
    · rfl
    · split <;> rfl

/-- The next phase, or the halt of a failed one. -/
def bringupNext (ok : Bool) (p : Package) : Package :=
  if ok = false ∧ p.phase = 1 then { p with reason := 4 }
  else if ok = false ∧ p.phase = 2 then { p with reason := 3 }
  else { p with phase := p.phase + 1 }

theorem exec_bringupPhase (ok : Bool) (hb : (s.pkg n).booted = true) (hr : (s.pkg n).reason = 0) (hp : (s.pkg n).phase < 4) :
    exec (.bringupPhase n ok) s = .next (s.modPkg n fun _ => bringupNext ok (s.pkg n)) := by
  refine congrArg Host.Outcome.next ((if_neg (by simp [hb, hr, hp])).trans ?_)
  unfold bringupNext
  simp only [Bool.not_eq_true]
  split
  · rfl
  · split <;> rfl

end

/-! ### Module reset (R104) -/

section
variable {s : State} {n : Nat}

/-- What is left of a map keeps nothing of the place. -/
theorem Map.look_leave {α : Type} {m : Map α} {k j : Nat} (h : j / k = n) : (m.leave k n).look j = none := by
  induction m with
  | nil => rfl
  | cons e m ih =>
    obtain ⟨i, x⟩ := e
    by_cases hi : i / k = n
    · rwa [Map.leave, List.filter_cons_of_neg (by simp [hi])]
    · have hij : i ≠ j := fun e => hi (e ▸ h)
      rw [Map.leave, List.filter_cons_of_pos (by simp [hi]), Map.look, if_neg hij]
      exact ih

/-- A strand that went down belongs to its circuit as before. -/
def SameCircuits (s t : State) : Prop :=
  ∀ m, t.pkg m = { s.pkg m with strands := (t.pkg m).strands } ∧
    ∀ k, (t.strand m k).peer = (s.strand m k).peer ∧ (t.strand m k).far = (s.strand m k).far

theorem sameCircuits_modStrand {u : State} (h : SameCircuits s u) (m k : Nat) : SameCircuits s (u.modStrand m k Strand.off) := by
  intro i
  obtain ⟨hp, hs⟩ := h i
  by_cases him : i = m
  · subst him
    refine ⟨?_, fun j => ?_⟩
    · rw [State.modStrand, State.pkg_modPkg, hp]
    · rw [State.strand, State.modStrand, State.pkg_modPkg]
      by_cases hj : j = k
      · rw [hj, Map.get_set_self]
        exact hs k
      · rw [Map.get_set_ne hj]
        exact hs j
  · have hpkg : (u.modStrand m k Strand.off).pkg i = u.pkg i := State.pkg_modPkg_ne _ him
    refine ⟨by rw [hpkg, hp], fun j => ?_⟩
    rw [State.strand, hpkg]
    exact hs j

theorem downStrand_frame (m k : Nat) (u : State) : downStrand m k u = { u with packages := (downStrand m k u).packages } := by
  unfold downStrand modBoth
  dsimp only
  split <;> rfl

theorem sameCircuits_downStrand {u : State} (h : SameCircuits s u) (m k : Nat) : SameCircuits s (downStrand m k u) := by
  unfold downStrand modBoth
  dsimp only
  split
  · exact sameCircuits_modStrand (sameCircuits_modStrand h m k) _ _
  · exact sameCircuits_modStrand h m k

/-- The strands of a package that is reset go down at both ends. -/
def State.strandsDown (s : State) (n : Nat) : State :=
  (s.pkg n).strands.foldl (fun s e => if e.2.up then downStrand n e.1 s else s) s

theorem strandsDown_keeps (n : Nat) (s : State) :
    s.strandsDown n = { s with packages := (s.strandsDown n).packages } ∧ SameCircuits s (s.strandsDown n) := by
  unfold State.strandsDown
  refine List.foldlRecOn (motive := fun u : State => u = { s with packages := u.packages } ∧ SameCircuits s u) _ _
    ⟨rfl, fun _ => ⟨rfl, fun _ => ⟨rfl, rfl⟩⟩⟩ fun u hu e _ => ?_
  obtain ⟨he, hc⟩ := hu
  split
  · refine ⟨?_, sameCircuits_downStrand hc _ _⟩
    rw [downStrand_frame, he]
  · exact ⟨he, hc⟩

/-- What module reset makes of a state whose strands to the package are down, part by part. -/
structure ResetOf (n : Nat) (u t : State) : Prop where
  packages : t.packages = u.packages.set n (u.pkg n).resetKeeping
  cores : t.cores = u.cores.leave 2048 n
  threads : t.threads = u.threads.leave 32768 n
  clusters : t.clusters = u.clusters.leave 256 n
  dies : t.dies = u.dies.leave 4 n
  slices : t.slices = u.slices.map fun e => if e.1 / 2048 = n then (e.1, e.2.resetKeeping) else e
  mem : t.mem = u.mem.filter fun c => decide (c.1 / 2 ^ 42 ≠ n)
  empties : t.empties = u.empties.filter fun k => decide (k / 2 ^ 42 ≠ n)
  poisoned : t.poisoned = u.poisoned.filter fun k => decide (k / 2 ^ 42 ≠ n)
  accs : ∀ a ∈ t.accs, a ∈ u.accs ∧ a.tid.core.node ≠ n
  waits : ∀ w ∈ t.waits, w ∈ u.waits ∧ w.tid.core.node ≠ n

theorem exec_moduleReset (n : Nat) (s : State) : ∃ t, exec (.moduleReset n) s = .next t ∧ ResetOf n (s.strandsDown n) t := by
  refine ⟨_, rfl, rfl, rfl, rfl, rfl, rfl, rfl, rfl, rfl, rfl, fun a ha => ?_, fun w hw => ?_⟩
  · obtain ⟨hmem, hp⟩ := List.mem_filter.1 ha
    exact ⟨hmem, by simp only [Bool.and_eq_true, decide_eq_true_eq] at hp; exact hp.1⟩
  · obtain ⟨hmem, hp⟩ := List.mem_filter.1 hw
    exact ⟨hmem, of_decide_eq_true hp⟩

section
variable {u t : State} (h : ResetOf n u t)
include h

theorem ResetOf.pkg_self : t.pkg n = (u.pkg n).resetKeeping := by
  rw [State.pkg, h.packages, Map.get_set_self]

theorem ResetOf.pkg_ne {m : Nat} (hm : m ≠ n) : t.pkg m = u.pkg m := by
  rw [State.pkg, h.packages, Map.get_set_ne hm]
  rfl

/-- Every strand is as at reset, but for its circuit. -/
theorem ResetOf.strand_self (k : Nat) :
    t.strand n k = { Strand.reset with peer := (u.strand n k).peer, far := (u.strand n k).far } := by
  have hlook := Map.look_mapVal (fun _ (x : Strand) => { Strand.reset with peer := x.peer, far := x.far }) (u.pkg n).strands k
  rw [State.strand, h.pkg_self, Package.resetKeeping, Map.get, hlook, State.strand, Map.get]
  cases (u.pkg n).strands.look k <;> rfl

theorem ResetOf.strand_circuit (m k : Nat) : (t.strand m k).peer = (u.strand m k).peer ∧ (t.strand m k).far = (u.strand m k).far := by
  by_cases hm : m = n
  · rw [hm, h.strand_self]
    exact ⟨rfl, rfl⟩
  · rw [State.strand, h.pkg_ne hm]
    exact ⟨rfl, rfl⟩

/-- Cores, slices, clusters, dies and threads of the package are as at reset, the mapping of row groups as it was. -/
theorem ResetOf.place {c : CoreId} (hn : c.node = n) (hd : c.die < 4) (hc : c.cluster < 64) (hk : c.core < 8) :
    t.core c = Core.reset ∧ t.slice c = { Slice.reset with groupMap := (u.slice c).groupMap, fenced := (u.slice c).fenced } ∧
      t.cluster (clusterOf c) = Cluster.reset ∧ t.die (dieOf c) = Die.reset n c.die ∧
      ∀ k, k < 16 → t.th ⟨c, k⟩ = Thread.resetAt ⟨c, k⟩ := by
  have hcore : coreKey c / 2048 = n := by
    unfold coreKey
    omega
  have hcluster : clusterKey (clusterOf c) / 256 = n := by
    unfold clusterKey clusterOf
    dsimp only
    omega
  have hdie : dieKey (dieOf c) / 4 = n := by
    unfold dieKey dieOf
    dsimp only
    omega
  refine ⟨?_, ?_, ?_, ?_, fun k hk16 => ?_⟩
  · rw [State.core, h.cores, Map.get, Map.look_leave hcore]
    rfl
  · have hlook : t.slices.look (coreKey c) = (u.slices.look (coreKey c)).map Slice.resetKeeping := by
      have hmap : t.slices = u.slices.map fun e => (e.1, if e.1 / 2048 = n then e.2.resetKeeping else e.2) := by
        rw [h.slices]
        congr 1
        funext e
        split <;> rfl
      rw [hmap, Map.look_mapVal fun j (x : Slice) => if j / 2048 = n then x.resetKeeping else x]
      simp only [hcore, if_true]
    rw [State.slice, Map.get, hlook, State.slice, Map.get]
    cases u.slices.look (coreKey c) <;> rfl
  · rw [State.cluster, h.clusters, Map.get, Map.look_leave hcluster]
    rfl
  · rw [State.die, h.dies, Map.get, Map.look_leave hdie, ← hn]
    rfl
  · have hth : tidKey ⟨c, k⟩ / 32768 = n := by
      unfold tidKey coreKey
      dsimp only
      omega
    rw [State.th, h.threads, Map.get, Map.look_leave hth]
    rfl

/-- The package's memory is zero, full and whole; that of the others is as before. -/
theorem ResetOf.memory (k : Nat) : (inPackage n k → t.byteAt k = 0 ∧ k ∉ t.empties ∧ k ∉ t.poisoned) ∧
    (¬ inPackage n k → t.byteAt k = u.byteAt k ∧ (k ∈ t.empties ↔ k ∈ u.empties) ∧ (k ∈ t.poisoned ↔ k ∈ u.poisoned)) := by
  have hbyte : t.byteAt k = if decide (k / 2 ^ 42 ≠ n) then u.byteAt k else emptyByte := by
    rw [State.byteAt, h.mem]
    exact readByte_filter u.mem (fun k => decide (k / 2 ^ 42 ≠ n)) k
  rw [hbyte, h.empties, h.poisoned]
  unfold inPackage
  refine ⟨fun hk => ?_, fun hk => ?_⟩
  · have hk : k / 4398046511104 = n := by simpa using hk
    simp [hk, emptyByte]
  · have hk : k / 4398046511104 ≠ n := by simpa using hk
    simp [hk]

end

end

/-! ### The tick -/

/-- A tick raises the taper of its package alone, and ends the waits that its value ends. -/
theorem tick_wakes {n : Nat} {s : State} (h : darkLate s n = false) : ∃ t, exec (.tickBoundary n) s = .next t ∧
    t.taper n = s.taper n + 1 ∧ (∀ m, m ≠ n → t.taper m = s.taper m) ∧ SameMemory s t ∧
    ((s.pkg n).relock = none → t.dies = s.dies) ∧
    ∀ w ∈ s.waits, ∀ a, w.kind = .taper a → w.isQueued = true → w.tid.core.node = n → a.toNat ≤ s.taper n + 1 → w.q ≠ 0 →
      (s.th w.tid).deferredQ = [] → (t.th w.tid).woken w.q := by
  obtain ⟨t, he, hth, htaper, hmem, hdies⟩ := exec_tickBoundary h
  obtain ⟨hframe, htaper', hdef, hrelock⟩ := endRelock_frame n (s.tapered n)
  refine ⟨t, he, (htaper n).trans taper_tapered, fun m hm => (htaper m).trans (taper_tapered_ne hm), hmem, fun hno => ?_,
    fun w hw a hk hqd hn ha hq hd => ?_⟩
  · have hno' : ((s.tapered n).pkg n).relock = none := by
      rw [State.tapered, State.pkg_modPkg]
      exact hno
    exact hdies.trans (hrelock hno')
  · have hwaits : w ∈ (endRelock n (s.tapered n)).waits := by
      rw [hframe]
      exact hw
    have ha' : a.toNat ≤ (endRelock n (s.tapered n)).taper n := by
      rw [htaper', taper_tapered]
      exact ha
    obtain ⟨y, hy, hwoken⟩ := wokenAt_serveTaper hwaits hk hqd hn ha' hq ((hdef w.tid).trans hd)
    rw [State.th_of_look (hth ▸ hy : t.threads.look (tidKey w.tid) = some y)]
    exact hwoken

end Sys2Proof.Machine

/-- Settles O52: the tick, the boot ROM, bring-up, the steps of an update and module reset, each by what it changes of its package. -/
theorem bootAndReset : Obligations.BootAndReset := by
  refine ⟨fun n s hd => congrArg Host.Outcome.next (if_pos hd), fun n s hd => ?_, fun n s hb hp hr => ?_, fun n ok s hb hr hp => ?_,
    fun n done d s hd hv hm => ?_, fun n why s hr hp hw => ?_, fun n s => ?_⟩
  · obtain ⟨t, he, hown, hothers, hmem, hdies, hwake⟩ := tick_wakes hd
    refine ⟨t, he, hown, hothers, hmem, hdies, fun w hw a hk hqd hn ha _ hq hdef => ?_⟩
    obtain ⟨-, hwoken⟩ := hwake w hw a hk hqd hn ha hq hdef
    exact hwoken
  · refine ⟨_, exec_bootSelect hb hp hr, rfl, fun hmark => ?_, fun b hmark => ⟨fun hv => ?_, fun hv hv' => ?_, fun hv hv' => ?_⟩⟩
    · rw [State.pkg_modPkg, bootChoice, hmark]
    · rw [State.pkg_modPkg, bootChoice, hmark]
      exact if_pos hv
    · rw [State.pkg_modPkg, bootChoice, hmark]
      simp only [hv, hv', Bool.false_eq_true, if_false, if_true]
    · rw [State.pkg_modPkg, bootChoice, hmark]
      simp only [hv, hv', Bool.false_eq_true, if_false]
  · exact ⟨_, exec_bringupPhase ok hb hr hp, rfl, State.pkg_modPkg _ _ _⟩
  · obtain rfl | rfl := hd
    · exact ⟨_, rfl, updateFlash_keeps (g := fun b => Flash.writeSlot b done)
        ⟨(Flash.valid_writeSlot _ _ _).trans hv, by rwa [Flash.marker_writeSlot]⟩ hv hm⟩
    · exact ⟨_, rfl, updateFlash_keeps (g := fun b => Flash.writeMarker b done)
        ⟨(Flash.valid_writeMarker _ _ _).trans hv, Flash.marker_writeMarker _ _ _ hm⟩ hv hm⟩
  · have he : exec (.packageHalt n why) s = .next (s.modPkg n fun p => { p with reason := why }) :=
      congrArg Host.Outcome.next (if_pos ⟨hr, hp, hw⟩)
    exact ⟨_, he, rfl, State.pkg_modPkg _ _ _⟩
  · obtain ⟨hframe, hcirc⟩ := strandsDown_keeps n s
    obtain ⟨t, he, hreset⟩ := exec_moduleReset n s
    have hslices : (s.strandsDown n).slices = s.slices := by rw [hframe]
    have hmem : (s.strandsDown n).mem = s.mem ∧ (s.strandsDown n).empties = s.empties ∧
        (s.strandsDown n).poisoned = s.poisoned := by
      rw [hframe]
      exact ⟨rfl, rfl, rfl⟩
    have haccs : (s.strandsDown n).accs = s.accs ∧ (s.strandsDown n).waits = s.waits := by
      rw [hframe]
      exact ⟨rfl, rfl⟩
    refine ⟨t, he, ?_, fun k => ?_, fun m k => ?_, fun c hn hd hc hk => ?_, fun k hk => (hreset.memory k).1 hk, fun k hk => ?_,
      fun a ha => ?_, fun w hw => ?_⟩
    · have hp := (hcirc n).1
      rw [hreset.pkg_self, hp]
      rfl
    · rw [hreset.strand_self, ((hcirc n).2 k).1, ((hcirc n).2 k).2]
    · obtain ⟨h1, h2⟩ := hreset.strand_circuit m k
      exact ⟨h1.trans ((hcirc m).2 k).1, h2.trans ((hcirc m).2 k).2⟩
    · have hslice : (s.strandsDown n).slice c = s.slice c := by
        rw [State.slice, hslices]
        rfl
      exact hslice ▸ hreset.place hn hd hc hk
    · obtain ⟨hb, hem, hpo⟩ := (hreset.memory k).2 hk
      exact ⟨hb.trans (congrArg (fun m => readByte m k) hmem.1), by rw [hem, hmem.2.1], by rw [hpo, hmem.2.2]⟩
    · exact haccs.1 ▸ hreset.accs a ha
    · exact haccs.2 ▸ hreset.waits w hw

end

section
/-!
Tokens of engine commands (R249, R250), and what the service of words leaves alone (R143).
-/

open Sys2Proof Sys2Proof.Machine Sys2Proof.Claims

namespace Sys2Proof.Machine

/-! ### Commands in their queues -/

/-- The same commands wait in the message queues, in the same order; their guards may have come (R66). -/
def SameQueues (s t : State) : Prop := ∀ k, (t.cluster k).msgQ.map (·.id) = (s.cluster k).msgQ.map (·.id)

section
variable {s t u : State}

theorem SameQueues.refl (s : State) : SameQueues s s := fun _ => rfl

theorem SameQueues.trans (h : SameQueues s t) (h' : SameQueues t u) : SameQueues s u := fun k => (h' k).trans (h k)

theorem Cmd.resolve_id (tid : Tid) (t : Thread) (c : Cmd) : (c.resolve tid t).id = c.id := by
  unfold Cmd.resolve
  split
  · split <;> rfl
  · rfl

/-- A change of a cluster, read at any cluster: the two may share their entry. -/
theorem State.cluster_modCluster_cases (c k : ClusterId) (f : Cluster → Cluster) (s : State) :
    (s.modCluster c f).cluster k = f (s.cluster k) ∨ (s.modCluster c f).cluster k = s.cluster k := by
  by_cases h : clusterKey k = clusterKey c
  · have hs : s.cluster k = s.cluster c := congrArg (s.clusters.get Cluster.reset) h
    refine .inl ?_
    rw [hs, ← State.cluster_modCluster s c f]
    exact congrArg ((s.modCluster c f).clusters.get Cluster.reset) h
  · exact .inr (Map.get_set_ne h)

theorem sameQueues_modCluster (c : ClusterId) {f : Cluster → Cluster} (hf : ∀ k, (f k).msgQ.map (·.id) = k.msgQ.map (·.id)) :
    SameQueues s (s.modCluster c f) := by
  intro k
  obtain h | h := State.cluster_modCluster_cases c k f s
  · rw [h, hf]
  · rw [h]

theorem sameQueues_resolveGuards (tid : Tid) (s : State) : SameQueues s (resolveGuards tid s) := by
  have hlast : ∀ (b : Bool) (f : Core → Core) (u : State), SameQueues u (if b then u.modCore tid.core f else u) := by
    intro b f u k
    cases b <;> rfl
  have hmap : ∀ l : List Cmd, (l.map (Cmd.resolve tid (s.th tid))).map (·.id) = l.map (·.id) := by
    intro l
    rw [List.map_map]
    exact List.map_congr_left fun c _ => Cmd.resolve_id _ _ _
  unfold resolveGuards
  dsimp only
  refine SameQueues.trans ?_ (hlast _ _ _)
  split
  · exact sameQueues_modCluster _ fun k => hmap k.msgQ
  · exact SameQueues.refl s

theorem sameQueues_fillTh (tid : Tid) (f : Thread → Thread) (s : State) : SameQueues s (fillTh tid f s) :=
  SameQueues.trans (fun _ => rfl) (sameQueues_resolveGuards tid (s.modTh tid f))

theorem sameQueues_endWait (w : QWait) (ok : Bool) (x : Option W64) (s : State) : SameQueues s (endWait w ok x s) := by
  rw [endWait_eq]
  exact SameQueues.trans (fun _ => rfl) (sameQueues_fillTh _ _ _)

/-- The command has left; the others are as they were (R246). -/
theorem queueOf_dequeue (c : Cmd) (s : State) :
    queueOf (dequeue .message c s) c.tid.core .message = (queueOf s c.tid.core .message).filter fun x => decide (x.id ≠ c.id) := by
  simp only [dequeue, queueOf, State.cluster_modCluster]

theorem left_of_sameQueues {c : Cmd} (h : SameQueues (dequeue .message c s) t) : Left .message c s t :=
  (h (clusterOf c.tid.core)).trans (congrArg (List.map (·.id)) (queueOf_dequeue c s))

end

/-! ### Tokens (R249, R250) -/

section
variable {c : Cmd} {x : W64} {s u : State}

theorem Thread.raiseDone_eq (n : Nat) (t : Thread) : t.raiseDone n = { t with
    cdone := (t.raiseDone n).cdone, jobsDone := (t.raiseDone n).jobsDone } := by
  induction n generalizing t with
  | zero => rfl
  | succ n ih =>
    unfold Thread.raiseDone
    split
    · rw [ih]
    · rfl

/-- The completion of a job, and what ends of waits thereby. -/
theorem jobDone_frame (tid : Tid) (job : Nat) (s : State) :
    jobDone tid job s = { s with
      threads := (jobDone tid job s).threads
      waits := (jobDone tid job s).waits
      clusters := (jobDone tid job s).clusters
      cores := (jobDone tid job s).cores } ∧
    SameQueues s (jobDone tid job s) ∧ ((jobDone tid job s).th tid).g = (s.th tid).g ∧
    ((jobDone tid job s).th tid).pending = (s.th tid).pending := by
  have hth : ∀ f : Thread → Thread, (∀ t, (f t).g = t.g ∧ (f t).pending = t.pending) →
      ((s.modTh tid f).th tid).g = (s.th tid).g ∧ ((s.modTh tid f).th tid).pending = (s.th tid).pending := by
    intro f hf
    rw [State.th_modTh]
    exact hf _
  have hraise : ∀ t : Thread, let y : Thread := { t with jobsDone := insertNat t.jobsDone job }
      (y.raiseDone y.jobsDone.length).g = t.g ∧ (y.raiseDone y.jobsDone.length).pending = t.pending := by
    intro t
    dsimp only
    rw [Thread.raiseDone_eq]
    exact ⟨rfl, rfl⟩
  obtain ⟨hg, hp⟩ := hth _ hraise
  unfold jobDone serveJobs
  dsimp only
  split
  · exact ⟨rfl, fun _ => rfl, hg, hp⟩
  · split
    next w hw =>
      have hfind := List.find?_some hw
      simp only [Bool.and_eq_true, decide_eq_true_eq] at hfind
      obtain ⟨⟨-, htid⟩, hkind⟩ := hfind
      have hgd : w.gd = none := by
        rw [QWait.gd]
        split at hkind
        next hk => rw [hk]
        · cases hkind
      refine ⟨?_, SameQueues.trans (fun _ => rfl) (sameQueues_endWait _ _ _ _), ?_, ?_⟩
      · rw [endWait_frame]
        rfl
      · rw [← htid, th_endWait, Thread.ended, hgd, Thread.fillQ_eq]
        rw [htid]
        exact hg
      · rw [← htid, th_endWait, Thread.ended, hgd, Thread.fillQ_eq]
        rw [htid]
        exact hp
    · exact ⟨rfl, fun _ => rfl, hg, hp⟩

/-- The fill of a token's register. -/
def filledToken (c : Cmd) (x : W64) (s : State) : State :=
  fillPending c.tid c.id (modPending c.tid c.id (fun p => { p with val := .g x, left := 0 }) s)

theorem token_eq : token c x s = if c.job = 0 then filledToken c x s else jobDone c.tid c.job (filledToken c x s) := rfl

theorem filledToken_frame : filledToken c x s = { s with
    threads := (filledToken c x s).threads, clusters := (filledToken c x s).clusters, cores := (filledToken c x s).cores } ∧
    SameQueues s (filledToken c x s) := by
  unfold filledToken fillPending
  split
  · exact ⟨rfl, fun _ => rfl⟩
  · refine ⟨?_, SameQueues.trans (fun _ => rfl) (sameQueues_fillTh _ _ _)⟩
    rw [fillTh_eq]
    rfl

/-- A token changes threads and waits, and the guards of commands. -/
theorem token_frame (c : Cmd) (x : W64) (s : State) : token c x s = { s with
    threads := (token c x s).threads
    waits := (token c x s).waits
    clusters := (token c x s).clusters
    cores := (token c x s).cores } ∧ SameQueues s (token c x s) := by
  obtain ⟨hfill, hq⟩ := filledToken_frame (c := c) (x := x) (s := s)
  rw [token_eq]
  split
  · refine ⟨?_, hq⟩
    rw [hfill]
  · obtain ⟨hjob, hq', -⟩ := jobDone_frame c.tid c.job (filledToken c x s)
    refine ⟨?_, hq.trans hq'⟩
    rw [hjob, hfill]

theorem sameMemory_token : SameMemory s (token c x s) := by
  rw [(token_frame c x s).1]
  exact ⟨fun _ => rfl, rfl, rfl⟩

/-- The command's register holds its token, and nothing of it is pending. -/
theorem answered_token (h : ∀ p, (s.th c.tid).pend? c.id = some p → (u.th c.tid).pend? c.id = some p) :
    Answered c x s (token c x u) := by
  intro p d hp hdst halso hd
  have hpend := pend?_modPending (f := fun p => { p with val := .g x, left := 0 }) (h p hp) fun _ => rfl
  have hfill : filledToken c x u = fillTh c.tid (fun t =>
      ({ p with val := .g x, left := 0 } : Pending).write (u.taper c.tid.core.node) (t.dropPending c.id))
      (modPending c.tid c.id (fun p => { p with val := .g x, left := 0 }) u) := by
    unfold filledToken fillPending
    rw [hpend]
    rfl
  have hth : ∃ y : Thread, (filledToken c x u).th c.tid = y.fillG d x ∧ y.pend? c.id = none := by
    rw [hfill, th_fillTh]
    exact ⟨_, Pending.write_g (q := { p with val := .g x, left := 0 }) rfl hdst _ _, Thread.pend?_dropPending _ _⟩
  obtain ⟨y, hy, hnone⟩ := hth
  have hg : ((token c x u).th c.tid).g = (y.fillG d x).g ∧ ((token c x u).th c.tid).pending = y.pending := by
    rw [token_eq]
    split
    · rw [hy]
      exact ⟨rfl, by rw [Thread.fillG_eq]⟩
    · obtain ⟨-, -, hg, hpe⟩ := jobDone_frame c.tid c.job (filledToken c x u)
      rw [hg, hpe, hy]
      exact ⟨rfl, by rw [Thread.fillG_eq]⟩
  refine ⟨?_, ?_, ?_⟩
  · rw [Thread.full_g_congr hg.1, Thread.full_fillG]
  · rw [Thread.rG_congr hg.1, Thread.rG_fillG, if_neg hd]
  · rw [Thread.pend?, hg.2]
    exact hnone

/-- A command that is answered at once leaves its queue, and its token comes. -/
theorem served_token : Served .message c x s (token c x (dequeue .message c s)) :=
  ⟨left_of_sameQueues (token_frame c x _).2, answered_token fun _ h => h,
    sameMemory_trans (⟨fun _ => rfl, rfl, rfl⟩ : SameMemory s (dequeue .message c s)) sameMemory_token⟩

end

/-! ### Words that are filled (R143) -/

/-- What the service of words leaves of a state: memory, dies, the queues, and what each thread awaits. -/
structure Filled (s t : State) : Prop where
  mem : t.mem = s.mem
  dies : t.dies = s.dies
  queues : SameQueues s t
  pending : ∀ tid pid p, (s.th tid).pend? pid = some p → (t.th tid).pend? pid = some p

section
variable {s t u : State}

theorem Filled.refl (s : State) : Filled s s := ⟨rfl, rfl, fun _ => rfl, fun _ _ _ h => h⟩

theorem Filled.trans (h : Filled s t) (h' : Filled t u) : Filled s u :=
  ⟨h'.mem.trans h.mem, h'.dies.trans h.dies, h.queues.trans h'.queues, fun tid pid p hp => h'.pending tid pid p (h.pending tid pid p hp)⟩

theorem filled_setTag (p : Phys) (b : Bool) (s : State) : Filled s (s.setTag p b) := by
  unfold State.setTag
  cases b <;> exact ⟨rfl, rfl, fun _ => rfl, fun _ _ _ h => h⟩

theorem Thread.ended_pending (w : QWait) (ok : Bool) (x : Option W64) (t : Thread) : (Thread.ended w ok x t).pending = t.pending := by
  rw [Thread.ended, Thread.fillQ_eq]
  unfold Thread.takeGd
  split
  · rw [Thread.fillG_eq]
  · rw [Thread.restore_g_eq]
  · rfl

theorem filled_endWait (w : QWait) (ok : Bool) (x : Option W64) (s : State) : Filled s (endWait w ok x s) := by
  have hframe := endWait_frame w ok x s
  refine ⟨by rw [hframe], by rw [hframe], sameQueues_endWait w ok x s, fun tid pid p hp => ?_⟩
  have hth : (endWait w ok x s).th tid = (s.modTh w.tid (Thread.ended w ok x)).th tid := by
    rw [endWait_eq, fillTh_eq]
    rfl
  rw [hth, State.pend?_modTh (Thread.ended_pending w ok x) hp, hp]

theorem filled_consume (w : QWait) (p : Phys) (s : State) : Filled s (w.consume p s) := by
  unfold QWait.consume
  split
  · exact filled_setTag _ _ _
  · exact (filled_setTag _ _ _).trans (filled_setTag _ _ _)
  · exact Filled.refl s

theorem filled_servePass (p : Phys) (ws : List QWait) (s : State) : Filled s (servePass p ws s) := by
  induction ws generalizing s with
  | nil => exact Filled.refl s
  | cons w ws ih =>
    rw [servePass]
    split
    · exact ih s
    next x hx =>
      have hone := (filled_consume w p s).trans (filled_endWait w true (some x) _)
      split
      · exact hone
      · exact hone.trans (ih _)

theorem filled_serveWord (p : Phys) (s : State) : Filled s (serveWord p s) := by
  rw [serveWord_eq]
  split
  · exact (filled_servePass _ _ _).trans (filled_servePass _ _ _)
  · exact filled_servePass _ _ _

theorem filled_serveWords (ps : List Phys) (s : State) : Filled s (serveWords ps s) := by
  induction ps generalizing s with
  | nil => exact Filled.refl s
  | cons p ps ih =>
    rw [serveWords_cons]
    exact (filled_serveWord p s).trans (ih _)

/-- Words become full and their waits are served. -/
theorem filled_fillWords (ps : List Phys) (s : State) : Filled s (fillWords ps s) :=
  (List.foldlRecOn (motive := fun t : State => Filled s t) ps _ (Filled.refl s) fun _ ht p _ => ht.trans (filled_setTag p true _)).trans
    (filled_serveWords ps _)

end

end Sys2Proof.Machine
end

section
/-!
RRING, POST, SEND and RPROBE as they start (R263, R265, R268, R270).
-/

open Sys2Proof Sys2Proof.Machine Sys2Proof.Claims

namespace Sys2Proof.Machine

/-! ### What the checks of a home see of a command's queue: nothing -/

section
variable (c : Cmd) (s : State)

theorem teams_dequeue (k : ClusterId) : ((dequeue .message c s).cluster k).teams = (s.cluster k).teams := by
  obtain h | h := State.cluster_modCluster_cases (clusterOf c.tid.core) k
    (fun k => { k with msgQ := k.msgQ.filter fun x => decide (x.id ≠ c.id), msgRR := c.chan }) s
  all_goals exact (congrArg Cluster.teams h :)

theorem systemParts_dequeue (p : Phys) : systemParts (dequeue .message c s) p = systemParts s p := by
  unfold systemParts
  simp only [teams_dequeue]
  rfl

theorem isSystem_dequeue (p : Phys) : isSystem (dequeue .message c s) p = isSystem s p := by
  unfold isSystem systemOverlaps
  rw [systemParts_dequeue]
  rfl

theorem granule_dequeue (p : Phys) : granule (dequeue .message c s) p = granule s p := by
  unfold granule
  rw [isSystem_dequeue]
  rfl

theorem granuleCheck_dequeue (ctx : W64) (p : Phys) (ea : W64) :
    granuleCheck (dequeue .message c s) ctx p ea = granuleCheck s ctx p ea := by
  unfold granuleCheck
  rw [granule_dequeue]

theorem bindingCheck_dequeue (tid : Tid) (p : Phys) (ea : W64) :
    bindingCheck (dequeue .message c s) tid p ea = bindingCheck s tid p ea := by
  unfold bindingCheck
  rw [granule_dequeue]
  rfl

theorem homeRefusal_dequeue (tid : Tid) (ctx : W64) (p : Phys) (ea : W64) (len : Nat) (op : AccOp) :
    homeRefusal (dequeue .message c s) tid ctx p ea len op = homeRefusal s tid ctx p ea len op := by
  unfold homeRefusal homeRefusalXB homeCheck
  rw [granuleCheck_dequeue, bindingCheck_dequeue]
  rfl

theorem ringLease_dequeue (ctx : W64) (p : Phys) (b : W64) (n : Nat) :
    ringLease (dequeue .message c s) ctx p b n = ringLease s ctx p b n := by
  unfold ringLease
  simp only [granuleCheck_dequeue, granule_dequeue]

theorem ringWordRefusal_dequeue (tid : Tid) (ctx : W64) (p : Phys) (bs : List Byte) :
    ringWordRefusal (dequeue .message c s) tid ctx p bs = ringWordRefusal s tid ctx p bs := homeRefusal_dequeue _ _ _ _ _ _ _ _

end

/-! ### Endpoints -/

section
variable (s : State) (h : DieId) (ep : Nat) (f : Endpoint → Endpoint)

theorem endpoint_modEndpoint : (modEndpoint h ep f s).endpoint h ep = f (s.endpoint h ep) := by
  rw [modEndpoint, State.endpoint, State.die_modDie, Map.get_set_self]
  rfl

theorem endpoint_of_dies {t : State} (hd : t.dies = s.dies) : t.endpoint h ep = s.endpoint h ep := by
  rw [State.endpoint, State.die, hd]
  rfl

end

/-! ### RRING (R263) -/

section
variable {s : State} {c : ClusterId} {ep : Nat} {x : Cmd} {d : BitVec 4} {a b : GSrc} {w : W32} {g : Guard} {p : Phys} {i : Nat}

theorem exec_rringStart (hx : nextMessage s c = some x) (hi : x.ins = .rring d a b w g)
    (hf : endpointFree s (dieOfCluster c) ep = true) : exec (.rringStart c ep) s = .next (startRring x ep s) :=
  congrArg Host.Outcome.next (by simp only [hx, hi, hf, true_or, if_true])

theorem startRring_malformed (h : x.b.toNat < 2 ∨ 4096 < x.b.toNat ∨ x.a.toNat % 64 ≠ 0) :
    startRring x ep s = failCmd x .malformed (dequeue .message x s) := if_pos (by rwa [aligned_iff])

/-- The generation that a number given out takes. -/
def ringGen (old : Option Endpoint) : Nat :=
  match old with
  | none => Endpoint.reset.gen
  | some e => (e.gen + 1) % 256

/-- The endpoint that RRING makes live. -/
def ringEndpoint (x : Cmd) (gen i : Nat) (p : Phys) : Endpoint :=
  ⟨true, gen, 0, x.ctx, i, x.a, x.b.toNat, 0, [], (p.plus (64 * x.b.toNat)).key, false, x.tid⟩

/-- HEAD and TAIL of the ring at `p` are 0 and full, and the command has left its queue. -/
def ringCleared (x : Cmd) (p : Phys) (s : State) : State :=
  fillWords [p.plus (64 * x.b.toNat), (p.plus (64 * x.b.toNat)).plus 4]
    (storeAt (p.plus (64 * x.b.toNat)) (leBytes 0 8) (dequeue .message x s))

/-- A ring that lies in one RANGE of its context, in a number that is free. -/
theorem startRring_placed (hlo : 2 ≤ x.b.toNat) (hhi : x.b.toNat ≤ 4096) (hal : x.a.toNat % 64 = 0)
    (hp : ringPlace x.tid.core x.a x.b.toNat = some p) (hl : ringLease s x.ctx p x.a x.b.toNat = .ok i)
    (hfree : (List.range Config.endpoints).any (endpointFree s (dieOf x.tid.core)) = true) :
    (∀ f, ringWordRefusal s x.tid x.ctx (p.plus (64 * x.b.toNat)) (leBytes 0 8) = some f →
      startRring x ep s = token x (failOf f) (dequeue .message x s)) ∧
    (ringWordRefusal s x.tid x.ctx (p.plus (64 * x.b.toNat)) (leBytes 0 8) = none →
      startRring x ep s = token x (endpointWord (dieOf x.tid.core) ep (ringGen ((s.die (dieOf x.tid.core)).endpoints.look ep)))
        (modEndpoint (dieOf x.tid.core) ep
          (fun _ => ringEndpoint x (ringGen ((s.die (dieOf x.tid.core)).endpoints.look ep)) i p) (ringCleared x p s))) := by
  have hok : ¬ (x.b.toNat < 2 ∨ 4096 < x.b.toNat ∨ ¬ aligned x.a 64 = true) := by
    rw [aligned_iff]
    omega
  have hfree' : (List.range Config.endpoints).any (endpointFree (dequeue .message x s) (dieOf x.tid.core)) = true := hfree
  rw [← ringLease_dequeue x] at hl
  rw [← ringWordRefusal_dequeue x]
  refine ⟨fun f hf => ?_, fun hf => ?_⟩
  · unfold startRring
    simp only [hok, if_false, hp, hl, hfree', not_true, hf]
  · unfold startRring
    simp only [hok, if_false, hp, hl, hfree', not_true, hf]
    rfl

theorem storeAt_clusters (q : Phys) (bs : List Byte) (u : State) : (storeAt q bs u).clusters = u.clusters := by
  unfold storeAt touchHeads
  split <;> rfl

/-- The clearing of HEAD and TAIL, as the command and memory see it. -/
theorem ringCleared_keeps (x : Cmd) (p : Phys) (s : State) : SameQueues (dequeue .message x s) (ringCleared x p s) ∧
    (∀ q, (s.th x.tid).pend? x.id = some q → ((ringCleared x p s).th x.tid).pend? x.id = some q) ∧
    OnlyBytes (p.plus (64 * x.b.toNat)) 8 s (ringCleared x p s) ∧ (ringCleared x p s).peek (p.plus (64 * x.b.toNat)) 8 = 0 := by
  have hfill := filled_fillWords [p.plus (64 * x.b.toNat), (p.plus (64 * x.b.toNat)).plus 4]
    (storeAt (p.plus (64 * x.b.toNat)) (leBytes 0 8) (dequeue .message x s))
  have hbytes : ∀ k, (ringCleared x p s).byteAt k =
      (storeAt (p.plus (64 * x.b.toNat)) (leBytes 0 8) (dequeue .message x s)).byteAt k := fun k =>
    congrArg (fun m => readByte m k) hfill.mem
  refine ⟨?_, fun q hq => ?_, fun k hk => ?_, ?_⟩
  · refine SameQueues.trans (fun k => ?_) hfill.queues
    rw [State.cluster, storeAt_clusters]
    rfl
  · refine hfill.pending _ _ _ ?_
    rw [State.th, storeAt_threads]
    exact hq
  · exact (hbytes k).trans (onlyBytes_storeAt _ _ _ _ k hk)
  · have hpeek : (ringCleared x p s).peek (p.plus (64 * x.b.toNat)) 8 =
        (storeAt (p.plus (64 * x.b.toNat)) (leBytes 0 8) (dequeue .message x s)).peek (p.plus (64 * x.b.toNat)) 8 :=
      congrArg (fun m => leNat (readBytes m (p.plus (64 * x.b.toNat)).key 8)) hfill.mem
    rw [hpeek, peek_storeAt_leBytes, Nat.zero_mod]

end

/-! ### POST (R265) -/

section
variable {s : State} {c : ClusterId} {x : Cmd} {d : BitVec 4} {a b : GSrc} {w : W32} {g : Guard} {i : Nat}

theorem exec_postStart (hx : nextMessage s c = some x) (hi : x.ins = .post d a b w g) :
    exec (.postStart c i) s = .next (startPost x i s) := congrArg Host.Outcome.next (by simp only [hx, hi])

/-- The receive that a POST posts under a lease. -/
def postedReceive (x : Cmd) (hd : W64) : Posted :=
  ⟨hd, wordAt x.recw 0, wordAt x.recw 1, wordAt x.recw 3, x.recw.drop 8, x.tid, x.ctx, x.space⟩

/-- The endpoint that a POST names. -/
def postEndpoint (x : Cmd) : Nat := bits (wordAt x.recw 2) 0 8

/-- The receive is posted, and its lease created in entry `i`. -/
def postMade (x : Cmd) (hd : W64) (i : Nat) (u : State) : State :=
  modEndpoint (dieOf x.tid.core) (postEndpoint x) (fun e => { e with posted := e.posted ++ [postedReceive x hd] })
    (createLease (dieOf x.tid.core) i .recv (bits x.b 0 32) x.ctx 0 (.recv (postEndpoint x)) u)

theorem startPost_posts {hd : W64} (hbad : badDescriptorPost x = false)
    (hown : ownEndpoint s (dieOf x.tid.core) x.ctx (postEndpoint x) = true)
    (hroom : postedCount (s.die (dieOf x.tid.core)) < Config.postedReceives) (hsome : someEntry s (dieOf x.tid.core) = true)
    (hready : entryReady s (dieOf x.tid.core) i = true)
    (hhd : hd = handleOf (dieOf x.tid.core) .recv i (s.lease (dieOf x.tid.core) i).gen) :
    startPost x i s = token x hd (postMade x hd i (dequeue .message x s)) := by
  rw [postEndpoint] at hown
  unfold startPost
  simp only [hbad, hown, Nat.not_le.2 hroom, hsome, hready, Bool.false_eq_true, if_false, not_true, or_false, hhd]
  rfl

theorem postMade_lease (hd : W64) (u : State) : (postMade x hd i u).lease (dieOf x.tid.core) i =
    ⟨.live, .recv, (u.lease (dieOf x.tid.core) i).gen, u.taper x.tid.core.node + min (bits x.b 0 32) Config.maxLife,
      u.taper x.tid.core.node, x.ctx, 0, .recv (postEndpoint x), false⟩ := by
  have h : (postMade x hd i u).lease (dieOf x.tid.core) i =
      (createLease (dieOf x.tid.core) i .recv (bits x.b 0 32) x.ctx 0 (.recv (postEndpoint x)) u).lease (dieOf x.tid.core) i := by
    rw [postMade, modEndpoint, State.lease, State.die_modDie]
    rfl
  rw [h]
  exact State.lease_modLease _ _ _ _

theorem postMade_endpoint (hd : W64) (u : State) : ((postMade x hd i u).endpoint (dieOf x.tid.core) (postEndpoint x)).posted =
    (u.endpoint (dieOf x.tid.core) (postEndpoint x)).posted ++ [postedReceive x hd] := by
  have h : (createLease (dieOf x.tid.core) i .recv (bits x.b 0 32) x.ctx 0 (.recv (postEndpoint x)) u).endpoint (dieOf x.tid.core)
      (postEndpoint x) = u.endpoint (dieOf x.tid.core) (postEndpoint x) := by
    rw [createLease, State.modLease, State.endpoint, State.die_modDie]
    rfl
  rw [postMade, endpoint_modEndpoint, h]

end

/-! ### Offers (R266, R348) -/

section
variable {s : State}

/-- What the arrival at the fabric die makes of a message. -/
def Arrives? (y z : Msg) : Prop := z = y ∨ ∃ n, y.arrived = 0 ∧ z = { y with arrived := n }

theorem arriveFar_eq (s : State) : ∃ f : Msg → Msg,
    arriveFar s = { s with msgs := s.msgs.map f, nextId := (arriveFar s).nextId } ∧ s.nextId ≤ (arriveFar s).nextId ∧
      ∀ y, Arrives? y (f y) ∧ (y.atFabric s = false → f y = y) := by
  unfold arriveFar
  dsimp only
  split
  · refine ⟨fun m => if m.atFabric s && decide (m.arrived = 0) then { m with arrived := s.nextId } else m, rfl,
      Nat.le_succ _, fun y => ⟨?_, fun hno => if_neg (by simp [hno])⟩⟩
    by_cases hd : (y.atFabric s && decide (y.arrived = 0)) = true
    · have h0 : y.arrived = 0 := by
        simp only [Bool.and_eq_true, decide_eq_true_eq] at hd
        exact hd.2
      exact .inr ⟨s.nextId, h0, if_pos hd⟩
    · exact .inl (if_neg hd)
  · refine ⟨id, ?_, Nat.le_refl _, fun y => ⟨.inl rfl, fun _ => rfl⟩⟩
    rw [List.map_id]

/-- A message that its package offers as soon as nothing holds it back. -/
def Msg.dueNear (s : State) (m : Msg) : Bool :=
  (match m.phase with | .waiting _ => true | _ => false) && !m.isFar && !heldBack s m

theorem Msg.not_atFabric_of_near {m : Msg} (h : m.isFar = false) (u : State) : m.atFabric u = false := by
  rw [Msg.atFabric, h, Bool.false_and, Bool.false_and]

theorem Msg.isFar_offer (now : Nat) (m : Msg) : (m.offer now).isFar = m.isFar := by
  unfold Msg.offer
  split <;> rfl

/-- What becomes of each message: those of their own package are offered, those to another arrive at the fabric die. -/
theorem offerNear_eq (s : State) : ∃ f : Msg → Msg,
    offerNear s = { s with msgs := s.msgs.map f, nextId := (offerNear s).nextId } ∧ s.nextId ≤ (offerNear s).nextId ∧
      ∀ y, (y.dueNear s = true → f y = y.offer (s.taper y.cmd.tid.core.node)) ∧
        (y.dueNear s = false → Arrives? y (f y) ∧ ((∀ again, y.phase ≠ .waiting again) → f y = y)) := by
  obtain ⟨f, he, hle, hf⟩ := arriveFar_eq { s with
    msgs := s.msgs.map fun m => if m.dueNear s then m.offer (s.taper m.cmd.tid.core.node) else m }
  have hnear : offerNear s = arriveFar { s with
      msgs := s.msgs.map fun m => if m.dueNear s then m.offer (s.taper m.cmd.tid.core.node) else m } := rfl
  refine ⟨fun m => f (if m.dueNear s then m.offer (s.taper m.cmd.tid.core.node) else m), ?_, hnear ▸ hle, fun y =>
    ⟨fun hd => ?_, fun hd => ?_⟩⟩
  · rw [hnear, he]
    simp only [List.map_map]
    rfl
  · simp only [hd, if_true]
    refine (hf _).2 (Msg.not_atFabric_of_near ?_ _)
    rw [Msg.isFar_offer]
    simp only [Msg.dueNear, Bool.and_eq_true, Bool.not_eq_true'] at hd
    exact hd.1.2
  · simp only [hd, Bool.false_eq_true, if_false]
    refine ⟨(hf y).1, fun hw => (hf y).2 ?_⟩
    rw [Msg.atFabric]
    split
    next again hp => exact absurd hp (hw again)
    · rw [Bool.and_false, Bool.false_and]

end

/-! ### SEND (R268) -/

section
variable {s : State} {c : ClusterId} {x : Cmd} {d : BitVec 4} {a b : GSrc} {w : W32} {g : Guard}

theorem exec_sendStart (hx : nextMessage s c = some x) (hi : x.ins = .send d a b w g) :
    exec (.sendStart c) s = .next (startSend x (dequeue .message x s)) := congrArg Host.Outcome.next (by simp only [hx, hi])

/-- The message of a SEND that goes out under the name `id`. -/
def sentMsg (x : Cmd) (w : W32) (id : Nat) : Msg where
  id := id
  cmd := x
  key := sourceKey x.tid.core w
  dest := ⟨bits x.b 48 16, bits x.b 42 2⟩
  ep := bits x.b 32 8
  gen := bits x.b 24 8
  tmo := bits x.b 0 24
  src := x.recw
  phase := .waiting false
  firstOffer := 0
  refusedAt := 0
  posted := none
  ring := none
  order := 0
  got := []
  issued := []
  top := 0
  accepted := 0
  cut := none
  refused := none
  headerOut := false
  flagFault := none
  dead := false
  arrived := 0

/-- The message joins those in progress. -/
def State.addMsg (s : State) (m : Msg) : State := { s.fresh with msgs := s.msgs ++ [m] }

/-- A SEND whose words can be read, split by what it finds of its way. -/
theorem startSend_cases (hi : x.ins = .send d a b w g) (hbad : layBad false false x.recw = false) (hlen : layBytes x.recw ≤ 2 ^ 24)
    (h44 : bits x.b 44 4 = 0) (h40 : bits x.b 40 2 = 0) : startSend x s =
      if bits x.b 48 16 ≠ x.tid.core.node ∧ pathLive s x.tid.core.node x.ctx (bits x.b 48 16) = false then failCmd x .lapsed s
      else if (s.pkg x.tid.core.node).deadLinks.contains (bits x.b 48 16) = true then failCmd x .path s
      else offerNear (s.addMsg (sentMsg x w s.nextId)) := by
  unfold startSend
  simp only [hbad, Nat.not_lt.2 hlen, h44, h40, Bool.false_eq_true, ne_eq, not_true, or_false, if_false, hi, Bool.not_eq_true]
  rfl

/-- A message does not hold itself back. -/
theorem heldBack_addMsg (m : Msg) (s : State) : heldBack (s.addMsg m) m = heldBack s m := by
  unfold heldBack State.addMsg
  dsimp only
  rw [List.any_append]
  simp

/-- The new message is offered at once, or waits. -/
theorem sentMsg_offered (x : Cmd) (w : W32) (u : State) : ∃ m l, offerNear (u.addMsg (sentMsg x w u.nextId)) =
      { u with msgs := l ++ [m], nextId := (offerNear (u.addMsg (sentMsg x w u.nextId))).nextId } ∧
    l.map (·.id) = u.msgs.map (·.id) ∧
    (∃ p n t, m = { sentMsg x w u.nextId with phase := p, firstOffer := n, arrived := t } ∧
      if bits x.b 48 16 = x.tid.core.node ∧ heldBack u m = false then p = .offered false ∧ n = u.taper x.tid.core.node
      else p = .waiting false) := by
  obtain ⟨f, he, -, hf⟩ := offerNear_eq (u.addMsg (sentMsg x w u.nextId))
  have hid : ∀ y, (f y).id = y.id := by
    intro y
    obtain ⟨hdue, hno⟩ := hf y
    cases hd : y.dueNear (u.addMsg (sentMsg x w u.nextId))
    · obtain ⟨h | ⟨n, -, h⟩, -⟩ := hno hd
      all_goals rw [h]
    · rw [hdue hd]
      unfold Msg.offer
      split <;> rfl
  have hfar : (sentMsg x w u.nextId).isFar = decide (bits x.b 48 16 ≠ x.tid.core.node) := rfl
  have hdue : (sentMsg x w u.nextId).dueNear (u.addMsg (sentMsg x w u.nextId)) =
      (!decide (bits x.b 48 16 ≠ x.tid.core.node) && !heldBack u (sentMsg x w u.nextId)) := by
    rw [Msg.dueNear, heldBack_addMsg, hfar]
    rfl
  refine ⟨f (sentMsg x w u.nextId), u.msgs.map f, ?_, ?_, ?_⟩
  · rw [he]
    simp only [State.addMsg, List.map_append, List.map_cons, List.map_nil, State.fresh]
  · rw [List.map_map]
    exact List.map_congr_left fun y _ => hid y
  · obtain ⟨hyes, hno⟩ := hf (sentMsg x w u.nextId)
    by_cases hd : bits x.b 48 16 = x.tid.core.node ∧ heldBack u (sentMsg x w u.nextId) = false
    · have hnear : (sentMsg x w u.nextId).dueNear (u.addMsg (sentMsg x w u.nextId)) = true := by
        rw [hdue]
        simp [hd.1, hd.2]
      refine ⟨.offered false, u.taper x.tid.core.node, 0, hyes hnear, ?_⟩
      rw [hyes hnear, if_pos]
      · exact ⟨rfl, rfl⟩
      · exact hd
    · have hnear : (sentMsg x w u.nextId).dueNear (u.addMsg (sentMsg x w u.nextId)) = false := by
        rw [hdue, Bool.and_eq_false_iff]
        by_contra hc
        simp only [not_or, Bool.not_eq_false, Bool.not_eq_true', decide_eq_false_iff_not, ne_eq, not_not] at hc
        exact hd hc
      obtain ⟨h | ⟨n, -, h⟩, -⟩ := hno hnear
      · refine ⟨.waiting false, 0, 0, h, ?_⟩
        rw [h, if_neg hd]
      · refine ⟨.waiting false, 0, n, h, ?_⟩
        rw [h, if_neg]
        exact hd

end

/-! ### RPROBE (R270) -/

section
variable {s : State} {base : Phys} {n tail at_ fuel : Nat} {pat mask : W64}

/-- An empty ring. -/
theorem probe_empty (h : at_ = tail) : probe s base n tail pat mask fuel at_ = 0 := by
  cases fuel with
  | zero => rfl
  | succ k => exact if_pos h

/-- A header in a poisoned unit. -/
theorem probe_poisoned (hf : 0 < fuel) (h : at_ ≠ tail) (hp : s.isPoisoned (base.plus (64 * at_)) = true) :
    probe s base n tail pat mask fuel at_ = failToken .poison 0 0 := by
  cases fuel with
  | zero => omega
  | succ k => simp only [probe, h, hp, if_false, if_true]

/-- The first message matches. -/
theorem probe_first (hf : 0 < fuel) (h : at_ ≠ tail) (hp : s.isPoisoned (base.plus (64 * at_)) = false)
    (hm : (BitVec.ofNat 64 (s.peek (base.plus (64 * at_)) 8) ^^^ pat) &&& mask &&& 0xFFFFFFE0FFFFFFFF#64 = 0) :
    probe s base n tail pat mask fuel at_ = BitVec.ofNat 64
      (s.peek (base.plus (64 * at_ + 8)) 8 % 2 ^ 36 + at_ % 2 ^ 16 * 2 ^ 36 + 2 ^ 62) := by
  have hsize : bits (BitVec.ofNat 64 (s.peek ((base.plus (64 * at_)).plus 8) 8)) 0 36 = s.peek (base.plus (64 * at_ + 8)) 8 % 2 ^ 36 := by
    have hplace : (base.plus (64 * at_)).plus 8 = base.plus (64 * at_ + 8) := by simp only [Phys.plus, Nat.add_assoc]
    rw [hplace, bits, BitVec.toNat_ofNat]
    omega
  cases fuel with
  | zero => omega
  | succ k => simp only [probe, h, hp, hm, hsize, if_false, if_true, Bool.false_eq_true]

end

section
variable {s : State} {c : ClusterId} {x : Cmd} {d : BitVec 4} {a b : GSrc} {w : W32} {g : Guard} {e : Endpoint}

/-- RPROBE of an endpoint that its context has not. -/
theorem exec_rprobeStart_foreign (hx : nextMessage s c = some x) (hi : x.ins = .rprobe d a b w g)
    (h : ownEndpoint s (dieOfCluster c) x.ctx (w.toNat % 256) = false) :
    exec (.rprobeStart c) s = .next (failCmd x .noEndpoint (dequeue .message x s)) := by
  have h' : ownEndpoint (dequeue .message x s) (dieOfCluster c) x.ctx (w.toNat % 256) = false := h
  exact congrArg Host.Outcome.next (by simp only [hx, hi, h', Bool.false_eq_true, not_false_eq_true, if_true])

/-- RPROBE of the context's own. -/
theorem exec_rprobeStart_own (hx : nextMessage s c = some x) (hi : x.ins = .rprobe d a b w g)
    (he : s.endpoint (dieOfCluster c) (w.toNat % 256) = e) (hlive : e.live = true) (hctx : e.ctx = x.ctx) :
    exec (.rprobeStart c) s = .next (if s.isPoisoned (physOfKey e.head) then failCmd x .poison (dequeue .message x s)
      else token x (probe (dequeue .message x s) { physOfKey e.head with off := (physOfKey e.head).off - 64 * e.n } e.n
        (s.peek ((physOfKey e.head).plus 4) 4 % e.n) x.a x.b e.n (s.peek (physOfKey e.head) 4 % e.n)) (dequeue .message x s)) := by
  have he' : (dequeue .message x s).endpoint (dieOfCluster c) (w.toNat % 256) = e := he
  have hown : ownEndpoint (dequeue .message x s) (dieOfCluster c) x.ctx (w.toNat % 256) = true := by
    simp only [ownEndpoint, he', hlive, hctx, decide_true, Bool.and_self]
  exact congrArg Host.Outcome.next (by simp only [hx, hi, hown, not_true, if_false, he']; rfl)

end

end Sys2Proof.Machine
end

section
/-!
The message commands of O41 (R196, R263, R265, R266, R268, R270 and R396).
-/

open Sys2Proof Sys2Proof.Machine Sys2Proof.Claims

namespace Sys2Proof.Machine

section
variable {s : State} {x : Cmd} {ep i : Nat} {p : Phys} {v : W64}

/-- A command whose token comes once something of the state has changed that neither its queue nor its thread nor memory shows. -/
theorem served_token_of {u : State} (hq : SameQueues (dequeue .message x s) u)
    (hp : ∀ q, (s.th x.tid).pend? x.id = some q → (u.th x.tid).pend? x.id = some q) (hm : SameMemory s u) :
    Served .message x v s (token x v u) :=
  ⟨left_of_sameQueues (hq.trans (token_frame x v u).2), answered_token hp, sameMemory_trans hm sameMemory_token⟩

/-- Command answered at once with a status and no cause. -/
theorem served_failCmd (st : Status) (hv : failToken st 0 0 = v) : Served .message x v s (failCmd x st (dequeue .message x s)) :=
  hv ▸ served_token

/-! ### RRING -/

theorem token_mem (x : Cmd) (v : W64) (u : State) : (token x v u).mem = u.mem := by
  rw [(token_frame x v u).1]

theorem token_dies (x : Cmd) (v : W64) (u : State) : (token x v u).dies = u.dies := by
  rw [(token_frame x v u).1]

theorem modEndpoint_frame (h : DieId) (ep : Nat) (f : Endpoint → Endpoint) (u : State) : SameQueues u (modEndpoint h ep f u) ∧
    (modEndpoint h ep f u).threads = u.threads ∧ (modEndpoint h ep f u).mem = u.mem := ⟨fun _ => rfl, rfl, rfl⟩

/-- The state of a ring made live, before its token comes. -/
def ringMade (x : Cmd) (ep gen i : Nat) (p : Phys) (s : State) : State :=
  modEndpoint (dieOf x.tid.core) ep (fun _ => ringEndpoint x gen i p) (ringCleared x p s)

theorem ringMade_frame (gen : Nat) : SameQueues (ringCleared x p s) (ringMade x ep gen i p s) ∧
    (ringMade x ep gen i p s).threads = (ringCleared x p s).threads ∧ (ringMade x ep gen i p s).mem = (ringCleared x p s).mem := by
  rw [ringMade]
  exact modEndpoint_frame _ _ _ _

theorem ringMade_answered (gen : Nat) : Left .message x s (token x v (ringMade x ep gen i p s)) ∧
    Answered x v s (token x v (ringMade x ep gen i p s)) := by
  obtain ⟨hq, hp, -, -⟩ := ringCleared_keeps x p s
  obtain ⟨hq', hth, -⟩ := ringMade_frame (x := x) (p := p) (s := s) (ep := ep) (i := i) gen
  refine ⟨left_of_sameQueues ((hq.trans hq').trans (token_frame x v (ringMade x ep gen i p s)).2), answered_token fun q h => ?_⟩
  rw [State.th, hth]
  exact hp q h

theorem ringMade_endpoint (gen : Nat) :
    (token x v (ringMade x ep gen i p s)).endpoint (dieOf x.tid.core) ep = ringEndpoint x gen i p := by
  rw [endpoint_of_dies (ringMade x ep gen i p s) _ _ (token_dies _ _ _), ringMade,
    endpoint_modEndpoint]

theorem ringMade_memory (gen : Nat) : OnlyBytes (p.plus (64 * x.b.toNat)) 8 s (token x v (ringMade x ep gen i p s)) ∧
    (token x v (ringMade x ep gen i p s)).peek (p.plus (64 * x.b.toNat)) 8 = 0 := by
  obtain ⟨-, -, hb, hz⟩ := ringCleared_keeps x p s
  have hm : (token x v (ringMade x ep gen i p s)).mem = (ringCleared x p s).mem := by
    rw [token_mem]
    exact (ringMade_frame (ep := ep) (i := i) gen).2.2
  refine ⟨fun k hk => ?_, ?_⟩
  · exact (congrArg (fun m => readByte m k) hm).trans (hb k hk)
  · exact (congrArg (fun m => leNat (readBytes m (p.plus (64 * x.b.toNat)).key 8)) hm).trans hz

theorem some_endpointFree {h : DieId} (hlt : ep < Config.endpoints) (hf : endpointFree s h ep = true) :
    (List.range Config.endpoints).any (endpointFree s h) = true :=
  List.any_eq_true.2 ⟨ep, List.mem_range.2 hlt, hf⟩

/-! ### POST -/

theorem startPost_malformed (h : badDescriptorPost x = true) : startPost x i s = failCmd x .malformed (dequeue .message x s) :=
  if_pos h

theorem startPost_foreign (h : badDescriptorPost x = false) (ho : ownEndpoint s (dieOf x.tid.core) x.ctx (postEndpoint x) = false) :
    startPost x i s = failCmd x .noEndpoint (dequeue .message x s) := by
  rw [postEndpoint] at ho
  simp only [startPost, h, ho, Bool.false_eq_true, if_false, not_false_eq_true, if_true]

/-! ### SEND -/

theorem startSend_malformed (h : layBad false false x.recw = true ∨ 2 ^ 24 < layBytes x.recw) :
    startSend x s = failCmd x .malformed s :=
  if_pos (h.imp_right .inl)

end

end Sys2Proof.Machine

section
variable {c : ClusterId} {x : Cmd} {d : BitVec 4} {a b : GSrc} {w : W32} {g : Guard} {s : State}

/-- RRING (R263). -/
theorem rringCommand {ep : Nat} (hx : nextMessage s c = some x) (hc : clusterOf x.tid.core = c) (hi : x.ins = .rring d a b w g)
    (hlt : ep < Config.endpoints) (hf : endpointFree s (dieOfCluster c) ep = true) :
    (x.b.toNat < 2 ∨ 4096 < x.b.toNat ∨ x.a.toNat % 64 ≠ 0 →
      ∃ t, exec (.rringStart c ep) s = .next t ∧ Served .message x 0xFF00F0A000000000 s t) ∧
    (∀ p i, 2 ≤ x.b.toNat → x.b.toNat ≤ 4096 → x.a.toNat % 64 = 0 → ringPlace x.tid.core x.a x.b.toNat = some p →
      ringLease s x.ctx p x.a x.b.toNat = .ok i →
      (∀ f, ringWordRefusal s x.tid x.ctx (p.plus (64 * x.b.toNat)) (leBytes 0 8) = some f →
        ∃ t, exec (.rringStart c ep) s = .next t ∧ Served .message x (failOf f) s t) ∧
      (ringWordRefusal s x.tid x.ctx (p.plus (64 * x.b.toNat)) (leBytes 0 8) = none →
      ∃ t gen, exec (.rringStart c ep) s = .next t ∧ Left .message x s t ∧
        gen = (match (s.die (dieOfCluster c)).endpoints.look ep with | none => 1 | some e => (e.gen + 1) % 256) ∧
        Answered x (endpointWord (dieOfCluster c) ep gen) s t ∧
        t.endpoint (dieOfCluster c) ep = ⟨true, gen, 0, x.ctx, i, x.a, x.b.toNat, 0, [], (p.plus (64 * x.b.toNat)).key, false, x.tid⟩ ∧
        OnlyBytes (p.plus (64 * x.b.toNat)) 8 s t ∧ t.peek (p.plus (64 * x.b.toNat)) 8 = 0)) := by
  subst hc
  rw [exec_rringStart hx hi hf]
  refine ⟨fun h => ?_, fun p i hlo hhi hal hp hl => ?_⟩
  · rw [startRring_malformed h]
    exact ⟨_, rfl, served_failCmd .malformed rfl⟩
  · obtain ⟨hbad, hgood⟩ := startRring_placed (ep := ep) hlo hhi hal hp hl (some_endpointFree hlt hf)
    refine ⟨fun f h => ⟨_, congrArg Host.Outcome.next (hbad f h), served_token⟩, fun h => ?_⟩
    obtain ⟨hleft, hans⟩ := ringMade_answered (x := x) (s := s) (p := p) (ep := ep) (i := i)
      (v := endpointWord (dieOf x.tid.core) ep (ringGen ((s.die (dieOf x.tid.core)).endpoints.look ep)))
      (ringGen ((s.die (dieOf x.tid.core)).endpoints.look ep))
    obtain ⟨hbytes, hzero⟩ := ringMade_memory (x := x) (s := s) (p := p) (ep := ep) (i := i)
      (v := endpointWord (dieOf x.tid.core) ep (ringGen ((s.die (dieOf x.tid.core)).endpoints.look ep)))
      (ringGen ((s.die (dieOf x.tid.core)).endpoints.look ep))
    exact ⟨_, _, congrArg Host.Outcome.next (hgood h), hleft, rfl, hans, ringMade_endpoint _, hbytes, hzero⟩

/-- POST (R265). -/
theorem postCommand {i : Nat} (hx : nextMessage s c = some x) (hc : clusterOf x.tid.core = c) (hi : x.ins = .post d a b w g) :
    (badDescriptorPost x = true → ∃ t, exec (.postStart c i) s = .next t ∧ Served .message x 0xFF00F0A000000000 s t) ∧
    (badDescriptorPost x = false → ownEndpoint s (dieOfCluster c) x.ctx (bits (wordAt x.recw 2) 0 8) = false →
      ∃ t, exec (.postStart c i) s = .next t ∧ Served .message x 0xFF00F0C000000000 s t) ∧
    (badDescriptorPost x = false → ownEndpoint s (dieOfCluster c) x.ctx (bits (wordAt x.recw 2) 0 8) = true →
      postedCount (s.die (dieOfCluster c)) < Config.postedReceives → someEntry s (dieOfCluster c) = true →
      entryReady s (dieOfCluster c) i = true →
      ∃ t hd, exec (.postStart c i) s = .next t ∧ hd = handleOf (dieOfCluster c) .recv i (s.lease (dieOfCluster c) i).gen ∧
        Served .message x hd s t ∧
        t.lease (dieOfCluster c) i = ⟨.live, .recv, (s.lease (dieOfCluster c) i).gen,
          s.taper c.node + min (bits x.b 0 32) Config.maxLife, s.taper c.node, x.ctx, 0, .recv (bits (wordAt x.recw 2) 0 8), false⟩ ∧
        (t.endpoint (dieOfCluster c) (bits (wordAt x.recw 2) 0 8)).posted =
          (s.endpoint (dieOfCluster c) (bits (wordAt x.recw 2) 0 8)).posted ++
            [⟨hd, wordAt x.recw 0, wordAt x.recw 1, wordAt x.recw 3, x.recw.drop 8, x.tid, x.ctx, x.space⟩]) := by
  subst hc
  rw [exec_postStart hx hi]
  refine ⟨fun h => ?_, fun h ho => ?_, fun h ho hroom hsome hready => ?_⟩
  · rw [startPost_malformed h]
    exact ⟨_, rfl, served_failCmd .malformed rfl⟩
  · rw [startPost_foreign h ho]
    exact ⟨_, rfl, served_failCmd .noEndpoint rfl⟩
  · have heq := startPost_posts h ho hroom hsome hready rfl
    have hdies := token_dies x (handleOf (dieOf x.tid.core) .recv i (s.lease (dieOf x.tid.core) i).gen)
      (postMade x (handleOf (dieOf x.tid.core) .recv i (s.lease (dieOf x.tid.core) i).gen) i (dequeue .message x s))
    refine ⟨_, _, congrArg Host.Outcome.next heq, rfl,
      served_token_of (fun _ => rfl) (fun _ h => h) ⟨fun _ => rfl, rfl, rfl⟩, ?_, ?_⟩
    · have hlease := postMade_lease (x := x) (i := i) (handleOf (dieOf x.tid.core) .recv i (s.lease (dieOf x.tid.core) i).gen)
        (dequeue .message x s)
      rw [State.lease, State.die] at hlease ⊢
      rw [hdies]
      exact hlease
    · refine (congrArg Endpoint.posted (endpoint_of_dies _ _ _ hdies)).trans ?_
      exact postMade_endpoint _ _

/-- SEND (R268). -/
theorem sendCommand (hx : nextMessage s c = some x) (hc : clusterOf x.tid.core = c) (hi : x.ins = .send d a b w g) :
    (layBad false false x.recw = true ∨ 2 ^ 24 < layBytes x.recw →
      ∃ t, exec (.sendStart c) s = .next t ∧ Served .message x 0xFF00F0A000000000 s t) ∧
    (layBad false false x.recw = false → layBytes x.recw ≤ 2 ^ 24 → bits x.b 44 4 = 0 → bits x.b 40 2 = 0 →
      bits x.b 48 16 ≠ c.node → pathLive s c.node x.ctx (bits x.b 48 16) = false →
      ∃ t, exec (.sendStart c) s = .next t ∧ Served .message x 0xFF00F03000000000 s t) ∧
    (layBad false false x.recw = false → layBytes x.recw ≤ 2 ^ 24 → bits x.b 44 4 = 0 → bits x.b 40 2 = 0 →
      (bits x.b 48 16 = c.node ∨ pathLive s c.node x.ctx (bits x.b 48 16) = true) →
      (s.pkg c.node).deadLinks.contains (bits x.b 48 16) = true →
      ∃ t, exec (.sendStart c) s = .next t ∧ Served .message x 0xFF00F07000000000 s t) ∧
    (layBad false false x.recw = false → layBytes x.recw ≤ 2 ^ 24 → bits x.b 44 4 = 0 → bits x.b 40 2 = 0 →
      (bits x.b 48 16 = c.node ∨ pathLive s c.node x.ctx (bits x.b 48 16) = true) →
      (s.pkg c.node).deadLinks.contains (bits x.b 48 16) = false →
      ∃ t m l, exec (.sendStart c) s = .next t ∧ Left .message x s t ∧ SameMemory s t ∧ t.msgs = l ++ [m] ∧
        l.map (·.id) = s.msgs.map (·.id) ∧ m.accepted = 0 ∧ m.dead = false ∧
        m.id = s.nextId ∧ m.cmd = x ∧ m.key = sourceKey x.tid.core w ∧ m.dest = ⟨bits x.b 48 16, bits x.b 42 2⟩ ∧
        m.ep = bits x.b 32 8 ∧ m.gen = bits x.b 24 8 ∧ m.tmo = bits x.b 0 24 ∧ m.src = x.recw ∧
        (if bits x.b 48 16 = c.node ∧ heldBack s m = false then m.phase = .offered false ∧ m.firstOffer = s.taper c.node
         else m.phase = .waiting false)) := by
  subst hc
  rw [exec_sendStart hx hi]
  have hpath : pathLive (dequeue .message x s) x.tid.core.node x.ctx (bits x.b 48 16) =
      pathLive s (clusterOf x.tid.core).node x.ctx (bits x.b 48 16) := rfl
  have hdead : ((dequeue .message x s).pkg x.tid.core.node).deadLinks = (s.pkg (clusterOf x.tid.core).node).deadLinks := rfl
  refine ⟨fun h => ?_, fun hbad hlen h44 h40 hfar hno => ?_, fun hbad hlen h44 h40 hway hd => ?_, fun hbad hlen h44 h40 hway hd => ?_⟩
  · rw [startSend_malformed h]
    exact ⟨_, rfl, served_failCmd .malformed rfl⟩
  · rw [startSend_cases hi hbad hlen h44 h40, if_pos ⟨hfar, hpath.trans hno⟩]
    exact ⟨_, rfl, served_failCmd .lapsed rfl⟩
  all_goals
    have hnot : ¬ (bits x.b 48 16 ≠ x.tid.core.node ∧
        pathLive (dequeue .message x s) x.tid.core.node x.ctx (bits x.b 48 16) = false) := by
      rw [hpath]
      rintro ⟨hne, hf⟩
      obtain h | h := hway
      · exact hne h
      · rw [hf] at h
        cases h
  · rw [startSend_cases hi hbad hlen h44 h40, if_neg hnot, hdead, if_pos hd]
    exact ⟨_, rfl, served_failCmd .path rfl⟩
  · obtain ⟨m, l, he, hl, p, n, t, rfl, hphase⟩ := sentMsg_offered x w (dequeue .message x s)
    rw [startSend_cases hi hbad hlen h44 h40, if_neg hnot, hdead, hd, if_neg Bool.false_ne_true, he]
    exact ⟨_, _, l, rfl, left_of_sameQueues fun _ => rfl, ⟨fun _ => rfl, rfl, rfl⟩, rfl, hl, rfl, rfl, rfl, rfl, rfl, rfl, rfl,
      rfl, rfl, rfl, hphase⟩

/-- RPROBE (R270). -/
theorem rprobeCommand {e : Endpoint} (hx : nextMessage s c = some x) (hc : clusterOf x.tid.core = c)
    (hi : x.ins = .rprobe d a b w g) (he : s.endpoint (dieOfCluster c) (w.toNat % 256) = e) :
    (e.live = false ∨ e.ctx ≠ x.ctx → ∃ t, exec (.rprobeStart c) s = .next t ∧ Served .message x 0xFF00F0C000000000 s t) ∧
    (∀ p q, e.live = true → e.ctx = x.ctx → 2 ≤ e.n → p = physOfKey e.head → q.key + 64 * e.n = p.key →
      q = { p with off := p.off - 64 * e.n } →
      (s.isPoisoned p = true → ∃ t, exec (.rprobeStart c) s = .next t ∧ Served .message x 0xFF00F06000000000 s t) ∧
      (s.isPoisoned p = false → s.peek p 4 % e.n = s.peek (p.plus 4) 4 % e.n →
        ∃ t, exec (.rprobeStart c) s = .next t ∧ Served .message x 0 s t) ∧
      (s.isPoisoned p = false → s.peek p 4 % e.n ≠ s.peek (p.plus 4) 4 % e.n →
        s.isPoisoned (q.plus (64 * (s.peek p 4 % e.n))) = true →
        ∃ t, exec (.rprobeStart c) s = .next t ∧ Served .message x 0xFF00F06000000000 s t) ∧
      (s.isPoisoned p = false → s.peek p 4 % e.n ≠ s.peek (p.plus 4) 4 % e.n →
        s.isPoisoned (q.plus (64 * (s.peek p 4 % e.n))) = false →
        (BitVec.ofNat 64 (s.peek (q.plus (64 * (s.peek p 4 % e.n))) 8) ^^^ x.a) &&& x.b &&& 0xFFFFFFE0FFFFFFFF#64 = 0 →
        ∃ t, exec (.rprobeStart c) s = .next t ∧
          Served .message x
            (BitVec.ofNat 64 (s.peek (q.plus (64 * (s.peek p 4 % e.n) + 8)) 8 % 2 ^ 36 +
              s.peek p 4 % e.n % 2 ^ 16 * 2 ^ 36 + 2 ^ 62)) s t)) := by
  subst hc
  refine ⟨fun h => ?_, ?_⟩
  · have hown : ownEndpoint s (dieOfCluster (clusterOf x.tid.core)) x.ctx (w.toNat % 256) = false := by
      rw [ownEndpoint, he, Bool.and_eq_false_iff, decide_eq_false_iff_not]
      exact h
    rw [exec_rprobeStart_foreign hx hi hown]
    exact ⟨_, rfl, served_failCmd .noEndpoint rfl⟩
  · rintro p q hlive hctx hn rfl - rfl
    rw [exec_rprobeStart_own hx hi he hlive hctx]
    have hfuel : 0 < e.n := by omega
    refine ⟨fun hp => ?_, fun hp heq => ?_, fun hp hne hq => ?_, fun hp hne hq hmatch => ?_⟩
    · rw [hp, if_pos rfl]
      exact ⟨_, rfl, served_failCmd .poison rfl⟩
    all_goals rw [hp, if_neg Bool.false_ne_true]
    · rw [probe_empty (s := dequeue .message x s) heq]
      exact ⟨_, rfl, served_token⟩
    · rw [probe_poisoned (s := dequeue .message x s) hfuel hne hq]
      exact ⟨_, rfl, served_failCmd .poison rfl⟩
    · rw [probe_first (s := dequeue .message x s) hfuel hne hq hmatch]
      exact ⟨_, rfl, served_token⟩

/-- The four commands of the receive engine. -/
theorem messageCommands : Claims.MessageCommands :=
  ⟨fun _ _ _ _ _ _ _ _ _ hx hc hi hlt hf => rringCommand hx hc hi hlt hf,
    fun _ _ _ _ _ _ _ _ _ hx hc hi => postCommand hx hc hi,
    fun _ _ _ _ _ _ _ _ hx hc hi => sendCommand hx hc hi,
    fun _ _ _ _ _ _ _ _ _ hx hc hi he => rprobeCommand hx hc hi he⟩

end

end

section
/-!
Messages in progress: their names, their writes, and what ends them (R266 to R269).
-/

open Sys2Proof Sys2Proof.Machine Sys2Proof.Claims

namespace Sys2Proof.Machine

/-! ### Messages by name -/

section
variable {s t : State} {j i : Nat} {m : Msg} {f : Msg → Msg}

theorem State.id_of_msg? (h : s.msg? j = some m) : m.id = j := by simpa using List.find?_some h

/-- Messages that keep their names are found as what they have become. -/
theorem State.msg?_map (h : t.msgs = s.msgs.map f) (hf : ∀ y, (f y).id = y.id) (i : Nat) : t.msg? i = (s.msg? i).map f := by
  rw [State.msg?, State.msg?, h, List.find?_map]
  simp only [Function.comp_def, hf]

theorem modMsg_msg?_self (h : s.msg? j = some m) (hf : (f m).id = m.id) : (modMsg j f s).msg? j = some (f m) := by
  have hid := State.id_of_msg? h
  have hmap : ∀ l : List Msg, l.find? (fun x => decide (x.id = j)) = some m →
      (mapIf l (fun x => decide (x.id = j)) f).find? (fun x => decide (x.id = j)) = some (f m) := by
    intro l hl
    induction l with
    | nil => cases hl
    | cons y l ih =>
      rw [mapIf, List.map_cons]
      by_cases hy : y.id = j
      · rw [List.find?_cons_of_pos (by simpa using hy)] at hl
        cases hl
        rw [if_pos (by simpa using hy), List.find?_cons_of_pos (by simp [hf, hid])]
      · rw [List.find?_cons_of_neg (by simpa using hy)] at hl
        rw [if_neg (by simpa using hy), List.find?_cons_of_neg (by simpa using hy)]
        exact ih hl
  exact hmap _ h

theorem modMsg_msg?_ne (hi : i ≠ j) (hf : ∀ y, y.id = j → (f y).id = j) : (modMsg j f s).msg? i = s.msg? i := by
  have hmap : ∀ l : List Msg, (mapIf l (fun x => decide (x.id = j)) f).find? (fun x => decide (x.id = i)) =
      l.find? fun x => decide (x.id = i) := by
    intro l
    induction l with
    | nil => rfl
    | cons y l ih =>
      rw [mapIf, List.map_cons]
      by_cases hy : y.id = j
      · rw [if_pos (by simpa using hy), List.find?_cons_of_neg, List.find?_cons_of_neg]
        · exact ih
        · simpa [hy] using hi.symm
        · simpa [hf y hy] using hi.symm
      · rw [if_neg (by simpa using hy), List.find?_cons, List.find?_cons]
        cases decide (y.id = i)
        · exact ih
        · rfl
  exact hmap _

/-- The message of a name passes to another phase. -/
theorem msgPasses_modMsg (h : s.msg? j = some m) (hf : ∀ y, (f y).id = y.id) : MsgPasses j m f (modMsg j f s) s :=
  ⟨modMsg_msg?_self h (hf m), fun _ hi => modMsg_msg?_ne hi fun y hy => (hf y).trans hy⟩

theorem Arrives?.id_eq {y z : Msg} (h : Arrives? y z) : z.id = y.id := by
  obtain rfl | ⟨n, -, rfl⟩ := h
  all_goals rfl

theorem Arrives?.eq {y z : Msg} (h : Arrives? y z) : ∃ n, z = { y with arrived := n } := by
  obtain rfl | ⟨n, -, rfl⟩ := h
  · exact ⟨z.arrived, rfl⟩
  · exact ⟨n, rfl⟩

end

/-! ### Reads and writes of a message's payload -/

section
variable {s t u v : State} {m k : Msg}

/-- The reads that a message issues are in flight under the next names (R268). -/
theorem foldl_reads_eq (c : Cmd) (agent : Nat → Agent) (l : List (W64 × Nat)) (s : State) :
    l.foldl (fun s x => postEngine c (agent x.2) .engRead x.1 64 s) s =
      { s with
        accs := s.accs ++ l.mapIdx fun n u => engineAccess s c (s.nextId + n) (agent u.2) .engRead u.1 64
        nextId := s.nextId + l.length } := by
  induction l generalizing s with
  | nil => simp
  | cons x l ih =>
    have hnext : ∀ n, s.nextId + 1 + n = s.nextId + (n + 1) := fun n => by omega
    have hunit : (fun n (u : W64 × Nat) => engineAccess (postEngine c (agent x.2) .engRead x.1 64 s) c
          ((postEngine c (agent x.2) .engRead x.1 64 s).nextId + n) (agent u.2) .engRead u.1 64) =
        fun n u => engineAccess s c (s.nextId + (n + 1)) (agent u.2) .engRead u.1 64 := by
      funext n u
      exact congrArg (fun i => engineAccess s c i (agent u.2) .engRead u.1 64) (hnext n)
    rw [List.foldl_cons, ih, List.mapIdx_cons, hunit]
    simp only [postEngine, postAcc, State.fresh, List.append_assoc, List.length_cons, hnext]
    rfl

theorem readPayload_eq (m : Msg) (s : State) : readPayload m s =
    { s with accs := s.accs ++ readsOf s m.cmd (.msgRead m.id) m.src s.nextId, nextId := s.nextId + (srcReads m.src).length } :=
  foldl_reads_eq m.cmd (.msgRead m.id) (srcReads m.src) s

/-- What stays of a message while its payload is written: where it goes, and the command it is of. -/
structure Msg.Keeps (m k : Msg) : Prop where
  id : k.id = m.id
  phase : k.phase = m.phase
  posted : k.posted = m.posted
  ring : k.ring = m.ring
  cmd : k.cmd = m.cmd
  src : k.src = m.src

/-- A state in which a message has gone on with its payload: accesses and messages alone have changed, and unless the message goes to
a ring, what was in flight still is. -/
structure GoneOn (u : State) (m : Msg) (s : State) : Prop where
  frame : s = { u with accs := s.accs, msgs := s.msgs, nextId := s.nextId }
  msg : ∃ k, s.msg? m.id = some k ∧ m.Keeps k
  kept : (∀ e, m.phase ≠ .ringing e) → ∀ a ∈ u.accs, a ∈ s.accs

theorem GoneOn.refl (h : s.msg? m.id = some m) : GoneOn s m s := ⟨rfl, ⟨m, h, rfl, rfl, rfl, rfl, rfl, rfl⟩, fun _ _ ha => ha⟩

theorem GoneOn.modMsg (h : GoneOn u m s) {f : Msg → Msg} (hf : ∀ k : Msg, k.Keeps (f k)) : GoneOn u m (modMsg m.id f s) := by
  obtain ⟨hframe, ⟨k, hk, hkeep⟩, haccs⟩ := h
  refine ⟨?_, ⟨f k, modMsg_msg?_self hk (hf k).id, ?_⟩, haccs⟩
  · rw [Machine.modMsg, hframe]
  · exact ⟨(hf k).id.trans hkeep.id, (hf k).phase.trans hkeep.phase, (hf k).posted.trans hkeep.posted, (hf k).ring.trans hkeep.ring,
      (hf k).cmd.trans hkeep.cmd, (hf k).src.trans hkeep.src⟩

theorem GoneOn.postEngine (h : GoneOn u m s) (c : Cmd) (agent : Agent) (op : AccOp) (ea : W64) (len : Nat) :
    GoneOn u m (postEngine c agent op ea len s) := by
  obtain ⟨hframe, hmsg, haccs⟩ := h
  refine ⟨?_, hmsg, fun hr a ha => List.mem_append_left _ (haccs hr a ha)⟩
  rw [Machine.postEngine, postAcc, State.fresh, hframe]

/-- Its writes go out as its payload comes. -/
theorem GoneOn.issueMsgUnits (h : GoneOn u m s) (hk : k.id = m.id) : GoneOn u m (issueMsgUnits k s) := by
  refine List.foldlRecOn (motive := GoneOn u m) _ _ h fun s' h' x _ => ?_
  have hissued : GoneOn u m (Machine.modMsg k.id (fun q => { q with issued := q.issued ++ [x.2] }) s') := by
    rw [hk]
    exact h'.modMsg fun _ => ⟨rfl, rfl, rfl, rfl, rfl, rfl⟩
  dsimp only
  split
  · split
    · exact hissued
    · exact hissued.postEngine _ _ _ _ _
  · exact h'

/-- The header of a message to a ring follows its payload. -/
theorem GoneOn.headerNext (h : GoneOn u m s) : GoneOn u m (headerNext m.id s) := by
  obtain ⟨k, hk, hkeep⟩ := h.msg
  unfold Machine.headerNext
  rw [hk]
  dsimp only
  split
  next q entry hring hphase =>
    split
    · exact h
    · have hdrop : GoneOn u m (dropAccs (·.ofMsg m.id) s) := by
        refine ⟨?_, h.msg, fun hr => absurd (hkeep.phase.symm.trans hphase) (hr entry)⟩
        rw [dropAccs, h.frame]
      exact (hdrop.postEngine _ _ _ _ _).modMsg fun _ => ⟨rfl, rfl, rfl, rfl, rfl, rfl⟩
  · exact h

theorem GoneOn.msgProgress (h : GoneOn u m s) : GoneOn u m (msgProgress m.id s) := by
  obtain ⟨k, hk, -⟩ := h.msg
  unfold Machine.msgProgress
  rw [hk]
  refine GoneOn.headerNext ?_
  dsimp only
  split
  · exact h
  · exact h.issueMsgUnits (State.id_of_msg? hk)

/-- The message `k` in place of the one of its name starts to read its payload, and goes on as far as it can. -/
def startPayload (k : Msg) (s : State) : State := msgProgress k.id (readPayload k (offerNear (modMsg k.id (fun _ => k) s)))

/-- A message that neither waits nor is offered starts its payload: it stays in its phase, and its reads are in flight. -/
theorem startPayload_goesOn (hm : s.msg? k.id = some m) (hphase : ∀ again, k.phase ≠ .waiting again) :
    SameMemory s (startPayload k s) ∧ (startPayload k s).dies = s.dies ∧
    (∃ k', (startPayload k s).msg? k.id = some k' ∧ k.Keeps k') ∧
    ((∀ e, k.phase ≠ .ringing e) → ∃ n, s.nextId ≤ n ∧ ∀ a ∈ readsOf s k.cmd (.msgRead k.id) k.src n, a ∈ (startPayload k s).accs) := by
  have hput : (modMsg k.id (fun _ => k) s).msg? k.id = some k := modMsg_msg?_self hm (State.id_of_msg? hm).symm
  obtain ⟨f, he, hle, hf⟩ := offerNear_eq (modMsg k.id (fun _ => k) s)
  have hstay : f k = k := by
    have hnot : k.dueNear (modMsg k.id (fun _ => k) s) = false := by
      rw [Msg.dueNear]
      split
      next again hw => exact absurd hw (hphase again)
      · rfl
    exact ((hf k).2 hnot).2 hphase
  have hid : ∀ y, (f y).id = y.id := by
    intro y
    obtain ⟨hdue, hno⟩ := hf y
    cases hd : y.dueNear (modMsg k.id (fun _ => k) s)
    · exact (hno hd).1.id_eq
    · rw [hdue hd]
      unfold Msg.offer
      split <;> rfl
  have hoffered : (offerNear (modMsg k.id (fun _ => k) s)).msg? k.id = some k := by
    rw [State.msg?_map (congrArg State.msgs he :) hid, hput, Option.map_some, hstay]
  have hreads := readPayload_eq k (offerNear (modMsg k.id (fun _ => k) s))
  have hstart : GoneOn (readPayload k (offerNear (modMsg k.id (fun _ => k) s))) k (startPayload k s) := by
    refine GoneOn.msgProgress (GoneOn.refl ?_)
    rw [hreads]
    exact hoffered
  have hframe : startPayload k s = { s with
      accs := (startPayload k s).accs, msgs := (startPayload k s).msgs, nextId := (startPayload k s).nextId } := by
    rw [hstart.frame, hreads, he]
    rfl
  refine ⟨?_, (congrArg State.dies hframe :), hstart.msg, fun hr => ⟨(offerNear (modMsg k.id (fun _ => k) s)).nextId, hle, fun a ha => ?_⟩⟩
  · rw [hframe]
    exact ⟨fun _ => rfl, rfl, rfl⟩
  · refine hstart.kept hr a ?_
    rw [hreads, he]
    rw [he] at ha
    exact List.mem_append_right _ ha

end

/-! ### The end of a message -/

section
variable {s : State} {m : Msg} {x : W64}

theorem Msg.dueNear_waiting {y : Msg} (h : y.dueNear s = true) : ∃ again, y.phase = .waiting again := by
  rw [Msg.dueNear] at h
  split at h
  next again hp => exact ⟨again, hp⟩
  · cases h

/-- What becomes of a message as others are decided or end, in the words of `Claims.Ends`. -/
theorem ends_of_over {u : State} {f : Msg → Msg}
    (hu : u = { s with msgs := (s.msgs.filter fun y => decide (y.id ≠ m.id)).map f, nextId := u.nextId })
    (hf : ∀ y, f y = y ∨ (∃ n, y.arrived = 0 ∧ f y = { y with arrived := n }) ∨
      ∃ again, y.phase = .waiting again ∧ f y = y.offer (s.taper y.cmd.tid.core.node)) :
    Ends m x s (if m.dead then u else token m.cmd x u) := by
  have hmem : SameMemory s u := by
    rw [hu]
    exact ⟨fun _ => rfl, rfl, rfl⟩
  have hth : u.threads = s.threads := by rw [hu]
  have hmsgs : u.msgs = (s.msgs.filter fun y => decide (y.id ≠ m.id)).map f := by rw [hu]
  cases hd : m.dead
  · refine ⟨⟨f, ?_, hf⟩, fun _ => answered_token fun p hp => ?_, fun h => absurd (hd.symm.trans h) Bool.false_ne_true,
      sameMemory_trans hmem sameMemory_token⟩
    · exact (congrArg State.msgs (token_frame m.cmd x u).1).trans hmsgs
    · rw [State.th, hth]
      exact hp
  · exact ⟨⟨f, hmsgs, hf⟩, fun h => absurd (h.symm.trans hd) Bool.false_ne_true, fun _ => hth, hmem⟩

/-- A message that is over. -/
theorem ends_endMsg (m : Msg) (x : W64) (s : State) : Ends m x (dropAccs (·.ofMsg m.id) s) (endMsg m x s) := by
  obtain ⟨f, he, -, hf⟩ := offerNear_eq { dropAccs (·.ofMsg m.id) s with msgs := s.msgs.filter fun y => decide (y.id ≠ m.id) }
  refine ends_of_over he fun y => ?_
  obtain ⟨hdue, hno⟩ := hf y
  cases hd : y.dueNear { dropAccs (·.ofMsg m.id) s with msgs := s.msgs.filter fun y => decide (y.id ≠ m.id) }
  · obtain h | h := (hno hd).1
    · exact .inl h
    · exact .inr (.inl h)
  · obtain ⟨again, hw⟩ := Msg.dueNear_waiting hd
    exact .inr (.inr ⟨again, hw, hdue hd⟩)

end

end Sys2Proof.Machine
end

section
/-!
The decision of a message, and what becomes of a refused one (R119, R264, R266 and R269).
-/

open Sys2Proof Sys2Proof.Machine Sys2Proof.Claims

namespace Sys2Proof.Machine

section
variable {s : State} {j : Nat} {m : Msg} {e : Endpoint} {r : Posted} {again : Bool}

theorem exec_messageDecision (h : s.msg? j = some m) (hp : m.phase = .offered again) :
    exec (.messageDecision j) s = .next (decideMsg m s) := congrArg Host.Outcome.next (by simp only [h, hp])

/-! ### The cases of a decision (R266) -/

theorem decideMsg_noEndpoint (he : s.endpoint m.dest m.ep = e) (h : e.live = false ∨ e.gen ≠ m.gen) :
    decideMsg m s = endMsg m (failToken .noEndpoint 0 0) s := by
  subst he
  exact if_pos (by rwa [Bool.not_eq_true])

/-- The message as the receive `r` takes it. -/
def Msg.landsIn (m : Msg) (r : Posted) : Msg := { m with phase := .landing, posted := some r }

/-- The message as the ring of an endpoint takes it, decided under the name `n`. -/
def Msg.ringsIn (m : Msg) (e : Endpoint) (n : Nat) : Msg :=
  { m with phase := .ringing e.resv, ring := some ⟨e.base, e.n, e.tid, e.ctx⟩, order := n }

section
variable (he : s.endpoint m.dest m.ep = e) (hlive : e.live = true) (hgen : e.gen = m.gen) (htime : inTime s m = true)
include he hlive hgen htime

theorem decideMsg_lands (hr : e.posted.find? (·.takes s m.key) = some r) : decideMsg m s = startPayload (m.landsIn r)
    (modEndpoint m.dest m.ep (fun e => { e with posted := e.posted.filter fun x => decide (x.lease ≠ r.lease) }) s) := by
  unfold decideMsg
  simp only [he, hlive, hgen, htime, hr, not_true, ne_eq, or_self, if_false]
  rfl

section
variable (hr : e.posted.find? (·.takes s m.key) = none)
include hr

theorem decideMsg_poisoned (hp : ringPoisoned s e = true) : decideMsg m s = endMsg m (failToken .poison 0 0) s := by
  unfold decideMsg
  simp only [he, hlive, hgen, htime, hr, hp, not_true, ne_eq, or_self, if_false, if_true]

theorem decideMsg_refuses (hp : ringPoisoned s e = false) (hroom : ringRoom s e < m.entries) : decideMsg m s = refuseOffer m s := by
  unfold decideMsg
  simp only [he, hlive, hgen, htime, hr, hp, hroom, Bool.false_eq_true, not_true, ne_eq, or_self, if_false, if_true]

theorem decideMsg_rings (hp : ringPoisoned s e = false) (hroom : m.entries ≤ ringRoom s e) :
    decideMsg m s = startPayload (m.ringsIn e s.nextId)
      (modEndpoint m.dest m.ep (fun e => { e with resv := (e.resv + m.entries) % e.n }) s.fresh) := by
  unfold decideMsg
  simp only [he, hlive, hgen, htime, hr, hp, Nat.not_lt.2 hroom, Bool.false_eq_true, not_true, ne_eq, or_self, if_false]
  rfl

end

end

/-! ### Refused messages (R269) -/

theorem exec_ringOfferRetry (h : s.msg? j = some m) (hm : mayRetry s m = true) :
    exec (.ringOfferRetry j) s = .next (arriveFar (modMsg j (Msg.retry (s.taper m.cmd.tid.core.node)) s)) :=
  congrArg Host.Outcome.next (by simp only [h, hm, if_true])

theorem exec_ringFullTimeout (h : s.msg? j = some m) (hm : ringLate s m = true) :
    exec (.ringFullTimeout j) s = .next (endMsg m (failToken .ringFull 0 0) s) :=
  congrArg Host.Outcome.next (by simp only [h, hm, if_true])

/-- A message offered again, as the claim writes it: its header has yet to arrive. -/
theorem Msg.retry_eq (now : Nat) (m : Msg) : m.retry now = { offeredAgain m with arrived := (m.retry now).arrived } := by
  by_cases h : m.dest.node = m.cmd.tid.core.node
  · have hnear : Msg.isFar { m with phase := .waiting true } = false := by simp [Msg.isFar, h]
    simp only [Msg.retry, hnear, Bool.false_eq_true, if_false, Msg.offer, offeredAgain, h, if_true]
  · have hfar : Msg.isFar { m with phase := .waiting true } = true := by simp [Msg.isFar, h]
    simp only [Msg.retry, hfar, if_true, offeredAgain, h, if_false]

theorem Msg.retry_id (now : Nat) (m : Msg) : (m.retry now).id = m.id := by
  rw [Msg.retry_eq]
  rfl

/-- What a message offered again is once it may have arrived. -/
theorem Arrives?.retry {now : Nat} {z : Msg} (h : Arrives? (m.retry now) z) : ∃ n, z = { offeredAgain m with arrived := n } := by
  obtain ⟨n, rfl⟩ := h.eq
  rw [Msg.retry_eq]
  exact ⟨n, rfl⟩

/-- A refused message is offered again. -/
theorem msgOffered_retry (h : s.msg? j = some m) (now : Nat) :
    MsgOffered j (offeredAgain m) (arriveFar (modMsg j (Msg.retry now) s)) s := by
  obtain ⟨f, he, -, hf⟩ := arriveFar_eq (modMsg j (Msg.retry now) s)
  have hmsg := State.msg?_map (congrArg State.msgs he :) fun y => (hf y).1.id_eq
  refine ⟨?_, fun i hi => ?_⟩
  · obtain ⟨n, hn⟩ := (hf (m.retry now)).1.retry
    rw [hmsg, modMsg_msg?_self h (Msg.retry_id now m), Option.map_some, hn]
    exact ⟨n, rfl⟩
  · rw [hmsg, modMsg_msg?_ne hi fun y hy => (Msg.retry_id now y).trans hy]
    cases hs : s.msg? i with
    | none => exact .inl rfl
    | some y =>
      obtain heq | ⟨n, h0, hn⟩ := (hf y).1
      · exact .inl (congrArg some heq)
      · exact .inr ⟨n, y, rfl, h0, congrArg some hn⟩

theorem arriveFar_frame (s : State) : arriveFar s = { s with msgs := (arriveFar s).msgs, nextId := (arriveFar s).nextId } := by
  obtain ⟨f, he, -, -⟩ := arriveFar_eq s
  rw [he]

end

end Sys2Proof.Machine

section
variable {j : Nat} {m : Msg} {s : State}

/-- The decision of an offered message (R264, R266). -/
theorem offeredDecision {e : Endpoint} {again : Bool} (hm : s.msg? j = some m) (hid : m.id = j) (hp : m.phase = .offered again)
    (he : s.endpoint m.dest m.ep = e) :
    (e.live = false ∨ e.gen ≠ m.gen →
      ∃ t, exec (.messageDecision j) s = .next t ∧ Ends m 0xFF00F0C000000000 (dropAccs (·.ofMsg j) s) t) ∧
    (∀ r, e.live = true → e.gen = m.gen → inTime s m = true → e.posted.find? (·.takes s m.key) = some r →
      ∃ t m', exec (.messageDecision j) s = .next t ∧ SameMemory s t ∧ t.msg? j = some m' ∧ m'.phase = .landing ∧
        m'.posted = some r ∧ m'.cmd = m.cmd ∧ m'.src = m.src ∧
        t.endpoint m.dest m.ep = { e with posted := e.posted.filter fun x => decide (x.lease ≠ r.lease) } ∧
        (layZero m.src = false → m.got = [] → ∃ n, s.nextId ≤ n ∧ ∀ a ∈ readsOf s m.cmd (.msgRead j) m.src n, a ∈ t.accs)) ∧
    (e.live = true → e.gen = m.gen → inTime s m = true → e.posted.find? (·.takes s m.key) = none →
      (ringPoisoned s e = true →
        ∃ t, exec (.messageDecision j) s = .next t ∧ Ends m 0xFF00F06000000000 (dropAccs (·.ofMsg j) s) t) ∧
      (ringPoisoned s e = false → ringRoom s e < m.entries →
        ∃ t, exec (.messageDecision j) s = .next t ∧ t = { s with msgs := t.msgs } ∧
          MsgPasses j m (fun m => { m with phase := .refused, refusedAt := s.taper m.cmd.tid.core.node }) t s) ∧
      (ringPoisoned s e = false → m.entries ≤ ringRoom s e →
        ∃ t m', exec (.messageDecision j) s = .next t ∧ SameMemory s t ∧ t.msg? j = some m' ∧ m'.phase = .ringing e.resv ∧
          m'.ring = some ⟨e.base, e.n, e.tid, e.ctx⟩ ∧ m'.posted = m.posted ∧
          t.endpoint m.dest m.ep = { e with resv := (e.resv + m.entries) % e.n })) := by
  subst hid
  rw [exec_messageDecision hm hp]
  refine ⟨fun h => ?_, fun r hlive hgen htime hr => ?_, fun hlive hgen htime hr =>
    ⟨fun hpo => ?_, fun hpo hroom => ?_, fun hpo hroom => ?_⟩⟩
  · rw [decideMsg_noEndpoint he h]
    exact ⟨_, rfl, ends_endMsg m _ s⟩
  · rw [decideMsg_lands he hlive hgen htime hr]
    obtain ⟨hmem, hdies, ⟨k, hk, hkeep⟩, hreads⟩ := startPayload_goesOn
      (s := modEndpoint m.dest m.ep (fun e => { e with posted := e.posted.filter fun x => decide (x.lease ≠ r.lease) }) s)
      (k := m.landsIn r) hm fun _ => nofun
    refine ⟨_, k, rfl, hmem, hk, hkeep.phase, hkeep.posted, hkeep.cmd, hkeep.src, ?_, fun _ _ => hreads fun _ => nofun⟩
    rw [endpoint_of_dies _ _ _ hdies, endpoint_modEndpoint, he]
  · rw [decideMsg_poisoned he hlive hgen htime hr hpo]
    exact ⟨_, rfl, ends_endMsg m _ s⟩
  · rw [decideMsg_refuses he hlive hgen htime hr hpo hroom]
    refine ⟨_, rfl, rfl, ?_⟩
    have h := msgPasses_modMsg (f := fun x => { x with phase := .refused, refusedAt := s.taper m.cmd.tid.core.node }) hm fun _ => rfl
    exact ⟨h.1, h.2⟩
  · rw [decideMsg_rings he hlive hgen htime hr hpo hroom]
    obtain ⟨hmem, hdies, ⟨k, hk, hkeep⟩, -⟩ := startPayload_goesOn
      (s := modEndpoint m.dest m.ep (fun e => { e with resv := (e.resv + m.entries) % e.n }) s.fresh)
      (k := m.ringsIn e s.nextId) hm fun _ => nofun
    refine ⟨_, k, rfl, hmem, hk, hkeep.phase, hkeep.ring, hkeep.posted, ?_⟩
    rw [endpoint_of_dies _ _ _ hdies, endpoint_modEndpoint, ← he]
    rfl

/-- A refused message is offered again or answered RING_FULL (R269). -/
theorem refusedAgain (hm : s.msg? j = some m) (hid : m.id = j) :
    (m.phase = .refused → s.taper m.cmd.tid.core.node < m.firstOffer + m.tmo →
      ∃ t, exec (.ringOfferRetry j) s = .next t ∧ t = { s with msgs := t.msgs, nextId := t.nextId } ∧
        MsgOffered j (offeredAgain m) t s) ∧
    (m.phase = .refused ∨ m.phase = .waiting true → m.firstOffer + m.tmo ≤ s.taper m.cmd.tid.core.node →
      ∃ t, exec (.ringFullTimeout j) s = .next t ∧ Ends m 0xFF00F08000000000 (dropAccs (·.ofMsg j) s) t) := by
  subst hid
  refine ⟨fun hp htmo => ?_, fun hp htmo => ?_⟩
  · rw [exec_ringOfferRetry hm (decide_eq_true ⟨hp, htmo⟩)]
    refine ⟨_, rfl, ?_, msgOffered_retry hm _⟩
    rw [arriveFar_frame]
    rfl
  · rw [exec_ringFullTimeout hm (by rw [ringLate, decide_eq_true hp, decide_eq_true htmo]; rfl)]
    exact ⟨_, rfl, ends_endMsg m _ s⟩

/-- A store at a HEAD word offers the refused messages of its endpoint again (R264, R269). -/
theorem headStore {h : DieId} {ep : Nat} (hmoved : (s.endpoint h ep).headMoved = true) :
    ∃ t, exec (.ringHeadStore h ep) s = .next t ∧ t = { s with dies := t.dies, msgs := t.msgs, nextId := t.nextId } ∧
      t.endpoint h ep = { s.endpoint h ep with headMoved := false } ∧ t.msgs.length = s.msgs.length ∧
      ∀ (i : Nat) (m : Msg), s.msgs[i]? = some m →
        ∃ n, t.msgs[i]? = some { (if m.dest = h ∧ m.ep = ep ∧ m.phase = .refused ∧
          s.taper m.cmd.tid.core.node < m.firstOffer + m.tmo then offeredAgain m else m) with arrived := n } := by
  have hexec : exec (.ringHeadStore h ep) s = .next (arriveFar { modEndpoint h ep (fun e => { e with headMoved := false }) s with
      msgs := mapIf s.msgs (fun m => decide (m.dest = h ∧ m.ep = ep) && mayRetry s m)
        fun m => m.retry (s.taper m.cmd.tid.core.node) }) := congrArg Host.Outcome.next (if_pos hmoved)
  obtain ⟨f, he, -, hf⟩ := arriveFar_eq { modEndpoint h ep (fun e => { e with headMoved := false }) s with
    msgs := mapIf s.msgs (fun m => decide (m.dest = h ∧ m.ep = ep) && mayRetry s m) fun m => m.retry (s.taper m.cmd.tid.core.node) }
  rw [hexec, he]
  refine ⟨_, rfl, rfl, endpoint_modEndpoint s h ep fun e => { e with headMoved := false }, ?_, fun i m hm => ?_⟩
  · simp only [mapIf, List.length_map]
  · have hdue : (decide (m.dest = h ∧ m.ep = ep) && mayRetry s m) = true ↔ m.dest = h ∧ m.ep = ep ∧ m.phase = .refused ∧
        s.taper m.cmd.tid.core.node < m.firstOffer + m.tmo := by
      rw [Bool.and_eq_true, mayRetry, decide_eq_true_eq, decide_eq_true_eq, and_assoc]
    simp only [mapIf, List.getElem?_map, hm, Option.map_some, hdue, Option.some.injEq]
    split
    · exact (hf _).1.retry
    · exact (hf _).1.eq

/-- The decision of messages. -/
theorem messageDecision : Claims.MessageDecision :=
  ⟨fun _ _ _ _ _ hm hid hp he => offeredDecision hm hid hp he, fun _ _ _ hm hid => refusedAgain hm hid,
    fun _ _ _ hmoved => headStore hmoved⟩

/-- Settles O41: message commands are checked and answered as they start, and a message is decided by its endpoint. -/
theorem messages : Obligations.Messages := by
  unfold Obligations.Messages
  exact ⟨messageCommands, messageDecision⟩

end

end

section
/-!
Waits and LLOCK at their issue (R139, R140, R146).
-/

open Sys2Proof Sys2Proof.Machine Sys2Proof.Claims

namespace Sys2Proof.Machine

/-! ### A thread that empties several registers -/

section
variable (t : Thread) (rs : List RegRef)

/-- The registers named are emptied, one after another. -/
def Thread.emptyAll : Thread := rs.foldl Thread.empty t

theorem Thread.emptyAll_eq : t.emptyAll rs = { t with
    g := (t.emptyAll rs).g, q := (t.emptyAll rs).q, m := (t.emptyAll rs).m, v := (t.emptyAll rs).v } := by
  induction rs generalizing t with
  | nil => rfl
  | cons r rs ih =>
    have hr := t.setFull_eq false r
    have hrs := ih (t.setFull false r)
    have e : t.emptyAll (r :: rs) = (t.setFull false r).emptyAll rs := rfl
    rw [e]
    generalize t.setFull false r = u at *
    generalize u.emptyAll rs = v at *
    rw [hrs, hr]

theorem Thread.sameBut_emptyAll : Thread.sameBut rs t (t.emptyAll rs) := by
  induction rs generalizing t with
  | nil => exact Thread.sameBut_refl t []
  | cons r rs ih =>
    intro k hk
    rw [List.mem_cons, not_or] at hk
    exact Thread.sameReg_trans (t.sameReg_setFull false hk.1) (ih (t.empty r) k hk.2)

end

/-- A register that is emptied is empty, but for G0 and Q0. -/
theorem Thread.full_empty_self {t : Thread} {r : RegRef} (hs : r.isScalar = true) (hg : r ≠ .g 0) (hq : r ≠ .q 0) :
    (t.empty r).full r = false := by
  cases r with
  | g r => exact Thread.full_setFull_g t false fun h => hg (by rw [h])
  | q r => exact Thread.full_setFull_q t false fun h => hq (by rw [h])
  | m r | v r => cases hs

theorem Thread.full_emptyAll {t : Thread} {rs : List RegRef} {r : RegRef} (hs : r.isScalar = true) (hg : r ≠ .g 0)
    (hq : r ≠ .q 0) (h : r ∈ rs ∨ t.full r = false) : (t.emptyAll rs).full r = false := by
  induction rs generalizing t with
  | nil => exact h.resolve_left List.not_mem_nil
  | cons k rs ih =>
    refine ih ?_
    by_cases hk : r = k
    · exact .inr (hk ▸ Thread.full_empty_self hs hg hq)
    · exact h.imp (fun hm => (List.mem_cons.1 hm).resolve_left hk)
        fun hf => (Thread.full_of_sameReg (t.sameReg_setFull false hk)).trans hf

theorem isScalar_of_mem_waitRegs {d : Option (BitVec 4)} {q : BitVec 4} {r : RegRef} (h : r ∈ waitRegs d q) :
    r.isScalar = true := by
  cases d with
  | none =>
    obtain rfl := List.mem_singleton.1 h
    rfl
  | some d =>
    obtain rfl | h := List.mem_cons.1 h
    · rfl
    · obtain rfl := List.mem_singleton.1 h
      rfl

/-! ### A thread that waits -/

/-- The thread behind its wait: the word has retired, the registers are empty, and the thread is held. -/
def Thread.sentWait (rs : List RegRef) (close : Bool) (t : Thread) : Thread :=
  { (Thread.retire 1 close t.enterRegion).emptyAll rs with hold := .wait }

/-- A wait that is on its way, with its thread held. -/
def State.sendWait (s : State) (w : QWait) (rs : List RegRef) (close : Bool) : State :=
  ({ s with waits := s.waits ++ [w], nextId := s.nextId + 1 } : State).modMe (Thread.sentWait rs close)

section
variable {s : State} {kind : WaitKind} {addr : W64} {q : BitVec 4} {tmo : Nat}

/-- The wait names its thread as it stood before the word. -/
theorem issueWait_eq (close : Bool) : issueWait close kind addr q tmo s =
    s.sendWait (newWait s kind addr q tmo) (kind.dests q) close := by
  have hw : newWait s.begin kind addr q tmo = newWait s kind addr q tmo := by
    rw [newWait, State.me_begin, Thread.enterRegion_eq]
    rfl
  have e : issueWait close kind addr q tmo s =
      (retire 1 close (({ s with waits := s.waits ++ [newWait s.begin kind addr q tmo], nextId := s.nextId + 1 } : State).modMe
        Thread.enterRegion)).modMe fun t => { (kind.dests q).foldl Thread.empty t with hold := .wait } := rfl
  rw [e, hw, retire, State.modMe_modMe, State.modMe_modMe]
  rfl

/-- The registers are empty, and the rest of the thread is as behind any word that retires. -/
theorem sends_sendWait (w : QWait) (rs : List RegRef) (close : Bool) : Sends rs s (s.sendWait w rs close) ∧
    (s.sendWait w rs close).me.pending = s.me.pending ∧ (s.sendWait w rs close).me.hold = .wait ∧
    ∀ r ∈ rs, r.isScalar = true → r ≠ .g 0 → r ≠ .q 0 → (s.sendWait w rs close).me.full r = false := by
  obtain ⟨⟨-, -, hregs, hrest, hpc, hbl, -⟩, -, hpend, -⟩ := sends_retire [] s close
  have hme : (retire 1 close s.begin).me = Thread.retire 1 close s.me.enterRegion := by
    rw [retire, State.me_modMe, State.me_begin]
  have hwait : (s.sendWait w rs close).me = s.me.sentWait rs close := State.me_modMe _ _
  rw [hme] at hregs hrest hpc hbl hpend
  unfold Sends
  rw [hwait, Thread.sentWait]
  refine ⟨⟨fun k hk => State.modMe_look _ hk, ⟨fun _ => rfl, rfl, rfl⟩, fun r hr => ?_, ?_, ?_, ?_, rfl⟩, ?_, rfl,
    fun r hr hs hg hq => ?_⟩
  · exact Thread.sameReg_congr rfl rfl rfl rfl
      (Thread.sameReg_trans (hregs r List.not_mem_nil) (Thread.sameBut_emptyAll _ rs r hr))
  · unfold sameIssued Thread.sameRest at hrest ⊢
    rw [Thread.emptyAll_eq, hrest]
  · rw [Thread.emptyAll_eq]
    exact hpc
  · rw [Thread.emptyAll_eq]
    exact hbl
  · rw [Thread.emptyAll_eq]
    exact hpend
  · exact (Thread.full_congr rfl rfl rfl rfl r).trans (Thread.full_emptyAll hs hg hq (.inl hr))

/-! ### The instructions -/

theorem issueWordWait_go {n : Nat} {close : Bool} {p : Phys} (ha : addr.toNat % n = 0) (hp : taggedPlace s.cur.core addr = .ok p) :
    issueWordWait n close kind addr q tmo s = issueWait close kind addr q tmo s := by
  simp only [issueWordWait, aligned_iff.2 ha, hp, not_true, if_false]

/-- A wait of `waitForm` whose operands are there, on a suitable place, is issued. -/
theorem exec_waitForm {i : Instr} {g : Guard} {rs : List RegRef} {d : Option (BitVec 4)} {n : Nat}
    (h : waitForm s.me i = some (g, rs, d, q, kind, addr, tmo, n)) (hg : s.me.passes g) (hr : s.me.readable rs)
    (hd : s.me.allFull (waitRegs d q)) (hn : n ≠ 0 → addr.toNat % n = 0 ∧ ∃ p, taggedPlace s.cur.core addr = .ok p) :
    kind.dests q = waitRegs d q ∧ ∃ close, exec i s = .next (issueWait close kind addr q tmo s) := by
  have go : ∀ {srcs : List Src} {body : State → State} {u : State}, srcs.map (·.ref) = rs → body s = u →
      gatedTrap 1 g false srcs (waitRegs d q) body s = u :=
    fun hs hb => (gatedTrap_go hg (.inl rfl) (hs ▸ hr) hd).trans hb
  have word : n ≠ 0 → ∀ {close t}, t = tmo → issueWordWait n close kind addr q t s = issueWait close kind addr q tmo s :=
    fun h0 _ _ ht =>
      have ⟨ha, _, hp⟩ := hn h0
      ht ▸ issueWordWait_go ha hp
  have htmo : ∀ b : GSrc, timeout (s.me.src b) = (s.me.rG b.r).toNat % 2 ^ 32 := fun b => by
    rw [timeout, bits, Nat.pow_zero, Nat.div_one]
    rfl
  cases i
  all_goals cases h
  case waitt | waitid | bar =>
    exact ⟨rfl, _, congrArg Host.Outcome.next (go rfl (congrArg (issueWait _ _ _ _ · s) (htmo _)))⟩
  all_goals exact ⟨rfl, _, congrArg Host.Outcome.next (go rfl (word (by decide) (htmo _)))⟩

/-- LLOCK with an aligned key sends its wait and, behind it, its key. -/
theorem exec_llock {d : BitVec 4} {a b : GSrc} {g : Guard} (hg : s.me.passes g) (hr : s.me.readable [.g a.r, .g b.r])
    (hd : s.me.allFull [.g d, .q q]) (ha : (s.me.rG a.r).toNat % 64 = 0) (hc : classify s.cur.core (s.me.rG a.r) ≠ .nothing) :
    exec (.llock d a b q g) s = .next (postAcc s.cur s.me.ctxh s.me.space s.me.pc.toNat (.lockKey s.nextId) .key (s.me.rG a.r) 64
      (s.sendWait (newWait s (.lock ((s.me.rG b.r).toNat % 2 ^ 32) d) (s.me.rG a.r) q ((s.me.rG b.r).toNat / 2 ^ 32))
        [.g d, .q q] true)) := by
  have hlife : bits (s.me.rG b.r) 0 32 = (s.me.rG b.r).toNat % 2 ^ 32 := by rw [bits, Nat.pow_zero, Nat.div_one]
  have htmo : bits (s.me.rG b.r) 32 32 = (s.me.rG b.r).toNat / 2 ^ 32 :=
    Nat.mod_eq_of_lt (Nat.div_lt_of_lt_mul (s.me.rG b.r).isLt)
  refine congrArg Host.Outcome.next
    ((gatedTrap_go (srcs := [srcG a, srcG b]) hg (.inl rfl) hr hd).trans ((if_neg ?_).trans ((if_neg hc).trans ?_)))
  · exact not_not.2 (aligned_iff.2 ha)
  · rw [← hlife, ← htmo]
    exact congrArg _ (issueWait_eq true)

end

end Sys2Proof.Machine

/-- Settles O19: a wait empties its registers behind the retirement of its word, and is one message to its deciding place. -/
theorem waitIssue : Obligations.WaitIssue := by
  refine ⟨fun i s g rs d q kind addr tmo n h hg hr hd hn => ?_, fun d a b q g s hg hr hd ha hc => ?_⟩
  · obtain ⟨hdests, close, he⟩ := exec_waitForm h hg hr hd hn
    rw [issueWait_eq, hdests] at he
    obtain ⟨hsends, hpend, hhold, hempty⟩ := sends_sendWait (s := s) (newWait s kind addr q tmo) (waitRegs d q) close
    exact ⟨_, he, hsends, hpend, hhold, rfl, fun r hr => hempty r hr (isScalar_of_mem_waitRegs hr)⟩
  · obtain ⟨hsends, hpend, hhold, hempty⟩ := sends_sendWait (s := s)
      (newWait s (.lock ((s.me.rG b.r).toNat % 2 ^ 32) d) (s.me.rG a.r) q ((s.me.rG b.r).toNat / 2 ^ 32)) [.g d, .q q] true
    exact ⟨_, exec_llock hg hr hd ha hc, hsends, hpend, hhold, rfl, rfl,
      fun r hr => hempty r hr (isScalar_of_mem_waitRegs (d := some d) hr)⟩

end

section
/-!
Waits on words at their homes (R140 to R143).
-/

open Sys2Proof Sys2Proof.Machine Sys2Proof.Claims

namespace Sys2Proof.Machine

/-! ### Table 5-3 -/

/-- What a wait sees of its word. -/
theorem QWait.holds_eq_wordSucceeds (w : QWait) (s : State) (p : Phys) :
    w.holds s p = wordSucceeds w.kind (s.peek p 4) (s.peek p 8) (s.isFull p) (s.isFull (p.plus 4)) := by
  unfold QWait.holds
  cases w.kind <;> rfl

/-- A wait that does not succeed does not succeed either with fewer words full. -/
theorem wordSucceeds_none_of_emptier {k : WaitKind} {x y : Nat} {f f2 g g2 : Bool} (hf : g = true → f = true)
    (hf2 : g2 = true → f2 = true) (h : wordSucceeds k x y f f2 = none) : wordSucceeds k x y g g2 = none := by
  cases k with
  | full | matches_ | ring | ldsw | ldsd | ldcw | ldcd =>
    simp only [wordSucceeds, ite_eq_right_iff, reduceCtorEq, imp_false, not_and] at h ⊢
    tauto
  | taper | jobs | bar | lock => rfl

section
variable {s t : State} {w : QWait} {p q : Phys}

/-- A word is what its key names. -/
theorem QWait.holds_of_key (h : q.key = p.key) : w.holds s q = w.holds s p := by
  have hpeek : ∀ n, s.peek q n = s.peek p n := fun n => by rw [State.peek, State.peek, State.bytes, State.bytes, h]
  have hplus : (q.plus 4).key = (p.plus 4).key := by rw [Phys.key_plus, Phys.key_plus, h]
  simp only [QWait.holds_eq_wordSucceeds, hpeek, State.isFull, h, hplus]

/-- Of the memory it sees the bytes, and that no word was filled. -/
theorem QWait.holds_none_of_emptier (hm : ∀ k, t.byteAt k = s.byteAt k) (hf : ∀ q, t.isFull q = true → s.isFull q = true)
    (h : w.holds s p = none) : w.holds t p = none := by
  have hpeek : ∀ n, t.peek p n = s.peek p n := fun n => congrArg leNat (readBytes_congr fun j _ _ => hm j)
  rw [QWait.holds_eq_wordSucceeds] at h ⊢
  rw [hpeek, hpeek]
  exact wordSucceeds_none_of_emptier (hf p) (hf _) h

/-! ### What a successful wait takes -/

theorem QWait.consume_eq (w : QWait) (p : Phys) (s : State) :
    w.consume p s = { s with empties := (w.consume p s).empties } := by
  unfold QWait.consume
  cases w.kind <;> rfl

/-- It fills no word. -/
theorem QWait.isFull_of_consume (h : (w.consume p s).isFull q = true) : s.isFull q = true := by
  unfold QWait.consume at h
  split at h
  · rw [State.isFull_setTag] at h
    split at h
    · cases h
    · exact h
  · rw [State.isFull_setTag, State.isFull_setTag] at h
    split at h
    · cases h
    · split at h
      · cases h
      · exact h
  · exact h

theorem QWait.consume_first (h : 1 ≤ wordsTaken w.kind) : (w.consume p s).isFull p = false := by
  unfold QWait.consume
  cases hk : w.kind <;> simp [hk, wordsTaken, State.isFull_setTag] at h ⊢

theorem QWait.consume_second (h : wordsTaken w.kind = 2) : (w.consume p s).isFull (p.plus 4) = false := by
  unfold QWait.consume
  cases hk : w.kind <;> simp [hk, wordsTaken, State.isFull_setTag] at h ⊢

theorem QWait.consume_nothing (h : wordsTaken w.kind = 0) : (w.consume p s).empties = s.empties := by
  unfold QWait.consume
  cases hk : w.kind <;> simp [hk, wordsTaken] at h ⊢

/-! ### Queues in which no condition holds -/

/-- No queued wait's condition holds. -/
def State.unmet (s : State) : Prop := ∀ v ∈ s.waits, v.isQueued = true → ∀ y, v.place = some y → v.holds s y = none

theorem mem_wordQueue {v : QWait} {b : Bool} (h : v ∈ wordQueue s p b) :
    v ∈ s.waits ∧ v.isQueued = true ∧ ∃ y, v.place = some y ∧ y.key = p.key := by
  obtain ⟨hmem, hv⟩ := List.mem_filter.1 h
  simp only [Bool.and_eq_true] at hv
  obtain ⟨⟨⟨hq, -⟩, -⟩, hp⟩ := hv
  refine ⟨hmem, hq, ?_⟩
  split at hp
  next y hy => exact ⟨y, hy, of_decide_eq_true hp⟩
  next => cases hp

/-- A pass goes by those whose condition does not hold. -/
theorem servePass_append {ws vs : List QWait} (h : ∀ v ∈ ws, v.holds s p = none) :
    servePass p (ws ++ vs) s = servePass p vs s := by
  induction ws with
  | nil => rfl
  | cons v ws ih =>
    rw [List.cons_append, servePass, h v List.mem_cons_self]
    exact ih fun u hu => h u (List.mem_cons_of_mem _ hu)

theorem servePass_unmet (h : s.unmet) (b : Bool) : servePass p (wordQueue s p b) s = s := by
  have hnone : ∀ v ∈ wordQueue s p b, v.holds s p = none := fun v hv => by
    obtain ⟨hmem, hq, y, hy, hkey⟩ := mem_wordQueue hv
    exact (QWait.holds_of_key hkey.symm).trans (h v hmem hq y hy)
  have e := servePass_append (vs := []) hnone
  rwa [List.append_nil] at e

theorem serveWord_unmet (h : s.unmet) : serveWord p s = s := by
  rw [serveWord_eq, servePass_unmet h, servePass_unmet h, ite_self]

/-- What the first pass leaves, if no condition holds in it any more, is what the word's service leaves. -/
theorem serveWord_of_pass (h : servePass p (wordQueue s p false) s = t) (ht : t.unmet) : serveWord p s = t := by
  rw [serveWord_eq, h, servePass_unmet ht, ite_self]

/-! ### A wait that joins its word's queue -/

/-- The wait as it stands in its queue. -/
def QWait.queuedAt (w : QWait) (n : Nat) : QWait := { w with stage := .queued n }

section
variable {n : Nat} (hword : Claims.onWord w.kind = true) (hp : w.place = some p)

theorem queueWait_waits (w : QWait) (n : Nat) (s : State) :
    (queueWait w n s).waits = s.waits.filter (fun v => v.seq ≠ w.seq) ++ [w.queuedAt n] := rfl

/-- Without it the queue is as before. -/
theorem filter_queueWait (w : QWait) (n : Nat) (s : State) :
    (queueWait w n s).waits.filter (fun v => v.seq ≠ w.seq) = s.waits.filter (fun v => v.seq ≠ w.seq) := by
  simp [queueWait_waits, QWait.queuedAt, List.filter_append, List.filter_filter]

include hword hp

/-- It stands behind all others. -/
theorem wordQueue_queueWait : wordQueue (queueWait w n s) p false =
    wordQueue { s with waits := s.waits.filter (fun v => v.seq ≠ w.seq) } p false ++ [w.queuedAt n] := by
  have hw : (w.queuedAt n).onWord = true := by
    rw [← hword]
    unfold QWait.onWord Claims.onWord QWait.queuedAt
    cases w.kind <;> rfl
  have hp' : (w.queuedAt n).place = some p := hp
  rw [wordQueue, queueWait_waits, List.filter_append]
  congr 1
  have hq : (w.queuedAt n).isQueued = true := rfl
  simp [hq, hw, hp']

/-- Where no older wait takes the word first, the wait that arrives is the first to be looked at. -/
theorem servePass_queueWait (h : s.unmet) : servePass p (wordQueue (queueWait w n s) p false) (queueWait w n s) =
    servePass p [w.queuedAt n] (queueWait w n s) := by
  rw [wordQueue_queueWait hword hp]
  refine servePass_append fun v hv => ?_
  obtain ⟨hmem, hq, y, hy, hkey⟩ := mem_wordQueue hv
  exact (QWait.holds_of_key hkey.symm).trans (h v (List.mem_of_mem_filter hmem) hq y hy)

omit hword in
theorem unmet_queueWait (h : s.unmet) (hw : w.holds s p = none) : (queueWait w n s).unmet := by
  intro v hv hq y hy
  rw [queueWait_waits, List.mem_append, List.mem_singleton] at hv
  obtain hv | rfl := hv
  · exact h v (List.mem_of_mem_filter hv) hq y hy
  · cases hp.symm.trans hy
    exact hw

end

/-- The wait's success. -/
def State.tookWord (s : State) (w : QWait) (p : Phys) (n : Nat) (x : W64) : State :=
  endWait w true (some x) (w.consume p (queueWait w n s))

section
variable {n : Nat} {x : W64}

theorem tookWord_waits : (s.tookWord w p n x).waits = s.waits.filter (fun v => v.seq ≠ w.seq) := by
  rw [State.tookWord, endWait_waits, QWait.consume_eq]
  exact filter_queueWait w n s

theorem tookWord_memory : (∀ k, (s.tookWord w p n x).byteAt k = s.byteAt k) ∧
    (s.tookWord w p n x).poisoned = s.poisoned ∧ (s.tookWord w p n x).empties = (w.consume p s).empties := by
  have hempties : (w.consume p (queueWait w n s)).empties = (w.consume p s).empties := by
    unfold QWait.consume
    cases w.kind <;> rfl
  obtain ⟨hbytes, he, hpoison⟩ := sameMemory_endWait (w := w) (ok := true) (x := some x) (s := w.consume p (queueWait w n s))
  refine ⟨fun k => (hbytes k).trans ?_, hpoison.trans ?_, he.trans hempties⟩
  all_goals
    rw [QWait.consume_eq]
    rfl

theorem unmet_tookWord (h : s.unmet) : (s.tookWord w p n x).unmet := by
  obtain ⟨hbytes, -, he⟩ := tookWord_memory (s := s) (w := w) (p := p) (n := n) (x := x)
  intro v hv hq y hy
  rw [tookWord_waits] at hv
  exact QWait.holds_none_of_emptier hbytes
    (fun q hf => QWait.isFull_of_consume (w := w) (p := p) ((isFull_of_empties he q).symm.trans hf))
    (h v (List.mem_of_mem_filter hv) hq y hy)

/-- A wait whose condition holds at its arrival takes its word. -/
theorem serveWord_tookWord (hword : Claims.onWord w.kind = true) (hp : w.place = some p) (h : s.unmet)
    (hx : w.holds s p = some x) : serveWord p (queueWait w n s) = s.tookWord w p n x := by
  refine serveWord_of_pass ?_ (unmet_tookWord h)
  have hx' : (w.queuedAt n).holds (queueWait w n s) p = some x := hx
  rw [servePass_queueWait hword hp h, servePass_cons hx', servePass_nil, ite_self]
  rfl

end

/-! ### The acceptance -/

section
variable {tid : Tid} {i : Nat} {x : W64} {ok : Bool} {y : Option W64} {u : State}

/-- A word wait that its home does not refuse. -/
theorem exec_waitAccept_word (hw : SentWait s tid w) (hword : Claims.onWord w.kind = true) (hp : w.place = some p)
    (hm : wordMayAccept s w p = true)
    (hr : homeRefusal s tid w.ctx p w.addr (if w.double then 8 else 4) (.load false) = none) :
    exec (.waitAccept tid i) s = .next
      (if w.t = 0 ∧ (serveWord p (queueWait w (s.taper p.node) s)).waits.any (fun v => decide (v.seq = w.seq)) then
        timeOut w (serveWord p (queueWait w (s.taper p.node) s))
      else serveWord p (queueWait w (s.taper p.node) s)) := by
  obtain ⟨hfind, htid, -⟩ := hw
  have haccept : exec (.waitAccept tid i) s = .next (acceptWord w p s) := by
    refine congrArg Host.Outcome.next ?_
    cases hk : w.kind with
    | taper | jobs | bar | lock =>
      rw [hk] at hword
      cases hword
    | full | matches_ | ring | ldsw | ldsd | ldcw | ldcd => simp only [hfind, hk, hp, hm, if_true]
  rw [haccept, acceptWord, htid, hr]

/-- The end of a wait speaks of threads, waits and bytes. -/
theorem waitEnds_congr (h : WaitEnds w ok y u t) (ht : u.threads = s.threads)
    (hw : u.waits.filter (fun v => v.seq ≠ w.seq) = s.waits.filter (fun v => v.seq ≠ w.seq))
    (hb : ∀ k, u.byteAt k = s.byteAt k) : WaitEnds w ok y s t := by
  obtain ⟨hwaits, hhold, hq, hg, hlook, hbytes⟩ := h
  have hth : u.th w.tid = s.th w.tid := by rw [State.th, ht]; rfl
  rw [hw] at hwaits
  rw [hth] at hg
  rw [ht] at hlook
  exact ⟨hwaits, hhold, hq, hg, hlook, fun k => (hbytes k).trans (hb k)⟩

theorem waitEnds_tookWord (n : Nat) (hnd : NotDeferred s w.tid w.q) :
    WaitEnds w true (some x) s (s.tookWord w p n x) := by
  have hth : (w.consume p (queueWait w n s)).threads = s.threads := by rw [QWait.consume_eq]; rfl
  have hw : (w.consume p (queueWait w n s)).waits = (queueWait w n s).waits := by rw [QWait.consume_eq]
  have hb : ∀ k, (w.consume p (queueWait w n s)).byteAt k = s.byteAt k := fun k => by rw [QWait.consume_eq]; rfl
  refine waitEnds_congr (waitEnds_endWait true (some x) ?_) hth ?_ hb
  · rw [NotDeferred, State.th, hth]
    exact hnd
  · rw [hw, filter_queueWait]

/-- A timeout where the way to the thread is open. -/
theorem timeOut_open (h : wayOpen s w.node w.tid.core.node = true) : timeOut w s = endWait w false (lateValue w.kind) s := by
  rw [timeOut, answerWait_open h, QWait.late_eq]

theorem QWait.node_of_onWord (h : Claims.onWord w.kind = true) : w.node = w.tid.core.node := by
  unfold QWait.node
  generalize w.kind = k at h ⊢
  cases k with
  | bar | lock => cases h
  | full | matches_ | ring | ldsw | ldsd | ldcw | ldcd | taper | jobs => rfl

/-- The word wait that arrives takes its word, ends at once, or stands in its queue. -/
theorem exec_waitAccept_unmet (hw : SentWait s tid w) (hword : Claims.onWord w.kind = true) (hp : w.place = some p)
    (hm : wordMayAccept s w p = true)
    (hr : homeRefusal s tid w.ctx p w.addr (if w.double then 8 else 4) (.load false) = none) (h : s.unmet) :
    exec (.waitAccept tid i) s = .next (match w.holds s p with
      | some x => s.tookWord w p (s.taper p.node) x
      | none => if w.t = 0 then endWait w false (lateValue w.kind) (queueWait w (s.taper p.node) s)
        else queueWait w (s.taper p.node) s) := by
  rw [exec_waitAccept_word hw hword hp hm hr]
  cases hx : w.holds s p with
  | some x =>
    have hgone : (s.tookWord w p (s.taper p.node) x).waits.any (fun v => decide (v.seq = w.seq)) = false := by
      rw [tookWord_waits]
      simp
    rw [serveWord_tookWord hword hp h hx, hgone, if_neg fun h => Bool.false_ne_true h.2]
  | none =>
    have hthere : (queueWait w (s.taper p.node) s).waits.any (fun v => decide (v.seq = w.seq)) = true := by
      rw [queueWait_waits]
      simp [QWait.queuedAt]
    have hway : wayOpen (queueWait w (s.taper p.node) s) w.node w.tid.core.node = true :=
      QWait.node_of_onWord hword ▸ wayOpen_self _ _
    rw [serveWord_unmet (unmet_queueWait hp h hx), hthere, timeOut_open hway]
    simp only [and_true]

end

end

/-! ### Two waits that one arrival serves (R143) -/

section
variable {t : Thread} {k : BitVec 4}

/-- Filling a predicate with true leaves one true that is so already. -/
theorem Thread.fillQ_keeps (h : t.spares k) (j : BitVec 4) :
    (t.fillQ j true).spares k ∧ (t.rQ k = true → (t.fillQ j true).rQ k = true) := by
  have hw : (t.wQ j true).spares k := by
    rw [Thread.wQ_eq]
    exact h
  obtain ⟨hs, -, hval⟩ := Thread.filled_spares hw (.q j)
  refine ⟨hs, fun hq => hval.trans ?_⟩
  rw [Thread.rQ_wQ, hq, ite_self]

theorem Thread.fillG_keeps (h : t.spares k) (d : BitVec 4) (x : W64) : (t.fillG d x).rQ k = t.rQ k := by
  have hw : (t.wG d x).spares k := by
    rw [Thread.wG_eq]
    exact h
  have hwq : (t.wG d x).rQ k = t.rQ k := by rw [Thread.wG_eq]; rfl
  exact (Thread.filled_spares hw (.g d)).2.2.trans hwq

/-- So does a wait that succeeds. -/
theorem Thread.served_keeps (h : t.spares k) (d q : BitVec 4) (x : W64) (hq : t.rQ k = true) :
    (t.served d q x).rQ k = true := by
  have h' : ({ t with hold := .none } : Thread).spares k := h
  exact (Thread.fillQ_keeps (Thread.fillG_spares h' d x) q).2 ((Thread.fillG_keeps h' d x).trans hq)

/-- The thread of a wait that succeeds and writes no Gd. -/
def Thread.passed (q : BitVec 4) (t : Thread) : Thread := ({ t with hold := .none } : Thread).fillQ q true

theorem Thread.passed_registers (h : t.spares k) : (t.passed k).hold = .none ∧ (t.passed k).rQ k = true := by
  refine ⟨?_, (Thread.fillQ_spares (t := { t with hold := .none }) h).2⟩
  rw [Thread.passed, Thread.fillQ_eq]

theorem Thread.passed_spares (h : t.spares k) (q : BitVec 4) : (t.passed q).spares k :=
  (Thread.fillQ_keeps (t := { t with hold := .none }) h q).1

end

section
variable {s : State} {x y : Tid} {v w : QWait} {ok : Bool} {g : Option W64} {d q : BitVec 4} {p : Phys} {n : Nat}

/-- Threads that share their entry share their deferred predicates. -/
theorem spares_of_key (h : tidKey x = tidKey y) (hs : (s.th x).spares q) : (s.th y).spares q := by
  cases hl : s.threads.look (tidKey x) with
  | some u => rwa [State.th_of_look (h ▸ hl), ← State.th_of_look hl]
  | none =>
    have hreset : (Thread.resetAt y).deferredQ = [] := by
      unfold Thread.resetAt
      split <;> rfl
    have hy : s.th y = Thread.resetAt y := congrArg (·.getD (Thread.resetAt y)) (h ▸ hl)
    intro e he
    rw [hy, hreset] at he
    cases he

/-- The end of a wait changes the entry of its thread alone. -/
theorem th_endWait_eq : (endWait w ok g s).th y =
    if tidKey y = tidKey w.tid then Thread.ended w ok g (s.th w.tid) else s.th y := by
  split
  next h =>
    refine State.th_of_look ?_
    rw [endWait_eq, fillTh_eq, h]
    exact State.look_modTh_self
  next h =>
    rw [State.th, State.th, Map.get, Map.get, look_endWait h]

theorem Thread.ended_passed (h : w.gd = none) (t : Thread) : Thread.ended w true g t = t.passed w.q := by
  rw [Thread.ended, h]
  rfl

theorem Thread.ended_served {z : W64} (h : w.gd = some d) (t : Thread) : Thread.ended w true (some z) t = t.served d w.q z := by
  rw [Thread.ended, h]
  rfl

/-- A wait without Gd succeeds, and behind it one that takes a value. -/
theorem th_endWait_endWait {z : W64} (hv : v.gd = none) (hw : w.gd = some d) (hvd : NotDeferred s v.tid v.q)
    (hwd : NotDeferred s w.tid w.q) {u t : State} (hu : u.threads = (endWait v true g s).threads)
    (ht : t = endWait w true (some z) u) :
    (t.th v.tid).hold = .none ∧ (t.th v.tid).rQ v.q = true ∧ (t.th w.tid).hold = .none ∧ (t.th w.tid).rQ w.q = true ∧
      (t.th w.tid).rG d = (if d = 0 then 0 else z) := by
  have huth : ∀ y, u.th y = if tidKey y = tidKey v.tid then (s.th v.tid).passed v.q else s.th y := fun y => by
    rw [State.th, hu, ← State.th, th_endWait_eq, Thread.ended_passed hv]
  have htth : ∀ y, t.th y = if tidKey y = tidKey w.tid then (u.th w.tid).served d w.q z else u.th y := fun y => by
    rw [ht, th_endWait_eq, Thread.ended_served hw]
  have hspares : (u.th w.tid).spares w.q := by
    rw [huth]
    split
    next h => exact Thread.passed_spares (spares_of_key h hwd) _
    next => exact hwd
  obtain ⟨hhold, -, hval, -, hq⟩ := Thread.served_registers hspares d z
  obtain ⟨hhold', hq'⟩ := Thread.passed_registers (t := s.th v.tid) hvd
  have hthw : t.th w.tid = (u.th w.tid).served d w.q z := (htth _).trans (if_pos rfl)
  have hthv : (t.th v.tid).hold = .none ∧ (t.th v.tid).rQ v.q = true := by
    rw [htth]
    split
    next h =>
      refine ⟨hhold, ?_⟩
      rw [huth, if_pos h.symm]
      exact Thread.served_keeps (Thread.passed_spares hvd _) _ _ _ hq'
    next =>
      rw [huth, if_pos rfl]
      exact ⟨hhold', hq'⟩
  rw [hthw]
  exact ⟨hthv.1, hthv.2, hhold, hq, hval⟩

/-- Both are gone from the queue. -/
theorem waits_of_served {m : W32} (hs : s.waits = [v, w]) (hseq : v.seq ≠ w.seq) :
    (endWait w true (some (m.setWidth 64)) ((endWait v true (some 0) (queueWait w n s)).setTag p false)).waits = [] := by
  rw [endWait_waits, State.setTag_waits, endWait_waits, queueWait_waits, hs]
  simp [hseq, QWait.queuedAt]

/-- A WAITM that its word has come to match, with an LDCW behind it. -/
theorem serveWord_matches_ldcw {m : W32} (hs : s.waits = [v, w]) (hk : v.kind = .matches_ m) (hq : v.isQueued = true)
    (hvp : v.place = some p) (hseq : v.seq ≠ w.seq) (hwk : w.kind = .ldcw d) (hp : w.place = some p) (hf : s.isFull p = true)
    (hpeek : s.peek p 4 = m.toNat) : serveWord p (queueWait w n s) =
      endWait w true (some (m.setWidth 64)) ((endWait v true (some 0) (queueWait w n s)).setTag p false) := by
  have hword : BitVec.ofNat 64 (s.peek p 4) = m.setWidth 64 := by rw [hpeek, BitVec.ofNat_toNat]
  have hqueue : wordQueue (queueWait w n s) p false = [v, w.queuedAt n] := by
    rw [wordQueue_queueWait (by rw [hwk]; rfl) hp]
    simp [wordQueue, hs, hseq, hq, QWait.onWord, hk, hvp]
  have hv : v.holds (queueWait w n s) p = some 0 := by
    have h : v.holds s p = some 0 := by simp [QWait.holds, hk, hf, hword]
    exact h
  have hmem := sameMemory_endWait (w := v) (ok := true) (x := some 0) (s := queueWait w n s)
  have hw : (w.queuedAt n).holds (endWait v true (some 0) (queueWait w n s)) p = some (m.setWidth 64) := by
    have hpeek' : (endWait v true (some 0) (queueWait w n s)).peek p 4 = s.peek p 4 := peek_of_sameMemory hmem p 4
    have hfull' : (endWait v true (some 0) (queueWait w n s)).isFull p = true := (isFull_of_empties hmem.2.1 p).trans hf
    simp only [QWait.holds, QWait.queuedAt, hwk, hfull', hpeek', hword, if_true]
  have hv' : v.consume p (queueWait w n s) = queueWait w n s := by simp only [QWait.consume, hk]
  have hw' : ∀ u : State, (w.queuedAt n).consume p u = u.setTag p false := fun u => by
    simp only [QWait.consume, QWait.queuedAt, hwk]
  have hvc : v.consumes = false := by simp only [QWait.consumes, hk]
  refine serveWord_of_pass ?_ fun y hy => ?_
  · rw [hqueue, servePass_cons hv, hv', servePass_cons hw, hw', servePass_nil, ite_self, hvc, if_neg Bool.false_ne_true]
    rfl
  · rw [waits_of_served hs hseq] at hy
    exact absurd hy List.not_mem_nil

end

end Sys2Proof.Machine

end

section
/-!
Waits for the taper, for jobs and at barriers, as they are accepted (R144, R145), and all of the acceptance of waits.
-/

open Sys2Proof Sys2Proof.Machine Sys2Proof.Claims

namespace Sys2Proof.Machine

section
variable {s : State} {tid : Tid} {w : QWait} {i now n j : Nat} {a x : W64} {ok : Bool} {home : DieId} {l : Lease} {ts : List Tid}
  {team : Bool}

/-! ### A condition that does not hold yet (R140) -/

theorem notYet_zero (ht : w.t = 0) (hway : wayOpen s w.node w.tid.core.node = true) :
    notYet w now s = endWait w false (lateValue w.kind) s := (if_pos ht).trans (timeOut_open hway)

theorem notYet_queues (ht : w.t ≠ 0) : notYet w now s = queueWait w now s := if_neg ht

/-- A wait that writes no Gd needs no value. -/
theorem endWait_of_no_gd (hgd : w.gd = none) (y z : Option W64) : endWait w ok y s = endWait w ok z s := by
  rw [endWait, endWait, hgd]

/-! ### The taper and jobs (R144) -/

/-- What WAITT and WAITID compare with their value: the taper, or the thread's CDONE. -/
def WaitsFor (s : State) (tid : Tid) (w : QWait) (a : W64) (count : Nat) : Prop :=
  (w.kind = .taper a ∧ count = s.taper tid.core.node) ∨ (w.kind = .jobs a ∧ count = (s.th tid).cdone)

section
variable {count : Nat} (h : WaitsFor s tid w a count)
include h

theorem WaitsFor.own : w.gd = none ∧ lateValue w.kind = some 0 ∧ w.node = w.tid.core.node := by
  obtain ⟨hk, -⟩ | ⟨hk, -⟩ := h <;> simp only [QWait.gd, QWait.node, lateValue, hk, and_self]

theorem exec_waitAccept_count (hw : SentWait s tid w) : exec (.waitAccept tid i) s = .next
    (if a.toNat ≤ count then endWait w true none s else notYet w (s.taper tid.core.node) s) := by
  obtain ⟨hfind, -, -⟩ := hw
  refine congrArg Host.Outcome.next ?_
  obtain ⟨hk, rfl⟩ | ⟨hk, rfl⟩ := h <;> simp only [hfind, hk]

end

/-! ### Barriers (R145) -/

/-- A barrier's arrival at its group. -/
theorem exec_waitAccept_bar (hw : SentWait s tid w) (hk : w.kind = .bar x) (hx : x ≠ 0) (hpath : pathRefusal s tid w.ctx x = none)
    (hheld : handleHeld s tid.core.node x = false) (hlive : present s x = .live home j l) (hbody : l.body = .group n ts team) :
    exec (.waitAccept tid i) s = .next (if (barQueue s x).length + 1 = n then completePhase (barQueue s x ++ [w]) (groupScope ts) s
      else notYet w (s.taper home.node) s) := by
  obtain ⟨hfind, rfl, -⟩ := hw
  refine congrArg Host.Outcome.next ?_
  simp only [hfind, hk, acceptBar, hpath, hheld, hx, hlive, hbody, if_false, Bool.false_eq_true, List.length_append,
    List.length_singleton]

/-- A barrier's wait is decided in the group's package. -/
theorem QWait.node_of_bar (hk : w.kind = .bar x) : w.node = (hHome x).node := by simp only [QWait.node, hk]

/-- The phase is won by all who wait in it, and by its last arrival. -/
theorem completePhase_waits (ws : List QWait) (sc : Scope) : (completePhase (ws ++ [w]) sc s).waits = s.waits.map fun v =>
    if v.seq = w.seq ∨ ∃ u ∈ ws, u.seq = v.seq then
      { v with stage := .won ((ws ++ [w]).map fun u => (u.tid, u.seq)) sc }
    else v := by
  refine List.map_congr_left fun v _ => if_congr ?_ rfl rfl
  simp only [List.any_append, List.any_cons, List.any_nil, Bool.or_false, Bool.or_eq_true, List.any_eq_true, decide_eq_true_eq]
  exact or_comm.trans (or_congr_left eq_comm)

end

end Sys2Proof.Machine

/-- R140 to R143: waits on words. -/
theorem wordWaitAcceptance : Claims.WordWaitAcceptance := by
  intro tid i w p s hw hword hp hm hr
  refine ⟨fun v d m hs hk hq hvp hseq htid hnd hwk hf hpeek => ?_, fun hunmet => ?_⟩
  · have hserve := serveWord_matches_ldcw (n := s.taper p.node) hs hk hq hvp hseq hwk hp hf hpeek
    have he := exec_waitAccept_word (i := i) hw hword hp hm hr
    obtain ⟨-, rfl, hwd⟩ := hw
    have hnone := waits_of_served (p := p) (n := s.taper p.node) (m := m) hs hseq
    rw [hserve, hnone, List.any_nil, if_neg fun h => Bool.false_ne_true h.2] at he
    have hthreads := th_endWait_endWait (s := queueWait w (s.taper p.node) s) (v := v) (w := w) (d := d) (g := some 0)
      (z := m.setWidth 64) (by simp only [QWait.gd, hk]) (by simp only [QWait.gd, hwk]) hnd hwd
      (u := (endWait v true (some 0) (queueWait w (s.taper p.node) s)).setTag p false) rfl rfl
    refine ⟨_, he, hnone, ?_, hthreads⟩
    obtain ⟨-, hempties, -⟩ := sameMemory_endWait (w := w) (ok := true) (x := some (m.setWidth 64))
      (s := (endWait v true (some 0) (queueWait w (s.taper p.node) s)).setTag p false)
    exact (isFull_of_empties hempties p).trans ((State.isFull_setTag _ _ _ _).trans (if_pos rfl))
  · have hunmet' : s.unmet := fun v hv hq y hy => (QWait.holds_eq_wordSucceeds v s y).trans (hunmet v hv hq y hy)
    have he := exec_waitAccept_unmet (i := i) hw hword hp hm hr hunmet'
    obtain ⟨-, rfl, hnd⟩ := hw
    refine ⟨fun x hx => ?_, fun hx ht => ?_, fun hx ht => ?_⟩
    all_goals rw [← QWait.holds_eq_wordSucceeds] at hx
    · simp only [hx] at he
      obtain ⟨-, hpoison, hempties⟩ := tookWord_memory (s := s) (w := w) (p := p) (n := s.taper p.node) (x := x)
      exact ⟨_, he, waitEnds_tookWord _ hnd, hpoison,
        fun h => (isFull_of_empties (s := w.consume p s) hempties p).trans (QWait.consume_first h),
        fun h => (isFull_of_empties (s := w.consume p s) hempties _).trans (QWait.consume_second h),
        fun h => hempties.trans (QWait.consume_nothing h)⟩
    · simp only [hx, ht, if_true] at he
      exact ⟨_, he, waitEnds_congr (waitEnds_endWait (s := queueWait w (s.taper p.node) s) false _ hnd) rfl (filter_queueWait _ _ _)
        fun _ => rfl, sameMemory_endWait (s := queueWait w (s.taper p.node) s)⟩
    · simp only [hx, ht, if_false] at he
      exact ⟨_, he, rfl, rfl⟩

/-- R144 and R145: the other waits. -/
theorem otherWaitAcceptance : Claims.OtherWaitAcceptance := by
  intro tid i w s hw
  refine ⟨fun a ok hk hends => ?_, fun a hk ht => ?_, fun x h j l n ts team hk hx hpath hway hheld hlive hbody => ?_⟩
  · obtain ⟨count, hcount, rfl⟩ : ∃ count, WaitsFor s tid w a count ∧ ok = decide (a.toNat ≤ count) :=
      hk.elim (fun h => ⟨_, .inl ⟨h.1, rfl⟩, h.2⟩) fun h => ⟨_, .inr ⟨h.1, rfl⟩, h.2⟩
    have he := exec_waitAccept_count (i := i) hcount hw
    obtain ⟨hgd, hlate, hnode⟩ := hcount.own
    obtain ⟨-, rfl, hnd⟩ := hw
    refine ⟨endWait w (decide (a.toNat ≤ count)) (some 0) s, he.trans (congrArg _ ?_), waitEnds_endWait _ _ hnd,
      sameMemory_endWait⟩
    by_cases hle : a.toNat ≤ count
    · rw [if_pos hle, decide_eq_true hle]
      exact endWait_of_no_gd hgd _ _
    · rw [decide_eq_false hle, Bool.false_eq_true, false_or] at hends
      rw [if_neg hle, decide_eq_false hle, notYet_zero hends (hnode ▸ wayOpen_self _ _), hlate]
  · obtain ⟨count, hcount, hlt⟩ : ∃ count, WaitsFor s tid w a count ∧ count < a.toNat :=
      hk.elim (fun h => ⟨_, .inl ⟨h.1, rfl⟩, h.2⟩) fun h => ⟨_, .inr ⟨h.1, rfl⟩, h.2⟩
    have he := exec_waitAccept_count (i := i) hcount hw
    rw [if_neg (Nat.not_le.2 hlt), notYet_queues ht] at he
    exact ⟨_, he, rfl, rfl⟩
  · have he := exec_waitAccept_bar (i := i) hw hk hx hpath hheld hlive hbody
    obtain ⟨-, rfl, hnd⟩ := hw
    refine ⟨fun hn => ?_, fun hn ht => ?_, fun hn ht => ?_⟩
    · rw [if_pos hn] at he
      exact ⟨_, he, rfl, completePhase_waits _ _⟩
    · have hlate : lateValue w.kind = some 0 := by rw [hk]; rfl
      rw [if_neg hn, notYet_zero ht (QWait.node_of_bar hk ▸ hway), hlate] at he
      exact ⟨_, he, waitEnds_endWait _ _ hnd, sameMemory_endWait⟩
    · rw [if_neg hn, notYet_queues ht] at he
      exact ⟨_, he, rfl, rfl⟩

/-- Settles O20: a wait that arrives takes what its deciding place holds, ends at once, or joins its queue. -/
theorem waitAcceptance : Obligations.WaitAcceptance := ⟨wordWaitAcceptance, otherWaitAcceptance⟩

end

section
/-!
FORK with a full deque (R150, R151): a record that moves to its team's spill area fills the words it is stored in.
-/

open Sys2Proof Sys2Proof.Machine Sys2Proof.Claims

namespace Sys2Proof.Machine

/-- The thread that forks, and one that waits for a word of the spill area. -/
def forker : Tid := ⟨State.reset.cur.core, 1⟩
def spillWaiter : Tid := ⟨State.reset.cur.core, 2⟩

/-- A record of team 3. -/
def olderFork : ForkRec := ⟨64, 0, 3, 0xF000000000020000, [0, 0, 0, 0, 0, 0], forker, 1, none⟩

/-- Team 3, whose spill area on core 0 begins at 0x30000. -/
def spillTeam : Team :=
  ⟨.running, 0, 0, 2, 0, 0, 0, 0, 0, [forker, spillWaiter], forker.core, [(0, 0xF000000000030000)], false, none, false⟩

/-- A WAITF for the first word of the spill area, which is empty. -/
def spillWait : QWait := ⟨1, spillWaiter, 0, 8, .full, 0xF000000000030000, 2, 9, .queued 0, none, none⟩

/-- A core with 16 fork records in its deque. Slot 1 forks for the block at 64, with its join record at 0x20000. -/
def spilling : State :=
  { ((((State.reset.poke (scratchAt forker.core 64) (leBytes 0x8000000000000001 8)).modTh spillWaiter
          fun t => { t with life := .running, hold := .wait }).modTh forker
        fun t => t.wG 2 0xF000000000020000).modCore forker.core
      fun c => { c with xb := 0x10000, forks := List.replicate 16 olderFork }).modCluster (clusterOf forker.core)
    fun k => { k with teams := [(3, spillTeam)] } with
    cur := forker
    nextId := 2
    empties := [(scratchAt forker.core 0x30000).key]
    sysMem := [⟨(scratchAt forker.core 0x20000).key, 0x20000⟩]
    waits := [spillWait] }

/-- FORK of the record at G2, for the block at 64. -/
def spillingFork : Instr := .fork ⟨false, 2⟩ 8 ⟨false, 0⟩

/-- FORK passes its checks, and there is room for its record. -/
theorem spilling_passes : spilling.me.passes ⟨false, 0⟩ ∧ spilling.me.readable [.g 2] ∧
    forkChecks ⟨false, 2⟩ 8 spilling = .ok ((64, scratchAt forker.core 0x20000), 0x8000000000000001) ∧
    spilling.me.readable ((liveRegs (hdrLive 0x8000000000000001)).map .g) ∧
    updateFree spilling spilling.cur (scratchAt forker.core 0x20000) = true ∧
    forkRoom (spilling.core spilling.cur.core) = true ∧
    homeRefusal spilling spilling.cur spilling.me.ctxh (scratchAt forker.core 0x20000) (spilling.me.rG 2) 4 .join = none ∧
    spilling.peek (scratchAt forker.core 0x20000) 4 < 2 ^ 32 - 1 := by decide +kernel

/-- The wait ends with the store of the record that spills, and its thread goes on. -/
theorem spilling_serves : ∃ t, exec spillingFork spilling = .next t ∧
    (t.threads.look (tidKey spillWaiter)).map (·.hold) = some .none := ⟨_, rfl, by decide +kernel⟩

/-- Before, it was held. -/
theorem spilling_held : (spilling.threads.look (tidKey spillWaiter)).map (·.hold) = some .wait := by decide +kernel

end Sys2Proof.Machine

/-- Refutes O26: FORK with 16 records in the deque stores the oldest of them in its team's spill area, whose words are full then; a
wait queued on one of them succeeds, and so FORK changes the thread of that wait and not its own alone. -/
theorem not_forksAndJoins : ¬ Obligations.ForksAndJoins := by
  rintro ⟨⟨-, hfork, -⟩, -⟩
  obtain ⟨hg, hr, hc, hl, hu, hroom, hhome, hcount⟩ := spilling_passes
  obtain ⟨t, he, -, -, hlook, -⟩ := hfork ⟨false, 2⟩ 8 ⟨false, 0⟩ 64 0x8000000000000001 (scratchAt forker.core 0x20000)
    spilling hg hr hc hl hu hroom hhome hcount
  obtain ⟨u, hu, hserved⟩ := spilling_serves
  rw [spillingFork, he] at hu
  cases hu
  rw [hlook (tidKey spillWaiter) (by decide), spilling_held] at hserved
  exact absurd hserved (by decide)

end
